-- ==== Sys2Proof/Word.lean ====
section
/-! DEFINITION. The word types and their plainest arithmetic (spec chapter 02, R5, R8 to R10). -/
namespace Sys2Proof

/-- An instruction word (R8). -/
abbrev IWord := BitVec 32
/-- A scalar register, an address, a system register. -/
abbrev Word := BitVec 64
/-- A scalar register number s0 to s63 (R12). -/
abbrev SReg := BitVec 6
/-- A vector register number v0 to v31 (R12). -/
abbrev VRegNo := BitVec 5
/-- A predicate register number p0 to p127 (R12). -/
abbrev PRegNo := BitVec 7
/-- A governing predicate p0 to p7 (R12). -/
abbrev PGov := BitVec 3

/-- Bits of one vector register at full width (R2, R64). -/
def vregBits : Nat := 16384
/-- Bits of one predicate register at full width, VLEN / 2 (R108). -/
def predBits : Nat := 8192
/-- Bits of one weight plane: 128 x 128 cells of 16 bits (R193). -/
def planeBits : Nat := 262144
/-- Bits of one accumulator slot: 128 x 128 elements of 32 bits (R193). -/
def accBits : Nat := 524288

abbrev VReg := BitVec vregBits
abbrev PReg := BitVec predBits
abbrev Plane := BitVec planeBits
abbrev Acc := BitVec accBits

/-- Sign extension of a field to a register. -/
def sx64 {n : Nat} (x : BitVec n) : Word := x.signExtend 64
/-- Zero extension of a field to a register. -/
def zx64 {n : Nat} (x : BitVec n) : Word := x.setWidth 64

end Sys2Proof
end

