-- ==== Sys2Proof/Syntax.lean ====
section
/-! DEFINITION. Every operation and event of the opcode table, one constructor per row (spec/opcode_table.json): the
instruction words with the fields their formats give them (R9), and the events with what the outside or the agent concerned
brings to them. -/
namespace Sys2Proof

/-- What is found at a line (R318): by the background scrub nothing or an uncorrectable error; an error that a stack (0), an L2
slice (1) or the SRAM of a core (2) corrects in place. -/
inductive ScrubFound where
  | clean
  | corrected (src : BitVec 2) (core : Nat)
  | uncorrectable
  deriving DecidableEq, Repr

/-- Where an error stands: in a stack (0), an L2 slice (1) or the SRAM (2) of a core. -/
structure ErrorUnit where
  src : BitVec 2
  core : Nat
  deriving DecidableEq, Repr
/-- A page walker: the core it fills a translation for, and the plot whose tables it walks. -/
structure Walker where
  core : Nat
  plot : Nat
  deriving DecidableEq, Repr

/-- A reading of R362: a temperature in 0.01 degrees, or a rail's voltage and its nominal one in mV. -/
inductive Reading where
  | temp (sensor : BitVec 4) (centi : Int)
  | rail (number mv nominal : Nat)
  deriving DecidableEq, Repr

/-- Another member's part in a collective (R380): its descriptor's fields and its contributions. -/
structure CollectPart where
  fid : Nat
  group : Nat
  tag : Nat
  op : Nat
  ty : Nat
  count : Nat
  vals : List Nat
  deriving DecidableEq, Repr

/-- What a request of another module asks (R376): an atomic's operation is numbered as in R244, with its operand and
compared value. -/
inductive RemoteOp where
  | read
  | write (x : Nat)
  | amo (op : BitVec 4) (b d : Nat)
  | claim (dst : Bool)
  | release
  deriving DecidableEq, Repr

/-- The instructions and events of the module. A field named c is the convoy bit; p names a governing predicate. -/
inductive Instr where
  /-- ADD (R134). Writes sa + sb modulo 2^64 to sd. -/
  | add (d : BitVec 6) (a : BitVec 6) (b : BitVec 6)
  /-- SUB (R134). Writes sa − sb modulo 2^64 to sd. -/
  | sub (d : BitVec 6) (a : BitVec 6) (b : BitVec 6)
  /-- MUL (R134). Writes the low 64 bits of sa × sb to sd. -/
  | mul (d : BitVec 6) (a : BitVec 6) (b : BitVec 6)
  /-- MULH (R134). Writes the high 64 bits of the signed product to sd. -/
  | mulh (d : BitVec 6) (a : BitVec 6) (b : BitVec 6)
  /-- MULHU (R134). Writes the high 64 bits of the unsigned product to sd. -/
  | mulhu (d : BitVec 6) (a : BitVec 6) (b : BitVec 6)
  /-- DIV (R134). Writes the signed quotient, with the fixed results of R76 for zero divisors and overflow. -/
  | div (d : BitVec 6) (a : BitVec 6) (b : BitVec 6)
  /-- DIVU (R134). Writes the unsigned quotient. -/
  | divu (d : BitVec 6) (a : BitVec 6) (b : BitVec 6)
  /-- REM (R134). Writes the signed remainder. -/
  | rem (d : BitVec 6) (a : BitVec 6) (b : BitVec 6)
  /-- REMU (R134). Writes the unsigned remainder. -/
  | remu (d : BitVec 6) (a : BitVec 6) (b : BitVec 6)
  /-- AND (R134). Writes the bitwise AND of sa and sb. -/
  | and (d : BitVec 6) (a : BitVec 6) (b : BitVec 6)
  /-- OR (R134). Writes the bitwise OR of sa and sb. -/
  | or (d : BitVec 6) (a : BitVec 6) (b : BitVec 6)
  /-- XOR (R134). Writes the bitwise XOR of sa and sb. -/
  | xor (d : BitVec 6) (a : BitVec 6) (b : BitVec 6)
  /-- ANDN (R134). Writes sa and not sb. -/
  | andn (d : BitVec 6) (a : BitVec 6) (b : BitVec 6)
  /-- SHL (R134). Shifts sa left by sb mod 64 with zero fill. -/
  | shl (d : BitVec 6) (a : BitVec 6) (b : BitVec 6)
  /-- SHR (R134). Shifts sa logically right by sb mod 64. -/
  | shr (d : BitVec 6) (a : BitVec 6) (b : BitVec 6)
  /-- SHA (R134). Shifts sa arithmetically right by sb mod 64. -/
  | sha (d : BitVec 6) (a : BitVec 6) (b : BitVec 6)
  /-- ROT (R134). Rotates sa left by sb mod 64. -/
  | rot (d : BitVec 6) (a : BitVec 6) (b : BitVec 6)
  /-- SLT (R134). Writes 1 if sa < sb signed, else 0. -/
  | slt (d : BitVec 6) (a : BitVec 6) (b : BitVec 6)
  /-- SLTU (R134). Writes 1 if sa < sb unsigned, else 0. -/
  | sltu (d : BitVec 6) (a : BitVec 6) (b : BitVec 6)
  /-- MIN (R134). Writes the signed minimum. -/
  | min (d : BitVec 6) (a : BitVec 6) (b : BitVec 6)
  /-- MAX (R134). Writes the signed maximum. -/
  | max (d : BitVec 6) (a : BitVec 6) (b : BitVec 6)
  /-- MINU (R134). Writes the unsigned minimum. -/
  | minu (d : BitVec 6) (a : BitVec 6) (b : BitVec 6)
  /-- MAXU (R134). Writes the unsigned maximum. -/
  | maxu (d : BitVec 6) (a : BitVec 6) (b : BitVec 6)
  /-- CLZ (R134). Writes the count of leading zero bits of sa. -/
  | clz (d : BitVec 6) (a : BitVec 6)
  /-- CTZ (R134). Writes the count of trailing zero bits of sa. -/
  | ctz (d : BitVec 6) (a : BitVec 6)
  /-- POPC (R134). Writes the number of one bits of sa. -/
  | popc (d : BitVec 6) (a : BitVec 6)
  /-- ADDI (R135). Writes sa plus the sign-extended imm14. -/
  | addi (d : BitVec 6) (a : BitVec 6) (i : BitVec 14)
  /-- ANDI (R135). Writes sa AND the zero-extended imm14. -/
  | andi (d : BitVec 6) (a : BitVec 6) (i : BitVec 14)
  /-- ORI (R135). Writes sa OR the zero-extended imm14. -/
  | ori (d : BitVec 6) (a : BitVec 6) (i : BitVec 14)
  /-- XORI (R135). Writes sa XOR the zero-extended imm14. -/
  | xori (d : BitVec 6) (a : BitVec 6) (i : BitVec 14)
  /-- SLTI (R135). Writes 1 if sa is below the sign-extended imm14, else 0. -/
  | slti (d : BitVec 6) (a : BitVec 6) (i : BitVec 14)
  /-- SHLI (R135). Shifts sa left by an immediate amount. -/
  | shli (d : BitVec 6) (a : BitVec 6) (n : BitVec 6)
  /-- SHRI (R135). Shifts sa logically right by an immediate amount. -/
  | shri (d : BitVec 6) (a : BitVec 6) (n : BitVec 6)
  /-- SHAI (R135). Shifts sa arithmetically right by an immediate amount. -/
  | shai (d : BitVec 6) (a : BitVec 6) (n : BitVec 6)
  /-- LDI (R135). Writes the sign-extended imm20 to sd. -/
  | ldi (d : BitVec 6) (i : BitVec 20)
  /-- ADPC (R135). Writes the word's address plus the sign-extended byte offset to sd. -/
  | adpc (d : BitVec 6) (o : BitVec 20)
  /-- LD (R138). Loads 2^w bytes at sa + imm10 × 2^w, sign-extended, under the cache policy cp. -/
  | ld (d : BitVec 6) (a : BitVec 6) (w : BitVec 2) (c : BitVec 2) (i : BitVec 10)
  /-- LDU (R138). Loads 1, 2 or 4 bytes, zero-extended. -/
  | ldu (d : BitVec 6) (a : BitVec 6) (w : BitVec 2) (c : BitVec 2) (i : BitVec 10)
  /-- ST (R138). Stores the low 2^w bytes of the sd register at sa + imm10 × 2^w. -/
  | st (d : BitVec 6) (a : BitVec 6) (w : BitVec 2) (c : BitVec 2) (i : BitVec 10)
  /-- AMOADD (R245). Atomically adds sb into memory at sa and returns the old value. -/
  | amoadd (d : BitVec 6) (a : BitVec 6) (b : BitVec 6) (w : BitVec 1) (s : BitVec 3)
  /-- AMOSWAP (R245). Atomically swaps sb with memory at sa. -/
  | amoswap (d : BitVec 6) (a : BitVec 6) (b : BitVec 6) (w : BitVec 1) (s : BitVec 3)
  /-- AMOAND (R245). Atomically ANDs sb into memory. -/
  | amoand (d : BitVec 6) (a : BitVec 6) (b : BitVec 6) (w : BitVec 1) (s : BitVec 3)
  /-- AMOOR (R245). Atomically ORs sb into memory. -/
  | amoor (d : BitVec 6) (a : BitVec 6) (b : BitVec 6) (w : BitVec 1) (s : BitVec 3)
  /-- AMOXOR (R245). Atomically XORs sb into memory. -/
  | amoxor (d : BitVec 6) (a : BitVec 6) (b : BitVec 6) (w : BitVec 1) (s : BitVec 3)
  /-- AMOMIN (R245). Atomically stores the signed minimum. -/
  | amomin (d : BitVec 6) (a : BitVec 6) (b : BitVec 6) (w : BitVec 1) (s : BitVec 3)
  /-- AMOMAX (R245). Atomically stores the signed maximum. -/
  | amomax (d : BitVec 6) (a : BitVec 6) (b : BitVec 6) (w : BitVec 1) (s : BitVec 3)
  /-- AMOMINU (R245). Atomically stores the unsigned minimum. -/
  | amominu (d : BitVec 6) (a : BitVec 6) (b : BitVec 6) (w : BitVec 1) (s : BitVec 3)
  /-- AMOMAXU (R245). Atomically stores the unsigned maximum. -/
  | amomaxu (d : BitVec 6) (a : BitVec 6) (b : BitVec 6) (w : BitVec 1) (s : BitVec 3)
  /-- AMOCAS (R245). Atomically stores sb if memory equals sd, and returns the old value. -/
  | amocas (d : BitVec 6) (a : BitVec 6) (b : BitVec 6) (w : BitVec 1) (s : BitVec 3)
  /-- LDA (R247). Loads with acquire ordering at the named scope. -/
  | lda (d : BitVec 6) (a : BitVec 6) (w : BitVec 1) (s : BitVec 3)
  /-- STL (R247). Stores with release ordering at the named scope. -/
  | stl (a : BitVec 6) (b : BitVec 6) (w : BitVec 1) (s : BitVec 3)
  /-- FENCE (R250). Orders scalar and vector accesses by kind SV, VS, VV or ALL at the named scope. -/
  | fence (k : BitVec 2) (s : BitVec 3)
  /-- BEQ (R136). Branches when sa equals sb. -/
  | beq (a : BitVec 6) (b : BitVec 6) (o : BitVec 14)
  /-- BNE (R136). Branches when sa differs from sb. -/
  | bne (a : BitVec 6) (b : BitVec 6) (o : BitVec 14)
  /-- BLT (R136). Branches when sa < sb, signed. -/
  | blt (a : BitVec 6) (b : BitVec 6) (o : BitVec 14)
  /-- BGE (R136). Branches when sa ≥ sb, signed. -/
  | bge (a : BitVec 6) (b : BitVec 6) (o : BitVec 14)
  /-- BLTU (R136). Branches when sa < sb, unsigned. -/
  | bltu (a : BitVec 6) (b : BitVec 6) (o : BitVec 14)
  /-- BGEU (R136). Branches when sa ≥ sb, unsigned. -/
  | bgeu (a : BitVec 6) (b : BitVec 6) (o : BitVec 14)
  /-- JMP (R137). Writes the return address to sd and jumps PC-relative. -/
  | jmp (d : BitVec 6) (o : BitVec 20)
  /-- JMPR (R137). Writes the return address to sd and jumps to sa + imm14, raising ALIGN on a misaligned target. -/
  | jmpr (d : BitVec 6) (a : BitVec 6) (i : BitVec 14)
  /-- FADD (R142). Scalar floating add rounded under frm. -/
  | fadd (d : BitVec 6) (a : BitVec 6) (b : BitVec 6) (f : BitVec 2)
  /-- FSUB (R142). Scalar floating subtract. -/
  | fsub (d : BitVec 6) (a : BitVec 6) (b : BitVec 6) (f : BitVec 2)
  /-- FMUL (R142). Scalar floating multiply. -/
  | fmul (d : BitVec 6) (a : BitVec 6) (b : BitVec 6) (f : BitVec 2)
  /-- FDIV (R142). Scalar floating divide. -/
  | fdiv (d : BitVec 6) (a : BitVec 6) (b : BitVec 6) (f : BitVec 2)
  /-- FSQRT (R142). Scalar correctly rounded square root. -/
  | fsqrt (d : BitVec 6) (a : BitVec 6) (f : BitVec 2)
  /-- FMA (R142). Scalar fused sa × sb + sd with one rounding. -/
  | fma (d : BitVec 6) (a : BitVec 6) (b : BitVec 6) (f : BitVec 2)
  /-- FMIN (R142). Scalar minimumNumber. -/
  | fmin (d : BitVec 6) (a : BitVec 6) (b : BitVec 6) (f : BitVec 2)
  /-- FMAX (R142). Scalar maximumNumber. -/
  | fmax (d : BitVec 6) (a : BitVec 6) (b : BitVec 6) (f : BitVec 2)
  /-- FCMP (R142). Scalar floating comparison EQ, LT, LE or UN writing 1 or 0. -/
  | fcmp (d : BitVec 6) (a : BitVec 6) (b : BitVec 6) (f : BitVec 2) (c : BitVec 2)
  /-- FCVT_D_S (R142). Converts between floating formats. -/
  | fcvtDS (d : BitVec 6) (a : BitVec 6) (f : BitVec 2) (s : BitVec 2)
  /-- FMV (R142). Copies floating bits unchanged. -/
  | fmv (d : BitVec 6) (a : BitVec 6) (f : BitVec 2)
  /-- FMV_NEG (R142). Copies a floating value with its sign inverted. -/
  | fmvNeg (d : BitVec 6) (a : BitVec 6) (f : BitVec 2)
  /-- FMV_ABS (R142). Copies a floating value with sign 0. -/
  | fmvAbs (d : BitVec 6) (a : BitVec 6) (f : BitVec 2)
  /-- FCVT_F_K (R142). Converts an integer to floating point. -/
  | fcvtFK (d : BitVec 6) (a : BitVec 6) (f : BitVec 2) (k : BitVec 2)
  /-- FCVT_K_F (R142). Converts floating point to an integer under frm. -/
  | fcvtKF (d : BitVec 6) (a : BitVec 6) (f : BitVec 2) (k : BitVec 2)
  /-- FCVT_RTZ (R142). Converts floating point to an integer rounding toward zero. -/
  | fcvtRtz (d : BitVec 6) (a : BitVec 6) (f : BitVec 2) (k : BitVec 2)
  /-- QSEND (R143). Appends sa to queue qn, stalling while full. -/
  | qsend (a : BitVec 6) (q : BitVec 2)
  /-- QRECV (R143). Pops the oldest entry of qn into sd, stalling while empty, or traps once the access stream has ended. -/
  | qrecv (d : BitVec 6) (q : BitVec 2)
  /-- QBSEND (R143). Appends a branch outcome bit to bq. -/
  | qbsend (a : BitVec 6)
  /-- BQ (R143). Pops bq and branches when the popped bit is 1. -/
  | bq (o : BitVec 10)
  /-- SYSR (R133). Reads a system register into sd, waiting first for result registers. -/
  | sysr (d : BitVec 6) (c : BitVec 12)
  /-- SYSW (R133). Writes sa to the RW fields of a system register. -/
  | sysw (a : BitVec 6) (c : BitVec 12)
  /-- SYSSET (R133). Sets the bits of sa in a system register. -/
  | sysset (a : BitVec 6) (c : BitVec 12)
  /-- SYSCLR (R133). Clears the bits of sa in a system register. -/
  | sysclr (a : BitVec 6) (c : BitVec 12)
  /-- TRAP (R145). Stops the CT with code TRAP and the value of sa, resuming after the word. -/
  | trap (a : BitVec 6)
  /-- TRET (R343). Returns from a system-core trap; on a compute core stops the CT with PERM. -/
  | tret
  /-- WAIT (R146). Suspends the stream until a watched line is written, a deadline passes or the CT is resumed. -/
  | wait (d : BitVec 6) (a : BitVec 6) (b : BitVec 6)
  /-- YIELD (R147). Gives scalar issue priority to the other slot for 64 cycles. -/
  | yield
  /-- HALT (R147). Ends a stream, or ends the CT after posted words and copies complete. -/
  | halt
  /-- TIME (R147). Writes the device time to sd. -/
  | time (d : BitVec 6)
  /-- HINT (R34). Executes as a no-op whatever its low 26 bits hold. -/
  | hint (i : BitVec 26)
  /-- ILLEGAL_WORD (R35). An unassigned or misplaced word raises ILL with its subcode, precisely. -/
  | illegalWord (w : IWord) (sub : Nat)
  /-- VSETL (R70). Sets vl to min(sa, vlmax), clears vstart and writes vl to sd at decode. -/
  | vsetl (c : Bool) (d : BitVec 6) (a : BitVec 6)
  /-- VSETT (R71). Writes a tag byte to a run of registers, sets SW and clamps vl. -/
  | vsett (c : Bool) (v : BitVec 5) (n : BitVec 5) (t : BitVec 5) (s : BitVec 3)
  /-- VSETG (R72). Sets the grouping code G and clamps vl. -/
  | vsetg (c : Bool) (g : BitVec 2)
  /-- VADD_VV (R78). Elementwise add of two vector operands, including framed forms. -/
  | vaddVv (c : Bool) (d : BitVec 5) (a : BitVec 5) (b : BitVec 5) (p : BitVec 3)
  /-- VADD_VX (R78). Elementwise add of a vector and a scalar. -/
  | vaddVx (c : Bool) (d : BitVec 5) (a : BitVec 5) (s : BitVec 6) (p : BitVec 3)
  /-- VSUB_VV (R78). Elementwise subtract of two vectors, including framed forms. -/
  | vsubVv (c : Bool) (d : BitVec 5) (a : BitVec 5) (b : BitVec 5) (p : BitVec 3)
  /-- VSUB_VX (R78). Elementwise subtract of a scalar. -/
  | vsubVx (c : Bool) (d : BitVec 5) (a : BitVec 5) (s : BitVec 6) (p : BitVec 3)
  /-- VMUL_VV (R78). Elementwise multiply of two vectors. -/
  | vmulVv (c : Bool) (d : BitVec 5) (a : BitVec 5) (b : BitVec 5) (p : BitVec 3)
  /-- VMUL_VX (R78). Elementwise multiply by a scalar. -/
  | vmulVx (c : Bool) (d : BitVec 5) (a : BitVec 5) (s : BitVec 6) (p : BitVec 3)
  /-- VMULH_VV (R76). High half of the elementwise integer product. -/
  | vmulhVv (c : Bool) (d : BitVec 5) (a : BitVec 5) (b : BitVec 5) (p : BitVec 3)
  /-- VMULH_VX (R76). High half of the product by a scalar. -/
  | vmulhVx (c : Bool) (d : BitVec 5) (a : BitVec 5) (s : BitVec 6) (p : BitVec 3)
  /-- VDIV_VV (R78). Elementwise divide. -/
  | vdivVv (c : Bool) (d : BitVec 5) (a : BitVec 5) (b : BitVec 5) (p : BitVec 3)
  /-- VDIV_VX (R78). Elementwise divide by a scalar. -/
  | vdivVx (c : Bool) (d : BitVec 5) (a : BitVec 5) (s : BitVec 6) (p : BitVec 3)
  /-- VREM_VV (R76). Elementwise integer remainder. -/
  | vremVv (c : Bool) (d : BitVec 5) (a : BitVec 5) (b : BitVec 5) (p : BitVec 3)
  /-- VREM_VX (R76). Elementwise remainder by a scalar. -/
  | vremVx (c : Bool) (d : BitVec 5) (a : BitVec 5) (s : BitVec 6) (p : BitVec 3)
  /-- VMIN_VV (R78). Elementwise minimum. -/
  | vminVv (c : Bool) (d : BitVec 5) (a : BitVec 5) (b : BitVec 5) (p : BitVec 3)
  /-- VMIN_VX (R78). Elementwise minimum with a scalar. -/
  | vminVx (c : Bool) (d : BitVec 5) (a : BitVec 5) (s : BitVec 6) (p : BitVec 3)
  /-- VMAX_VV (R78). Elementwise maximum. -/
  | vmaxVv (c : Bool) (d : BitVec 5) (a : BitVec 5) (b : BitVec 5) (p : BitVec 3)
  /-- VMAX_VX (R78). Elementwise maximum with a scalar. -/
  | vmaxVx (c : Bool) (d : BitVec 5) (a : BitVec 5) (s : BitVec 6) (p : BitVec 3)
  /-- VAND_VV (R77). Elementwise AND. -/
  | vandVv (c : Bool) (d : BitVec 5) (a : BitVec 5) (b : BitVec 5) (p : BitVec 3)
  /-- VAND_VX (R77). Elementwise AND with a scalar. -/
  | vandVx (c : Bool) (d : BitVec 5) (a : BitVec 5) (s : BitVec 6) (p : BitVec 3)
  /-- VOR_VV (R77). Elementwise OR. -/
  | vorVv (c : Bool) (d : BitVec 5) (a : BitVec 5) (b : BitVec 5) (p : BitVec 3)
  /-- VOR_VX (R77). Elementwise OR with a scalar. -/
  | vorVx (c : Bool) (d : BitVec 5) (a : BitVec 5) (s : BitVec 6) (p : BitVec 3)
  /-- VXOR_VV (R77). Elementwise XOR. -/
  | vxorVv (c : Bool) (d : BitVec 5) (a : BitVec 5) (b : BitVec 5) (p : BitVec 3)
  /-- VXOR_VX (R77). Elementwise XOR with a scalar. -/
  | vxorVx (c : Bool) (d : BitVec 5) (a : BitVec 5) (s : BitVec 6) (p : BitVec 3)
  /-- VANDN_VV (R77). Elementwise a and not b. -/
  | vandnVv (c : Bool) (d : BitVec 5) (a : BitVec 5) (b : BitVec 5) (p : BitVec 3)
  /-- VANDN_VX (R77). Elementwise a and not scalar. -/
  | vandnVx (c : Bool) (d : BitVec 5) (a : BitVec 5) (s : BitVec 6) (p : BitVec 3)
  /-- VSHL_VV (R77). Elementwise left shift. -/
  | vshlVv (c : Bool) (d : BitVec 5) (a : BitVec 5) (b : BitVec 5) (p : BitVec 3)
  /-- VSHL_VX (R77). Elementwise left shift by a scalar. -/
  | vshlVx (c : Bool) (d : BitVec 5) (a : BitVec 5) (s : BitVec 6) (p : BitVec 3)
  /-- VSHR_VV (R77). Elementwise logical right shift. -/
  | vshrVv (c : Bool) (d : BitVec 5) (a : BitVec 5) (b : BitVec 5) (p : BitVec 3)
  /-- VSHR_VX (R77). Elementwise logical right shift by a scalar. -/
  | vshrVx (c : Bool) (d : BitVec 5) (a : BitVec 5) (s : BitVec 6) (p : BitVec 3)
  /-- VSHA_VV (R77). Elementwise arithmetic right shift. -/
  | vshaVv (c : Bool) (d : BitVec 5) (a : BitVec 5) (b : BitVec 5) (p : BitVec 3)
  /-- VSHA_VX (R77). Elementwise arithmetic right shift by a scalar. -/
  | vshaVx (c : Bool) (d : BitVec 5) (a : BitVec 5) (s : BitVec 6) (p : BitVec 3)
  /-- VFMA_VV (R79). Fused a × b + vd. -/
  | vfmaVv (c : Bool) (d : BitVec 5) (a : BitVec 5) (b : BitVec 5) (p : BitVec 3)
  /-- VFMA_VX (R79). Fused a × scalar + vd. -/
  | vfmaVx (c : Bool) (d : BitVec 5) (a : BitVec 5) (s : BitVec 6) (p : BitVec 3)
  /-- VFMS_VV (R79). Fused a × b − vd. -/
  | vfmsVv (c : Bool) (d : BitVec 5) (a : BitVec 5) (b : BitVec 5) (p : BitVec 3)
  /-- VFMS_VX (R79). Fused a × scalar − vd. -/
  | vfmsVx (c : Bool) (d : BitVec 5) (a : BitVec 5) (s : BitVec 6) (p : BitVec 3)
  /-- VFNMA_VV (R79). Fused vd − a × b. -/
  | vfnmaVv (c : Bool) (d : BitVec 5) (a : BitVec 5) (b : BitVec 5) (p : BitVec 3)
  /-- VFNMA_VX (R79). Fused vd − a × scalar. -/
  | vfnmaVx (c : Bool) (d : BitVec 5) (a : BitVec 5) (s : BitVec 6) (p : BitVec 3)
  /-- VCLAMP_VV (R80). Clamps vd between a and b. -/
  | vclampVv (c : Bool) (d : BitVec 5) (a : BitVec 5) (b : BitVec 5) (p : BitVec 3)
  /-- VCLAMP_VX (R80). Clamps vd between a and a scalar. -/
  | vclampVx (c : Bool) (d : BitVec 5) (a : BitVec 5) (s : BitVec 6) (p : BitVec 3)
  /-- VSEL_VV (R82). Selects va or vb per element under the selector predicate. -/
  | vselVv (c : Bool) (d : BitVec 5) (a : BitVec 5) (b : BitVec 5) (p : BitVec 3)
  /-- VSEL_VX (R82). Selects va or a scalar per element. -/
  | vselVx (c : Bool) (d : BitVec 5) (a : BitVec 5) (s : BitVec 6) (p : BitVec 3)
  /-- VADD_SAT_VV (R76). Saturating integer add, setting vsat. -/
  | vaddSatVv (c : Bool) (d : BitVec 5) (a : BitVec 5) (b : BitVec 5) (p : BitVec 3)
  /-- VADD_SAT_VX (R76). Saturating integer add of a scalar. -/
  | vaddSatVx (c : Bool) (d : BitVec 5) (a : BitVec 5) (s : BitVec 6) (p : BitVec 3)
  /-- VSUB_SAT_VV (R76). Saturating integer subtract. -/
  | vsubSatVv (c : Bool) (d : BitVec 5) (a : BitVec 5) (b : BitVec 5) (p : BitVec 3)
  /-- VSUB_SAT_VX (R76). Saturating integer subtract of a scalar. -/
  | vsubSatVx (c : Bool) (d : BitVec 5) (a : BitVec 5) (s : BitVec 6) (p : BitVec 3)
  /-- VABS (R81). Elementwise absolute value. -/
  | vabs (c : Bool) (d : BitVec 5) (a : BitVec 5) (p : BitVec 3)
  /-- VNEG (R81). Elementwise negation, fdisp included. -/
  | vneg (c : Bool) (d : BitVec 5) (a : BitVec 5) (p : BitVec 3)
  /-- VMOV (R82). Copies element bits and va's tag. -/
  | vmov (c : Bool) (d : BitVec 5) (a : BitVec 5) (p : BitVec 3)
  /-- VCVT (R85). Converts elements to vd's tag. -/
  | vcvt (c : Bool) (d : BitVec 5) (a : BitVec 5) (p : BitVec 3)
  /-- VCVT_SAT (R85). Converts elements to vd's tag with saturation. -/
  | vcvtSat (c : Bool) (d : BitVec 5) (a : BitVec 5) (p : BitVec 3)
  /-- VSPLAT (R82). Writes the captured scalar to every computing element. -/
  | vsplat (c : Bool) (d : BitVec 5) (s : BitVec 6) (p : BitVec 3)
  /-- VEXT (R83). Reads element i of va back into sb. -/
  | vext (c : Bool) (a : BitVec 5) (s : BitVec 6)
  /-- VIOTA (R84). Writes start + step × e to each computing element. -/
  | viota (c : Bool) (d : BitVec 5) (p : BitVec 3) (i : BitVec 9) (j : BitVec 8)
  /-- VWADD_VX (R86). Widening add with a scalar. -/
  | vwaddVx (c : Bool) (d : BitVec 5) (a : BitVec 5) (s : BitVec 6) (p : BitVec 3)
  /-- VWADD_VV (R86). Widening add of two vectors. -/
  | vwaddVv (c : Bool) (d : BitVec 5) (a : BitVec 5) (b : BitVec 5) (p : BitVec 3)
  /-- VWSUB_VX (R86). Widening subtract of a scalar. -/
  | vwsubVx (c : Bool) (d : BitVec 5) (a : BitVec 5) (s : BitVec 6) (p : BitVec 3)
  /-- VWSUB_VV (R86). Widening subtract of two vectors. -/
  | vwsubVv (c : Bool) (d : BitVec 5) (a : BitVec 5) (b : BitVec 5) (p : BitVec 3)
  /-- VWMUL_VX (R86). Widening multiply by a scalar. -/
  | vwmulVx (c : Bool) (d : BitVec 5) (a : BitVec 5) (s : BitVec 6) (p : BitVec 3)
  /-- VWMUL_VV (R86). Widening multiply of two vectors. -/
  | vwmulVv (c : Bool) (d : BitVec 5) (a : BitVec 5) (b : BitVec 5) (p : BitVec 3)
  /-- VWMAC_VX (R86). Widening multiply-accumulate with a scalar. -/
  | vwmacVx (c : Bool) (d : BitVec 5) (a : BitVec 5) (s : BitVec 6) (p : BitVec 3)
  /-- VWMAC_VV (R86). Widening multiply-accumulate of two vectors. -/
  | vwmacVv (c : Bool) (d : BitVec 5) (a : BitVec 5) (b : BitVec 5) (p : BitVec 3)
  /-- VNSHR_VX (R86). Narrowing rounded shift by a scalar, saturating and setting vsat. -/
  | vnshrVx (c : Bool) (d : BitVec 5) (a : BitVec 5) (s : BitVec 6) (p : BitVec 3)
  /-- VNSHR_VV (R86). Narrowing rounded shift by a vector. -/
  | vnshrVv (c : Bool) (d : BitVec 5) (a : BitVec 5) (b : BitVec 5) (p : BitVec 3)
  /-- VNCVT (R86). Narrowing saturating integer conversion. -/
  | vncvt (c : Bool) (d : BitVec 5) (a : BitVec 5) (p : BitVec 3)
  /-- VSQRT (R87). Correctly rounded square root per element. -/
  | vsqrt (c : Bool) (d : BitVec 5) (a : BitVec 5) (p : BitVec 3)
  /-- VRCP (R87). Correctly rounded reciprocal. -/
  | vrcp (c : Bool) (d : BitVec 5) (a : BitVec 5) (p : BitVec 3)
  /-- VRSQ (R87). Correctly rounded reciprocal square root. -/
  | vrsq (c : Bool) (d : BitVec 5) (a : BitVec 5) (p : BitVec 3)
  /-- VEXP2 (R87). Correctly rounded 2^x. -/
  | vexp2 (c : Bool) (d : BitVec 5) (a : BitVec 5) (p : BitVec 3)
  /-- VLOG2 (R87). Correctly rounded log2. -/
  | vlog2 (c : Bool) (d : BitVec 5) (a : BitVec 5) (p : BitVec 3)
  /-- VCMP_EQ (R88). Writes predicate bits for equality. -/
  | vcmpEq (c : Bool) (d : BitVec 7) (a : BitVec 5) (b : BitVec 5) (p : BitVec 3)
  /-- VCMP_NE (R88). Writes predicate bits for inequality. -/
  | vcmpNe (c : Bool) (d : BitVec 7) (a : BitVec 5) (b : BitVec 5) (p : BitVec 3)
  /-- VCMP_LT (R88). Writes predicate bits for less than. -/
  | vcmpLt (c : Bool) (d : BitVec 7) (a : BitVec 5) (b : BitVec 5) (p : BitVec 3)
  /-- VCMP_LE (R88). Writes predicate bits for less or equal. -/
  | vcmpLe (c : Bool) (d : BitVec 7) (a : BitVec 5) (b : BitVec 5) (p : BitVec 3)
  /-- VCMP_GT (R88). Writes predicate bits for greater than. -/
  | vcmpGt (c : Bool) (d : BitVec 7) (a : BitVec 5) (b : BitVec 5) (p : BitVec 3)
  /-- VCMP_GE (R88). Writes predicate bits for greater or equal. -/
  | vcmpGe (c : Bool) (d : BitVec 7) (a : BitVec 5) (b : BitVec 5) (p : BitVec 3)
  /-- VCMP_UN (R88). Writes predicate bits for unordered operands. -/
  | vcmpUn (c : Bool) (d : BitVec 7) (a : BitVec 5) (b : BitVec 5) (p : BitVec 3)
  /-- VCLASS (R89). Writes predicate bits for membership of a floating class. -/
  | vclass (c : Bool) (d : BitVec 7) (a : BitVec 5) (k : BitVec 5) (p : BitVec 3)
  /-- PAND (R111). Predicate AND. -/
  | pand (d : BitVec 7) (a : BitVec 7) (b : BitVec 7)
  /-- POR (R111). Predicate OR. -/
  | por (d : BitVec 7) (a : BitVec 7) (b : BitVec 7)
  /-- PXOR (R111). Predicate XOR. -/
  | pxor (d : BitVec 7) (a : BitVec 7) (b : BitVec 7)
  /-- PANDN (R111). Predicate pa and not pb. -/
  | pandn (d : BitVec 7) (a : BitVec 7) (b : BitVec 7)
  /-- PNOT (R111). Predicate NOT. -/
  | pnot (d : BitVec 7) (a : BitVec 7)
  /-- PMOV (R111). Predicate copy. -/
  | pmov (d : BitVec 7) (a : BitVec 7)
  /-- PSET (R111). Sets predicate positions to 0 or 1. -/
  | pset (d : BitVec 7) (v : BitVec 7)
  /-- PCNT (R112). Counts set computing positions into sd. -/
  | pcnt (d : BitVec 6) (a : BitVec 7)
  /-- PFIRST (R112). Writes the lowest set computing position to sd. -/
  | pfirst (d : BitVec 6) (a : BitVec 7)
  /-- PLAST (R112). Writes the highest set computing position to sd. -/
  | plast (d : BitVec 6) (a : BitVec 7)
  /-- PBRK (R111). Sets positions below the first set bit of pa. -/
  | pbrk (d : BitVec 7) (a : BitVec 7)
  /-- PLD (R113). Loads predicate bits from memory. -/
  | pld (d : BitVec 7) (s : BitVec 6)
  /-- PST (R113). Stores predicate bits to memory. -/
  | pst (s : BitVec 6) (a : BitVec 7)
  /-- VFETCH (R114). Opens a VP block at the target with the active positions as its first group. -/
  | vfetch (o : BitVec 16)
  /-- VPBR (R116). Moves, keeps or splits the running group by a predicate and ends its turn. -/
  | vpbr (c : Bool) (a : BitVec 7) (o : BitVec 16)
  /-- VPJOIN (R119). Merges a group with its sibling or waits for it. -/
  | vpjoin (c : Bool)
  /-- VPEND (R120). Waits until all groups of the level end, then ends the level. -/
  | vpend (c : Bool)
  /-- VLD (R156). Unit-stride vector load. -/
  | vld (c : Bool) (d : BitVec 5) (a : BitVec 6) (p : BitVec 3)
  /-- VLD_S (R156). Strided vector load. -/
  | vldS (c : Bool) (d : BitVec 5) (a : BitVec 6) (x : BitVec 6) (p : BitVec 3)
  /-- VLD_X (R156). Indexed vector load. -/
  | vldX (c : Bool) (d : BitVec 5) (a : BitVec 6) (i : BitVec 5) (p : BitVec 3)
  /-- VLDFF (R161). Fault-first load that truncates vl at the first faulting element. -/
  | vldff (c : Bool) (d : BitVec 5) (a : BitVec 6) (p : BitVec 3)
  /-- VLDSEG (R156). Segment load of f fields into f register groups. -/
  | vldseg (c : Bool) (d : BitVec 5) (a : BitVec 6) (p : BitVec 3) (f : BitVec 5)
  /-- VST (R156). Unit-stride vector store. -/
  | vst (c : Bool) (d : BitVec 5) (a : BitVec 6) (p : BitVec 3)
  /-- VST_S (R156). Strided vector store. -/
  | vstS (c : Bool) (d : BitVec 5) (a : BitVec 6) (x : BitVec 6) (p : BitVec 3)
  /-- VST_X (R156). Indexed vector store. -/
  | vstX (c : Bool) (d : BitVec 5) (a : BitVec 6) (i : BitVec 5) (p : BitVec 3)
  /-- VSTO (R162). Ordered unit-stride store performed element by element. -/
  | vsto (c : Bool) (d : BitVec 5) (a : BitVec 6) (p : BitVec 3)
  /-- VSTSEG (R156). Segment store of f register groups. -/
  | vstseg (c : Bool) (d : BitVec 5) (a : BitVec 6) (p : BitVec 3) (f : BitVec 5)
  /-- VSTO_STRIDED (R162). Ordered strided store. -/
  | vstoStrided (c : Bool) (d : BitVec 5) (a : BitVec 6) (x : BitVec 6) (p : BitVec 3)
  /-- VAMO_ADD (R251). Per-element package-scope atomic add at indexed addresses. -/
  | vamoAdd (c : Bool) (d : BitVec 5) (a : BitVec 6) (i : BitVec 5) (p : BitVec 3)
  /-- VAMO_SWAP (R251). Per-element atomic swap. -/
  | vamoSwap (c : Bool) (d : BitVec 5) (a : BitVec 6) (i : BitVec 5) (p : BitVec 3)
  /-- VAMO_AND (R251). Per-element atomic AND. -/
  | vamoAnd (c : Bool) (d : BitVec 5) (a : BitVec 6) (i : BitVec 5) (p : BitVec 3)
  /-- VAMO_OR (R251). Per-element atomic OR. -/
  | vamoOr (c : Bool) (d : BitVec 5) (a : BitVec 6) (i : BitVec 5) (p : BitVec 3)
  /-- VAMO_XOR (R251). Per-element atomic XOR. -/
  | vamoXor (c : Bool) (d : BitVec 5) (a : BitVec 6) (i : BitVec 5) (p : BitVec 3)
  /-- VAMO_MIN (R251). Per-element atomic minimum. -/
  | vamoMin (c : Bool) (d : BitVec 5) (a : BitVec 6) (i : BitVec 5) (p : BitVec 3)
  /-- VAMO_MAX (R251). Per-element atomic maximum. -/
  | vamoMax (c : Bool) (d : BitVec 5) (a : BitVec 6) (i : BitVec 5) (p : BitVec 3)
  /-- VPERM_VV (R177). Permutes va by an index vector. -/
  | vpermVv (c : Bool) (d : BitVec 5) (a : BitVec 5) (b : BitVec 5) (p : BitVec 3)
  /-- VPERM_VX (R177). Broadcasts element s of va. -/
  | vpermVx (c : Bool) (d : BitVec 5) (a : BitVec 5) (s : BitVec 6) (p : BitVec 3)
  /-- VSLUP (R177). Slides elements up by s. -/
  | vslup (c : Bool) (d : BitVec 5) (a : BitVec 5) (s : BitVec 6) (p : BitVec 3)
  /-- VSLDN (R177). Slides elements down by s. -/
  | vsldn (c : Bool) (d : BitVec 5) (a : BitVec 5) (s : BitVec 6) (p : BitVec 3)
  /-- VCOMPR (R178). Compresses the selected elements to the bottom of vd. -/
  | vcompr (c : Bool) (d : BitVec 5) (a : BitVec 5) (p : BitVec 3)
  /-- VEXPND (R178). Expands successive elements into the selected positions. -/
  | vexpnd (c : Bool) (d : BitVec 5) (a : BitVec 5) (p : BitVec 3)
  /-- VREDSUM (R181). Tree sum of the computing elements into sb. -/
  | vredsum (c : Bool) (a : BitVec 5) (s : BitVec 6) (p : BitVec 3)
  /-- VREDMAX (R181). Tree maximum into sb. -/
  | vredmax (c : Bool) (a : BitVec 5) (s : BitVec 6) (p : BitVec 3)
  /-- VREDMIN (R181). Tree minimum into sb. -/
  | vredmin (c : Bool) (a : BitVec 5) (s : BitVec 6) (p : BitVec 3)
  /-- VSCAN (R182). Inclusive running total carried through sb. -/
  | vscan (c : Bool) (d : BitVec 5) (a : BitVec 5) (s : BitVec 6) (p : BitVec 3)
  /-- VSOFTMAX (R183). One strip of an online base-2 softmax with a scalar triple. -/
  | vsoftmax (c : Bool) (d : BitVec 5) (a : BitVec 5) (s : BitVec 6) (p : BitVec 3)
  /-- BINZ (R185). Sets a bin's type and zeroes its slots. -/
  | binz (c : Bool) (n : BitVec 5) (t : BitVec 5)
  /-- VBINACC (R186). Adds each computing element into its global-index bin slot. -/
  | vbinacc (c : Bool) (n : BitVec 5) (a : BitVec 5) (p : BitVec 3)
  /-- VBINMAC_VX (R186). Adds exact products with a scalar into bin slots. -/
  | vbinmacVx (c : Bool) (n : BitVec 5) (a : BitVec 5) (s : BitVec 6) (p : BitVec 3)
  /-- VBINMAC_VV (R186). Adds exact products of two vectors into bin slots. -/
  | vbinmacVv (c : Bool) (n : BitVec 5) (a : BitVec 5) (b : BitVec 5) (p : BitVec 3)
  /-- BINFOLD (R187). Folds a bin's 64 working slots by a fixed tree into sb. -/
  | binfold (c : Bool) (n : BitVec 5) (s : BitVec 6)
  /-- VMARK (R189). Declares a strip mark, committing bins and recording restart address and sbase. -/
  | vmark (c : Bool) (s : BitVec 6)
  /-- VSTRIP (R188). Advances sbase by vl at decode. -/
  | vstrip (c : Bool)
  /-- FBIND (R165). Binds a feed register to a new feed from a pattern record. -/
  | fbind (c : Bool) (d : BitVec 5) (s : BitVec 6)
  /-- FCHAIN (R166). Appends an operator to a feed's chain. -/
  | fchain (c : Bool) (d : BitVec 5) (o : BitVec 5) (s : BitVec 6)
  /-- FUNBIND (R165). Ends a feed and discards its vectors. -/
  | funbind (c : Bool) (d : BitVec 5)
  /-- FSTAT (R173). Reads feed status, pop count or failing block into sb. -/
  | fstat (c : Bool) (d : BitVec 5) (l : BitVec 5) (s : BitVec 6)
  /-- FEED_FETCH (R169). The stream engine fetches, decodes and converts the next blocks and commits vectors to the feed queue. -/
  | feedFetch (reg : BitVec 4) (n : Nat)
  /-- FPCVT (R104). Re-expresses framed elements in the frame named by sb. -/
  | fpcvt (c : Bool) (d : BitVec 5) (a : BitVec 5) (s : BitVec 6) (p : BitVec 3)
  /-- FPLEN2 (R105). Writes the squared length of fdisp elements as f32. -/
  | fplen2 (c : Bool) (d : BitVec 5) (a : BitVec 5) (p : BitVec 3)
  /-- FPGTAG (R106). Extracts element frame tags as u32. -/
  | fpgtag (c : Bool) (d : BitVec 5) (a : BitVec 5) (p : BitVec 3)
  /-- FPSTAG_VX (R106). Sets element frame tags from a scalar without conversion. -/
  | fpstagVx (c : Bool) (d : BitVec 5) (a : BitVec 5) (s : BitVec 6) (p : BitVec 3)
  /-- FPSTAG_VV (R106). Sets element frame tags from a u32 vector. -/
  | fpstagVv (c : Bool) (d : BitVec 5) (a : BitVec 5) (b : BitVec 5) (p : BitVec 3)
  /-- FRSET (R310). Creates, moves or reuses a trellis node from an image and publishes it. -/
  | frset (d : BitVec 6) (a : BitVec 6) (b : BitVec 6)
  /-- FRDEL (R311). Turns a valid node into a tombstone and publishes it. -/
  | frdel (d : BitVec 6) (a : BitVec 6) (b : BitVec 6)
  /-- FRFENCE (R314). Stalls until earlier publishes are acknowledged by every chain cache of the plot. -/
  | frfence
  /-- FRLOOK (R315). Reads a trellis node's status and copies the node to a buffer. -/
  | frlook (d : BitVec 6) (a : BitVec 6) (b : BitVec 6)
  /-- CHAIN_CACHE_INVALIDATION_ACK (R307). A chain cache acknowledges a publish's invalidation. -/
  | chainCacheInvalidationAck (core : Nat) (node : Nat)
  /-- RETENTION_WAKE (R317). A core leaving retention sleep discards chain-cache entries of plots whose sequence number moved. -/
  | retentionWake (core : Nat)
  /-- MSTL (R195). Sets the M, N and K grants at decode. -/
  | mstl (c : Bool) (x : BitVec 6) (y : BitVec 6)
  /-- MLDS (R201). Loads the shadow weight plane from memory. -/
  | mlds (c : Bool) (v : BitVec 5) (x : BitVec 6) (y : BitVec 6)
  /-- MSOW (R210). Expands a seed record into the shadow plane. -/
  | msow (c : Bool) (v : BitVec 5) (x : BitVec 6)
  /-- MSWAP (R203). Exchanges the active and shadow planes with their tags. -/
  | mswap (c : Bool)
  /-- MMAC (R198). Accumulates activation rows times the active plane into a slot. -/
  | mmac (c : Bool) (k : BitVec 4) (v : BitVec 5) (x : BitVec 6)
  /-- MMAC_M (R198). Row-predicated multiply-accumulate. -/
  | mmacM (c : Bool) (k : BitVec 4) (v : BitVec 5) (x : BitVec 6) (p : BitVec 3)
  /-- MACZ (R199). Zeroes an accumulator slot. -/
  | macz (c : Bool) (k : BitVec 4)
  /-- MACLD (R202). Loads slot rows from memory, converted exactly to f32. -/
  | macld (c : Bool) (k : BitVec 4) (v : BitVec 5) (x : BitVec 6) (y : BitVec 6)
  /-- MACST (R202). Stores slot rows converted to the type register's tag. -/
  | macst (c : Bool) (k : BitVec 4) (v : BitVec 5) (x : BitVec 6) (y : BitVec 6)
  /-- MACIN (R199). Writes slot rows from a vector group. -/
  | macin (c : Bool) (k : BitVec 4) (v : BitVec 5) (x : BitVec 6)
  /-- MSEEDGEN (R211). Expands a seed record into a dense tile in memory. -/
  | mseedgen (c : Bool) (v : BitVec 5) (x : BitVec 6) (y : BitVec 6)
  /-- MSEEDSCAN (R212). Scores a seedbed against a target tile and returns the best seed and score. -/
  | mseedscan (c : Bool) (v : BitVec 5) (x : BitVec 6) (y : BitVec 6)
  /-- CPY (R263). Registers claims and issues a copy, writing a ticket to sd. -/
  | cpy (d : BitVec 6) (a : BitVec 6) (b : BitVec 6) (p : BitVec 2) (s : BitVec 3)
  /-- CPYQ (R264). Issues a blockwise quantising copy from a command record. -/
  | cpyq (d : BitVec 6) (a : BitVec 6) (s : BitVec 3)
  /-- CPYW (R265). Waits until copies up to a ticket complete, reporting a failed copy's fault. -/
  | cpyw (d : BitVec 6) (a : BitVec 6)
  /-- CPYW_P (R265). Polls whether copies up to a ticket are complete. -/
  | cpywP (d : BitVec 6) (a : BitVec 6)
  /-- WDQRY (R271). Stores the pending value and posts a query for the next tile. -/
  | wdqry (a : BitVec 6)
  /-- WMBIND (R273). Sets watermark binding k over an address range. -/
  | wmbind (a : BitVec 6) (b : BitVec 6) (k : BitVec 2)
  /-- WMPUB (R272). Raises a watermark slot to max(current, value) as a release. -/
  | wmpub (a : BitVec 6) (b : BitVec 6)
  /-- COPY_COMPLETE (R263). A copy engine finishes a copy, its destination bytes performed at its scope. -/
  | copyComplete (plot : Nat) (ctx : Nat) (ticket : Nat)
  /-- WDQRY_ANSWER (R271). The distributor takes the next tile index and writes the answer word. -/
  | wdqryAnswer (ctids : List (BitVec 10))
  /-- WATERMARK_VISIBLE (R273). A published watermark value becomes visible and releases waiting bound loads. -/
  | watermarkVisible (slot : Nat)
  /-- LAUNCH (R268). Checks a descriptor and enqueues a launch in the plot's device launch queue. -/
  | launch (d : BitVec 6) (a : BitVec 6)
  /-- LSPEC (R278). Enqueues a speculative-shape launch with a predicted gang count bound to a shape record. -/
  | lspec (d : BitVec 6) (a : BitVec 6)
  /-- SHPUB (R284). Publishes a true gang count and decides every launch bound to the record. -/
  | shpub (a : BitVec 6) (b : BitVec 6)
  /-- ALLOCR (R291). Maps zeroed pages at the CT's position of a pool. -/
  | allocr (d : BitVec 6) (a : BitVec 6) (b : BitVec 6)
  /-- RETRACT (R292). Unmaps every page held at a pool position. -/
  | retract (a : BitVec 6) (b : BitVec 6)
  /-- LSTAT (R293). Reads a speculative launch's state or counts with acquire semantics. -/
  | lstat (d : BitVec 6) (a : BitVec 6) (l : BitVec 5)
  /-- GANG_COMMIT (R285). Writes a committing gang's provisional lines into coherent memory. -/
  | gangCommit (launch : Nat) (gang : Nat)
  /-- GANG_PLACE (R270). The distributor places a gang whole in free slots when slots free. -/
  | gangPlace (launch : Nat) (places : List (Nat × Nat × Nat))
  /-- AGE_PROMOTION (R270). A launch that placed no gang for 10 ms rises one class. -/
  | agePromotion (launch : Nat)
  /-- LAUNCH_COMPLETE (R269). After the last CT halts, the completion record is written as a release. -/
  | launchComplete (launch : Nat)
  /-- BARG (R253). Counts a barrier arrival and posts a marker. -/
  | barg (c : Bool) (n : BitVec 5)
  /-- BARW (R253). Waits until the barrier phase is complete. -/
  | barw (c : Bool) (n : BitVec 5)
  /-- BARRIER_MARKER_FIRE (R253). A marker fires once earlier accesses are performed at cluster scope, possibly completing a phase. -/
  | barrierMarkerFire (ctid : BitVec 10) (n : BitVec 2)
  /-- VSAVE (R235). Writes the vector state to a length-dependent image. -/
  | vsave (c : Bool) (a : BitVec 6)
  /-- VRESTORE (R235). Checks and restores the vector state from an image. -/
  | vrestore (c : Bool) (a : BitVec 6)
  /-- MSAVE (R236). Writes the matrix state to an image. -/
  | msave (c : Bool) (a : BitVec 6)
  /-- MRESTORE (R236). Checks and restores the matrix state from an image. -/
  | mrestore (c : Bool) (a : BitVec 6)
  /-- UOP_ISSUE (R191). The shared window issues the oldest ready micro-operation to each free unit. -/
  | uopIssue (ctid : BitVec 10) (busy : Bool)
  /-- UOP_COMPLETE (R204). A micro-operation completes; a completing word ORs its flags and clears vstart. -/
  | uopComplete (ctid : BitVec 10)
  /-- PAGE_WALK (R228). A page walker completes a three-level translation walk. -/
  | pageWalk (plot : Walker) (aspace : Nat) (va : Word)
  /-- OWNERSHIP_TRAP (R231). A newcomer's first vector or matrix word makes the context engine drain, save and load state. -/
  | ownershipTrap (ctid : BitVec 10) (matrix : Bool)
  /-- FAULT_RECORD_POST (R219). A stopped CT's record is posted to the supervisor queue when room exists, raising interrupt 0x80. -/
  | faultRecordPost (ctid : BitVec 10)
  /-- WAIT_LINE_WRITE (R146). A write by another agent to a watched line wakes a WAIT with cause 1. -/
  | waitLineWrite (line : Nat)
  /-- WAIT_DEADLINE (R146). Device time reaches a WAIT's deadline and wakes it with cause 0. -/
  | waitDeadline (ctid : BitVec 10) (acc : Bool)
  /-- DIRECTORY_READ (R257). A home directory serves a read request. -/
  | directoryRead (agent : Nat) (line : Nat)
  /-- DIRECTORY_WRITE (R257). A home directory serves a write or upgrade, collecting invalidation acknowledgements. -/
  | directoryWrite (agent : Nat) (line : Nat)
  /-- DIRECTORY_EVICTION (R257). A modified or owned line is written back to its slice. -/
  | directoryEviction (agent : Nat) (line : Nat)
  /-- DIRECTORY_ATOMIC (R257). The directory recalls every copy and performs a wide-scope atomic at the slice. -/
  | directoryAtomic (line : Nat)
  /-- MIGRATION_LINE_COPY (R260). The migration engine copies one line of a migrating page and releases it. -/
  | migrationLineCopy
  /-- ECC_POISON (R318). An uncorrectable error poisons a line and its first detection posts an error-log record. -/
  | eccPoison (line : Nat) (src : ErrorUnit)
  /-- SCRUB (R318). Background scrub reads lines, correcting or poisoning them. -/
  | scrub (line : Nat) (found : ScrubFound)
  /-- LOG_MOVE (R365). A write to LOGBASE or LOGN moves the log and sets TAIL to HEAD. -/
  | logMove (n : Bool) (v : Word)
  /-- REGISTER_WRITE (R6). A write to a register with no behaviour of its own updates its RW fields. -/
  | registerWrite (offset : Nat) (v : Word)
  /-- PLOT_MAKE (R346). Makes a plot from a plot record. -/
  | plotMake (tva : Word)
  /-- PLOT_FREE (R345). Frees a plot that holds no CT or launch. -/
  | plotFree
  /-- CORECFG (R148). Sets a core's scratch and L1 division and slot split. -/
  | corecfg
  /-- RESUME (R395). Resumes a saved CT or gang in fitting slots. -/
  | resume
  /-- PREEMPT (R222). Stops a gang without a fault record and reports its context areas. -/
  | preempt
  /-- ABANDON (R345). Abandons a launch or gang, completing it with STATUS 1. -/
  | abandon
  /-- INVAL (R228). Invalidates translations of a VA range. -/
  | inval
  /-- MIGRATE (R260). Starts migrating a physical page to a new page. -/
  | migrate
  /-- SWEEP (R313). Returns a retired trellis slot to the free state and publishes it. -/
  | sweep
  /-- CANCEL (R265). Cancels a failed copy and releases its claims. -/
  | cancel
  /-- QUEUE (R350). Announces, stops or restarts a host command queue. -/
  | queue
  /-- COLLECT (R381). Performs a fabric collective reduction in increasing fabric id. -/
  | collect (parts : List CollectPart)
  /-- COLLECT_MEMBER_TIMEOUT (R381). A member unreachable for 2 ms completes the collective with STATUS 5. -/
  | collectMemberTimeout
  /-- GRANT (R377). Sets an inbound fabric grant entry. -/
  | grant
  /-- TRELLIS_REPAIR (R319). Rewrites a poisoned trellis line from an image and publishes both nodes. -/
  | trellisRepair
  /-- HOSTWIN (R368). Sets a host window table entry. -/
  | hostwin
  /-- ADDRWIN (R351). Sets an address window for host queue packets. -/
  | addrwin
  /-- COORDINATOR_BAD_CODE (R345). A command with an unassigned CODE completes with STATUS 2. -/
  | coordinatorBadCode
  /-- QUEUE_KICK (R350, R366). A host access to BAR0, at an offset: a kick register write announces packets up to an index. -/
  | queueKick (offset : Nat) (write : Option Word)
  /-- LAUNCH_PACKET (R354). A host LAUNCH packet is validated and issues a launch. -/
  | launchPacket (q : BitVec 6)
  /-- GRAPH_LOAD (R356). Checks and loads a graph package and writes a result record. -/
  | graphLoad (q : BitVec 6)
  /-- GRAPH_UNLOAD (R358). Unloads a graph with no run in progress. -/
  | graphUnload (q : BitVec 6)
  /-- GRAPH_RUN (R358). Starts a run of a loaded graph, issuing launches as dependences are met. -/
  | graphRun (q : BitVec 6)
  /-- WAIT_PACKET (R352). Holds the queue until an 8-byte value reaches a threshold. -/
  | waitPacket (q : BitVec 6)
  /-- SIGNAL (R352). Writes a value as a .SYS release after earlier packets complete. -/
  | signal (q : BitVec 6)
  /-- PACKET_STAMP_RETRY (R354). The fetcher rereads a packet whose stamp has not arrived, every 1 µs. -/
  | packetStampRetry (q : BitVec 6)
  /-- QUEUE_STALE (R354). A stamp still wrong 1 ms after the first read stops the queue. -/
  | queueStale (q : BitVec 6)
  /-- INTERRUPT (R343). A system core takes a pending interrupt between words when IE is set. -/
  | interrupt (core : BitVec 4) (src : BitVec 3)
  /-- TIMER_INTERRUPT (R342). Device time reaching xtimecmp makes the timer interrupt pending. -/
  | timerInterrupt (core : BitVec 4)
  /-- BOOT (R359). At power-on the boot ROM checks the manifest copies and starts firmware and the supervisor; later the fuse
  counter may rise. -/
  | boot
  /-- LEASE_RENEW (R347). The leader renews the lease by compare-and-swap every 1 ms. -/
  | leaseRenew (die : BitVec 3)
  /-- LEASE_POLL (R347). A follower reads the lease every 1 ms and takes an expired lease. -/
  | leasePoll (die : BitVec 3)
  /-- HEARTBEAT_WRITE (R349). A firmware core writes its heartbeat word every 1 ms. -/
  | heartbeatWrite (die : BitVec 3)
  /-- HEARTBEAT_CHECK (R348). The leader finds a stale heartbeat and takes over that die's distributor. -/
  | heartbeatCheck (leader : BitVec 3) (die : BitVec 3)
  /-- FIRMWARE_ECC_HALT (R348). An uncorrectable error halts a firmware core. -/
  | firmwareEccHalt (die : BitVec 3)
  /-- SENSOR_READ (R362). Sensors are read every 100 µs, starting throttling or shutdown. -/
  | sensorRead (die : BitVec 3) (reading : Reading)
  /-- CLOCK_STEP (R362). A throttled die's clock steps down or up by 100 MHz. -/
  | clockStep (die : BitVec 3)
  /-- GET_VERSION (R361). SPDM version request. -/
  | getVersion
  /-- GET_CAPABILITIES (R361). SPDM capabilities request. -/
  | getCapabilities
  /-- NEGOTIATE_ALGORITHMS (R361). SPDM algorithm negotiation. -/
  | negotiateAlgorithms
  /-- GET_DIGESTS (R361). SPDM digests request. -/
  | getDigests
  /-- GET_CERTIFICATE (R361). SPDM certificate request. -/
  | getCertificate
  /-- CHALLENGE (R361). SPDM challenge. -/
  | challenge
  /-- GET_MEASUREMENTS (R361). SPDM measurements, index 0xF0 giving the signed G1 report. -/
  | getMeasurements (index : BitVec 8) (nonce : BitVec 256)
  /-- HOST_BAR2_ACCESS (R367). A host BAR2 access is performed through the host window table or refused. -/
  | hostBar2Access (offset : Nat) (n : Nat) (write : Option Nat)
  /-- CXL_MEM_READ (R367). A CXL.mem read is performed or returns poison. -/
  | cxlMemRead (offset : Nat) (n : Nat)
  /-- CXL_MEM_WRITE (R367). A CXL.mem write is performed or discarded. -/
  | cxlMemWrite (offset : Nat) (n : Nat) (x : Nat)
  /-- DATA_FLIT (R370). A received data flit is checked and delivered in order or NAKed. -/
  | dataFlit (port : BitVec 4) (flit : BitVec 2048)
  /-- NAK_FLIT (R370). A NAK makes the sender replay from the named SEQ. -/
  | nakFlit (port : BitVec 4) (flit : BitVec 2048)
  /-- PAUSE_FLIT (R371). Pauses a virtual channel at the sender. -/
  | pauseFlit (port : BitVec 4) (flit : BitVec 2048)
  /-- RESUME_FLIT (R371). Resumes a paused virtual channel. -/
  | resumeFlit (port : BitVec 4) (flit : BitVec 2048)
  /-- IDLE_FLIT (R369). An idle flit carrying acknowledgement only. -/
  | idleFlit (port : BitVec 4) (flit : BitVec 2048)
  /-- CAPABILITY_FLIT (R373). Exchanges version and lanes at training, possibly keeping the port down. -/
  | capabilityFlit (port : BitVec 4) (flit : BitVec 2048)
  /-- LINK_RETRAIN (R370). ACK without progress for 100 µs retrains the port, removing bad lanes. -/
  | linkRetrain (port : BitVec 4) (ok : Bool) (bad : BitVec 8)
  /-- REMOTE_REQUEST (R376). An incoming fabric request is checked against the grant table and performed at its home. -/
  | remoteRequest (src : BitVec 5) (plot : BitVec 3) (pa : Nat) (n : Nat) (op : RemoteOp)
  /-- REMOTE_RESPONSE (R378). A target's response or acknowledgement completes a remote access. -/
  | remoteResponse (key : Nat) (ok : Bool) (x : Nat)
  /-- REMOTE_TIMEOUT (R376). A remote request without response for 2 ms raises ECC and logs. -/
  | remoteTimeout (key : Nat)
  /-- TIME_SYNC_EXCHANGE (R382). A module exchanges timestamps with the master every 1 ms and slews its time. -/
  | timeSyncExchange (t1 : Word) (t2 : Word) (t3 : Word) (t4 : Word) (hops : Nat)
  /-- RETENTION_SLEEP (R317). A core enters retention sleep, keeping its chain cache but ceasing to receive invalidations. -/
  | retentionSleep (core : Nat)
  deriving DecidableEq, Repr

end Sys2Proof
end

