-- ==== Sys2Proof/WellFormed.lean ====
section
/-! DEFINITION. Which instruction words are words of the opcode map: the sub-fields that hold an assigned value (R13, R21: else
ILL RESFN) and the fields in range (R12, R15, R17, R19, R21: else ILL FIELD). What depends on vtype, on the convoy or on the place
is checked when the word executes. -/
namespace Sys2Proof

/-- A sub-field holds a value its chapter does not assign (R14, R21, R141, R243, R262, R293). -/
def Instr.resfn : Instr → Bool
  | .amoadd _ _ _ _ s => decide (5 ≤ s.toNat)
  | .amoswap _ _ _ _ s => decide (5 ≤ s.toNat)
  | .amoand _ _ _ _ s => decide (5 ≤ s.toNat)
  | .amoor _ _ _ _ s => decide (5 ≤ s.toNat)
  | .amoxor _ _ _ _ s => decide (5 ≤ s.toNat)
  | .amomin _ _ _ _ s => decide (5 ≤ s.toNat)
  | .amomax _ _ _ _ s => decide (5 ≤ s.toNat)
  | .amominu _ _ _ _ s => decide (5 ≤ s.toNat)
  | .amomaxu _ _ _ _ s => decide (5 ≤ s.toNat)
  | .amocas _ _ _ _ s => decide (5 ≤ s.toNat)
  | .lda _ _ _ s => decide (5 ≤ s.toNat)
  | .stl _ _ _ s => decide (5 ≤ s.toNat)
  | .fence _ s => decide (5 ≤ s.toNat)
  | .vldseg _ _ _ _ f => decide (f.toNat < 4 ∨ 10 < f.toNat)
  | .vstseg _ _ _ _ f => decide (f.toNat < 4 ∨ 10 < f.toNat)
  | .cpy _ _ _ p s => decide (p.toNat = 3 ∨ 5 ≤ s.toNat)
  | .cpyq _ _ s => decide (5 ≤ s.toNat)
  | .lstat _ _ l => decide (6 ≤ l.toNat)
  | _ => false

/-- A field is out of its range (R12, R15, R17, R89, R110, R164, R179, R194, R252). -/
def Instr.badField : Instr → Bool
  | .ldu _ _ w _ _ => decide (w.toNat = 3)
  | .vsett _ v n t s => (decide (v.toNat + (n.toNat + 1) > 32) || decide (19 ≤ t.toNat)) || (decide (t.toNat ≠ 11 ∧ t.toNat ≠ 12) && decide (s.toNat ≠ 0))
  | .vclass _ _ _ k _ => decide (16 ≤ k.toNat)
  | .pset _ v => decide (2 ≤ v.toNat)
  | .vsoftmax _ _ _ s _ => decide (s.toNat = 0 ∨ 61 < s.toNat)
  | .binz _ n t => decide (8 ≤ n.toNat) || decide (t.toNat ≠ 9 ∧ t.toNat ≠ 10 ∧ t.toNat ≠ 15 ∧ t.toNat ≠ 16)
  | .vbinacc _ n _ _ => decide (8 ≤ n.toNat)
  | .vbinmacVx _ n _ _ _ => decide (8 ≤ n.toNat)
  | .vbinmacVv _ n _ _ _ => decide (8 ≤ n.toNat)
  | .binfold _ n _ => decide (8 ≤ n.toNat)
  | .fbind _ d _ => decide (d.toNat < 16)
  | .fchain _ d o _ => decide (d.toNat < 16) || decide (4 ≤ o.toNat)
  | .funbind _ d => decide (d.toNat < 16)
  | .fstat _ d l _ => decide (d.toNat < 16) || decide (3 ≤ l.toNat)
  | .mstl _ x y => decide (61 < x.toNat) || decide (61 < y.toNat)
  | .mmac _ k _ _ => decide (12 ≤ k.toNat)
  | .mmacM _ k _ _ _ => decide (12 ≤ k.toNat)
  | .macz _ k => decide (12 ≤ k.toNat)
  | .macld _ k _ _ _ => decide (12 ≤ k.toNat)
  | .macst _ k _ _ _ => decide (12 ≤ k.toNat)
  | .macin _ k _ _ => decide (12 ≤ k.toNat)
  | .mseedscan _ _ x y => decide (61 < x.toNat) || decide (62 < y.toNat)
  | .cpy _ a _ _ _ => decide (a.toNat = 63)
  | .wmbind a _ _ => decide (61 < a.toNat)
  | .barg _ n => decide (4 ≤ n.toNat)
  | .barw _ n => decide (4 ≤ n.toNat)
  | _ => false

/-- The rows that are instruction words (the others are events). -/
def Instr.isWord : Instr → Bool
  | .illegalWord _ _ => false
  | .feedFetch _ _ => false
  | .chainCacheInvalidationAck _ _ => false
  | .retentionWake _ => false
  | .copyComplete _ _ _ => false
  | .wdqryAnswer _ => false
  | .watermarkVisible _ => false
  | .gangCommit _ _ => false
  | .gangPlace _ _ => false
  | .agePromotion _ => false
  | .launchComplete _ => false
  | .barrierMarkerFire _ _ => false
  | .uopIssue _ _ => false
  | .uopComplete _ => false
  | .pageWalk _ _ _ => false
  | .ownershipTrap _ _ => false
  | .faultRecordPost _ => false
  | .waitLineWrite _ => false
  | .waitDeadline _ _ => false
  | .directoryRead _ _ => false
  | .directoryWrite _ _ => false
  | .directoryEviction _ _ => false
  | .directoryAtomic _ => false
  | .migrationLineCopy => false
  | .eccPoison _ _ => false
  | .scrub _ _ => false
  | .logMove _ _ => false
  | .registerWrite _ _ => false
  | .plotMake _ => false
  | .plotFree => false
  | .corecfg => false
  | .resume => false
  | .preempt => false
  | .abandon => false
  | .inval => false
  | .migrate => false
  | .sweep => false
  | .cancel => false
  | .queue => false
  | .collect _ => false
  | .collectMemberTimeout => false
  | .grant => false
  | .trellisRepair => false
  | .hostwin => false
  | .addrwin => false
  | .coordinatorBadCode => false
  | .queueKick _ _ => false
  | .launchPacket _ => false
  | .graphLoad _ => false
  | .graphUnload _ => false
  | .graphRun _ => false
  | .waitPacket _ => false
  | .signal _ => false
  | .packetStampRetry _ => false
  | .queueStale _ => false
  | .interrupt _ _ => false
  | .timerInterrupt _ => false
  | .boot => false
  | .leaseRenew _ => false
  | .leasePoll _ => false
  | .heartbeatWrite _ => false
  | .heartbeatCheck _ _ => false
  | .firmwareEccHalt _ => false
  | .sensorRead _ _ => false
  | .clockStep _ => false
  | .getVersion => false
  | .getCapabilities => false
  | .negotiateAlgorithms => false
  | .getDigests => false
  | .getCertificate => false
  | .challenge => false
  | .getMeasurements _ _ => false
  | .hostBar2Access _ _ _ => false
  | .cxlMemRead _ _ => false
  | .cxlMemWrite _ _ _ => false
  | .dataFlit _ _ => false
  | .nakFlit _ _ => false
  | .pauseFlit _ _ => false
  | .resumeFlit _ _ => false
  | .idleFlit _ _ => false
  | .capabilityFlit _ _ => false
  | .linkRetrain _ _ _ => false
  | .remoteRequest _ _ _ _ _ => false
  | .remoteResponse _ _ _ => false
  | .remoteTimeout _ => false
  | .timeSyncExchange _ _ _ _ _ => false
  | .retentionSleep _ => false
  | _ => true

/-- A well-formed instruction word. -/
def Instr.wf (i : Instr) : Bool := i.isWord && !i.resfn && !i.badField

end Sys2Proof
end

