-- ==== Sys2Proof/Decode.lean ====
section
/-! DEFINITION. The decoder of the opcode map (spec chapter 02, R8 to R21, R35, and the minor maps of the other chapters), total on every
word, and the encoder, both written from the tables of the spec. Some definitions are marked noncomputable for a reason of Lean's
compiler alone: its object code holds at most 245 constructors with fields in one type, and the table has 354 rows. Lean's kernel
evaluates them. -/
namespace Sys2Proof

/-- Bits lo + n - 1 : lo of a word. -/
def fld (w : IWord) (lo n : Nat) : BitVec n := w.extractLsb' lo n

/-- The convoy bit. -/
def cbit (w : IWord) : Bool := w.getLsbD 25

/-- A candidate read from a word: refused with RESFN (4) when a sub-field holds no assigned value, with FIELD (5) when
`unused` says that an unused field is not zero or a field is out of range (R11, R35: the lowest subcode is reported). -/
def unlessSet (unused : Bool) (i : Instr) : Except Nat Instr :=
  if i.resfn then .error 4 else if unused || i.badField then .error 5 else .ok i

/-- Major 0x01. -/
def decSalu (w : IWord) : Except Nat Instr :=
  match (fld w 0 8).toNat with
  | 0 => unlessSet (false) (.add (fld w 20 6) (fld w 14 6) (fld w 8 6))
  | 1 => unlessSet (false) (.sub (fld w 20 6) (fld w 14 6) (fld w 8 6))
  | 2 => unlessSet (false) (.mul (fld w 20 6) (fld w 14 6) (fld w 8 6))
  | 3 => unlessSet (false) (.mulh (fld w 20 6) (fld w 14 6) (fld w 8 6))
  | 4 => unlessSet (false) (.mulhu (fld w 20 6) (fld w 14 6) (fld w 8 6))
  | 5 => unlessSet (false) (.div (fld w 20 6) (fld w 14 6) (fld w 8 6))
  | 6 => unlessSet (false) (.divu (fld w 20 6) (fld w 14 6) (fld w 8 6))
  | 7 => unlessSet (false) (.rem (fld w 20 6) (fld w 14 6) (fld w 8 6))
  | 8 => unlessSet (false) (.remu (fld w 20 6) (fld w 14 6) (fld w 8 6))
  | 16 => unlessSet (false) (.and (fld w 20 6) (fld w 14 6) (fld w 8 6))
  | 17 => unlessSet (false) (.or (fld w 20 6) (fld w 14 6) (fld w 8 6))
  | 18 => unlessSet (false) (.xor (fld w 20 6) (fld w 14 6) (fld w 8 6))
  | 19 => unlessSet (false) (.andn (fld w 20 6) (fld w 14 6) (fld w 8 6))
  | 24 => unlessSet (false) (.shl (fld w 20 6) (fld w 14 6) (fld w 8 6))
  | 25 => unlessSet (false) (.shr (fld w 20 6) (fld w 14 6) (fld w 8 6))
  | 26 => unlessSet (false) (.sha (fld w 20 6) (fld w 14 6) (fld w 8 6))
  | 27 => unlessSet (false) (.rot (fld w 20 6) (fld w 14 6) (fld w 8 6))
  | 32 => unlessSet (false) (.slt (fld w 20 6) (fld w 14 6) (fld w 8 6))
  | 33 => unlessSet (false) (.sltu (fld w 20 6) (fld w 14 6) (fld w 8 6))
  | 34 => unlessSet (false) (.min (fld w 20 6) (fld w 14 6) (fld w 8 6))
  | 35 => unlessSet (false) (.max (fld w 20 6) (fld w 14 6) (fld w 8 6))
  | 36 => unlessSet (false) (.minu (fld w 20 6) (fld w 14 6) (fld w 8 6))
  | 37 => unlessSet (false) (.maxu (fld w 20 6) (fld w 14 6) (fld w 8 6))
  | 40 => unlessSet (decide (fld w 8 6 ≠ 0#6)) (.clz (fld w 20 6) (fld w 14 6))
  | 41 => unlessSet (decide (fld w 8 6 ≠ 0#6)) (.ctz (fld w 20 6) (fld w 14 6))
  | 42 => unlessSet (decide (fld w 8 6 ≠ 0#6)) (.popc (fld w 20 6) (fld w 14 6))
  | _ => .error 4

/-- Major 0x07. -/
def decShi (w : IWord) : Except Nat Instr :=
  match (fld w 12 2).toNat with
  | 0 => unlessSet (decide (fld w 6 6 ≠ 0#6)) (.shli (fld w 20 6) (fld w 14 6) (fld w 0 6))
  | 1 => unlessSet (decide (fld w 6 6 ≠ 0#6)) (.shri (fld w 20 6) (fld w 14 6) (fld w 0 6))
  | 2 => unlessSet (decide (fld w 6 6 ≠ 0#6)) (.shai (fld w 20 6) (fld w 14 6) (fld w 0 6))
  | _ => .error 4

/-- Major 0x0D. -/
def decAmo (w : IWord) : Except Nat Instr :=
  match (fld w 4 4).toNat with
  | 0 => unlessSet (false) (.amoadd (fld w 20 6) (fld w 14 6) (fld w 8 6) (fld w 3 1) (fld w 0 3))
  | 1 => unlessSet (false) (.amoswap (fld w 20 6) (fld w 14 6) (fld w 8 6) (fld w 3 1) (fld w 0 3))
  | 2 => unlessSet (false) (.amoand (fld w 20 6) (fld w 14 6) (fld w 8 6) (fld w 3 1) (fld w 0 3))
  | 3 => unlessSet (false) (.amoor (fld w 20 6) (fld w 14 6) (fld w 8 6) (fld w 3 1) (fld w 0 3))
  | 4 => unlessSet (false) (.amoxor (fld w 20 6) (fld w 14 6) (fld w 8 6) (fld w 3 1) (fld w 0 3))
  | 5 => unlessSet (false) (.amomin (fld w 20 6) (fld w 14 6) (fld w 8 6) (fld w 3 1) (fld w 0 3))
  | 6 => unlessSet (false) (.amomax (fld w 20 6) (fld w 14 6) (fld w 8 6) (fld w 3 1) (fld w 0 3))
  | 7 => unlessSet (false) (.amominu (fld w 20 6) (fld w 14 6) (fld w 8 6) (fld w 3 1) (fld w 0 3))
  | 8 => unlessSet (false) (.amomaxu (fld w 20 6) (fld w 14 6) (fld w 8 6) (fld w 3 1) (fld w 0 3))
  | 9 => unlessSet (false) (.amocas (fld w 20 6) (fld w 14 6) (fld w 8 6) (fld w 3 1) (fld w 0 3))
  | 10 => unlessSet (decide (fld w 8 6 ≠ 0#6)) (.lda (fld w 20 6) (fld w 14 6) (fld w 3 1) (fld w 0 3))
  | 11 => unlessSet (decide (fld w 20 6 ≠ 0#6)) (.stl (fld w 14 6) (fld w 8 6) (fld w 3 1) (fld w 0 3))
  | _ => .error 4

/-- Major 0x18. -/
def decSfpu (w : IWord) : Except Nat Instr :=
  match (fld w 4 4).toNat with
  | 0 => if fld w 0 2 ≠ 0#2 then .error 4 else unlessSet (false) (.fadd (fld w 20 6) (fld w 14 6) (fld w 8 6) (fld w 2 2))
  | 1 => if fld w 0 2 ≠ 0#2 then .error 4 else unlessSet (false) (.fsub (fld w 20 6) (fld w 14 6) (fld w 8 6) (fld w 2 2))
  | 2 => if fld w 0 2 ≠ 0#2 then .error 4 else unlessSet (false) (.fmul (fld w 20 6) (fld w 14 6) (fld w 8 6) (fld w 2 2))
  | 3 => if fld w 0 2 ≠ 0#2 then .error 4 else unlessSet (false) (.fdiv (fld w 20 6) (fld w 14 6) (fld w 8 6) (fld w 2 2))
  | 4 => if fld w 0 2 ≠ 0#2 then .error 4 else unlessSet (decide (fld w 8 6 ≠ 0#6)) (.fsqrt (fld w 20 6) (fld w 14 6) (fld w 2 2))
  | 5 => if fld w 0 2 ≠ 0#2 then .error 4 else unlessSet (false) (.fma (fld w 20 6) (fld w 14 6) (fld w 8 6) (fld w 2 2))
  | 6 => if fld w 0 2 ≠ 0#2 then .error 4 else unlessSet (false) (.fmin (fld w 20 6) (fld w 14 6) (fld w 8 6) (fld w 2 2))
  | 7 => if fld w 0 2 ≠ 0#2 then .error 4 else unlessSet (false) (.fmax (fld w 20 6) (fld w 14 6) (fld w 8 6) (fld w 2 2))
  | 8 => unlessSet (false) (.fcmp (fld w 20 6) (fld w 14 6) (fld w 8 6) (fld w 2 2) (fld w 0 2))
  | 9 => unlessSet (decide (fld w 8 6 ≠ 0#6)) (.fcvtDS (fld w 20 6) (fld w 14 6) (fld w 2 2) (fld w 0 2))
  | 10 => match (fld w 0 2).toNat with
    | 0 => unlessSet (decide (fld w 8 6 ≠ 0#6)) (.fmv (fld w 20 6) (fld w 14 6) (fld w 2 2))
    | 1 => unlessSet (decide (fld w 8 6 ≠ 0#6)) (.fmvNeg (fld w 20 6) (fld w 14 6) (fld w 2 2))
    | 2 => unlessSet (decide (fld w 8 6 ≠ 0#6)) (.fmvAbs (fld w 20 6) (fld w 14 6) (fld w 2 2))
    | _ => .error 4
  | 11 => unlessSet (decide (fld w 8 6 ≠ 0#6)) (.fcvtFK (fld w 20 6) (fld w 14 6) (fld w 2 2) (fld w 0 2))
  | 12 => unlessSet (decide (fld w 8 6 ≠ 0#6)) (.fcvtKF (fld w 20 6) (fld w 14 6) (fld w 2 2) (fld w 0 2))
  | 13 => unlessSet (decide (fld w 8 6 ≠ 0#6)) (.fcvtRtz (fld w 20 6) (fld w 14 6) (fld w 2 2) (fld w 0 2))
  | _ => .error 4

/-- Major 0x19. -/
def decQueue (w : IWord) : Except Nat Instr :=
  match (fld w 12 2).toNat with
  | 0 => unlessSet (decide (fld w 0 10 ≠ 0#10) || decide (fld w 20 6 ≠ 0#6)) (.qsend (fld w 14 6) (fld w 10 2))
  | 1 => unlessSet (decide (fld w 0 10 ≠ 0#10) || decide (fld w 14 6 ≠ 0#6)) (.qrecv (fld w 20 6) (fld w 10 2))
  | 2 => unlessSet (decide (fld w 0 12 ≠ 0#12) || decide (fld w 20 6 ≠ 0#6)) (.qbsend (fld w 14 6))
  | 3 => unlessSet (decide (fld w 10 2 ≠ 0#2) || decide (fld w 14 12 ≠ 0#12)) (.bq (fld w 0 10))
  | _ => .error 4

/-- Major 0x1A. -/
def decSys (w : IWord) : Except Nat Instr :=
  match (fld w 0 2).toNat with
  | 0 => unlessSet (decide (fld w 14 6 ≠ 0#6)) (.sysr (fld w 20 6) (fld w 2 12))
  | 1 => unlessSet (decide (fld w 20 6 ≠ 0#6)) (.sysw (fld w 14 6) (fld w 2 12))
  | 2 => unlessSet (decide (fld w 20 6 ≠ 0#6)) (.sysset (fld w 14 6) (fld w 2 12))
  | 3 => unlessSet (decide (fld w 20 6 ≠ 0#6)) (.sysclr (fld w 14 6) (fld w 2 12))
  | _ => .error 4

/-- Major 0x1B. -/
def decCtrl (w : IWord) : Except Nat Instr :=
  match (fld w 0 8).toNat with
  | 0 => unlessSet (decide (fld w 8 6 ≠ 0#6) || decide (fld w 20 6 ≠ 0#6)) (.trap (fld w 14 6))
  | 1 => unlessSet (decide (fld w 8 18 ≠ 0#18)) (.tret)
  | 2 => unlessSet (false) (.wait (fld w 20 6) (fld w 14 6) (fld w 8 6))
  | 3 => unlessSet (decide (fld w 8 18 ≠ 0#18)) (.yield)
  | 4 => unlessSet (decide (fld w 8 18 ≠ 0#18)) (.halt)
  | 5 => unlessSet (decide (fld w 8 12 ≠ 0#12)) (.time (fld w 20 6))
  | _ => .error 4

/-- Major 0x20. -/
def decVcfg (w : IWord) : Except Nat Instr :=
  match (fld w 22 3).toNat with
  | 0 => unlessSet (decide (fld w 0 10 ≠ 0#10)) (.vsetl (cbit w) (fld w 16 6) (fld w 10 6))
  | 1 => unlessSet (decide (fld w 0 4 ≠ 0#4)) (.vsett (cbit w) (fld w 17 5) (fld w 12 5) (fld w 7 5) (fld w 4 3))
  | 2 => unlessSet (decide (fld w 2 20 ≠ 0#20)) (.vsetg (cbit w) (fld w 0 2))
  | _ => .error 4

/-- Major 0x21. -/
def decVopVv (w : IWord) : Except Nat Instr :=
  match (fld w 0 7).toNat with
  | 0 => unlessSet (false) (.vaddVv (cbit w) (fld w 20 5) (fld w 15 5) (fld w 10 5) (fld w 7 3))
  | 1 => unlessSet (false) (.vsubVv (cbit w) (fld w 20 5) (fld w 15 5) (fld w 10 5) (fld w 7 3))
  | 2 => unlessSet (false) (.vmulVv (cbit w) (fld w 20 5) (fld w 15 5) (fld w 10 5) (fld w 7 3))
  | 3 => unlessSet (false) (.vmulhVv (cbit w) (fld w 20 5) (fld w 15 5) (fld w 10 5) (fld w 7 3))
  | 4 => unlessSet (false) (.vdivVv (cbit w) (fld w 20 5) (fld w 15 5) (fld w 10 5) (fld w 7 3))
  | 5 => unlessSet (false) (.vremVv (cbit w) (fld w 20 5) (fld w 15 5) (fld w 10 5) (fld w 7 3))
  | 6 => unlessSet (false) (.vminVv (cbit w) (fld w 20 5) (fld w 15 5) (fld w 10 5) (fld w 7 3))
  | 7 => unlessSet (false) (.vmaxVv (cbit w) (fld w 20 5) (fld w 15 5) (fld w 10 5) (fld w 7 3))
  | 8 => unlessSet (false) (.vandVv (cbit w) (fld w 20 5) (fld w 15 5) (fld w 10 5) (fld w 7 3))
  | 9 => unlessSet (false) (.vorVv (cbit w) (fld w 20 5) (fld w 15 5) (fld w 10 5) (fld w 7 3))
  | 10 => unlessSet (false) (.vxorVv (cbit w) (fld w 20 5) (fld w 15 5) (fld w 10 5) (fld w 7 3))
  | 11 => unlessSet (false) (.vandnVv (cbit w) (fld w 20 5) (fld w 15 5) (fld w 10 5) (fld w 7 3))
  | 12 => unlessSet (false) (.vshlVv (cbit w) (fld w 20 5) (fld w 15 5) (fld w 10 5) (fld w 7 3))
  | 13 => unlessSet (false) (.vshrVv (cbit w) (fld w 20 5) (fld w 15 5) (fld w 10 5) (fld w 7 3))
  | 14 => unlessSet (false) (.vshaVv (cbit w) (fld w 20 5) (fld w 15 5) (fld w 10 5) (fld w 7 3))
  | 15 => unlessSet (false) (.vfmaVv (cbit w) (fld w 20 5) (fld w 15 5) (fld w 10 5) (fld w 7 3))
  | 16 => unlessSet (false) (.vfmsVv (cbit w) (fld w 20 5) (fld w 15 5) (fld w 10 5) (fld w 7 3))
  | 17 => unlessSet (false) (.vfnmaVv (cbit w) (fld w 20 5) (fld w 15 5) (fld w 10 5) (fld w 7 3))
  | 18 => unlessSet (false) (.vclampVv (cbit w) (fld w 20 5) (fld w 15 5) (fld w 10 5) (fld w 7 3))
  | 19 => unlessSet (false) (.vselVv (cbit w) (fld w 20 5) (fld w 15 5) (fld w 10 5) (fld w 7 3))
  | 20 => unlessSet (false) (.vaddSatVv (cbit w) (fld w 20 5) (fld w 15 5) (fld w 10 5) (fld w 7 3))
  | 21 => unlessSet (false) (.vsubSatVv (cbit w) (fld w 20 5) (fld w 15 5) (fld w 10 5) (fld w 7 3))
  | 32 => unlessSet (decide (fld w 10 5 ≠ 0#5)) (.vabs (cbit w) (fld w 20 5) (fld w 15 5) (fld w 7 3))
  | 33 => unlessSet (decide (fld w 10 5 ≠ 0#5)) (.vneg (cbit w) (fld w 20 5) (fld w 15 5) (fld w 7 3))
  | 34 => unlessSet (decide (fld w 10 5 ≠ 0#5)) (.vmov (cbit w) (fld w 20 5) (fld w 15 5) (fld w 7 3))
  | 35 => unlessSet (decide (fld w 10 5 ≠ 0#5)) (.vcvt (cbit w) (fld w 20 5) (fld w 15 5) (fld w 7 3))
  | 36 => unlessSet (decide (fld w 10 5 ≠ 0#5)) (.vcvtSat (cbit w) (fld w 20 5) (fld w 15 5) (fld w 7 3))
  | _ => .error 4

/-- Major 0x22. -/
def decVopVx (w : IWord) : Except Nat Instr :=
  match (fld w 0 6).toNat with
  | 0 => unlessSet (false) (.vaddVx (cbit w) (fld w 20 5) (fld w 15 5) (fld w 9 6) (fld w 6 3))
  | 1 => unlessSet (false) (.vsubVx (cbit w) (fld w 20 5) (fld w 15 5) (fld w 9 6) (fld w 6 3))
  | 2 => unlessSet (false) (.vmulVx (cbit w) (fld w 20 5) (fld w 15 5) (fld w 9 6) (fld w 6 3))
  | 3 => unlessSet (false) (.vmulhVx (cbit w) (fld w 20 5) (fld w 15 5) (fld w 9 6) (fld w 6 3))
  | 4 => unlessSet (false) (.vdivVx (cbit w) (fld w 20 5) (fld w 15 5) (fld w 9 6) (fld w 6 3))
  | 5 => unlessSet (false) (.vremVx (cbit w) (fld w 20 5) (fld w 15 5) (fld w 9 6) (fld w 6 3))
  | 6 => unlessSet (false) (.vminVx (cbit w) (fld w 20 5) (fld w 15 5) (fld w 9 6) (fld w 6 3))
  | 7 => unlessSet (false) (.vmaxVx (cbit w) (fld w 20 5) (fld w 15 5) (fld w 9 6) (fld w 6 3))
  | 8 => unlessSet (false) (.vandVx (cbit w) (fld w 20 5) (fld w 15 5) (fld w 9 6) (fld w 6 3))
  | 9 => unlessSet (false) (.vorVx (cbit w) (fld w 20 5) (fld w 15 5) (fld w 9 6) (fld w 6 3))
  | 10 => unlessSet (false) (.vxorVx (cbit w) (fld w 20 5) (fld w 15 5) (fld w 9 6) (fld w 6 3))
  | 11 => unlessSet (false) (.vandnVx (cbit w) (fld w 20 5) (fld w 15 5) (fld w 9 6) (fld w 6 3))
  | 12 => unlessSet (false) (.vshlVx (cbit w) (fld w 20 5) (fld w 15 5) (fld w 9 6) (fld w 6 3))
  | 13 => unlessSet (false) (.vshrVx (cbit w) (fld w 20 5) (fld w 15 5) (fld w 9 6) (fld w 6 3))
  | 14 => unlessSet (false) (.vshaVx (cbit w) (fld w 20 5) (fld w 15 5) (fld w 9 6) (fld w 6 3))
  | 15 => unlessSet (false) (.vfmaVx (cbit w) (fld w 20 5) (fld w 15 5) (fld w 9 6) (fld w 6 3))
  | 16 => unlessSet (false) (.vfmsVx (cbit w) (fld w 20 5) (fld w 15 5) (fld w 9 6) (fld w 6 3))
  | 17 => unlessSet (false) (.vfnmaVx (cbit w) (fld w 20 5) (fld w 15 5) (fld w 9 6) (fld w 6 3))
  | 18 => unlessSet (false) (.vclampVx (cbit w) (fld w 20 5) (fld w 15 5) (fld w 9 6) (fld w 6 3))
  | 19 => unlessSet (false) (.vselVx (cbit w) (fld w 20 5) (fld w 15 5) (fld w 9 6) (fld w 6 3))
  | 20 => unlessSet (false) (.vaddSatVx (cbit w) (fld w 20 5) (fld w 15 5) (fld w 9 6) (fld w 6 3))
  | 21 => unlessSet (false) (.vsubSatVx (cbit w) (fld w 20 5) (fld w 15 5) (fld w 9 6) (fld w 6 3))
  | 32 => unlessSet (decide (fld w 15 5 ≠ 0#5)) (.vsplat (cbit w) (fld w 20 5) (fld w 9 6) (fld w 6 3))
  | 33 => unlessSet (decide (fld w 6 3 ≠ 0#3) || decide (fld w 20 5 ≠ 0#5)) (.vext (cbit w) (fld w 15 5) (fld w 9 6))
  | _ => .error 4

/-- Major 0x24. -/
def decVwide (w : IWord) : Except Nat Instr :=
  match (fld w 0 6).toNat with
  | 0 => unlessSet (false) (.vwaddVx (cbit w) (fld w 20 5) (fld w 15 5) (fld w 9 6) (fld w 6 3))
  | 32 => unlessSet (decide (fld w 14 1 ≠ 0#1)) (.vwaddVv (cbit w) (fld w 20 5) (fld w 15 5) (fld w 9 5) (fld w 6 3))
  | 1 => unlessSet (false) (.vwsubVx (cbit w) (fld w 20 5) (fld w 15 5) (fld w 9 6) (fld w 6 3))
  | 33 => unlessSet (decide (fld w 14 1 ≠ 0#1)) (.vwsubVv (cbit w) (fld w 20 5) (fld w 15 5) (fld w 9 5) (fld w 6 3))
  | 2 => unlessSet (false) (.vwmulVx (cbit w) (fld w 20 5) (fld w 15 5) (fld w 9 6) (fld w 6 3))
  | 34 => unlessSet (decide (fld w 14 1 ≠ 0#1)) (.vwmulVv (cbit w) (fld w 20 5) (fld w 15 5) (fld w 9 5) (fld w 6 3))
  | 3 => unlessSet (false) (.vwmacVx (cbit w) (fld w 20 5) (fld w 15 5) (fld w 9 6) (fld w 6 3))
  | 35 => unlessSet (decide (fld w 14 1 ≠ 0#1)) (.vwmacVv (cbit w) (fld w 20 5) (fld w 15 5) (fld w 9 5) (fld w 6 3))
  | 4 => unlessSet (false) (.vnshrVx (cbit w) (fld w 20 5) (fld w 15 5) (fld w 9 6) (fld w 6 3))
  | 36 => unlessSet (decide (fld w 14 1 ≠ 0#1)) (.vnshrVv (cbit w) (fld w 20 5) (fld w 15 5) (fld w 9 5) (fld w 6 3))
  | 5 => unlessSet (decide (fld w 9 6 ≠ 0#6)) (.vncvt (cbit w) (fld w 20 5) (fld w 15 5) (fld w 6 3))
  -- VNCVT with bit 5 of fn6 set: an unused bit that holds no zero (R11, R86)
  | 37 => .error 5
  | _ => .error 4

/-- Major 0x25. -/
def decVsfu (w : IWord) : Except Nat Instr :=
  match (fld w 0 7).toNat with
  | 0 => unlessSet (decide (fld w 10 5 ≠ 0#5)) (.vsqrt (cbit w) (fld w 20 5) (fld w 15 5) (fld w 7 3))
  | 1 => unlessSet (decide (fld w 10 5 ≠ 0#5)) (.vrcp (cbit w) (fld w 20 5) (fld w 15 5) (fld w 7 3))
  | 2 => unlessSet (decide (fld w 10 5 ≠ 0#5)) (.vrsq (cbit w) (fld w 20 5) (fld w 15 5) (fld w 7 3))
  | 3 => unlessSet (decide (fld w 10 5 ≠ 0#5)) (.vexp2 (cbit w) (fld w 20 5) (fld w 15 5) (fld w 7 3))
  | 4 => unlessSet (decide (fld w 10 5 ≠ 0#5)) (.vlog2 (cbit w) (fld w 20 5) (fld w 15 5) (fld w 7 3))
  | _ => .error 4

/-- Major 0x26. -/
def decVcmp (w : IWord) : Except Nat Instr :=
  match (fld w 0 5).toNat with
  | 0 => unlessSet (false) (.vcmpEq (cbit w) (fld w 18 7) (fld w 13 5) (fld w 8 5) (fld w 5 3))
  | 1 => unlessSet (false) (.vcmpNe (cbit w) (fld w 18 7) (fld w 13 5) (fld w 8 5) (fld w 5 3))
  | 2 => unlessSet (false) (.vcmpLt (cbit w) (fld w 18 7) (fld w 13 5) (fld w 8 5) (fld w 5 3))
  | 3 => unlessSet (false) (.vcmpLe (cbit w) (fld w 18 7) (fld w 13 5) (fld w 8 5) (fld w 5 3))
  | 4 => unlessSet (false) (.vcmpGt (cbit w) (fld w 18 7) (fld w 13 5) (fld w 8 5) (fld w 5 3))
  | 5 => unlessSet (false) (.vcmpGe (cbit w) (fld w 18 7) (fld w 13 5) (fld w 8 5) (fld w 5 3))
  | 6 => unlessSet (false) (.vcmpUn (cbit w) (fld w 18 7) (fld w 13 5) (fld w 8 5) (fld w 5 3))
  | 16 => unlessSet (false) (.vclass (cbit w) (fld w 18 7) (fld w 13 5) (fld w 8 5) (fld w 5 3))
  | _ => .error 4

/-- Major 0x27. -/
def decPred (w : IWord) : Except Nat Instr :=
  match (fld w 0 5).toNat with
  | 0 => unlessSet (false) (.pand (fld w 19 7) (fld w 12 7) (fld w 5 7))
  | 1 => unlessSet (false) (.por (fld w 19 7) (fld w 12 7) (fld w 5 7))
  | 2 => unlessSet (false) (.pxor (fld w 19 7) (fld w 12 7) (fld w 5 7))
  | 3 => unlessSet (false) (.pandn (fld w 19 7) (fld w 12 7) (fld w 5 7))
  | 4 => unlessSet (decide (fld w 5 7 ≠ 0#7)) (.pnot (fld w 19 7) (fld w 12 7))
  | 5 => unlessSet (decide (fld w 5 7 ≠ 0#7)) (.pmov (fld w 19 7) (fld w 12 7))
  | 6 => unlessSet (decide (fld w 5 7 ≠ 0#7)) (.pset (fld w 19 7) (fld w 12 7))
  | 7 => unlessSet (decide (fld w 5 7 ≠ 0#7) || decide (fld w 19 1 ≠ 0#1)) (.pcnt (fld w 20 6) (fld w 12 7))
  | 8 => unlessSet (decide (fld w 5 7 ≠ 0#7) || decide (fld w 19 1 ≠ 0#1)) (.pfirst (fld w 20 6) (fld w 12 7))
  | 9 => unlessSet (decide (fld w 5 7 ≠ 0#7) || decide (fld w 19 1 ≠ 0#1)) (.plast (fld w 20 6) (fld w 12 7))
  | 10 => unlessSet (decide (fld w 5 7 ≠ 0#7)) (.pbrk (fld w 19 7) (fld w 12 7))
  | 11 => unlessSet (decide (fld w 5 8 ≠ 0#8)) (.pld (fld w 19 7) (fld w 13 6))
  | 12 => unlessSet (decide (fld w 5 7 ≠ 0#7) || decide (fld w 19 1 ≠ 0#1)) (.pst (fld w 20 6) (fld w 12 7))
  | _ => .error 4

/-- Major 0x28. -/
def decVpctl (w : IWord) : Except Nat Instr :=
  match (fld w 23 2).toNat with
  | 0 => unlessSet (decide (fld w 16 7 ≠ 0#7) || decide (fld w 25 1 ≠ 1#1)) (.vfetch (fld w 0 16))
  | 1 => unlessSet (false) (.vpbr (cbit w) (fld w 16 7) (fld w 0 16))
  | 2 => unlessSet (decide (fld w 0 23 ≠ 0#23)) (.vpjoin (cbit w))
  | 3 => unlessSet (decide (fld w 0 23 ≠ 0#23)) (.vpend (cbit w))
  | _ => .error 4

/-- Major 0x29. -/
def decVld (w : IWord) : Except Nat Instr :=
  match (fld w 0 5).toNat with
  | 0 => unlessSet (decide (fld w 8 6 ≠ 0#6)) (.vld (cbit w) (fld w 20 5) (fld w 14 6) (fld w 5 3))
  | 1 => unlessSet (false) (.vldS (cbit w) (fld w 20 5) (fld w 14 6) (fld w 8 6) (fld w 5 3))
  | 2 => unlessSet (decide (fld w 13 1 ≠ 0#1)) (.vldX (cbit w) (fld w 20 5) (fld w 14 6) (fld w 8 5) (fld w 5 3))
  | 3 => unlessSet (decide (fld w 8 6 ≠ 0#6)) (.vldff (cbit w) (fld w 20 5) (fld w 14 6) (fld w 5 3))
  | v => if 4 ≤ v ∧ v ≤ 10 then unlessSet (decide (fld w 8 6 ≠ 0#6)) (.vldseg (cbit w) (fld w 20 5) (fld w 14 6) (fld w 5 3) (fld w 0 5)) else .error 4

/-- Major 0x2A. -/
def decVst (w : IWord) : Except Nat Instr :=
  match (fld w 0 5).toNat with
  | 0 => unlessSet (decide (fld w 8 6 ≠ 0#6)) (.vst (cbit w) (fld w 20 5) (fld w 14 6) (fld w 5 3))
  | 1 => unlessSet (false) (.vstS (cbit w) (fld w 20 5) (fld w 14 6) (fld w 8 6) (fld w 5 3))
  | 2 => unlessSet (decide (fld w 13 1 ≠ 0#1)) (.vstX (cbit w) (fld w 20 5) (fld w 14 6) (fld w 8 5) (fld w 5 3))
  | 3 => unlessSet (decide (fld w 8 6 ≠ 0#6)) (.vsto (cbit w) (fld w 20 5) (fld w 14 6) (fld w 5 3))
  | 11 => unlessSet (false) (.vstoStrided (cbit w) (fld w 20 5) (fld w 14 6) (fld w 8 6) (fld w 5 3))
  | v => if 4 ≤ v ∧ v ≤ 10 then unlessSet (decide (fld w 8 6 ≠ 0#6)) (.vstseg (cbit w) (fld w 20 5) (fld w 14 6) (fld w 5 3) (fld w 0 5)) else .error 4

/-- Major 0x2B. -/
def decVamo (w : IWord) : Except Nat Instr :=
  match (fld w 0 5).toNat with
  | 0 => unlessSet (decide (fld w 13 1 ≠ 0#1)) (.vamoAdd (cbit w) (fld w 20 5) (fld w 14 6) (fld w 8 5) (fld w 5 3))
  | 1 => unlessSet (decide (fld w 13 1 ≠ 0#1)) (.vamoSwap (cbit w) (fld w 20 5) (fld w 14 6) (fld w 8 5) (fld w 5 3))
  | 2 => unlessSet (decide (fld w 13 1 ≠ 0#1)) (.vamoAnd (cbit w) (fld w 20 5) (fld w 14 6) (fld w 8 5) (fld w 5 3))
  | 3 => unlessSet (decide (fld w 13 1 ≠ 0#1)) (.vamoOr (cbit w) (fld w 20 5) (fld w 14 6) (fld w 8 5) (fld w 5 3))
  | 4 => unlessSet (decide (fld w 13 1 ≠ 0#1)) (.vamoXor (cbit w) (fld w 20 5) (fld w 14 6) (fld w 8 5) (fld w 5 3))
  | 5 => unlessSet (decide (fld w 13 1 ≠ 0#1)) (.vamoMin (cbit w) (fld w 20 5) (fld w 14 6) (fld w 8 5) (fld w 5 3))
  | 6 => unlessSet (decide (fld w 13 1 ≠ 0#1)) (.vamoMax (cbit w) (fld w 20 5) (fld w 14 6) (fld w 8 5) (fld w 5 3))
  | _ => .error 4

/-- Major 0x2C. -/
def decVlane (w : IWord) : Except Nat Instr :=
  match (fld w 0 6).toNat with
  | 32 => unlessSet (decide (fld w 14 1 ≠ 0#1)) (.vpermVv (cbit w) (fld w 20 5) (fld w 15 5) (fld w 9 5) (fld w 6 3))
  | 0 => unlessSet (false) (.vpermVx (cbit w) (fld w 20 5) (fld w 15 5) (fld w 9 6) (fld w 6 3))
  | 1 => unlessSet (false) (.vslup (cbit w) (fld w 20 5) (fld w 15 5) (fld w 9 6) (fld w 6 3))
  | 2 => unlessSet (false) (.vsldn (cbit w) (fld w 20 5) (fld w 15 5) (fld w 9 6) (fld w 6 3))
  | 3 => unlessSet (decide (fld w 9 6 ≠ 0#6)) (.vcompr (cbit w) (fld w 20 5) (fld w 15 5) (fld w 6 3))
  | 4 => unlessSet (decide (fld w 9 6 ≠ 0#6)) (.vexpnd (cbit w) (fld w 20 5) (fld w 15 5) (fld w 6 3))
  | _ => .error 4

/-- Major 0x2D. -/
def decVred (w : IWord) : Except Nat Instr :=
  match (fld w 0 6).toNat with
  | 0 => unlessSet (decide (fld w 20 5 ≠ 0#5)) (.vredsum (cbit w) (fld w 15 5) (fld w 9 6) (fld w 6 3))
  | 1 => unlessSet (decide (fld w 20 5 ≠ 0#5)) (.vredmax (cbit w) (fld w 15 5) (fld w 9 6) (fld w 6 3))
  | 2 => unlessSet (decide (fld w 20 5 ≠ 0#5)) (.vredmin (cbit w) (fld w 15 5) (fld w 9 6) (fld w 6 3))
  | 3 => unlessSet (false) (.vscan (cbit w) (fld w 20 5) (fld w 15 5) (fld w 9 6) (fld w 6 3))
  | 4 => unlessSet (false) (.vsoftmax (cbit w) (fld w 20 5) (fld w 15 5) (fld w 9 6) (fld w 6 3))
  | 5 => unlessSet (decide (fld w 6 9 ≠ 0#9)) (.binz (cbit w) (fld w 20 5) (fld w 15 5))
  | 6 => unlessSet (decide (fld w 9 6 ≠ 0#6)) (.vbinacc (cbit w) (fld w 20 5) (fld w 15 5) (fld w 6 3))
  | 7 => unlessSet (false) (.vbinmacVx (cbit w) (fld w 20 5) (fld w 15 5) (fld w 9 6) (fld w 6 3))
  | 39 => unlessSet (decide (fld w 14 1 ≠ 0#1)) (.vbinmacVv (cbit w) (fld w 20 5) (fld w 15 5) (fld w 9 5) (fld w 6 3))
  | 8 => unlessSet (decide (fld w 6 3 ≠ 0#3) || decide (fld w 15 5 ≠ 0#5)) (.binfold (cbit w) (fld w 20 5) (fld w 9 6))
  | 9 => unlessSet (decide (fld w 6 3 ≠ 0#3) || decide (fld w 15 10 ≠ 0#10)) (.vmark (cbit w) (fld w 9 6))
  | 10 => unlessSet (decide (fld w 6 19 ≠ 0#19)) (.vstrip (cbit w))
  | _ => .error 4

/-- Major 0x2E. -/
def decFeed (w : IWord) : Except Nat Instr :=
  match (fld w 0 6).toNat with
  | 0 => unlessSet (decide (fld w 6 3 ≠ 0#3) || decide (fld w 15 5 ≠ 0#5)) (.fbind (cbit w) (fld w 20 5) (fld w 9 6))
  | 1 => unlessSet (decide (fld w 6 3 ≠ 0#3)) (.fchain (cbit w) (fld w 20 5) (fld w 15 5) (fld w 9 6))
  | 2 => unlessSet (decide (fld w 6 14 ≠ 0#14)) (.funbind (cbit w) (fld w 20 5))
  | 3 => unlessSet (decide (fld w 6 3 ≠ 0#3)) (.fstat (cbit w) (fld w 20 5) (fld w 15 5) (fld w 9 6))
  | _ => .error 4

/-- Major 0x2F. -/
def decFrame (w : IWord) : Except Nat Instr :=
  match (fld w 0 6).toNat with
  | 0 => unlessSet (false) (.fpcvt (cbit w) (fld w 20 5) (fld w 15 5) (fld w 9 6) (fld w 6 3))
  | 1 => unlessSet (decide (fld w 9 6 ≠ 0#6)) (.fplen2 (cbit w) (fld w 20 5) (fld w 15 5) (fld w 6 3))
  | 2 => unlessSet (decide (fld w 9 6 ≠ 0#6)) (.fpgtag (cbit w) (fld w 20 5) (fld w 15 5) (fld w 6 3))
  | 3 => unlessSet (false) (.fpstagVx (cbit w) (fld w 20 5) (fld w 15 5) (fld w 9 6) (fld w 6 3))
  | 4 => unlessSet (decide (fld w 14 1 ≠ 0#1)) (.fpstagVv (cbit w) (fld w 20 5) (fld w 15 5) (fld w 9 5) (fld w 6 3))
  | _ => .error 4

/-- Major 0x30. -/
def decTrellis (w : IWord) : Except Nat Instr :=
  match (fld w 0 8).toNat with
  | 0 => unlessSet (false) (.frset (fld w 20 6) (fld w 14 6) (fld w 8 6))
  | 1 => unlessSet (false) (.frdel (fld w 20 6) (fld w 14 6) (fld w 8 6))
  | 2 => unlessSet (decide (fld w 8 18 ≠ 0#18)) (.frfence)
  | 3 => unlessSet (false) (.frlook (fld w 20 6) (fld w 14 6) (fld w 8 6))
  | _ => .error 4

/-- Major 0x31. -/
noncomputable def decMatrix (w : IWord) : Except Nat Instr :=
  match (fld w 21 4).toNat with
  | 0 => unlessSet (decide (fld w 12 9 ≠ 0#9)) (.mstl (cbit w) (fld w 6 6) (fld w 0 6))
  | 1 => unlessSet (decide (fld w 17 4 ≠ 0#4)) (.mlds (cbit w) (fld w 12 5) (fld w 6 6) (fld w 0 6))
  | 2 => unlessSet (decide (fld w 0 6 ≠ 0#6) || decide (fld w 17 4 ≠ 0#4)) (.msow (cbit w) (fld w 12 5) (fld w 6 6))
  | 3 => unlessSet (decide (fld w 0 21 ≠ 0#21)) (.mswap (cbit w))
  | 4 => unlessSet (decide (fld w 0 6 ≠ 0#6)) (.mmac (cbit w) (fld w 17 4) (fld w 12 5) (fld w 6 6))
  | 5 => unlessSet (decide (fld w 3 3 ≠ 0#3)) (.mmacM (cbit w) (fld w 17 4) (fld w 12 5) (fld w 6 6) (fld w 0 3))
  | 6 => unlessSet (decide (fld w 0 17 ≠ 0#17)) (.macz (cbit w) (fld w 17 4))
  | 7 => unlessSet (false) (.macld (cbit w) (fld w 17 4) (fld w 12 5) (fld w 6 6) (fld w 0 6))
  | 8 => unlessSet (false) (.macst (cbit w) (fld w 17 4) (fld w 12 5) (fld w 6 6) (fld w 0 6))
  | 9 => unlessSet (decide (fld w 0 6 ≠ 0#6)) (.macin (cbit w) (fld w 17 4) (fld w 12 5) (fld w 6 6))
  | 10 => unlessSet (decide (fld w 17 4 ≠ 0#4)) (.mseedgen (cbit w) (fld w 12 5) (fld w 6 6) (fld w 0 6))
  | 11 => unlessSet (decide (fld w 17 4 ≠ 0#4)) (.mseedscan (cbit w) (fld w 12 5) (fld w 6 6) (fld w 0 6))
  | _ => .error 4

/-- Major 0x32. -/
noncomputable def decEngine (w : IWord) : Except Nat Instr :=
  match (fld w 23 3).toNat with
  | 0 => unlessSet (false) (.cpy (fld w 17 6) (fld w 11 6) (fld w 5 6) (fld w 3 2) (fld w 0 3))
  | 1 => unlessSet (decide (fld w 3 8 ≠ 0#8)) (.cpyq (fld w 17 6) (fld w 11 6) (fld w 0 3))
  | 2 => match (fld w 0 5).toNat with
    | 0 => unlessSet (decide (fld w 5 6 ≠ 0#6)) (.cpyw (fld w 17 6) (fld w 11 6))
    | 1 => unlessSet (decide (fld w 5 6 ≠ 0#6)) (.cpywP (fld w 17 6) (fld w 11 6))
    | _ => .error 4
  | 3 => unlessSet (decide (fld w 0 11 ≠ 0#11) || decide (fld w 17 6 ≠ 0#6)) (.wdqry (fld w 11 6))
  | 4 => unlessSet (decide (fld w 2 3 ≠ 0#3) || decide (fld w 17 6 ≠ 0#6)) (.wmbind (fld w 11 6) (fld w 5 6) (fld w 0 2))
  | 5 => unlessSet (decide (fld w 0 5 ≠ 0#5) || decide (fld w 17 6 ≠ 0#6)) (.wmpub (fld w 11 6) (fld w 5 6))
  | _ => .error 4

/-- Major 0x33. -/
noncomputable def decLaunch (w : IWord) : Except Nat Instr :=
  match (fld w 23 3).toNat with
  | 0 => unlessSet (decide (fld w 0 11 ≠ 0#11)) (.launch (fld w 17 6) (fld w 11 6))
  | 1 => unlessSet (decide (fld w 0 11 ≠ 0#11)) (.lspec (fld w 17 6) (fld w 11 6))
  | 2 => unlessSet (decide (fld w 0 5 ≠ 0#5) || decide (fld w 17 6 ≠ 0#6)) (.shpub (fld w 11 6) (fld w 5 6))
  | 3 => unlessSet (decide (fld w 0 5 ≠ 0#5)) (.allocr (fld w 17 6) (fld w 11 6) (fld w 5 6))
  | 4 => unlessSet (decide (fld w 0 5 ≠ 0#5) || decide (fld w 17 6 ≠ 0#6)) (.retract (fld w 11 6) (fld w 5 6))
  | 5 => unlessSet (decide (fld w 5 6 ≠ 0#6)) (.lstat (fld w 17 6) (fld w 11 6) (fld w 0 5))
  | _ => .error 4

/-- Major 0x34. -/
noncomputable def decSync (w : IWord) : Except Nat Instr :=
  match (fld w 0 6).toNat with
  | 0 => unlessSet (decide (fld w 6 9 ≠ 0#9) || decide (fld w 20 5 ≠ 0#5)) (.barg (cbit w) (fld w 15 5))
  | 1 => unlessSet (decide (fld w 6 9 ≠ 0#9) || decide (fld w 20 5 ≠ 0#5)) (.barw (cbit w) (fld w 15 5))
  | _ => .error 4

/-- Major 0x35. -/
noncomputable def decVctx (w : IWord) : Except Nat Instr :=
  match (fld w 0 5).toNat with
  | 0 => unlessSet (decide (fld w 5 9 ≠ 0#9) || decide (fld w 20 5 ≠ 0#5)) (.vsave (cbit w) (fld w 14 6))
  | 1 => unlessSet (decide (fld w 5 9 ≠ 0#9) || decide (fld w 20 5 ≠ 0#5)) (.vrestore (cbit w) (fld w 14 6))
  | 2 => unlessSet (decide (fld w 5 9 ≠ 0#9) || decide (fld w 20 5 ≠ 0#5)) (.msave (cbit w) (fld w 14 6))
  | 3 => unlessSet (decide (fld w 5 9 ≠ 0#9) || decide (fld w 20 5 ≠ 0#5)) (.mrestore (cbit w) (fld w 14 6))
  | _ => .error 4

/-- The decoder: the instruction, or the ILL subcode of R35 (1 ZERO, 2 ONES, 3 RESMAJ, 4 RESFN, 5 FIELD). -/
noncomputable def decodeWord (w : IWord) : Except Nat Instr :=
  if w = 0#32 then .error 1
  else if w = 0xFFFFFFFF#32 then .error 2
  else match (fld w 26 6).toNat with
  | 0x01 => decSalu w
  | 0x02 => unlessSet (false) (.addi (fld w 20 6) (fld w 14 6) (fld w 0 14))
  | 0x03 => unlessSet (false) (.andi (fld w 20 6) (fld w 14 6) (fld w 0 14))
  | 0x04 => unlessSet (false) (.ori (fld w 20 6) (fld w 14 6) (fld w 0 14))
  | 0x05 => unlessSet (false) (.xori (fld w 20 6) (fld w 14 6) (fld w 0 14))
  | 0x06 => unlessSet (false) (.slti (fld w 20 6) (fld w 14 6) (fld w 0 14))
  | 0x07 => decShi w
  | 0x08 => unlessSet (false) (.ldi (fld w 20 6) (fld w 0 20))
  | 0x09 => unlessSet (false) (.adpc (fld w 20 6) (fld w 0 20))
  | 0x0A => unlessSet (false) (.ld (fld w 20 6) (fld w 14 6) (fld w 12 2) (fld w 10 2) (fld w 0 10))
  | 0x0B => unlessSet (false) (.ldu (fld w 20 6) (fld w 14 6) (fld w 12 2) (fld w 10 2) (fld w 0 10))
  | 0x0C => unlessSet (false) (.st (fld w 20 6) (fld w 14 6) (fld w 12 2) (fld w 10 2) (fld w 0 10))
  | 0x0D => decAmo w
  | 0x0E => unlessSet (decide (fld w 0 3 ≠ 0#3) || decide (fld w 8 18 ≠ 0#18)) (.fence (fld w 6 2) (fld w 3 3))
  | 0x10 => unlessSet (false) (.beq (fld w 20 6) (fld w 14 6) (fld w 0 14))
  | 0x11 => unlessSet (false) (.bne (fld w 20 6) (fld w 14 6) (fld w 0 14))
  | 0x12 => unlessSet (false) (.blt (fld w 20 6) (fld w 14 6) (fld w 0 14))
  | 0x13 => unlessSet (false) (.bge (fld w 20 6) (fld w 14 6) (fld w 0 14))
  | 0x14 => unlessSet (false) (.bltu (fld w 20 6) (fld w 14 6) (fld w 0 14))
  | 0x15 => unlessSet (false) (.bgeu (fld w 20 6) (fld w 14 6) (fld w 0 14))
  | 0x16 => unlessSet (false) (.jmp (fld w 20 6) (fld w 0 20))
  | 0x17 => unlessSet (false) (.jmpr (fld w 20 6) (fld w 14 6) (fld w 0 14))
  | 0x18 => decSfpu w
  | 0x19 => decQueue w
  | 0x1A => decSys w
  | 0x1B => decCtrl w
  | 0x1C => unlessSet (false) (.hint (fld w 0 26))
  | 0x20 => decVcfg w
  | 0x21 => decVopVv w
  | 0x22 => decVopVx w
  | 0x23 => unlessSet (false) (.viota (cbit w) (fld w 20 5) (fld w 17 3) (fld w 8 9) (fld w 0 8))
  | 0x24 => decVwide w
  | 0x25 => decVsfu w
  | 0x26 => decVcmp w
  | 0x27 => decPred w
  | 0x28 => decVpctl w
  | 0x29 => decVld w
  | 0x2A => decVst w
  | 0x2B => decVamo w
  | 0x2C => decVlane w
  | 0x2D => decVred w
  | 0x2E => decFeed w
  | 0x2F => decFrame w
  | 0x30 => decTrellis w
  | 0x31 => decMatrix w
  | 0x32 => decEngine w
  | 0x33 => decLaunch w
  | 0x34 => decSync w
  | 0x35 => decVctx w
  | _ => .error 3

/-- The word of an instruction, every field in its place (R9); an ill-formed word that was read is its own word; an event has none
and answers 0. -/
def encode : Instr → IWord
  | .add d a b => 0x1#6 ++ d ++ a ++ b ++ 0x0#8
  | .sub d a b => 0x1#6 ++ d ++ a ++ b ++ 0x1#8
  | .mul d a b => 0x1#6 ++ d ++ a ++ b ++ 0x2#8
  | .mulh d a b => 0x1#6 ++ d ++ a ++ b ++ 0x3#8
  | .mulhu d a b => 0x1#6 ++ d ++ a ++ b ++ 0x4#8
  | .div d a b => 0x1#6 ++ d ++ a ++ b ++ 0x5#8
  | .divu d a b => 0x1#6 ++ d ++ a ++ b ++ 0x6#8
  | .rem d a b => 0x1#6 ++ d ++ a ++ b ++ 0x7#8
  | .remu d a b => 0x1#6 ++ d ++ a ++ b ++ 0x8#8
  | .and d a b => 0x1#6 ++ d ++ a ++ b ++ 0x10#8
  | .or d a b => 0x1#6 ++ d ++ a ++ b ++ 0x11#8
  | .xor d a b => 0x1#6 ++ d ++ a ++ b ++ 0x12#8
  | .andn d a b => 0x1#6 ++ d ++ a ++ b ++ 0x13#8
  | .shl d a b => 0x1#6 ++ d ++ a ++ b ++ 0x18#8
  | .shr d a b => 0x1#6 ++ d ++ a ++ b ++ 0x19#8
  | .sha d a b => 0x1#6 ++ d ++ a ++ b ++ 0x1A#8
  | .rot d a b => 0x1#6 ++ d ++ a ++ b ++ 0x1B#8
  | .slt d a b => 0x1#6 ++ d ++ a ++ b ++ 0x20#8
  | .sltu d a b => 0x1#6 ++ d ++ a ++ b ++ 0x21#8
  | .min d a b => 0x1#6 ++ d ++ a ++ b ++ 0x22#8
  | .max d a b => 0x1#6 ++ d ++ a ++ b ++ 0x23#8
  | .minu d a b => 0x1#6 ++ d ++ a ++ b ++ 0x24#8
  | .maxu d a b => 0x1#6 ++ d ++ a ++ b ++ 0x25#8
  | .clz d a => 0x1#6 ++ d ++ a ++ 0x28#14
  | .ctz d a => 0x1#6 ++ d ++ a ++ 0x29#14
  | .popc d a => 0x1#6 ++ d ++ a ++ 0x2A#14
  | .addi d a i => 0x2#6 ++ d ++ a ++ i
  | .andi d a i => 0x3#6 ++ d ++ a ++ i
  | .ori d a i => 0x4#6 ++ d ++ a ++ i
  | .xori d a i => 0x5#6 ++ d ++ a ++ i
  | .slti d a i => 0x6#6 ++ d ++ a ++ i
  | .shli d a n => 0x7#6 ++ d ++ a ++ 0x0#8 ++ n
  | .shri d a n => 0x7#6 ++ d ++ a ++ 0x40#8 ++ n
  | .shai d a n => 0x7#6 ++ d ++ a ++ 0x80#8 ++ n
  | .ldi d i => 0x8#6 ++ d ++ i
  | .adpc d o => 0x9#6 ++ d ++ o
  | .ld d a w c i => 0xA#6 ++ d ++ a ++ w ++ c ++ i
  | .ldu d a w c i => 0xB#6 ++ d ++ a ++ w ++ c ++ i
  | .st d a w c i => 0xC#6 ++ d ++ a ++ w ++ c ++ i
  | .amoadd d a b w s => 0xD#6 ++ d ++ a ++ b ++ 0x0#4 ++ w ++ s
  | .amoswap d a b w s => 0xD#6 ++ d ++ a ++ b ++ 0x1#4 ++ w ++ s
  | .amoand d a b w s => 0xD#6 ++ d ++ a ++ b ++ 0x2#4 ++ w ++ s
  | .amoor d a b w s => 0xD#6 ++ d ++ a ++ b ++ 0x3#4 ++ w ++ s
  | .amoxor d a b w s => 0xD#6 ++ d ++ a ++ b ++ 0x4#4 ++ w ++ s
  | .amomin d a b w s => 0xD#6 ++ d ++ a ++ b ++ 0x5#4 ++ w ++ s
  | .amomax d a b w s => 0xD#6 ++ d ++ a ++ b ++ 0x6#4 ++ w ++ s
  | .amominu d a b w s => 0xD#6 ++ d ++ a ++ b ++ 0x7#4 ++ w ++ s
  | .amomaxu d a b w s => 0xD#6 ++ d ++ a ++ b ++ 0x8#4 ++ w ++ s
  | .amocas d a b w s => 0xD#6 ++ d ++ a ++ b ++ 0x9#4 ++ w ++ s
  | .lda d a w s => 0xD#6 ++ d ++ a ++ 0xA#10 ++ w ++ s
  | .stl a b w s => 0x340#12 ++ a ++ b ++ 0xB#4 ++ w ++ s
  | .fence k s => 0x380000#24 ++ k ++ s ++ 0x0#3
  | .beq a b o => 0x10#6 ++ a ++ b ++ o
  | .bne a b o => 0x11#6 ++ a ++ b ++ o
  | .blt a b o => 0x12#6 ++ a ++ b ++ o
  | .bge a b o => 0x13#6 ++ a ++ b ++ o
  | .bltu a b o => 0x14#6 ++ a ++ b ++ o
  | .bgeu a b o => 0x15#6 ++ a ++ b ++ o
  | .jmp d o => 0x16#6 ++ d ++ o
  | .jmpr d a i => 0x17#6 ++ d ++ a ++ i
  | .fadd d a b f => 0x18#6 ++ d ++ a ++ b ++ 0x0#4 ++ f ++ 0x0#2
  | .fsub d a b f => 0x18#6 ++ d ++ a ++ b ++ 0x1#4 ++ f ++ 0x0#2
  | .fmul d a b f => 0x18#6 ++ d ++ a ++ b ++ 0x2#4 ++ f ++ 0x0#2
  | .fdiv d a b f => 0x18#6 ++ d ++ a ++ b ++ 0x3#4 ++ f ++ 0x0#2
  | .fsqrt d a f => 0x18#6 ++ d ++ a ++ 0x4#10 ++ f ++ 0x0#2
  | .fma d a b f => 0x18#6 ++ d ++ a ++ b ++ 0x5#4 ++ f ++ 0x0#2
  | .fmin d a b f => 0x18#6 ++ d ++ a ++ b ++ 0x6#4 ++ f ++ 0x0#2
  | .fmax d a b f => 0x18#6 ++ d ++ a ++ b ++ 0x7#4 ++ f ++ 0x0#2
  | .fcmp d a b f c => 0x18#6 ++ d ++ a ++ b ++ 0x8#4 ++ f ++ c
  | .fcvtDS d a f s => 0x18#6 ++ d ++ a ++ 0x9#10 ++ f ++ s
  | .fmv d a f => 0x18#6 ++ d ++ a ++ 0xA#10 ++ f ++ 0x0#2
  | .fmvNeg d a f => 0x18#6 ++ d ++ a ++ 0xA#10 ++ f ++ 0x1#2
  | .fmvAbs d a f => 0x18#6 ++ d ++ a ++ 0xA#10 ++ f ++ 0x2#2
  | .fcvtFK d a f k => 0x18#6 ++ d ++ a ++ 0xB#10 ++ f ++ k
  | .fcvtKF d a f k => 0x18#6 ++ d ++ a ++ 0xC#10 ++ f ++ k
  | .fcvtRtz d a f k => 0x18#6 ++ d ++ a ++ 0xD#10 ++ f ++ k
  | .qsend a q => 0x640#12 ++ a ++ 0x0#2 ++ q ++ 0x0#10
  | .qrecv d q => 0x19#6 ++ d ++ 0x1#8 ++ q ++ 0x0#10
  | .qbsend a => 0x640#12 ++ a ++ 0x2000#14
  | .bq o => 0x19000C#22 ++ o
  | .sysr d c => 0x1A#6 ++ d ++ 0x0#6 ++ c ++ 0x0#2
  | .sysw a c => 0x680#12 ++ a ++ c ++ 0x1#2
  | .sysset a c => 0x680#12 ++ a ++ c ++ 0x2#2
  | .sysclr a c => 0x680#12 ++ a ++ c ++ 0x3#2
  | .trap a => 0x6C0#12 ++ a ++ 0x0#14
  | .tret => 0x6C000001#32
  | .wait d a b => 0x1B#6 ++ d ++ a ++ b ++ 0x2#8
  | .yield => 0x6C000003#32
  | .halt => 0x6C000004#32
  | .time d => 0x1B#6 ++ d ++ 0x5#20
  | .hint i => 0x1C#6 ++ i
  | .vsetl c d a => 0x20#6 ++ BitVec.ofBool c ++ 0x0#3 ++ d ++ a ++ 0x0#10
  | .vsett c v n t s => 0x20#6 ++ BitVec.ofBool c ++ 0x1#3 ++ v ++ n ++ t ++ s ++ 0x0#4
  | .vsetg c g => 0x20#6 ++ BitVec.ofBool c ++ 0x200000#23 ++ g
  | .vaddVv c d a b p => 0x21#6 ++ BitVec.ofBool c ++ d ++ a ++ b ++ p ++ 0x0#7
  | .vaddVx c d a s p => 0x22#6 ++ BitVec.ofBool c ++ d ++ a ++ s ++ p ++ 0x0#6
  | .vsubVv c d a b p => 0x21#6 ++ BitVec.ofBool c ++ d ++ a ++ b ++ p ++ 0x1#7
  | .vsubVx c d a s p => 0x22#6 ++ BitVec.ofBool c ++ d ++ a ++ s ++ p ++ 0x1#6
  | .vmulVv c d a b p => 0x21#6 ++ BitVec.ofBool c ++ d ++ a ++ b ++ p ++ 0x2#7
  | .vmulVx c d a s p => 0x22#6 ++ BitVec.ofBool c ++ d ++ a ++ s ++ p ++ 0x2#6
  | .vmulhVv c d a b p => 0x21#6 ++ BitVec.ofBool c ++ d ++ a ++ b ++ p ++ 0x3#7
  | .vmulhVx c d a s p => 0x22#6 ++ BitVec.ofBool c ++ d ++ a ++ s ++ p ++ 0x3#6
  | .vdivVv c d a b p => 0x21#6 ++ BitVec.ofBool c ++ d ++ a ++ b ++ p ++ 0x4#7
  | .vdivVx c d a s p => 0x22#6 ++ BitVec.ofBool c ++ d ++ a ++ s ++ p ++ 0x4#6
  | .vremVv c d a b p => 0x21#6 ++ BitVec.ofBool c ++ d ++ a ++ b ++ p ++ 0x5#7
  | .vremVx c d a s p => 0x22#6 ++ BitVec.ofBool c ++ d ++ a ++ s ++ p ++ 0x5#6
  | .vminVv c d a b p => 0x21#6 ++ BitVec.ofBool c ++ d ++ a ++ b ++ p ++ 0x6#7
  | .vminVx c d a s p => 0x22#6 ++ BitVec.ofBool c ++ d ++ a ++ s ++ p ++ 0x6#6
  | .vmaxVv c d a b p => 0x21#6 ++ BitVec.ofBool c ++ d ++ a ++ b ++ p ++ 0x7#7
  | .vmaxVx c d a s p => 0x22#6 ++ BitVec.ofBool c ++ d ++ a ++ s ++ p ++ 0x7#6
  | .vandVv c d a b p => 0x21#6 ++ BitVec.ofBool c ++ d ++ a ++ b ++ p ++ 0x8#7
  | .vandVx c d a s p => 0x22#6 ++ BitVec.ofBool c ++ d ++ a ++ s ++ p ++ 0x8#6
  | .vorVv c d a b p => 0x21#6 ++ BitVec.ofBool c ++ d ++ a ++ b ++ p ++ 0x9#7
  | .vorVx c d a s p => 0x22#6 ++ BitVec.ofBool c ++ d ++ a ++ s ++ p ++ 0x9#6
  | .vxorVv c d a b p => 0x21#6 ++ BitVec.ofBool c ++ d ++ a ++ b ++ p ++ 0xA#7
  | .vxorVx c d a s p => 0x22#6 ++ BitVec.ofBool c ++ d ++ a ++ s ++ p ++ 0xA#6
  | .vandnVv c d a b p => 0x21#6 ++ BitVec.ofBool c ++ d ++ a ++ b ++ p ++ 0xB#7
  | .vandnVx c d a s p => 0x22#6 ++ BitVec.ofBool c ++ d ++ a ++ s ++ p ++ 0xB#6
  | .vshlVv c d a b p => 0x21#6 ++ BitVec.ofBool c ++ d ++ a ++ b ++ p ++ 0xC#7
  | .vshlVx c d a s p => 0x22#6 ++ BitVec.ofBool c ++ d ++ a ++ s ++ p ++ 0xC#6
  | .vshrVv c d a b p => 0x21#6 ++ BitVec.ofBool c ++ d ++ a ++ b ++ p ++ 0xD#7
  | .vshrVx c d a s p => 0x22#6 ++ BitVec.ofBool c ++ d ++ a ++ s ++ p ++ 0xD#6
  | .vshaVv c d a b p => 0x21#6 ++ BitVec.ofBool c ++ d ++ a ++ b ++ p ++ 0xE#7
  | .vshaVx c d a s p => 0x22#6 ++ BitVec.ofBool c ++ d ++ a ++ s ++ p ++ 0xE#6
  | .vfmaVv c d a b p => 0x21#6 ++ BitVec.ofBool c ++ d ++ a ++ b ++ p ++ 0xF#7
  | .vfmaVx c d a s p => 0x22#6 ++ BitVec.ofBool c ++ d ++ a ++ s ++ p ++ 0xF#6
  | .vfmsVv c d a b p => 0x21#6 ++ BitVec.ofBool c ++ d ++ a ++ b ++ p ++ 0x10#7
  | .vfmsVx c d a s p => 0x22#6 ++ BitVec.ofBool c ++ d ++ a ++ s ++ p ++ 0x10#6
  | .vfnmaVv c d a b p => 0x21#6 ++ BitVec.ofBool c ++ d ++ a ++ b ++ p ++ 0x11#7
  | .vfnmaVx c d a s p => 0x22#6 ++ BitVec.ofBool c ++ d ++ a ++ s ++ p ++ 0x11#6
  | .vclampVv c d a b p => 0x21#6 ++ BitVec.ofBool c ++ d ++ a ++ b ++ p ++ 0x12#7
  | .vclampVx c d a s p => 0x22#6 ++ BitVec.ofBool c ++ d ++ a ++ s ++ p ++ 0x12#6
  | .vselVv c d a b p => 0x21#6 ++ BitVec.ofBool c ++ d ++ a ++ b ++ p ++ 0x13#7
  | .vselVx c d a s p => 0x22#6 ++ BitVec.ofBool c ++ d ++ a ++ s ++ p ++ 0x13#6
  | .vaddSatVv c d a b p => 0x21#6 ++ BitVec.ofBool c ++ d ++ a ++ b ++ p ++ 0x14#7
  | .vaddSatVx c d a s p => 0x22#6 ++ BitVec.ofBool c ++ d ++ a ++ s ++ p ++ 0x14#6
  | .vsubSatVv c d a b p => 0x21#6 ++ BitVec.ofBool c ++ d ++ a ++ b ++ p ++ 0x15#7
  | .vsubSatVx c d a s p => 0x22#6 ++ BitVec.ofBool c ++ d ++ a ++ s ++ p ++ 0x15#6
  | .vabs c d a p => 0x21#6 ++ BitVec.ofBool c ++ d ++ a ++ 0x0#5 ++ p ++ 0x20#7
  | .vneg c d a p => 0x21#6 ++ BitVec.ofBool c ++ d ++ a ++ 0x0#5 ++ p ++ 0x21#7
  | .vmov c d a p => 0x21#6 ++ BitVec.ofBool c ++ d ++ a ++ 0x0#5 ++ p ++ 0x22#7
  | .vcvt c d a p => 0x21#6 ++ BitVec.ofBool c ++ d ++ a ++ 0x0#5 ++ p ++ 0x23#7
  | .vcvtSat c d a p => 0x21#6 ++ BitVec.ofBool c ++ d ++ a ++ 0x0#5 ++ p ++ 0x24#7
  | .vsplat c d s p => 0x22#6 ++ BitVec.ofBool c ++ d ++ 0x0#5 ++ s ++ p ++ 0x20#6
  | .vext c a s => 0x22#6 ++ BitVec.ofBool c ++ 0x0#5 ++ a ++ s ++ 0x21#9
  | .viota c d p i j => 0x23#6 ++ BitVec.ofBool c ++ d ++ p ++ i ++ j
  | .vwaddVx c d a s p => 0x24#6 ++ BitVec.ofBool c ++ d ++ a ++ s ++ p ++ 0x0#6
  | .vwaddVv c d a b p => 0x24#6 ++ BitVec.ofBool c ++ d ++ a ++ 0x0#1 ++ b ++ p ++ 0x20#6
  | .vwsubVx c d a s p => 0x24#6 ++ BitVec.ofBool c ++ d ++ a ++ s ++ p ++ 0x1#6
  | .vwsubVv c d a b p => 0x24#6 ++ BitVec.ofBool c ++ d ++ a ++ 0x0#1 ++ b ++ p ++ 0x21#6
  | .vwmulVx c d a s p => 0x24#6 ++ BitVec.ofBool c ++ d ++ a ++ s ++ p ++ 0x2#6
  | .vwmulVv c d a b p => 0x24#6 ++ BitVec.ofBool c ++ d ++ a ++ 0x0#1 ++ b ++ p ++ 0x22#6
  | .vwmacVx c d a s p => 0x24#6 ++ BitVec.ofBool c ++ d ++ a ++ s ++ p ++ 0x3#6
  | .vwmacVv c d a b p => 0x24#6 ++ BitVec.ofBool c ++ d ++ a ++ 0x0#1 ++ b ++ p ++ 0x23#6
  | .vnshrVx c d a s p => 0x24#6 ++ BitVec.ofBool c ++ d ++ a ++ s ++ p ++ 0x4#6
  | .vnshrVv c d a b p => 0x24#6 ++ BitVec.ofBool c ++ d ++ a ++ 0x0#1 ++ b ++ p ++ 0x24#6
  | .vncvt c d a p => 0x24#6 ++ BitVec.ofBool c ++ d ++ a ++ 0x0#6 ++ p ++ 0x5#6
  | .vsqrt c d a p => 0x25#6 ++ BitVec.ofBool c ++ d ++ a ++ 0x0#5 ++ p ++ 0x0#7
  | .vrcp c d a p => 0x25#6 ++ BitVec.ofBool c ++ d ++ a ++ 0x0#5 ++ p ++ 0x1#7
  | .vrsq c d a p => 0x25#6 ++ BitVec.ofBool c ++ d ++ a ++ 0x0#5 ++ p ++ 0x2#7
  | .vexp2 c d a p => 0x25#6 ++ BitVec.ofBool c ++ d ++ a ++ 0x0#5 ++ p ++ 0x3#7
  | .vlog2 c d a p => 0x25#6 ++ BitVec.ofBool c ++ d ++ a ++ 0x0#5 ++ p ++ 0x4#7
  | .vcmpEq c d a b p => 0x26#6 ++ BitVec.ofBool c ++ d ++ a ++ b ++ p ++ 0x0#5
  | .vcmpNe c d a b p => 0x26#6 ++ BitVec.ofBool c ++ d ++ a ++ b ++ p ++ 0x1#5
  | .vcmpLt c d a b p => 0x26#6 ++ BitVec.ofBool c ++ d ++ a ++ b ++ p ++ 0x2#5
  | .vcmpLe c d a b p => 0x26#6 ++ BitVec.ofBool c ++ d ++ a ++ b ++ p ++ 0x3#5
  | .vcmpGt c d a b p => 0x26#6 ++ BitVec.ofBool c ++ d ++ a ++ b ++ p ++ 0x4#5
  | .vcmpGe c d a b p => 0x26#6 ++ BitVec.ofBool c ++ d ++ a ++ b ++ p ++ 0x5#5
  | .vcmpUn c d a b p => 0x26#6 ++ BitVec.ofBool c ++ d ++ a ++ b ++ p ++ 0x6#5
  | .vclass c d a k p => 0x26#6 ++ BitVec.ofBool c ++ d ++ a ++ k ++ p ++ 0x10#5
  | .pand d a b => 0x27#6 ++ d ++ a ++ b ++ 0x0#5
  | .por d a b => 0x27#6 ++ d ++ a ++ b ++ 0x1#5
  | .pxor d a b => 0x27#6 ++ d ++ a ++ b ++ 0x2#5
  | .pandn d a b => 0x27#6 ++ d ++ a ++ b ++ 0x3#5
  | .pnot d a => 0x27#6 ++ d ++ a ++ 0x4#12
  | .pmov d a => 0x27#6 ++ d ++ a ++ 0x5#12
  | .pset d v => 0x27#6 ++ d ++ v ++ 0x6#12
  | .pcnt d a => 0x27#6 ++ d ++ 0x0#1 ++ a ++ 0x7#12
  | .pfirst d a => 0x27#6 ++ d ++ 0x0#1 ++ a ++ 0x8#12
  | .plast d a => 0x27#6 ++ d ++ 0x0#1 ++ a ++ 0x9#12
  | .pbrk d a => 0x27#6 ++ d ++ a ++ 0xA#12
  | .pld d s => 0x27#6 ++ d ++ s ++ 0xB#13
  | .pst s a => 0x27#6 ++ s ++ 0x0#1 ++ a ++ 0xC#12
  | .vfetch o => 0xA200#16 ++ o
  | .vpbr c a o => 0x28#6 ++ BitVec.ofBool c ++ 0x1#2 ++ a ++ o
  | .vpjoin c => 0x28#6 ++ BitVec.ofBool c ++ 0x1000000#25
  | .vpend c => 0x28#6 ++ BitVec.ofBool c ++ 0x1800000#25
  | .vld c d a p => 0x29#6 ++ BitVec.ofBool c ++ d ++ a ++ 0x0#6 ++ p ++ 0x0#5
  | .vldS c d a x p => 0x29#6 ++ BitVec.ofBool c ++ d ++ a ++ x ++ p ++ 0x1#5
  | .vldX c d a i p => 0x29#6 ++ BitVec.ofBool c ++ d ++ a ++ 0x0#1 ++ i ++ p ++ 0x2#5
  | .vldff c d a p => 0x29#6 ++ BitVec.ofBool c ++ d ++ a ++ 0x0#6 ++ p ++ 0x3#5
  | .vldseg c d a p f => 0x29#6 ++ BitVec.ofBool c ++ d ++ a ++ 0x0#6 ++ p ++ f
  | .vst c d a p => 0x2A#6 ++ BitVec.ofBool c ++ d ++ a ++ 0x0#6 ++ p ++ 0x0#5
  | .vstS c d a x p => 0x2A#6 ++ BitVec.ofBool c ++ d ++ a ++ x ++ p ++ 0x1#5
  | .vstX c d a i p => 0x2A#6 ++ BitVec.ofBool c ++ d ++ a ++ 0x0#1 ++ i ++ p ++ 0x2#5
  | .vsto c d a p => 0x2A#6 ++ BitVec.ofBool c ++ d ++ a ++ 0x0#6 ++ p ++ 0x3#5
  | .vstseg c d a p f => 0x2A#6 ++ BitVec.ofBool c ++ d ++ a ++ 0x0#6 ++ p ++ f
  | .vstoStrided c d a x p => 0x2A#6 ++ BitVec.ofBool c ++ d ++ a ++ x ++ p ++ 0xB#5
  | .vamoAdd c d a i p => 0x2B#6 ++ BitVec.ofBool c ++ d ++ a ++ 0x0#1 ++ i ++ p ++ 0x0#5
  | .vamoSwap c d a i p => 0x2B#6 ++ BitVec.ofBool c ++ d ++ a ++ 0x0#1 ++ i ++ p ++ 0x1#5
  | .vamoAnd c d a i p => 0x2B#6 ++ BitVec.ofBool c ++ d ++ a ++ 0x0#1 ++ i ++ p ++ 0x2#5
  | .vamoOr c d a i p => 0x2B#6 ++ BitVec.ofBool c ++ d ++ a ++ 0x0#1 ++ i ++ p ++ 0x3#5
  | .vamoXor c d a i p => 0x2B#6 ++ BitVec.ofBool c ++ d ++ a ++ 0x0#1 ++ i ++ p ++ 0x4#5
  | .vamoMin c d a i p => 0x2B#6 ++ BitVec.ofBool c ++ d ++ a ++ 0x0#1 ++ i ++ p ++ 0x5#5
  | .vamoMax c d a i p => 0x2B#6 ++ BitVec.ofBool c ++ d ++ a ++ 0x0#1 ++ i ++ p ++ 0x6#5
  | .vpermVv c d a b p => 0x2C#6 ++ BitVec.ofBool c ++ d ++ a ++ 0x0#1 ++ b ++ p ++ 0x20#6
  | .vpermVx c d a s p => 0x2C#6 ++ BitVec.ofBool c ++ d ++ a ++ s ++ p ++ 0x0#6
  | .vslup c d a s p => 0x2C#6 ++ BitVec.ofBool c ++ d ++ a ++ s ++ p ++ 0x1#6
  | .vsldn c d a s p => 0x2C#6 ++ BitVec.ofBool c ++ d ++ a ++ s ++ p ++ 0x2#6
  | .vcompr c d a p => 0x2C#6 ++ BitVec.ofBool c ++ d ++ a ++ 0x0#6 ++ p ++ 0x3#6
  | .vexpnd c d a p => 0x2C#6 ++ BitVec.ofBool c ++ d ++ a ++ 0x0#6 ++ p ++ 0x4#6
  | .vredsum c a s p => 0x2D#6 ++ BitVec.ofBool c ++ 0x0#5 ++ a ++ s ++ p ++ 0x0#6
  | .vredmax c a s p => 0x2D#6 ++ BitVec.ofBool c ++ 0x0#5 ++ a ++ s ++ p ++ 0x1#6
  | .vredmin c a s p => 0x2D#6 ++ BitVec.ofBool c ++ 0x0#5 ++ a ++ s ++ p ++ 0x2#6
  | .vscan c d a s p => 0x2D#6 ++ BitVec.ofBool c ++ d ++ a ++ s ++ p ++ 0x3#6
  | .vsoftmax c d a s p => 0x2D#6 ++ BitVec.ofBool c ++ d ++ a ++ s ++ p ++ 0x4#6
  | .binz c n t => 0x2D#6 ++ BitVec.ofBool c ++ n ++ t ++ 0x5#15
  | .vbinacc c n a p => 0x2D#6 ++ BitVec.ofBool c ++ n ++ a ++ 0x0#6 ++ p ++ 0x6#6
  | .vbinmacVx c n a s p => 0x2D#6 ++ BitVec.ofBool c ++ n ++ a ++ s ++ p ++ 0x7#6
  | .vbinmacVv c n a b p => 0x2D#6 ++ BitVec.ofBool c ++ n ++ a ++ 0x0#1 ++ b ++ p ++ 0x27#6
  | .binfold c n s => 0x2D#6 ++ BitVec.ofBool c ++ n ++ 0x0#5 ++ s ++ 0x8#9
  | .vmark c s => 0x2D#6 ++ BitVec.ofBool c ++ 0x0#10 ++ s ++ 0x9#9
  | .vstrip c => 0x2D#6 ++ BitVec.ofBool c ++ 0xA#25
  | .fbind c d s => 0x2E#6 ++ BitVec.ofBool c ++ d ++ 0x0#5 ++ s ++ 0x0#9
  | .fchain c d o s => 0x2E#6 ++ BitVec.ofBool c ++ d ++ o ++ s ++ 0x1#9
  | .funbind c d => 0x2E#6 ++ BitVec.ofBool c ++ d ++ 0x2#20
  | .fstat c d l s => 0x2E#6 ++ BitVec.ofBool c ++ d ++ l ++ s ++ 0x3#9
  | .fpcvt c d a s p => 0x2F#6 ++ BitVec.ofBool c ++ d ++ a ++ s ++ p ++ 0x0#6
  | .fplen2 c d a p => 0x2F#6 ++ BitVec.ofBool c ++ d ++ a ++ 0x0#6 ++ p ++ 0x1#6
  | .fpgtag c d a p => 0x2F#6 ++ BitVec.ofBool c ++ d ++ a ++ 0x0#6 ++ p ++ 0x2#6
  | .fpstagVx c d a s p => 0x2F#6 ++ BitVec.ofBool c ++ d ++ a ++ s ++ p ++ 0x3#6
  | .fpstagVv c d a b p => 0x2F#6 ++ BitVec.ofBool c ++ d ++ a ++ 0x0#1 ++ b ++ p ++ 0x4#6
  | .frset d a b => 0x30#6 ++ d ++ a ++ b ++ 0x0#8
  | .frdel d a b => 0x30#6 ++ d ++ a ++ b ++ 0x1#8
  | .frfence => 0xC0000002#32
  | .frlook d a b => 0x30#6 ++ d ++ a ++ b ++ 0x3#8
  | .mstl c x y => 0x31#6 ++ BitVec.ofBool c ++ 0x0#13 ++ x ++ y
  | .mlds c v x y => 0x31#6 ++ BitVec.ofBool c ++ 0x10#8 ++ v ++ x ++ y
  | .msow c v x => 0x31#6 ++ BitVec.ofBool c ++ 0x20#8 ++ v ++ x ++ 0x0#6
  | .mswap c => 0x31#6 ++ BitVec.ofBool c ++ 0x600000#25
  | .mmac c k v x => 0x31#6 ++ BitVec.ofBool c ++ 0x4#4 ++ k ++ v ++ x ++ 0x0#6
  | .mmacM c k v x p => 0x31#6 ++ BitVec.ofBool c ++ 0x5#4 ++ k ++ v ++ x ++ 0x0#3 ++ p
  | .macz c k => 0x31#6 ++ BitVec.ofBool c ++ 0x6#4 ++ k ++ 0x0#17
  | .macld c k v x y => 0x31#6 ++ BitVec.ofBool c ++ 0x7#4 ++ k ++ v ++ x ++ y
  | .macst c k v x y => 0x31#6 ++ BitVec.ofBool c ++ 0x8#4 ++ k ++ v ++ x ++ y
  | .macin c k v x => 0x31#6 ++ BitVec.ofBool c ++ 0x9#4 ++ k ++ v ++ x ++ 0x0#6
  | .mseedgen c v x y => 0x31#6 ++ BitVec.ofBool c ++ 0xA0#8 ++ v ++ x ++ y
  | .mseedscan c v x y => 0x31#6 ++ BitVec.ofBool c ++ 0xB0#8 ++ v ++ x ++ y
  | .cpy d a b p s => 0x190#9 ++ d ++ a ++ b ++ p ++ s
  | .cpyq d a s => 0x191#9 ++ d ++ a ++ 0x0#8 ++ s
  | .cpyw d a => 0x192#9 ++ d ++ a ++ 0x0#11
  | .cpywP d a => 0x192#9 ++ d ++ a ++ 0x1#11
  | .wdqry a => 0x64C0#15 ++ a ++ 0x0#11
  | .wmbind a b k => 0x6500#15 ++ a ++ b ++ 0x0#3 ++ k
  | .wmpub a b => 0x6540#15 ++ a ++ b ++ 0x0#5
  | .launch d a => 0x198#9 ++ d ++ a ++ 0x0#11
  | .lspec d a => 0x199#9 ++ d ++ a ++ 0x0#11
  | .shpub a b => 0x6680#15 ++ a ++ b ++ 0x0#5
  | .allocr d a b => 0x19B#9 ++ d ++ a ++ b ++ 0x0#5
  | .retract a b => 0x6700#15 ++ a ++ b ++ 0x0#5
  | .lstat d a l => 0x19D#9 ++ d ++ a ++ 0x0#6 ++ l
  | .barg c n => 0x34#6 ++ BitVec.ofBool c ++ 0x0#5 ++ n ++ 0x0#15
  | .barw c n => 0x34#6 ++ BitVec.ofBool c ++ 0x0#5 ++ n ++ 0x1#15
  | .vsave c a => 0x35#6 ++ BitVec.ofBool c ++ 0x0#5 ++ a ++ 0x0#14
  | .vrestore c a => 0x35#6 ++ BitVec.ofBool c ++ 0x0#5 ++ a ++ 0x1#14
  | .msave c a => 0x35#6 ++ BitVec.ofBool c ++ 0x0#5 ++ a ++ 0x2#14
  | .mrestore c a => 0x35#6 ++ BitVec.ofBool c ++ 0x0#5 ++ a ++ 0x3#14
  | .illegalWord w _ => w
  | _ => 0#32

/-- Every word is an instruction or an illegal word with its subcode (R35). -/
noncomputable def decode (w : IWord) : Instr :=
  match decodeWord w with
  | .ok i => i
  | .error sub => .illegalWord w sub

/-- The little-endian word that four bytes hold (R5, R8). -/
def wordOfBytes (b0 b1 b2 b3 : BitVec 8) : IWord := b3 ++ b2 ++ b1 ++ b0

/-- The decoder on the bits of a table row: one 32-bit word (bit 0 the least significant), laid out as four little-endian bytes. -/
noncomputable def decodeTableWord (nbits w : Nat) : Option Instr :=
  if nbits ≤ 32 then
    let x := BitVec.ofNat 32 w
    match decodeWord (wordOfBytes (fld x 0 8) (fld x 8 8) (fld x 16 8) (fld x 24 8)) with
    | .ok i => some i
    | .error _ => none
  else none

end Sys2Proof
end

