-- ==== Sys2Proof/Config.lean ====
section
/-! DEFINITION. What the spec leaves open: the free values. Each is a constant without a body: nothing in Lean can evaluate
it or prove a value of it. -/
namespace Sys2Proof.Config

/-- Nanoseconds that pass over a step: the spec promises no timing (R7). Applied to the count of steps. -/
opaque elapsed : Nat → BitVec 16

/-- A value the spec leaves unspecified. Applied to the count of such values drawn. -/
opaque freeValue : Nat → BitVec 64

/-- SHA-384 (R355, R360): the number of bytes, and the bytes as one little-endian number. FIPS 180 gives it, not the spec. -/
opaque sha384 : Nat → Nat → BitVec 384

/-- Whether an Ed25519 signature of a digest verifies under a key (R355, R360): key, digest, signature. -/
opaque ed25519 : Nat → BitVec 384 → Nat → Bool

/-- The same for ML-DSA-65. -/
opaque mldsa65 : Nat → BitVec 384 → Nat → Bool

/-- What the boot status register holds of the copy, the step and the image that failed (R359): the spec gives no layout. -/
opaque bootCode : Nat → Nat → Nat → BitVec 64

/-- The payload of a data flit that says what a list of numbers says (R369, R376): the spec gives no layout. -/
opaque payload : List Nat → BitVec 1920

/-- The signatures that the device makes of a digest (R361): Ed25519, ML-DSA-65. -/
opaque edSign : BitVec 384 → Nat
opaque mlSign : BitVec 384 → Nat

end Sys2Proof.Config
end

