-- ==== Sys2Proof/Machine/Num.lean ====
section
/-! DEFINITION. Number formats, exact values and the one rounding operation (spec chapter 03, R37 to R62).
Every floating value is held exactly (a sign, a natural significand and a power of two), every operation computes
exactly, and `roundFp` narrows once, as R46 states. -/
namespace Sys2Proof.Machine

/-- The flags one element can raise (R50: DZ NV NX UF OF of fflags, SAT of vsat; R107: TOMB of frflags). -/
structure Fl where
  dz : Bool := false
  nv : Bool := false
  nx : Bool := false
  uf : Bool := false
  ofl : Bool := false
  sat : Bool := false
  tomb : Bool := false
  deriving DecidableEq, Repr

/-- Flags are only ever ORed (R52). -/
def Fl.or (a b : Fl) : Fl :=
  ⟨a.dz || b.dz, a.nv || b.nv, a.nx || b.nx, a.uf || b.uf, a.ofl || b.ofl, a.sat || b.sat, a.tomb || b.tomb⟩

/-- fflags as R50 lays it out: DZ 4, NV 3, NX 2, UF 1, OF 0. -/
def Fl.fflags (a : Fl) : BitVec 5 :=
  BitVec.ofBool a.dz ++ BitVec.ofBool a.nv ++ BitVec.ofBool a.nx ++ BitVec.ofBool a.uf ++ BitVec.ofBool a.ofl

/-- Rounding modes of frm (R45). -/
inductive Rm where
  | rne | sr | rtz | rmm | rdn | rup
  deriving DecidableEq, Repr

/-- The mode that the RM field names (R45); 6 and 7 are never held, because a write of them is ignored. -/
def rmOf (n : Nat) : Rm :=
  match n with
  | 1 => .sr | 2 => .rtz | 3 => .rmm | 4 => .rdn | 5 => .rup | _ => .rne

/-- reduction_mode(m): m, or RNE when m is SR (R60). -/
def reductionMode (m : Rm) : Rm := if m = .sr then .rne else m

/-- Special-value policies of a flex format (R42). -/
inductive Pol where
  | ieee | nanOnly | finOnly
  deriving DecidableEq, Repr

/-- A floating format: sign bits, exponent bits, fraction bits, bias, policy (R40, R42). -/
structure Fmt where
  s : Nat
  e : Nat
  m : Nat
  bias : Nat
  pol : Pol
  deriving DecidableEq, Repr

def fmtF16 : Fmt := ⟨1, 5, 10, 15, .ieee⟩
def fmtBf16 : Fmt := ⟨1, 8, 7, 127, .ieee⟩
def fmtF32 : Fmt := ⟨1, 8, 23, 127, .ieee⟩
def fmtF64 : Fmt := ⟨1, 11, 52, 1023, .ieee⟩

/-- The width W = S + E + M (R43). -/
def Fmt.width (f : Fmt) : Nat := f.s + f.e + f.m
/-- The all-ones exponent field P (R44). -/
def Fmt.allOnes (f : Fmt) : Nat := 2 ^ f.e - 1
/-- The exponent of the smallest normal magnitude. -/
def Fmt.emin (f : Fmt) : Int := 1 - (f.bias : Int)
/-- The largest magnitude code (exponent and fraction fields together) that the policy leaves finite (R44). -/
def Fmt.maxCode (f : Fmt) : Nat :=
  match f.pol with
  | .ieee => f.allOnes * 2 ^ f.m - 1
  | .nanOnly => f.allOnes * 2 ^ f.m + 2 ^ f.m - 2
  | .finOnly => f.allOnes * 2 ^ f.m + 2 ^ f.m - 1
def Fmt.hasInf (f : Fmt) : Bool := f.pol = .ieee
/-- Whether the format has a NaN: none for IEEE-like with M = 0, nor for finite-only (R41). -/
def Fmt.hasNan (f : Fmt) : Bool :=
  match f.pol with
  | .ieee => f.m ≠ 0
  | .nanOnly => true
  | .finOnly => false
/-- The sign bit in place. -/
def Fmt.signBit (f : Fmt) (neg : Bool) : Nat := if neg && f.s = 1 then 2 ^ (f.e + f.m) else 0
/-- canonical_nan(f) (R41). -/
def Fmt.nanBits (f : Fmt) : Nat :=
  match f.pol with
  | .ieee => f.allOnes * 2 ^ f.m + 2 ^ (f.m - 1)
  | _ => f.allOnes * 2 ^ f.m + 2 ^ f.m - 1

/-- The format that a format register holds, when it is valid (R42, R43). -/
def fmtOfReg (r : BitVec 64) : Option Fmt :=
  let n := r.toNat
  let s := n % 2
  let e := n / 2 ^ 4 % 16
  let m := n / 2 ^ 8 % 16
  let b := n / 2 ^ 16 % 256
  let p := n / 2 ^ 24 % 4
  if 1 ≤ e ∧ e ≤ 7 ∧ m ≤ 7 ∧ s + e + m ≤ 8 ∧ p ≤ 2 then
    some ⟨s, e, m, b, if p = 0 then .ieee else if p = 1 then .nanOnly else .finOnly⟩
  else none

/-- An exact value: NaN (signalling or quiet), infinity, or (-1)^neg * mag * 2^exp. -/
inductive FVal where
  | nan (signalling : Bool)
  | inf (neg : Bool)
  | fin (neg : Bool) (mag : Nat) (exp : Int)
  deriving DecidableEq, Repr

def FVal.isNan : FVal → Bool
  | .nan _ => true
  | _ => false
def FVal.isSnan : FVal → Bool
  | .nan s => s
  | _ => false
def FVal.isZero : FVal → Bool
  | .fin _ m _ => m = 0
  | _ => false
def FVal.isInf : FVal → Bool
  | .inf _ => true
  | _ => false
def FVal.neg : FVal → Bool
  | .nan _ => false
  | .inf n => n
  | .fin n _ _ => n
def FVal.negate : FVal → FVal
  | .nan s => .nan s
  | .inf n => .inf (!n)
  | .fin n m e => .fin (!n) m e
def FVal.abs : FVal → FVal
  | .nan s => .nan s
  | .inf _ => .inf false
  | .fin _ m e => .fin false m e

/-- The exact value of an integer. -/
def fvalOfInt (i : Int) : FVal := .fin (decide (i < 0)) i.natAbs 0

/-- decode_value of a floating encoding (R40, R44). -/
def decodeVal (f : Fmt) (bits : Nat) : FVal :=
  let neg : Bool := f.s = 1 ∧ bits / 2 ^ (f.e + f.m) % 2 = 1
  let ex := bits / 2 ^ f.m % 2 ^ f.e
  let m := bits % 2 ^ f.m
  let fin : FVal :=
    if ex = 0 then .fin neg m (f.emin - f.m) else .fin neg (2 ^ f.m + m) ((ex : Int) - f.bias - f.m)
  match f.pol with
  | .ieee =>
    if ex = f.allOnes then
      if m = 0 then .inf neg else .nan (decide (m / 2 ^ (f.m - 1) % 2 = 0))
    else fin
  | .nanOnly => if ex = f.allOnes ∧ m = 2 ^ f.m - 1 then .nan false else fin
  | .finOnly => fin

/-- An exact positive magnitude x, known through floor(log2 x) and through floor(x / 2^k) for every k (with
whether anything was cut off). Dyadic, rational and irrational results all take this form. -/
structure Mag where
  ilog : Int
  fl : Int → Nat × Bool

/-- floor(m * 2^d) and whether it cut anything. -/
def shiftFloor (m : Nat) (d : Int) : Nat × Bool :=
  match d with
  | .ofNat k => (m * 2 ^ k, false)
  | .negSucc k =>
    -- beyond the significand the quotient is 0: the power is never formed
    if k ≥ m.log2 + 1 then (0, decide (m ≠ 0)) else (m / 2 ^ (k + 1), decide (m % 2 ^ (k + 1) ≠ 0))

/-- The magnitude m * 2^e, m > 0. -/
def magDyadic (m : Nat) (e : Int) : Mag := ⟨(m.log2 : Int) + e, fun k => shiftFloor m (e - k)⟩

/-- The magnitude n / d * 2^e, n and d > 0. -/
def magRat (n d : Nat) (e : Int) : Mag :=
  let l : Int := (n.log2 : Int) - (d.log2 : Int)
  let ge : Bool := match l with
    | .ofNat k => decide (d * 2 ^ k ≤ n)
    | .negSucc k => decide (d ≤ n * 2 ^ (k + 1))
  ⟨(if ge then l else l - 1) + e, fun k =>
    match e - k with
    | .ofNat j => (n * 2 ^ j / d, decide (n * 2 ^ j % d ≠ 0))
    | .negSucc j => (n / (d * 2 ^ (j + 1)), decide (n % (d * 2 ^ (j + 1)) ≠ 0))⟩

/-- The root r of n, bit by bit from bit b - 1 down. -/
def isqrtGo (n : Nat) : Nat → Nat → Nat
  | 0, r => r
  | b + 1, r => isqrtGo n b (if (r + 2 ^ b) * (r + 2 ^ b) ≤ n then r + 2 ^ b else r)

/-- floor(sqrt n). -/
def isqrt (n : Nat) : Nat := isqrtGo n (n.log2 / 2 + 1) 0

/-- The magnitude sqrt(m * 2^e). -/
def magSqrt (m : Nat) (e : Int) : Mag :=
  ⟨((m.log2 : Int) + e) / 2, fun k =>
    let (v, cut) := shiftFloor m (e - 2 * k)
    let r := isqrt v
    (r, cut || decide (r * r ≠ v))⟩

/-- The magnitude 1 / sqrt(m * 2^e). -/
def magRsqrt (m : Nat) (e : Int) : Mag :=
  let il := -((m.log2 : Int) + e)           -- 1/x lies in (2^(il-1), 2^il], 2^il only when m is a power of two
  let top : Bool := decide (m = 2 ^ m.log2)
  ⟨(if top then il else il - 1) / 2, fun k =>
    match -e - 2 * k with
    | .ofNat j =>
      let v := 2 ^ j / m
      let r := isqrt v
      (r, decide (2 ^ j % m ≠ 0) || decide (r * r ≠ v))
    | .negSucc _ => (0, true)⟩

/-- Bits of fraction kept by the transcendental functions: every result of R59 that is not exact is irrational, and
this many bits decide its rounding (assumption 12). -/
def fracBits : Nat := 384

/-- ln 2 at `fracBits` bits: the sum of 1 / (k * 2^k), from its k-th term down. -/
def ln2Go : Nat → Nat → Nat
  | 0, acc => acc
  | k + 1, acc => ln2Go k (acc + 2 ^ fracBits / ((k + 1) * 2 ^ (k + 1)))
def ln2Fix : Nat := ln2Go fracBits 0

/-- exp(y) - 1 by Taylor's series in Horner form: y * (1 + y/2 * (1 + y/3 ...)), all at `fracBits`. -/
def expGo (y : Nat) : Nat → Nat → Nat
  | 0, acc => acc
  | k + 1, acc => expGo y k (2 ^ fracBits + y * acc / 2 ^ fracBits / (k + 1))
/-- 2^f at `fracBits`, for f in [0, 1) given at `fracBits`. -/
def exp2Frac (f : Nat) : Nat := expGo (f * ln2Fix / 2 ^ fracBits) 96 (2 ^ fracBits)

/-- The series of atanh(z)/z: 1 + z2/3 + z2^2/5 ..., Horner form, z2 = z^2 at `fracBits`. -/
def atanhGo (z2 : Nat) : Nat → Nat → Nat
  | 0, acc => acc
  | k + 1, acc => atanhGo z2 k (2 ^ fracBits / (2 * k + 1) + z2 * acc / 2 ^ fracBits)
/-- log2(t) at `fracBits`, for t = m / 2^(log2 m) in [1, 2). -/
def log2Frac (m : Nat) : Nat :=
  let p := 2 ^ m.log2
  let z := (m - p) * 2 ^ fracBits / (m + p)
  let s := atanhGo (z * z / 2 ^ fracBits) 160 0
  2 * (z * s / 2 ^ fracBits) * 2 ^ fracBits / ln2Fix

/-- An irrational magnitude known to `fracBits` bits, times 2^e. -/
def magFix (a : Nat) (e : Int) : Mag :=
  ⟨(a.log2 : Int) - fracBits + e, fun k => ((shiftFloor a (e - fracBits - k)).1, true)⟩

/-- The rounding of a cut magnitude: t holds the quotient with 32 more bits, `ine` whether more was cut (R46 step 1,
R47). `r` is the random value of SR. -/
def roundUp (rm : Rm) (neg : Bool) (r : Nat) (t : Nat) (ine : Bool) : Bool :=
  let q := t / 2 ^ 32
  let fr := t % 2 ^ 32
  let inexact := decide (fr ≠ 0) || ine
  match rm with
  | .rne => decide (2 ^ 31 < fr) || (decide (fr = 2 ^ 31) && (ine || decide (q % 2 = 1)))
  | .rmm => decide (2 ^ 31 ≤ fr)
  | .rtz => false
  | .rdn => neg && inexact
  | .rup => !neg && inexact
  | .sr => decide (2 ^ 32 ≤ fr + r)

/-- The largest finite value with a sign, in f. -/
def maxFiniteBits (f : Fmt) (neg : Bool) : Nat := f.signBit neg + f.maxCode

/-- An infinite result: the infinity where f has one, otherwise max_finite with OF (R78); a negative one of a
format without sign gives +0 and NV (R44). -/
def infResult (f : Fmt) (neg : Bool) : Nat × Fl :=
  if neg && f.s = 0 then (0, { nv := true })
  else if f.hasInf then (f.signBit neg + f.allOnes * 2 ^ f.m, {})
  else (maxFiniteBits f neg, { ofl := true })

/-- A NaN result: canonical_nan(f), or 0 with NV where f has no NaN (R78). -/
def nanResult (f : Fmt) (fl : Fl) : Nat × Fl :=
  if f.hasNan then (f.nanBits, fl) else (0, { fl with nv := true })

/-- A zero with a sign. -/
def zeroResult (f : Fmt) (neg : Bool) : Nat × Fl := (f.signBit neg, {})

/-- round_fp of a nonzero exact magnitude (R46): the encoding and the flags. An overflowing result sets OF and NX and
never UF, in an IEEE-like format with E = 1 too, which has no smallest normal magnitude to be tiny against
(assumption 73). -/
def roundMag (f : Fmt) (rm : Rm) (r : Nat) (neg : Bool) (x : Mag) : Nat × Fl :=
  if neg && f.s = 0 then (0, { nv := true })
  else
    let k0 : Int := x.ilog - f.m
    let kmin : Int := f.emin - f.m
    let k := max k0 kmin
    let (t, ine) := x.fl (k - 32)
    let q := t / 2 ^ 32 + (if roundUp rm neg r t ine then 1 else 0)
    let inexact := decide (t % 2 ^ 32 ≠ 0) || ine
    -- the code of q * 2^k: the exponent field counts from kmin
    let code := (k - kmin).toNat * 2 ^ f.m + q
    if f.maxCode < code then
      let big : Bool := match rm with
        | .rtz => false
        | .rdn => neg
        | .rup => !neg
        | _ => true
      ((if f.hasInf && big then f.signBit neg + f.allOnes * 2 ^ f.m else maxFiniteBits f neg),
        { ofl := true, nx := true })
    else
      -- tininess after rounding, with an unbounded exponent (R46 step 3)
      let (t0, ine0) := x.fl (k0 - 32)
      let q0 := t0 / 2 ^ 32 + (if roundUp rm neg r t0 ine0 then 1 else 0)
      let tiny : Bool := k0 < kmin ∧ ¬ (k0 = kmin - 1 ∧ q0 = 2 ^ (f.m + 1))
      (f.signBit neg + code, { nx := inexact, uf := tiny && inexact })

/-- round_fp of an exact value (R46): NaN and infinities by R78's last paragraph, zeros with their sign. -/
def roundFp (f : Fmt) (rm : Rm) (r : Nat) (x : FVal) : Nat × Fl :=
  match x with
  | .nan s => nanResult f { nv := s }
  | .inf n => infResult f n
  | .fin n m e => if m = 0 then zeroResult f n else roundMag f rm r n (magDyadic m e)

/-- Signed significands at the lower of two exponents. -/
def alignSum (n₁ : Bool) (m₁ : Nat) (e₁ : Int) (n₂ : Bool) (m₂ : Nat) (e₂ : Int) : Int × Int :=
  let e := min e₁ e₂
  let a : Int := (m₁ * 2 ^ (e₁ - e).toNat : Nat)
  let b : Int := (m₂ * 2 ^ (e₂ - e).toNat : Nat)
  ((if n₁ then -a else a) + (if n₂ then -b else b), e)

/-- The exact sum of two values that are no NaN and no opposing infinities; the sign of an exact zero is R46 step 4. -/
def addExact (rm : Rm) (a b : FVal) : FVal :=
  match a, b with
  | .nan s, _ => .nan s
  | _, .nan s => .nan s
  | .inf n, _ => .inf n
  | _, .inf n => .inf n
  | .fin n₁ m₁ e₁, .fin n₂ m₂ e₂ =>
    if m₁ = 0 ∧ m₂ = 0 then .fin (if n₁ = n₂ then n₁ else decide (rm = .rdn)) 0 0
    else if m₁ = 0 then .fin n₂ m₂ e₂
    else if m₂ = 0 then .fin n₁ m₁ e₁
    else
      let (s, e) := alignSum n₁ m₁ e₁ n₂ m₂ e₂
      if s = 0 then .fin (decide (rm = .rdn)) 0 0 else .fin (decide (s < 0)) s.natAbs e

/-- The exact product of two values that are no NaN and no zero times infinity. -/
def mulExact (a b : FVal) : FVal :=
  match a, b with
  | .nan s, _ => .nan s
  | _, .nan s => .nan s
  | .inf n, y => .inf (n != y.neg)
  | x, .inf n => .inf (x.neg != n)
  | .fin n₁ m₁ e₁, .fin n₂ m₂ e₂ => .fin (n₁ != n₂) (m₁ * m₂) (e₁ + e₂)

/-- The NaN rule of R78 for two operands, where it applies. -/
def nanOf2 (f : Fmt) (a b : FVal) : Option (Nat × Fl) :=
  if a.isNan || b.isNan then some (nanResult f { nv := a.isSnan || b.isSnan }) else none

/-- An IEEE invalid operation: the canonical NaN and NV. -/
def invalidResult (f : Fmt) : Nat × Fl := nanResult f { nv := true }

/-- Addition (R78). -/
def fpAdd (f : Fmt) (rm : Rm) (r : Nat) (a b : FVal) : Nat × Fl :=
  match nanOf2 f a b with
  | some x => x
  | none =>
    if a.isInf && b.isInf && (a.neg != b.neg) then invalidResult f
    else roundFp f rm r (addExact rm a b)
/-- Subtraction (R78). -/
def fpSub (f : Fmt) (rm : Rm) (r : Nat) (a b : FVal) : Nat × Fl := fpAdd f rm r a b.negate
/-- Whether a product is 0 times infinity. -/
def badProduct (a b : FVal) : Bool := (a.isInf && b.isZero) || (a.isZero && b.isInf)
/-- Multiplication (R78). -/
def fpMul (f : Fmt) (rm : Rm) (r : Nat) (a b : FVal) : Nat × Fl :=
  match nanOf2 f a b with
  | some x => x
  | none => if badProduct a b then invalidResult f else roundFp f rm r (mulExact a b)
/-- Division (R78, rules 2 and 3). -/
def fpDiv (f : Fmt) (rm : Rm) (r : Nat) (a b : FVal) : Nat × Fl :=
  match nanOf2 f a b with
  | some x => x
  | none =>
    let n := a.neg != b.neg
    match a, b with
    | .inf _, .inf _ => invalidResult f
    | .inf _, _ => infResult f n
    | _, .inf _ => zeroResult f n
    | .fin _ m₁ e₁, .fin _ m₂ e₂ =>
      if m₂ = 0 then
        if m₁ = 0 then invalidResult f
        else let (b', fl) := infResult f n; (b', { fl with dz := true })
      else if m₁ = 0 then zeroResult f n
      else roundMag f rm r n (magRat m₁ m₂ (e₁ - e₂))
    | _, _ => nanResult f {}
/-- a * b + c with one rounding (R79). -/
def fpFma (f : Fmt) (rm : Rm) (r : Nat) (a b c : FVal) : Nat × Fl :=
  if badProduct a b then nanResult f { nv := true }
  else if a.isNan || b.isNan || c.isNan then nanResult f { nv := a.isSnan || b.isSnan || c.isSnan }
  else
    let p := mulExact a b
    if p.isInf && c.isInf && (p.neg != c.neg) then invalidResult f
    else roundFp f rm r (addExact rm p c)
/-- Square root, with the special cases of R87 and of IEEE 754-2019. -/
def fpSqrt (f : Fmt) (rm : Rm) (r : Nat) (a : FVal) : Nat × Fl :=
  match a with
  | .nan s => nanResult f { nv := s }
  | .inf n => if n then invalidResult f else infResult f false
  | .fin n m e =>
    if m = 0 then zeroResult f n
    else if n then invalidResult f
    else roundMag f rm r false (magSqrt m e)
/-- Reciprocal (R87). -/
def fpRcp (f : Fmt) (rm : Rm) (r : Nat) (a : FVal) : Nat × Fl :=
  match a with
  | .nan s => nanResult f { nv := s }
  | .inf n => zeroResult f n
  | .fin n m e =>
    if m = 0 then let (b, fl) := infResult f n; (b, { fl with dz := true })
    else roundMag f rm r n (magRat 1 m (-e))
/-- Reciprocal square root (R87). -/
def fpRsq (f : Fmt) (rm : Rm) (r : Nat) (a : FVal) : Nat × Fl :=
  match a with
  | .nan s => nanResult f { nv := s }
  | .inf n => if n then invalidResult f else zeroResult f false
  | .fin n m e =>
    if m = 0 then let (b, fl) := infResult f n; (b, { fl with dz := true })
    else if n then invalidResult f
    else roundMag f rm r false (magRsqrt m e)
/-- Base-2 exponential (R87). Operands at or beyond 2^16 lie past every format's range, above or below. -/
def fpExp2 (f : Fmt) (rm : Rm) (r : Nat) (a : FVal) : Nat × Fl :=
  match a with
  | .nan s => nanResult f { nv := s }
  | .inf n => if n then zeroResult f false else infResult f false
  | .fin n m e =>
    if m = 0 then roundMag f rm r false (magDyadic 1 0)
    else if (m.log2 : Int) + e ≥ 16 then
      roundMag f rm r false (magFix (2 ^ fracBits) (if n then -65536 else 65536))
    else
      -- x = i + fr with fr in [0, 1) at fracBits
      let (t, _) := shiftFloor m (e + fracBits)
      let x : Int := if n then -(t : Int) else t
      let i := x / 2 ^ fracBits
      let fr := (x % 2 ^ fracBits).toNat
      if fr = 0 then roundMag f rm r false (magDyadic 1 i)
      else roundMag f rm r false (magFix (exp2Frac fr) i)
/-- Base-2 logarithm (R87). -/
def fpLog2 (f : Fmt) (rm : Rm) (r : Nat) (a : FVal) : Nat × Fl :=
  match a with
  | .nan s => nanResult f { nv := s }
  | .inf n => if n then invalidResult f else infResult f false
  | .fin n m e =>
    if m = 0 then let (b, fl) := infResult f true; (b, { fl with dz := true })
    else if n then invalidResult f
    else
      let i : Int := (m.log2 : Int) + e
      if m = 2 ^ m.log2 then
        if i = 0 then zeroResult f false
        else roundMag f rm r (decide (i < 0)) (magDyadic i.natAbs 0)
      else
        let l : Int := i * 2 ^ fracBits + log2Frac m
        roundMag f rm r (decide (l < 0)) (magFix l.natAbs 0)

/-- a < b on exact values that are no NaN; zeros compare equal. -/
def fvLt (a b : FVal) : Bool :=
  match a, b with
  | .inf n₁, .inf n₂ => n₁ && !n₂
  | .inf n, _ => n
  | _, .inf n => !n
  | .fin n₁ m₁ e₁, .fin n₂ m₂ e₂ => (alignSum n₁ m₁ e₁ (!n₂) m₂ e₂).1 < 0
  | _, _ => false
/-- a = b on exact values that are no NaN; zeros compare equal. -/
def fvEq (a b : FVal) : Bool :=
  match a, b with
  | .inf n₁, .inf n₂ => n₁ == n₂
  | .fin n₁ m₁ e₁, .fin n₂ m₂ e₂ => (alignSum n₁ m₁ e₁ (!n₂) m₂ e₂).1 == 0
  | _, _ => false

/-- minimumNumber and maximumNumber (R78): -0 below +0; a NaN loses to a number. -/
def pickMin (mx : Bool) (a b : FVal) : FVal :=
  if a.isNan then b
  else if b.isNan then a
  else if fvEq a b then (if a.neg != mx then a else b)
  else if fvLt a b != mx then a else b
/-- VMIN and VMAX of values (R78). -/
def fpMinMax (mx : Bool) (f : Fmt) (rm : Rm) (r : Nat) (a b : FVal) : Nat × Fl :=
  if a.isNan && b.isNan then nanResult f { nv := a.isSnan || b.isSnan }
  else
    let (x, fl) := roundFp f rm r (pickMin mx a b)
    (x, fl.or { nv := a.isSnan || b.isSnan })

/-- Integer element kinds: width and signedness (R37). -/
structure ITag where
  w : Nat
  signed : Bool
  deriving DecidableEq, Repr

/-- The integer a w-bit pattern holds under t. -/
def intOf (t : ITag) (bits : Nat) : Int :=
  let b := bits % 2 ^ t.w
  if t.signed && decide (2 ^ (t.w - 1) ≤ b) then (b : Int) - 2 ^ t.w else b
/-- An integer modulo 2^w, as a pattern. -/
def wrapInt (w : Nat) (x : Int) : Nat := (x % (2 ^ w : Nat)).toNat
def intMin (t : ITag) : Int := if t.signed then -(2 ^ (t.w - 1) : Nat) else 0
def intMax (t : ITag) : Int := if t.signed then (2 ^ (t.w - 1) : Nat) - 1 else (2 ^ t.w : Nat) - 1

/-- sat_int(x, tag) (R54): the clamped value as a pattern, and whether it changed. -/
def satInt (t : ITag) (x : Int) : Nat × Bool :=
  if x < intMin t then (wrapInt t.w (intMin t), true)
  else if intMax t < x then (wrapInt t.w (intMax t), true)
  else (wrapInt t.w x, false)

/-- round_fixed(x, d, mode) (R48). -/
def roundFixed (xrm : Nat) (x : Int) (d : Nat) : Int :=
  if d = 0 then x
  else
    let p : Int := 2 ^ d
    let q := x / p
    let h := x % p
    match xrm with
    | 0 => (x + 2 ^ (d - 1)) / p
    | 1 => if h ≠ 0 ∧ q % 2 = 0 then q + 1 else q
    | 2 => q
    | _ => if 2 * h > p ∨ (2 * h = p ∧ q % 2 = 1) then q + 1 else q

/-- An exact value rounded to an integer, and whether it was inexact (R46, last paragraph). -/
def roundToInt (rm : Rm) (r : Nat) (neg : Bool) (m : Nat) (e : Int) : Int × Bool :=
  let (t, ine) := shiftFloor m (e + 32)
  let q : Nat := t / 2 ^ 32 + (if roundUp rm neg r t ine then 1 else 0)
  ((if neg then -(q : Int) else (q : Int)), decide (t % 2 ^ 32 ≠ 0) || ine)

/-- A value converted to an integer tag (R53, last column). -/
def cvtToInt (t : ITag) (rm : Rm) (r : Nat) (a : FVal) : Nat × Fl :=
  match a with
  | .nan _ => (0, { nv := true })
  | .inf n => (wrapInt t.w (if n then intMin t else intMax t), { nv := true })
  | .fin n m e =>
    -- past 2^128 every integer tag is out of range: the power is not formed
    if m ≠ 0 ∧ (m.log2 : Int) + e > 128 then (wrapInt t.w (if n then intMin t else intMax t), { nv := true })
    else
      let (i, ine) := roundToInt rm r n m e
      if i < intMin t then (wrapInt t.w (intMin t), { nv := true })
      else if intMax t < i then (wrapInt t.w (intMax t), { nv := true })
      else (wrapInt t.w i, { nx := ine })

/-- A value converted to a floating format (R53, the float columns). -/
def cvtToFp (f : Fmt) (rm : Rm) (r : Nat) (sat : Bool) (a : FVal) : Nat × Fl :=
  match a with
  | .nan s => nanResult f { nv := s }
  | .inf n =>
    if n && f.s = 0 then (0, { nv := true })
    else if f.hasInf && !sat then infResult f n
    else (maxFiniteBits f n, { ofl := true })
  | .fin n m e =>
    if m = 0 then zeroResult f n
    else
      let (b, fl) := roundMag f rm r n (magDyadic m e)
      if sat && fl.ofl then (maxFiniteBits f n, fl) else (b, fl)

/-- rotl on 64 bits. -/
def rotl64 (v : BitVec 64) (k : Nat) : BitVec 64 := v.rotateLeft k
/-- One round of cmx (R49). -/
def cmxRound (key x : BitVec 64) (i : Nat) : BitVec 64 :=
  let y := (x ^^^ rotl64 key (16 * i)) * 0x9E3779B97F4A7C15#64
  y ^^^ (y >>> 32)
/-- cmx(K, C, n) (R49): the low 32 bits as a number. -/
def cmx (key c : BitVec 64) (n : Nat) : Nat :=
  let x := c ^^^ (BitVec.ofNat 64 n <<< 56) ^^^ key
  (cmxRound key (cmxRound key (cmxRound key (cmxRound key x 0) 1) 2) 3).toNat % 2 ^ 32

/-- One step of the Galois register (R62): the next state and the output bit. -/
def lfsrStep (s : BitVec 64) : BitVec 64 × Bool :=
  let out := s.getLsbD 0
  let t := s >>> 1
  (if out then t ^^^ 0xD800000000000000#64 else t, out)

/-- tree_sum (R55): pairs of neighbours are combined level by level; an absent place passes its partner on. -/
def treeLevel (op : Nat → Nat → Nat × Fl) : List (Option Nat) → List (Option Nat) × Fl
  | a :: b :: rest =>
    let (rs, fl) := treeLevel op rest
    match a, b with
    | some x, some y => let (z, g) := op x y; (some z :: rs, fl.or g)
    | some x, none => (some x :: rs, fl)
    | none, y => (y :: rs, fl)
  | [a] => ([a], {})
  | [] => ([], {})
/-- The levels of a tree, at most `fuel` of them. -/
def treeGo (op : Nat → Nat → Nat × Fl) : Nat → List (Option Nat) → Fl → Option Nat × Fl
  | 0, l, fl => (l.head?.join, fl)
  | fuel + 1, l, fl =>
    match l with
    | [] => (none, fl)
    | [a] => (a, fl)
    | _ => let (l', g) := treeLevel op l; treeGo op fuel l' (fl.or g)
/-- tree_sum over the present elements (R55): none when no place is present. A place without a partner on its level
is passed on, which is what R55's padding with absent places gives. -/
def treeFold (op : Nat → Nat → Nat × Fl) (l : List (Option Nat)) : Option Nat × Fl := treeGo op 20 l {}

end Sys2Proof.Machine
end

