-- ==== Sys2Proof/Machine/Types.lean ====
section
/-! DEFINITION. The data types of a control thread's state: element types, posted vector words, feeds, VP groups,
streams (spec chapters 03 to 11). -/
namespace Sys2Proof.Machine

/-- An element type a word captured at decode: an integer tag, a floating format with its container width, or a framed
kind (R37, R43, R92). `code` is the tag byte. -/
inductive Ty where
  | int (code : BitVec 8) (t : ITag)
  | fp (code : BitVec 8) (f : Fmt) (cw : Nat)
  | fpos
  | fdisp
  deriving DecidableEq, Repr

/-- Two-source elementwise operations, the three-operand forms, the widening and the narrowing ones (R75, R86). -/
inductive BinOp where
  | add | sub | mul | mulh | div | rem | min | max | and | or | xor | andn | shl | shr | sha
  | fma | fms | fnma | clamp | addSat | subSat | nshr
  deriving DecidableEq, Repr

/-- One-source elementwise operations (R75, R86, R87). -/
inductive UnOp where
  | abs | neg | mov | cvt | cvtSat | ncvt | sqrt | rcp | rsq | exp2 | log2
  deriving DecidableEq, Repr

/-- Comparison conditions (R88). -/
inductive CmpOp where
  | eq | ne | lt | le | gt | ge | un
  deriving DecidableEq, Repr

/-- Operations on predicates that post a word (R110). -/
inductive PredOp where
  | and | or | xor | andn | not | mov | brk
  deriving DecidableEq, Repr

/-- Predicate words that return a scalar (R112). -/
inductive PScalOp where
  | cnt | first | last
  deriving DecidableEq, Repr

/-- Atomic operations (R245, R251). -/
inductive AmoOp where
  | add | swap | and | or | xor | min | max | minu | maxu | cas
  deriving DecidableEq, Repr

/-- A second source: a vector group, or a scalar captured at decode (R68). -/
inductive VSrc where
  | vec (r : Nat)
  | sc (bits : Nat)
  deriving DecidableEq, Repr

/-- Addressing modes of the vector memory words (R154). -/
inductive VMode where
  | unit
  | strided (stride : Word)
  | indexed (r : Nat) (t : ITag)
  | seg (f : Nat)
  deriving DecidableEq, Repr

/-- Reductions (R181). -/
inductive RedOp where
  | sum | max | min
  deriving DecidableEq, Repr

/-- The rounding registers an operator of a feed captured (R45, R166). -/
structure Rnd where
  rm : Rm
  key : Word
  srn : Nat
  sbase : Word
  deriving DecidableEq, Repr

/-- A posted vector-class word with the operands, types and scalars it captured at decode (R24, R68). -/
inductive Vop where
  | bin (op : BinOp) (wide : Bool) (d : Nat) (rt : Ty) (a : Nat) (ta : Ty) (b : VSrc) (tb : Ty)
  | fbin (op : BinOp) (d : Nat) (a : Nat) (ta : Ty) (b : VSrc) (tb : Ty)
  | fneg (d a : Nat)
  | un (op : UnOp) (d : Nat) (rt : Ty) (a : Nat) (ta : Ty)
  | bits (d a : Nat) (w : Nat)
  | sel (d a : Nat) (b : VSrc) (w : Nat) (pg : Nat)
  | splat (d : Nat) (w : Nat) (v : Nat)
  | iota (d : Nat) (t : Ty) (i j : Int)
  | ext (sd : SReg) (a : Nat) (t : Ty) (idx : Word)
  | cmp (c : CmpOp) (pd : Nat) (a : Nat) (ta : Ty) (b : Nat) (tb : Ty)
  | cls (k : Nat) (pd : Nat) (a : Nat) (ta : Ty)
  | pred (op : PredOp) (pd pa pb : Nat)
  | pset (pd : Nat) (v : Bool)
  | pscal (op : PScalOp) (sd : SReg) (pa : Nat)
  | pld (pd : Nat) (addr : Word)
  | pst (pa : Nat) (addr : Word)
  | load (d : Nat) (w : Nat) (m : VMode) (base : Word) (ff : Bool)
  | store (d : Nat) (w : Nat) (m : VMode) (base : Word) (inOrder : Bool)
  | vamo (op : AmoOp) (d : Nat) (t : ITag) (i : Nat) (it : ITag) (base : Word)
  | perm (d a : Nat) (w : Nat) (b : VSrc) (wb : Nat)
  | slide (up : Bool) (d a : Nat) (w : Nat) (n : Word)
  | compr (d a : Nat) (w : Nat) (pg : Nat)
  | expnd (d a : Nat) (w : Nat) (pg : Nat)
  | red (op : RedOp) (sd : SReg) (a : Nat) (t : Ty)
  | scan (d : Nat) (a : Nat) (t : Ty) (sd : SReg) (init : Nat)
  | softmax (d a : Nat) (sd : SReg) (m s : Nat)
  | binz (n : Nat)
  | binacc (n : Nat) (bt : Nat) (a : Nat) (t : Ty)
  | binmac (n : Nat) (bt : Nat) (a : Nat) (b : VSrc) (t : Ty)
  | binfold (n : Nat) (bt : Nat) (sd : SReg)
  | mark (addr : Word)
  | fbind (d : Nat) (addr : Word) (fmt0 : Word)
  | fchain (d : Nat) (op : Nat) (par : Word) (t : Option Ty) (rd : Rnd)
  | funbind (d : Nat)
  | fstat (d : Nat) (sel : Nat) (sd : SReg)
  | fpcvt (d a : Nat) (pos : Bool) (tag : BitVec 32)
  | fplen2 (d a : Nat)
  | fpgtag (d a : Nat)
  | fpstag (d a : Nat) (b : VSrc)
  | mlds (t : Ty) (base stride : Word) (n k : Nat)
  | msow (code : BitVec 8) (f : Fmt) (rec : Word)
  | mswap
  | mmac (ac : Nat) (a : Nat) (ta tp : Ty) (i0 : Word) (rows : Option Nat) (m n k : Nat)
  | macz (ac : Nat)
  | macld (ac : Nat) (t : Ty) (base stride : Word) (m n : Nat)
  | macst (ac : Nat) (t : Ty) (base stride : Word) (m n : Nat)
  | macin (ac : Nat) (a : Nat) (t : Ty) (i0 : Word) (m n : Nat)
  | mseedgen (code : BitVec 8) (f : Fmt) (w : Nat) (rec dst : Word)
  | mseedscan (sd : SReg) (t : Ty) (tile first count : Word)
  | barMark (n upto : Nat)
  | pub (slot : Nat) (v : Word) (upto : Nat)
  | ship (id : Nat)
  | fence (vv : Bool) (upto : Nat)
  | vsave (addr : Word) (tags : List (BitVec 8)) (bts : List Nat) (sw m n k : Nat)
  | vrestore (addr : Word)
  | msave (addr : Word) (m n k : Nat) (act sha : BitVec 8 × Word)
  | mrestore (addr : Word)
  deriving DecidableEq, Repr



/-- Where an access lands: a scratch byte, a slot that no CT holds, a physical address under a memory type, or a byte of the
scratch image of a saved CT in its context area, `a` being the scratch byte that it stood at (R148, R233). -/
inductive Loc where
  | sram (a : Nat)
  | hole
  | phys (pa : Nat) (ty : Nat)
  | image (pa a : Nat)
  deriving DecidableEq, Repr

/-- A memory agent of a CT (R320): the scalar side of one of its streams, or its vector side. -/
inductive Side where
  | exec | access | vec
  deriving DecidableEq, Repr

/-- The write of a shape record (R284): its count, and, once the vector words posted before it have run, the number below which
the vector side's stores come before it. -/
structure Ship where
  vec : Option Nat
  count : Nat
  deriving DecidableEq, Repr

/-- A store that has been executed and not yet performed (R139, R158, R323): its side, its number among the CT's stores, whether
it is a release, which follows every older store of its side (R247), whether it is an SHPUB's, the place, and the n bytes, of which
it changes the bits of a mask (R38), or all, to those of x. Every agent reads it once it has been performed. -/
structure SbEnt where
  side : Side
  id : Nat
  rel : Bool
  ship : Option Ship
  loc : Loc
  n : Nat
  mask : Option Nat
  x : Nat
  deriving DecidableEq, Repr

/-- The stores of a CT that an ordering event has before it, side by side: those numbered below (R324). -/
structure Upto where
  ex : Nat
  ac : Nat
  vec : Nat
  deriving DecidableEq, Repr

/-- The moments (in steps) before which later loads take no value (R324): those of the scalar side of each stream, those of the
vector words still to be posted, and those of the vector words still to run. -/
structure Floors where
  ex : Nat
  ac : Nat
  post : Nat
  vec : Nat
  deriving DecidableEq, Repr

/-- What the entry of a queue carries for the pop (R128, R314): the number of the access stream's stores before it, and the
publishes of frames that the access stream's fences have put before it. -/
structure Stamp where
  upto : Nat
  frames : Nat
  deriving DecidableEq, Repr

/-- A watermark binding (R273). -/
structure WmBind where
  slot : Nat
  base : Word
  len : Word
  unit : Nat
  deriving DecidableEq, Repr

/-- One operator of a feed's chain (R166), with what it captured when it was appended. -/
inductive FeedOp where
  | expand
  | convert (t : Ty) (sat : Bool) (rd : Rnd)
  | scaleK (factor : Nat) (rd : Rnd)
  | scaleA (va : Word) (block : Nat) (rd : Rnd)
  | hinv (n : Nat) (rd : Rnd)
  deriving DecidableEq, Repr

/-- Why a feed stopped (R173): the ERR code, the position k, and the faulting address. -/
structure FeedErr where
  code : Nat
  k : Nat
  addr : Word
  deriving DecidableEq, Repr

/-- A feed bound to a register (R163 to R173): its pattern, its chain, its position in the sequence, and the finished
elements that the engine has queued ahead of the pops. -/
structure Feed where
  base : Word
  ndim : Nat
  ty : Ty
  count : List Nat
  stride : List Int
  chain : List FeedOp
  popped : Nat
  delivered : Bool
  /-- finished elements at the head of the queue that come before the pop position: after a restore the engine fetches from
  the start of a block or a run (R171) -/
  skip : Nat
  /-- finished elements not yet popped, with the flags they carry (R167) -/
  queue : List (Nat × Fl)
  /-- the addresses of the pack64 blocks from the one that holds the queue's first element on, and of the next block -/
  blks : List Word
  blkAddr : Word
  /-- the watermark bindings in force at its FBIND, under which its reads wait (R273) -/
  wmb : Vector (Option WmBind) 4
  err : Option FeedErr
  deriving DecidableEq, Repr

/-- A popped feed vector held with its word (R170): the register, the position of its first element, the elements with
the flags they carry; `live` is false after the VIQ has been saved, when only the position is kept, and `feed` is the
feed set back to that position, from which the engine fetches again (R171). -/
structure Popped where
  reg : Nat
  pos : Nat
  elems : List (Nat × Fl)
  live : Bool
  feed : Feed
  deriving DecidableEq, Repr

/-- A VIQ entry: the word, its place, and everything it captured at decode (R24, R43, R45, R68, R69). -/
structure Ventry where
  op : Vop
  word : IWord
  pc : Word
  /-- the member set of the VP group that posted it, when it was posted inside a block (R118) -/
  members : Option PReg
  vl : Nat
  vstart : Nat
  g : Nat
  rm : Rm
  xrm : Nat
  key : Word
  srn : Nat
  sbase : Word
  /-- the governing predicate, where the word has one that masks -/
  pg : Option Nat
  /-- reissued under fmask (R229) -/
  masked : Bool
  popped : List Popped
  /-- the flags of the elements it has completed before a stop or a wait: each contributes once (R51) -/
  fl : Fl
  /-- the watermark bindings in force at decode (R273) -/
  wmb : Vector (Option WmBind) 4
  /-- the moment before which it reads nothing, and the publishes of frames before which its conversions read none, as ordering
  events before its decode have set them (R324, R333) -/
  floor : Nat
  frames : Nat
  /-- the physical ranges that it has written before a stop or a wait: what one VIQ word stores clears the poison of a line that it
  covers in full (R318) -/
  wrote : List (Nat × Nat)
  deriving DecidableEq, Repr

/-- Convoy counts (R30). -/
structure Convoy where
  opened : Bool
  mem : Nat
  mat : Nat
  ring : Nat
  solo : Bool
  deriving DecidableEq, Repr

/-- What a VP group waits for (R119 to R121). -/
inductive GWait where
  | run
  | join (pc : Word)
  | end_ (pc : Word)
  | fetch (level : Nat)
  deriving DecidableEq, Repr

/-- A VP group (R116 to R122): its PC, members, level, the splits it descends from (innermost first), what it waits
for, its convoy counts. -/
structure Group where
  pc : Word
  members : PReg
  level : Nat
  path : List Nat
  wait : GWait
  conv : Convoy
  deriving DecidableEq, Repr

/-- The block state of a CT (R122): the live groups in ring order, the place of the group whose turn it is, the
open levels (each with the address of the VFETCH that opened it), and the numbers the next split and level take. -/
structure Block where
  ring : List Group
  cur : Nat
  levels : List (Nat × Word)
  nextId : Nat
  deriving DecidableEq, Repr

/-- A bin register (R184): its type code (0 when unset), 64 working and 64 committed slots. -/
structure Bin where
  ty : Nat
  work : Vector Word 64
  comm : Vector Word 64
  deriving DecidableEq, Repr

/-- A plane tag (R193): the tag byte, and the format register's value when the plane was written. -/
structure PlaneTag where
  code : BitVec 8
  fmt : Word
  deriving DecidableEq, Repr

/-- The matrix state of a CT (R193), but for the grants, which vtypeg holds. -/
structure Matrix where
  act : Plane
  sha : Plane
  actTag : PlaneTag
  shaTag : PlaneTag
  acc : Vector Acc 12
  deriving DecidableEq, Repr

/-- A suspended WAIT (R146): its destination, the watched line (a physical line or a scratch line, as a number), its
deadline, and the cause that has arrived. -/
structure WaitRec where
  sd : SReg
  line : Option Nat
  deadline : Option Word
  cause : Option Nat
  deriving DecidableEq, Repr

/-- The scalar state of a stream (R123): PC, s0 to s63, whether it has ended, and the WAIT it is suspended in. -/
structure Stream where
  pc : Word
  x : Vector Word 64
  halted : Bool
  wait : Option WaitRec
  deriving DecidableEq, Repr

/-- The system registers of group A (R131), shared by the streams of a CT. -/
structure SysA where
  frm : Nat
  vround : Nat
  fflags : BitVec 5
  vsat : Bool
  tomb : Bool
  vseed : Word
  vsrn : BitVec 8
  sbase : Word
  fmt : Vector Word 8
  deriving DecidableEq, Repr

/-- A fault record (R217). -/
structure FaultRec where
  time : Word
  code : Nat
  sub : Nat
  next : Bool
  more : Bool
  npg : Nat
  blk : Bool
  vec : Bool
  qtrap : Bool
  acc : Bool
  ctid : BitVec 10
  ctx : Nat
  pc : Word
  word : IWord
  index : BitVec 32
  info : Word
  pages : List Word
  deriving DecidableEq, Repr

end Sys2Proof.Machine
end

