-- ==== Sys2Proof/Machine/PkgState.lean ====
section
/-! DEFINITION. The data types of the state beyond one control thread: launches, plots, directory lines, the package's
tables and registers, the system cores, the fabric ports (spec chapters 13 to 23). -/
namespace Sys2Proof.Machine

/-- What CPYQ captured (R264): its record, with the target's format (register value) at that point. -/
structure Quant where
  src : Word
  dst : Word
  scl : Word
  trec : Word
  n : Nat
  stag : Nat
  dtag : BitVec 8
  logb : Nat
  rot : Nat
  fmt : Word
  deriving DecidableEq, Repr

/-- A piece of a copy that is still to do: bytes from a source to a destination address, a block of CPYQ, the tensor record of
CPYQ, or n bytes of x that it has read or computed and that one destination line has not taken yet. -/
inductive Piece where
  | bytes (src dst : Word) (n : Nat)
  | block (q : Quant) (i : Nat)
  | record (q : Quant)
  | put (dst : Word) (n x : Nat)
  deriving DecidableEq, Repr

/-- A copy of a CT (R261 to R265): its ticket, whether it has completed, the pieces still to do, each with its own number, and
those that a fault holds until the CT resumes; the fault (the page cause and the lowest address; the failed pages); the lines it
still claims. -/
structure Copy where
  ticket : Nat
  /-- its place in the order in which the machine's copies issued -/
  issue : Nat
  done : Bool
  err : Option (Nat × Word)
  pages : List Word
  todo : List (Nat × Piece)
  /-- lines claimed and not yet released; true for a destination line; and those of them on other modules (R379) -/
  claims : List (Nat × Bool)
  far : List Nat
  held : List (Nat × Piece)
  deriving DecidableEq, Repr

/-- A barrier's counts of one member (R253): A, W, the markers that have fired; and the marker that has left the VIQ and has not
fired, with the stores before it. -/
structure Barrier where
  a : Nat
  w : Nat
  fired : Nat
  pend : Option Upto
  deriving DecidableEq, Repr

/-- The bytes a provisional gang has stored (R280): the launch, the gang, the die, its masked bytes by physical
address. -/
structure ProvLines where
  launch : Nat
  gang : Nat
  die : Nat
  cells : List (Nat × BitVec 8)
  deriving DecidableEq, Repr

/-- What the memories held at an earlier moment (in steps), at which a later load of one side may have taken its value (R323):
main memory, scratch, provisional lines; the lines that were then a copy's destination; and the bytes (start, length) that the side
has accessed since, of which it reads no older value. -/
structure Look where
  side : Side
  time : Nat
  mem : List Host.Cell
  sram : List Host.Cell
  prov : List ProvLines
  claims : List Nat
  hit : List (Nat × Nat)
  deriving DecidableEq, Repr

/-- Where a CT stands: running in its slots, stopped by a fault, saved by a pre-emption, or ended (R215, R221, R222,
R129). -/
inductive CtStatus where
  | running | stopped | saved | ended
  deriving DecidableEq, Repr

/-- A control thread (R123): everything that belongs to it. -/
structure Ct where
  /-- ctid (R132) of the slot it holds or last held -/
  id : BitVec 10
  /-- lane groups of its core (R64) -/
  lg : Nat
  status : CtStatus
  ex : Stream
  ac : Stream
  dual : Bool
  aend : Bool
  q : Vector (List Word) 4
  bq : List Bool
  /-- what the entries of the queues carry for their pops (R128) -/
  qAt : Vector (List Stamp) 4
  bqAt : List Stamp
  a : SysA
  vl : Nat
  vsw : Nat
  g : Nat
  grantM : Nat
  grantN : Nat
  grantK : Nat
  vtype : Vector (BitVec 8) 32
  vstart : Nat
  fmask : PReg
  conv : Convoy
  v : Vector VReg 32
  p : Vector PReg 128
  bins : Vector Bin 8
  feeds : Vector (Option Feed) 16
  mark : Option (Word × Word)
  viq : List Ventry
  /-- the vector side lags: words stay posted until UOP_COMPLETE runs them (R69) -/
  hold : Bool
  /-- stores executed and not yet performed, oldest first, the number of the next one; and whether its stores are delayed so
  (R323) -/
  sbuf : List SbEnt
  sbn : Nat
  lag : Bool
  /-- earlier moments at which its loads may take their values, which of them the next loads take, one each (none: the present
  moment), and how far back they may reach (R323, R324) -/
  looks : List Look
  early : List (Option Nat)
  floors : Floors
  /-- the publishes of frames that fences have put before the words of the two streams (R333) -/
  frE : Nat
  frA : Nat
  blk : Option Block
  mx : Matrix
  /-- its vector state, its matrix state stand in the registers (R231, R232) -/
  vown : Bool
  mown : Bool
  gang : Nat
  size : Nat
  rank : Nat
  launch : Nat
  plot : Nat
  aspace : Nat
  ctx : Nat
  scratch : Nat
  copies : List Copy
  ticket : Nat
  wmb : Vector (Option WmBind) 4
  bar : Vector Barrier 4
  /-- WDQRY queries posted and not yet answered: the answer addresses, oldest first (R271) -/
  wdq : List Word
  /-- provisional (R279), and stalled under R280 or R281 (R283) -/
  prov : Bool
  stalled : Bool
  /-- the fault record of the stop, and whether it has been posted (R219, R282) -/
  frec : Option FaultRec
  posted : Bool
  /-- the resume point is past the faulting word (R145) -/
  next : Bool
  deriving DecidableEq, Repr

/-- One register set of a system core's traps (R342): x or f. -/
structure TrapSet where
  pie : Bool
  ie : Bool
  ppl : Nat
  vec : Word
  pc : Word
  cause : Word
  info : Word
  deriving DecidableEq, Repr

/-- A system core (R341 to R344). -/
structure SysCore where
  st : Stream
  a : SysA
  pl : Nat
  xs : TrapSet
  fs : TrapSet
  xroot : Word
  xtimecmp : Word
  xscratch : Word
  /-- pending interrupt sources 0x80 to 0x84; the timer's is a function of device time -/
  irq : BitVec 5
  /-- waiting in HALT (R343) -/
  waiting : Bool
  deriving DecidableEq, Repr

/-- A plot (R303, R346), and what the model keeps of it. -/
structure Plot where
  id : Nat
  clusters : BitVec 32
  ways : BitVec 16
  memory : BitVec 32
  engines : BitVec 48
  wmFirst : Nat
  wmCount : Nat
  predFirst : Nat
  predCount : Nat
  trellis : Nat
  tsz : Nat
  trellisVa : Word
  reserve : Nat
  rframes : Nat
  supq : Nat
  roots : Nat
  ctxBase : Nat
  ctxCount : Nat
  /-- frames of the reserve in use -/
  used : List Nat
  /-- context areas allotted -/
  areas : List Nat
  /-- the trellis sequence number (R307) -/
  seq : Nat
  deriving DecidableEq, Repr

/-- The speculative part of a launch (R274 to R289). -/
structure Spec where
  pred : Nat
  floor : Nat
  ceil : Nat
  /-- physical address of the shape record it is bound to -/
  shape : Nat
  n : Nat
  /-- the true count, once the launch is decided -/
  count : Option Nat
  /-- provisional gangs whose commit is still to be performed, and those committed (R285) -/
  toCommit : List Nat
  committed : List Nat
  /-- provisional gangs that the coordinator has pre-empted (R283) -/
  parked : List Nat
  deriving DecidableEq, Repr

/-- What a launch descriptor holds (R267, R274), its addresses resolved; `spec` when it runs as LSPEC does. -/
structure Desc where
  resident : Bool
  cls : Nat
  gsize : Nat
  scratch : Nat
  aspace : Nat
  ngang : Nat
  exec : Word
  acc : Word
  argsAt : Word
  done : Word
  gx : Nat
  gy : Nat
  pred : Nat
  hint : Nat
  floor : Nat
  ceil : Nat
  shape : Word
  deriving DecidableEq, Repr

/-- A launch (R267 to R270, R287): its captured descriptor and arguments, its gangs still to dispense, its counters. -/
structure Launch where
  id : Nat
  plot : Nat
  /-- the launch queue: p for the device queue of plot p, 8 + q for host queue q -/
  queue : Nat
  d : Desc
  args : Vector Word 10
  spec : Option Spec
  /-- gangs still to dispense, in order; and those of its graft (R287), which go first -/
  todo : List Nat
  graft : List Nat
  /-- gangs recorded complete (R349) -/
  halted : List Nat
  /-- gangs all of whose CTs have halted while their distributor's firmware core stood halted: gang and die -/
  unrec : List (Nat × Nat)
  /-- next tile index (R271) -/
  tile : Nat
  /-- class rises by age promotion (R270) -/
  age : Nat
  /-- device time at which it last placed a gang or rose -/
  last : Word
  /-- 0 running, 1 complete, 2 abandoned -/
  fin : Nat
  /-- a gang of it was abandoned by a rebuild (R348), by system software (R345) -/
  indet : Bool
  aband : Bool
  /-- gangs that had halted when system software abandoned a gang of it (R269, R345); it has been abandoned whole, its record
  still to be written; the die whose distributor saw its last gang end (R365) -/
  counted : Option Nat
  closed : Bool
  die : Option Nat
  /-- the graph run and the entry it comes from (R358) -/
  run : Option (Nat × Nat)
  deriving DecidableEq, Repr

/-- A publication of a watermark that is not yet visible (R272): slot, value, and the CT (by its key) with the stores that are
performed first. -/
structure Pub where
  slot : Nat
  val : Word
  key : Nat
  upto : Upto
  deriving DecidableEq, Repr

/-- A page that ALLOCR mapped (R291): its virtual address, its frame, and while the gang that asked for it is provisional,
that gang (launch and index), which alone the mapping serves. -/
structure PoolPage where
  va : Word
  frame : Nat
  owner : Option (Nat × Nat)
  deriving DecidableEq, Repr

/-- Pages that ALLOCR holds at a position of a pool (R291), oldest first. -/
structure PoolPos where
  plot : Nat
  aspace : Nat
  pool : Word
  pos : Nat
  pages : List PoolPage
  deriving DecidableEq, Repr

/-- An entry of a core's chain cache (R316): a chain of a plot, as the nodes that the core read for it (index, 64 bytes, with the
node's VERSION among them), and the plot's trellis sequence number at that time. -/
structure ChainEnt where
  core : Nat
  plot : Nat
  nodes : List (Nat × Nat)
  seq : Nat
  deriving DecidableEq, Repr

/-- A node as it stood before a publish (R306, R307): plot, index, its 64 bytes, and the number of the publish that replaced it. -/
structure OldNode where
  plot : Nat
  idx : Nat
  node : Nat
  upto : Nat
  deriving DecidableEq, Repr

/-- A cached translation (R153, R228): the core and the lane group whose slice holds it, plot, address space, 64 KiB page
number, the leaf. -/
structure TlbEnt where
  core : Nat
  slice : Nat
  plot : Nat
  aspace : Nat
  page : Nat
  leaf : Word
  deriving DecidableEq, Repr

/-- A core's configuration (R64, R148): enabled lane groups, and the scratch bytes of slots 0 and 1. -/
structure CoreCfg where
  lg : Nat
  ss0 : Nat
  ss1 : Nat
  deriving DecidableEq, Repr

/-- A line's directory entry (R257): the owner (agent number; 0 M, 1 E, 2 O), the other sharers. Agents: L1 of core k is
k, copy engine k is 256 + k, the cache of system core k is 304 + k. -/
structure DirLine where
  line : Nat
  owner : Option (Nat × Nat)
  sharers : List Nat
  deriving DecidableEq, Repr

/-- A page in transit (R260): its plot, its old and new physical page, the lines copied, and the ring entry of its
MIGRATE while that is in progress. -/
structure Migr where
  plot : Nat
  old : Nat
  new : Nat
  lines : Nat
  entry : Option Nat
  deriving DecidableEq, Repr

/-- What is asked of a place beyond main memory: a read, a write, an atomic with its operands, one indivisible change of the bits of
a mask (R38, R245), or that a copy's lines be claimed, or released (R379). -/
inductive ReqOp where
  | read
  | write (x : Nat)
  | amo (op : AmoOp) (b d : Nat)
  | merge (mask v : Nat)
  | claim (dst : Bool)
  | release
  deriving DecidableEq, Repr

/-- How a request beyond the module was answered (R376): a value, a refusal, no response. -/
inductive Ans where
  | val (x : Nat)
  | refused
  | failed
  deriving DecidableEq, Repr

/-- A request beyond the module (R367, R375): who asks, the physical address, the bytes, and the answer. -/
structure Req where
  key : Nat
  pa : Nat
  n : Nat
  op : ReqOp
  ans : Option Ans
  deriving DecidableEq, Repr

/-- The package error log's registers (R365). -/
structure Log where
  base : Word
  logn : Nat
  head : Word
  tail : Word
  lost : Word
  deriving DecidableEq, Repr

/-- A firmware core (R347, R348): halted by ECC, leader of the package, and the lease word it last wrote. -/
structure FwCore where
  halted : Bool
  leader : Bool
  seen : Word
  deriving DecidableEq, Repr

/-- A record that a queue has still to write: a packet's at a virtual address, that of its stop at a physical one. -/
inductive QWrite where
  | result (a : Word) (n x : Nat)
  | error (a n x : Nat)
  deriving DecidableEq, Repr

/-- A host command queue (R350 to R354): its descriptor, the next packet index, the time of the first read of a packet whose
stamp had not arrived, and a record that it has still to write. -/
structure HostQ where
  q : Nat
  base : Nat
  logn : Nat
  plot : Nat
  cls : Nat
  ver : Nat
  opmask : Nat
  aspace : Nat
  err : Word
  ranges : List Nat
  next : Nat
  first : Option Word
  running : Bool
  pend : Option QWrite
  deriving DecidableEq, Repr

/-- An address window for host queues (R351). -/
structure AddrWin where
  plot : Nat
  idx : Nat
  access : Nat
  aspace : Nat
  size : Nat
  base : Nat
  deriving DecidableEq, Repr

/-- An inbound fabric grant (R376, R377). -/
structure Grant where
  idx : Nat
  srcFid : Nat
  srcPlot : Nat
  plot : Nat
  access : Nat
  size : Nat
  base : Nat
  deriving DecidableEq, Repr

/-- A host window table entry (R368). -/
structure HostWin where
  idx : Nat
  access : Nat
  size : Nat
  off : Nat
  pa : Nat
  deriving DecidableEq, Repr

/-- A loaded graph package (R355 to R358): its handle, its launches with their arguments' addresses, its dependences, the
pages of its extent, the digest of the package. -/
structure Graph where
  handle : Nat
  plot : Nat
  aspace : Nat
  launches : List Desc
  deps : List (Nat × Nat)
  pages : List (Word × Nat)
  digest : Nat
  deriving DecidableEq, Repr

/-- Where a launch of a graph run stands: not issued, issued under an id, ended with a status. -/
inductive RunSt where
  | waiting
  | issued (launch : Nat)
  | ended (status : Nat)
  deriving DecidableEq, Repr

/-- A run of a graph (R358): its number, the graph, the queue, the address space, the completion record, its launches, the die whose
distributor ended the last of them. -/
structure Run where
  id : Nat
  handle : Nat
  plot : Nat
  queue : Nat
  aspace : Nat
  done : Word
  sts : List RunSt
  die : Option Nat
  deriving DecidableEq, Repr

/-- A flit (R369). -/
abbrev Flit := BitVec 2048

/-- A flit sent and not yet acknowledged (R370): SEQ, VC, destination, the request it carries, its 256 bytes. -/
structure Sent where
  seq : BitVec 16
  vc : Nat
  dest : Nat
  key : Nat
  flit : Flit
  deriving DecidableEq, Repr

/-- A request from outside the module that waits for a copy's claim (R261, R367, R378): the host's or that of a fabric id, the
physical address, the bytes, what it asks. -/
structure Inbound where
  src : Option Nat
  pa : Nat
  n : Nat
  op : ReqOp
  deriving DecidableEq, Repr

/-- A line of this module that a copy of another module claims (R379): its fabric id, the line, whether it is a destination
line. -/
structure FarClaim where
  src : Nat
  line : Nat
  dst : Bool
  deriving DecidableEq, Repr

/-- A data flit that waits for room in its port's retry buffer, or for its virtual channel (R370, R371): destination, VC, the request
it carries, what its payload says. -/
structure Unsent where
  dest : Nat
  vc : Nat
  key : Nat
  what : List Nat
  deriving DecidableEq, Repr

/-- A Yalvar Link port (R369 to R373): up or down, the minor version in use, the usable lanes, the next SEQ to send and to receive,
the retry buffer, the place of its last replay, the paused virtual channels, the times of failed retrainings, the payloads delivered
(VC, source, bytes), the SEQ that it has asked for in a NAK, the partner's fabric id, the flits of its last transmission, and the
control flits (type, payload) that wait for room in the retry buffer. -/
structure Port where
  up : Bool
  minor : Nat
  lanes : BitVec 8
  tx : BitVec 16
  rx : BitVec 16
  retry : List Sent
  replay : Option (BitVec 16)
  paused : BitVec 8
  fails : List Word
  inbox : List (Nat × Nat × BitVec 1920)
  nak : Option (BitVec 16)
  partner : Nat
  out : List Flit
  due : List (Nat × BitVec 1920)
  deriving DecidableEq, Repr

/-- The time synchronisation of a module (R382): locked, locked once, since when the offset has been within bounds, the bound, the
nanoseconds by which its time has still to move forward, and to fall back. -/
structure Sync where
  lock : Bool
  once : Bool
  since : Option Word
  err : BitVec 32
  fwd : Nat
  back : Nat
  deriving DecidableEq, Repr

/-- What boot leaves (R359, R360): whether the module has left reset, the boot status register, the fuse counter and key
digests, and of the running manifest: its security version, image digests, package keys, firmware region. The numbers to which the
supervisor will ask the fuse counter to rise come from outside, as `State.events` do (log 28). -/
structure BootSt where
  booted : Bool
  status : Word
  fuse : Nat
  keyDigests : Nat × Nat
  secver : Nat
  digests : List Nat
  pkgKeys : Nat × Nat
  region : Nat × Nat
  raises : List Nat
  deriving DecidableEq, Repr

/-- The last response of the attestation mailbox (R361): none, the response of a message whose contents DMTF gives, or the G1
report: nonce, TIME, fuse counter, digests, the two signatures. -/
inductive Doe where
  | none
  | other (msg : Nat) (x : Word)
  | report (nonce : Nat) (time : Word) (fuse : Nat) (digests : List Nat) (ed ml : Nat)
  deriving DecidableEq, Repr

/-- The last answer to the host or to a remote module (R367, R376). -/
inductive Out where
  | none
  | val (x : Nat)
  | unsupported
  | poison
  | dropped
  | refused
  deriving DecidableEq, Repr

/-- The package's tables beyond the cores. -/
structure Pkg where
  /-- enabled channels of the sixteen stacks (R302, R363) -/
  chan : List (BitVec 16)
  plots : List Plot
  /-- poisoned lines with the unit that found them: 0 stack, 1 L2 slice, 2 + 4 * k the SRAM of core k (R318, R319); and those
  whose first detection has been posted -/
  poison : List (Nat × Nat)
  seen : List Nat
  /-- correctable errors counted per unit (R318) -/
  corrected : List (Nat × Nat)
  launches : List Launch
  nextLaunch : Nat
  /-- watermark slots that are not 0 (R272), and publications not yet visible, oldest first -/
  wm : List (Nat × Word)
  wmPend : List Pub
  /-- shape records written whose decision is about to be taken: place and count, oldest first (R284) -/
  shPend : List (Nat × Nat)
  /-- predictor entries with history, oldest first (R275) -/
  pred : List (Nat × List Nat)
  prov : List ProvLines
  pools : List PoolPos
  tlb : List TlbEnt
  /-- core configurations, by core number (die * 64 + cluster * 8 + core) -/
  cores : List (Nat × CoreCfg)
  dir : List DirLine
  migr : List Migr
  /-- publishes of nodes so far, and the nodes that they have replaced, which a conversion may still read (R100, R333) -/
  pubs : Nat
  oldNodes : List OldNode
  /-- invalidations that chain caches have not yet acknowledged: core, plot, node (R307, R314) -/
  acks : List (Nat × Nat × Nat)
  /-- cores in retention sleep, with the plots' trellis sequence numbers when they fell asleep or were last flushed (R317) -/
  asleep : List (Nat × List (Nat × Nat))
  /-- the chain caches' entries, of each core the oldest first (R316) -/
  chain : List ChainEnt
  /-- the queue of a plot that placed last in a class (R270): plot, class, queue; the die of a plot that placed last -/
  lastQueue : List (Nat × Nat × Nat)
  lastDie : List (Nat × Nat)
  /-- launches with a graft, the latest first (R287) -/
  grafts : List Nat
  /-- ranges of the host window that CXL.mem backs: start and length (R301) -/
  cxl : List (Nat × Nat)
  reqs : List Req
  /-- copies issued so far -/
  copySeq : Nat
  /-- ring entries performed by the coordinator, and the doorbell (R345) -/
  ring : Nat
  doorbell : Word
  log : Log
  fw : Vector FwCore 5
  /-- the firmware core that serves the distributor of compute die d (R348) -/
  dist : Vector Nat 4
  queues : List HostQ
  kick : Vector Word 64
  wins : List AddrWin
  grants : List Grant
  hostWins : List HostWin
  graphs : List Graph
  runs : List Run
  nextRun : Nat
  boot : BootSt
  /-- the boot flash, byte by byte; an unlisted byte is 0 (R1, R359) -/
  flash : List (Nat × BitVec 8)
  doe : Doe
  hostOut : Out
  remoteOut : Out
  /-- requests from outside that wait, oldest first; lines that other modules' copies claim -/
  inbound : List Inbound
  farClaims : List FarClaim
  /-- data flits that wait, oldest first -/
  unsent : List Unsent
  /-- last temperatures read, in 0.01 degrees: die * 16 + sensor; and the dies' clocks in MHz (R362) -/
  temps : List (Nat × Int)
  clock : Vector Nat 5
  ports : Vector Port 12
  /-- this module's number on the fabric, 0 before one is set (R374) -/
  fid : Nat
  tmaster : Bool
  route : Vector (BitVec 4) 32
  sync : Sync
  deriving DecidableEq, Repr

end Sys2Proof.Machine
end

