-- ==== Sys2Proof/Machine/State.lean ====
section
/-! DEFINITION. The state of the machine, its faults and refusals, and the state after reset. -/
namespace Sys2Proof.Machine

/-- A byte memory: (address, byte) pairs in one canonical form (addresses strictly rising, no entry equal to what an
unlisted address reads as). -/
abbrev Memory := List Host.Cell

/-- What a byte that nothing has written reads as (assumption 1). -/
def fillByte : BitVec 8 := 0#8

/-- The agent that moves next: a stream of the CT in focus, or a system core. -/
inductive Who where
  | exec
  | access
  | sys (n : Nat)
  deriving DecidableEq, Repr

/-- A turn that the outside schedules: a stream of the CT that holds a slot, or a system core; or, with the agent in focus
staying in focus, that a CT's stores are delayed or no longer so, that one of its delayed stores is performed, that a moment is kept
at which a side's later loads may take their values, which of these the CT's next loads take (R323), and that its core takes the
chain of a frame tag into its chain cache (R316). -/
inductive Turn where
  | exec (id : BitVec 10)
  | access (id : BitVec 10)
  | sys (n : Nat)
  | lag (id : BitVec 10) (on : Bool)
  | perform (id : BitVec 10) (k : Nat)
  | look (id : BitVec 10) (side : Side)
  | early (id : BitVec 10) (l : List (Option Nat))
  | fill (id : BitVec 10) (tag : Nat)
  deriving DecidableEq, Repr

/-- Why the machine stops for good. -/
inductive Fault where
  /-- Raised by step after a temperature or rail shutdown has removed the module's power (R362): nothing runs. Safe: the
  hardware stops too. -/
  | powerOff
  deriving DecidableEq, Repr

/-- Why a step has no meaning. -/
inductive Refusal where
  /-- Raised by an arm of exec whose instruction has no meaning yet. Safe: nothing is claimed of it. -/
  | notModelled (mnemonic : String)
  deriving DecidableEq, Repr

/-- The machine's state: the agent in focus, its CT, the other CTs, the system cores, the memories, the package. -/
structure State where
  who : Who
  /-- the word the agent in focus is executing, as its fetch read it -/
  ir : IWord
  ct : Ct
  others : List Ct
  sys : Vector SysCore 16
  /-- main memory and hub SRAM by physical address -/
  mem : Memory
  /-- core scratch, at (core * 2 + slot) * 2 MiB + offset -/
  sram : Memory
  pkg : Pkg
  /-- device time (R132) -/
  time : Word
  /-- events that the outside or another agent has brought and that the next steps take, first one first -/
  events : List Instr
  /-- the agents that move after the present one, as the outside schedules them -/
  plan : List Turn
  /-- steps taken: the argument of the free value of elapsed time -/
  ticks : Nat
  /-- open values drawn so far: the argument of the free values -/
  draws : Nat
  powered : Bool
  deriving DecidableEq, Repr

abbrev Res := Host.Outcome State Fault Refusal

def Stream.zero : Stream := ⟨0, Vector.replicate 64 0, false, none⟩

/-- fmt0 to fmt7 at reset (R42). -/
def fmtReset : Vector Word 8 := #v[0x01070341, 0x000F0251, 0x02010121, 0, 0, 0, 0, 0]

/-- Group A of the system registers at reset (R45, R50, R99, R132). -/
def SysA.zero : SysA := ⟨0, 0, 0, false, false, 0, 0, 0, fmtReset⟩

def Convoy.clear : Convoy := ⟨false, 0, 0, 0, false⟩
def Bin.zero : Bin := ⟨0, Vector.replicate 64 0, Vector.replicate 64 0⟩
def PlaneTag.none_ : PlaneTag := ⟨0, 0⟩
/-- The matrix state at CT start (R193). -/
def Matrix.zero : Matrix :=
  ⟨0, 0, .none_, .none_, Vector.replicate 12 0⟩

/-- A CT at its start (R124), before a launch has set its place and its arguments: every register at the reset value of
its map (R22, R45, R50, R65, R108, R132, R184, R193). -/
def Ct.fresh : Ct where
  id := 0
  lg := 8
  status := .ended
  ex := .zero
  ac := .zero
  dual := false
  aend := true
  q := Vector.replicate 4 []
  bq := []
  qAt := Vector.replicate 4 []
  bqAt := []
  a := .zero
  vl := 0
  vsw := 8
  g := 0
  grantM := 0
  grantN := 0
  grantK := 0
  vtype := Vector.replicate 32 0
  vstart := 0
  fmask := 0
  conv := .clear
  v := Vector.replicate 32 0
  p := Vector.replicate 128 0
  bins := Vector.replicate 8 .zero
  feeds := Vector.replicate 16 none
  mark := none
  viq := []
  hold := false
  sbuf := []
  sbn := 0
  lag := false
  looks := []
  early := []
  floors := ⟨0, 0, 0, 0⟩
  frE := 0
  frA := 0
  blk := none
  mx := .zero
  vown := true
  mown := true
  gang := 0
  size := 1
  rank := 0
  launch := 0
  plot := 0
  aspace := 0
  ctx := 0
  scratch := 0
  copies := []
  ticket := 0
  wmb := Vector.replicate 4 none
  bar := Vector.replicate 4 ⟨0, 0, 0, none⟩
  wdq := []
  prov := false
  stalled := false
  frec := none
  posted := false
  next := false

/-- A trap register set at reset (R342). -/
def TrapSet.zero : TrapSet := ⟨false, false, 0, 0, 0, 0, 0⟩
/-- A system core at reset (R342): level 2, every other register zero, not started (R359). -/
def SysCore.zero : SysCore := ⟨{ Stream.zero with halted := true }, .zero, 2, .zero, .zero, 0, 0, 0, 0, false⟩

/-- The log registers at reset (R365). -/
def Log.zero : Log := ⟨0, 6, 0, 0, 0⟩
/-- A port before training: down, every lane usable. -/
def Port.zero : Port := ⟨false, 0, 0xFF, 0, 0, [], none, 0, [], [], none, 0, [], []⟩
/-- Boot has not run. -/
def BootSt.zero : BootSt := ⟨false, 0, 0, (0, 0), 0, [], (0, 0), (0, 0), []⟩

/-- The package at reset: sixteen whole stacks, no plot, no launch, an empty flash. -/
def Pkg.zero : Pkg where
  chan := List.replicate 16 0xFFFF
  plots := []
  poison := []
  seen := []
  corrected := []
  launches := []
  nextLaunch := 1
  wm := []
  wmPend := []
  shPend := []
  pred := []
  prov := []
  pools := []
  tlb := []
  cores := []
  dir := []
  migr := []
  pubs := 0
  oldNodes := []
  acks := []
  asleep := []
  chain := []
  lastQueue := []
  lastDie := []
  grafts := []
  cxl := []
  reqs := []
  copySeq := 0
  ring := 0
  doorbell := 0
  log := .zero
  fw := Vector.replicate 5 ⟨false, false, 0⟩
  dist := #v[0, 1, 2, 3]
  queues := []
  kick := Vector.replicate 64 0
  wins := []
  grants := []
  hostWins := []
  graphs := []
  runs := []
  nextRun := 1
  boot := .zero
  flash := []
  doe := .none
  hostOut := .none
  remoteOut := .none
  inbound := []
  farClaims := []
  unsent := []
  temps := []
  clock := #v[1200, 1200, 1200, 1200, 3000]
  ports := Vector.replicate 12 .zero
  fid := 0
  tmaster := false
  route := Vector.replicate 32 0xF
  sync := ⟨false, false, none, 0xFFFFFFFF, 0, 0⟩

/-- The machine right after reset. -/
def State.reset : State where
  who := .sys 0
  ir := 0
  ct := .fresh
  others := []
  sys := Vector.replicate 16 .zero
  mem := []
  sram := []
  pkg := .zero
  time := 0
  events := []
  plan := []
  ticks := 0
  draws := 0
  powered := true

end Sys2Proof.Machine
end

