-- ==== Sys2Proof/Machine/Ops.lean ====
section
/-! DEFINITION. The named operations: bytes of memory, the registers of the agent in focus, windows and translation, the
loads and stores every meaning uses, and taking an exception: a trap of a system core (R343) or the stop of a CT (R215). -/
namespace Sys2Proof.Machine

/-! ### Byte memories -/

/-- One byte. -/
def Memory.read : Memory → Nat → BitVec 8
  | [], _ => fillByte
  | (b, v) :: rest, a => if b = a then v else Memory.read rest a

/-- A cell put in its place by address. -/
def Memory.insertCell (a : Nat) (v : BitVec 8) : Memory → Memory
  | [] => [(a, v)]
  | (b, w) :: rest => if a < b then (a, v) :: (b, w) :: rest else (b, w) :: Memory.insertCell a v rest

/-- The cells of other addresses. -/
def Memory.erase (m : Memory) (a : Nat) : Memory := m.filter (fun c => c.1 != a)

/-- A write of one byte: writing what an unlisted address reads as removes the entry. -/
def Memory.write (m : Memory) (a : Nat) (v : BitVec 8) : Memory :=
  if v = fillByte then m.erase a else Memory.insertCell a v (m.erase a)

/-- The canonical form: addresses strictly rising, no entry equal to the fill byte. -/
def Memory.wf : Memory → Bool
  | [] => true
  | [c] => c.2 != fillByte
  | c :: d :: rest => (c.2 != fillByte) && decide (c.1 < d.1) && Memory.wf (d :: rest)

/-- `n` bytes from `a`, little-endian (R5). -/
def Memory.readN (m : Memory) (a : Nat) : Nat → Nat
  | 0 => 0
  | n + 1 => (m.read a).toNat + 256 * Memory.readN m (a + 1) n

/-- The low `n` bytes of `v` at `a`, little-endian. -/
def Memory.writeN (m : Memory) (a : Nat) : Nat → Nat → Memory
  | 0, _ => m
  | n + 1, v => Memory.writeN (m.write a (BitVec.ofNat 8 v)) (a + 1) n (v / 256)

/-! ### The agent in focus -/

/-- A system core by number. -/
def State.sysCore (s : State) (n : Nat) : SysCore := s.sys.toList.getD n .zero
def State.setSys (s : State) (n : Nat) (c : SysCore) : State :=
  { s with sys := s.sys.setIfInBounds n c }

/-- The stream in focus. -/
def State.cur (s : State) : Stream :=
  match s.who with
  | .exec => s.ct.ex
  | .access => s.ct.ac
  | .sys n => (s.sysCore n).st
def State.setCur (s : State) (t : Stream) : State :=
  match s.who with
  | .exec => { s with ct := { s.ct with ex := t } }
  | .access => { s with ct := { s.ct with ac := t } }
  | .sys n => s.setSys n { s.sysCore n with st := t }

/-- A scalar register; s0 reads zero (R124). -/
def Stream.rd (t : Stream) (r : SReg) : Word := if r = 0 then 0 else t.x[r.toNat]
/-- A write of a scalar register; one of s0 is discarded (R124). -/
def Stream.wr (t : Stream) (r : SReg) (v : Word) : Stream :=
  if r = 0 then t else { t with x := t.x.set r.toNat v }

def State.rd (s : State) (r : SReg) : Word := s.cur.rd r
def State.wr (s : State) (r : SReg) (v : Word) : State := s.setCur (s.cur.wr r v)

/-- The group whose turn it is, where the execute stream is inside a VP block (R114). -/
def Ct.curGroup (c : Ct) : Option Group :=
  match c.blk with
  | none => none
  | some b => b.ring[b.cur]?
def Ct.setGroup (c : Ct) (g : Group) : Ct :=
  match c.blk with
  | none => c
  | some b => { c with blk := some { b with ring := b.ring.set b.cur g } }

/-- The group that the agent in focus runs: inside a block, the execute stream decodes the words of a VP group. -/
def State.group (s : State) : Option Group :=
  match s.who with
  | .exec => s.ct.curGroup
  | _ => none

/-- The address of the word being executed. -/
def State.pc (s : State) : Word :=
  match s.group with
  | some g => g.pc
  | none => s.cur.pc
/-- Moves the agent in focus to an address. -/
def State.jump (s : State) (a : Word) : State :=
  match s.group with
  | some g => { s with ct := s.ct.setGroup { g with pc := a } }
  | none => s.setCur { s.cur with pc := a }
/-- Moves past the word (R8). -/
def State.advance (s : State) : State := s.jump (s.pc + 4)

/-- Group A of the system registers of the agent in focus (R131). -/
def State.sysA (s : State) : SysA :=
  match s.who with
  | .sys n => (s.sysCore n).a
  | _ => s.ct.a
def State.setSysA (s : State) (a : SysA) : State :=
  match s.who with
  | .sys n => s.setSys n { s.sysCore n with a := a }
  | _ => { s with ct := { s.ct with a := a } }

/-- Flags are ORed (R52). -/
def SysA.flag (a : SysA) (f : Fl) : SysA :=
  { a with fflags := a.fflags ||| f.fflags, vsat := a.vsat || f.sat, tomb := a.tomb || f.tomb }

def State.isSys (s : State) : Bool :=
  match s.who with
  | .sys _ => true
  | _ => false

/-! ### Places -/

/-- The number of the core of a ctid: die * 64 + cluster * 8 + core (R132). -/
def coreOf (id : BitVec 10) : Nat := id.toNat / 4
def slotOf (id : BitVec 10) : Nat := id.toNat % 2
def clusterOf (id : BitVec 10) : Nat := id.toNat / 32
def dieOf (id : BitVec 10) : Nat := id.toNat / 256
/-- The ctid of a core and slot. -/
def ctidOf (core slot : Nat) : BitVec 10 := BitVec.ofNat 10 (core * 4 + slot)

/-- A core's configuration; a core that none has configured is whole and has no scratch (assumption 4). -/
def State.coreCfg (s : State) (core : Nat) : CoreCfg :=
  match s.pkg.cores.find? (fun p => p.1 = core) with
  | some p => p.2
  | none => ⟨8, 0, 0⟩
/-- SS of a slot (R148). -/
def State.ssOf (s : State) (core slot : Nat) : Nat :=
  if slot = 0 then (s.coreCfg core).ss0 else (s.coreCfg core).ss1

/-- Every CT of the package. -/
def State.cts (s : State) : List Ct := s.ct :: s.others
/-- A CT holds its slot while it runs or stands stopped (R242). -/
def Ct.inSlot (c : Ct) : Bool := c.status = .running || c.status = .stopped
def State.slotHeld (s : State) (id : BitVec 10) : Bool := s.cts.any (fun c => c.inSlot && c.id = id)

/-- Applies a change to the CT of a ctid that holds its slot. -/
def State.onCt (s : State) (id : BitVec 10) (f : Ct → Ct) : State :=
  { s with ct := if s.ct.inSlot && s.ct.id = id then f s.ct else s.ct,
           others := s.others.map (fun c => if c.inSlot && c.id = id then f c else c) }
def State.ctOf (s : State) (id : BitVec 10) : Option Ct := s.cts.find? (fun c => c.inSlot && c.id = id)

def State.plotOf (s : State) (p : Nat) : Option Plot := s.pkg.plots.find? (fun q => q.id = p)
def State.setPlot (s : State) (p : Plot) : State :=
  { s with pkg := { s.pkg with plots := s.pkg.plots.map (fun q => if q.id = p.id then p else q) } }
def State.launchOf (s : State) (id : Nat) : Option Launch := s.pkg.launches.find? (fun l => l.id = id)
def State.setLaunch (s : State) (l : Launch) : State :=
  { s with pkg := { s.pkg with launches := s.pkg.launches.map (fun k => if k.id = l.id then l else k) } }

/-- An operation of a CT, the first that meets a condition: it acts with that CT in focus, and the turn stays where it was. -/
def State.withCt (s : State) (p : Ct → Bool) (f : State → State) : State :=
  if p s.ct then { f { s with who := .exec } with who := s.who }
  else match s.others.find? p with
    | none => s
    | some c =>
      let t := f { s with who := .exec, ct := c, others := s.ct :: s.others.eraseP p }
      match t.others with
      | [] => t
      | d :: rest => { t with who := s.who, ct := d, others := t.ct :: rest }
/-- An operation of the CT that holds a slot. -/
def State.onFocus (s : State) (id : BitVec 10) (f : State → State) : State := s.withCt (fun c => c.inSlot && c.id = id) f

/-! ### Taking an exception -/

/-- What a word raises (R217, R218, R343): the code, the subcode, INFO, INDEX and the listed pages. -/
structure Trap where
  code : Nat
  sub : Nat := 0
  /-- INFO, where R217 gives the code one -/
  info : Option Word := none
  index : Nat := 0
  pages : List Word := []
  qtrap : Bool := false
  next : Bool := false
  deriving DecidableEq, Repr

def trapIll (sub : Nat) : Trap := { code := 1, sub := sub }
def trapAlign (a : Word) : Trap := { code := 2, info := some a }
def trapEngine (sub : Nat) : Trap := { code := 9, sub := sub }
def trapPerm : Trap := { code := 5 }

/-- The fault code of a page cause: 1 PAGE, 2 PERM, 3 WINDOW, 4 ECC (R217, R218). -/
def codeOfCause (c : Nat) : Nat :=
  match c with
  | 1 => 4 | 2 => 5 | 3 => 3 | _ => 6

/-- A page entry (R217): bits 63:16 of the block, the cause in bits 3:0. -/
def pageEntry (a : Word) (cause : Nat) : Word := (a &&& ~~~0xFFFF#64) ||| BitVec.ofNat 64 cause

/-- A memory fault at an address (R217). -/
def trapMem (cause : Nat) (a : Word) : Trap :=
  { code := codeOfCause cause, info := some a, pages := [pageEntry a cause] }

/-- A trap of a system core (R343): the register set of the target level takes the pc, the cause and the status; the
handler address of that set becomes the pc. -/
def sysTrap (c : SysCore) (pc : Word) (cause info : Word) : SysCore :=
  if c.pl = 2 then
    { c with fs := { c.fs with pc := pc, cause := cause, info := info, ppl := c.pl, pie := c.fs.ie, ie := false },
             pl := 2, st := { c.st with pc := c.fs.vec } }
  else
    { c with xs := { c.xs with pc := pc, cause := cause, info := info, ppl := c.pl, pie := c.xs.ie, ie := false },
             pl := 1, st := { c.st with pc := c.xs.vec } }

/-- INFO of a trap: a free value where R217 gives the code none (assumption 5). -/
def infoOf (s : State) (t : Trap) : Word := t.info.getD (Config.freeValue s.draws)

/-- The fault record of a stop (R217). -/
def faultRec (s : State) (t : Trap) (word : IWord) (pc : Word) (vec blk acc : Bool) : FaultRec where
  time := s.time
  code := t.code
  sub := t.sub
  next := t.next
  more := decide (3 < t.pages.length)
  npg := min 3 t.pages.length
  blk := blk
  vec := vec
  qtrap := t.qtrap
  acc := acc
  ctid := s.ct.id
  ctx := s.ct.ctx
  pc := pc
  word := word
  index := BitVec.ofNat 32 t.index
  info := infoOf s t
  pages := t.pages.take 3

/-- The stop of the CT in focus (R215, R216): both streams stand at a word boundary, the record is held until it is
posted (R219). -/
def stopCt (s : State) (r : FaultRec) : State :=
  { s with
    ct := { s.ct with status := .stopped, frec := some r, posted := false, next := r.next }, draws := s.draws + 1,
    pkg := { s.pkg with reqs := s.pkg.reqs.filter (fun q =>
      !(q.key % 2 ^ 40 / 4 = s.ct.plot * 2 ^ 32 + s.ct.ctx && (q.ans = some .refused || q.ans = some .failed))) } }

/-- TAKING AN EXCEPTION at the word the agent in focus executes: a system core traps to its handler (R343), a compute
core stops the CT (R215); a TRAP word resumes after itself (R145). -/
def raise (s : State) (t : Trap) : State :=
  match s.who with
  | .sys n =>
    let c := s.sysCore n
    { s.setSys n (sysTrap c (if t.code = 7 then c.st.pc + 4 else c.st.pc) (BitVec.ofNat 64 t.code) (infoOf s t)) with
      draws := s.draws + 1 }
  | .exec => stopCt s (faultRec s t s.ir s.pc false s.group.isSome false)
  | .access => stopCt s (faultRec s t s.ir s.pc false false true)

/-- A program counter: bits 1:0 are always zero (R8). -/
def asPc (a : Word) : Word := a &&& ~~~3

/-- The return from an exception on a system core (R343), at level 1 or 2. -/
def sysReturn (c : SysCore) : SysCore :=
  if c.pl = 2 then
    { c with st := { c.st with pc := asPc c.fs.pc }, pl := c.fs.ppl, fs := { c.fs with ie := c.fs.pie } }
  else
    { c with st := { c.st with pc := asPc c.xs.pc }, pl := c.xs.ppl, xs := { c.xs with ie := c.xs.pie } }

/-! ### Windows and translation -/

/-- What an access does (R226). -/
inductive Kind where
  | load | store | atomic | fetch
  deriving DecidableEq, Repr

/-- For whom an access is made: the plot, the address space, the gang, the slot, whether it is a provisional gang's (R280) and
whether its CT is saved, with its scratch in its context area (R148, R222); and the core whose TLB slices translate it, none
for a unit of the die. -/
structure Via where
  plot : Nat
  aspace : Nat
  launch : Nat
  gang : Nat
  id : BitVec 10
  prov : Bool
  saved : Bool
  core : Option Nat
  deriving DecidableEq, Repr

def Ct.via (c : Ct) : Via := ⟨c.plot, c.aspace, c.launch, c.gang, c.id, c.prov, c.status = .saved, some (coreOf c.id)⟩
/-- For whom the agent in focus makes its accesses: a system core is no CT. -/
def State.via (s : State) : Via := if s.isSys then ⟨0, 0, 0, 0, 0, false, false, none⟩ else s.ct.via

/-- Bits 63:55 all equal bit 54 (R150). -/
def canonical (a : Word) : Bool := a.toNat / 2 ^ 54 = 0 ∨ a.toNat / 2 ^ 54 = 2 ^ 10 - 1
def va55 (a : Word) : Nat := a.toNat % 2 ^ 55

def scratchBase : Nat := 0x7FFF0000000000
def clusterBase : Nat := 0x7FFE0000000000
def scratchSize : Nat := 0x200000
def clusterSize : Nat := 0x2000000

/-- Package and die registers, and the window towards the host (R301). -/
def regBase : Nat := 0x400000000000
def regEnd : Nat := 0x400100000000
def hostBase : Nat := 0x600000000000
/-- Main memory ends here (R301). -/
def mainEnd : Nat := 0xC000000000
def stackBytes : Nat := 48 * 2 ^ 30
def lineOf (pa : Nat) : Nat := pa / 128
/-- A line's number among scratch lines and physical lines. -/
def sramLine (a : Nat) : Nat := 2 ^ 50 + a / 128

/-- Whether a main-memory address lies in the plot's units (R303, R304). -/
def Plot.owns (p : Plot) (pa : Nat) : Bool := p.memory.getLsbD (pa / (24 * 2 ^ 30))
/-- Enabled channels of a stack. -/
def chanCount (c : BitVec 16) : Nat := ((List.range 16).filter (fun i => c.getLsbD i)).length
/-- Whether a main-memory address lies within its stack's capacity (R301, R302). -/
def State.inStack (s : State) (pa : Nat) : Bool :=
  decide (pa < mainEnd) && decide (pa % stackBytes < chanCount (s.pkg.chan.getD (pa / stackBytes) 0) * (3 * 2 ^ 30))

/-- Who reaches for a physical address: a CT or a unit of a plot, or system software at a privilege level. -/
inductive Reach where
  | plot (p : Option Plot)
  | level (n : Nat)
  deriving DecidableEq, Repr

/-- A plot reaches its own memory units alone (R303, R304). -/
def Reach.owns : Reach → Nat → Bool
  | .plot (some p), pa => p.owns pa
  | .plot none, _ => true
  | .level _, _ => true
/-- The supervisor and the firmware (R345, R365, R374). -/
def Reach.system : Reach → Bool
  | .plot _ => false
  | .level n => decide (1 ≤ n)
/-- The offsets that supervisor and firmware mappings alone reach: the coordinator's doorbell and ring, the log's and the
fabric's registers (R345, R365, R374). -/
def reservedReg (o : Nat) : Bool :=
  o / 8 = 0x100 / 8 || decide (0x400 ≤ o ∧ o < 0x428) || decide (0x3000 ≤ o ∧ o < 0x3200) || decide (0x10000 ≤ o ∧ o < 0x14000)
/-- Whether a main-memory address lies in the firmware region, which firmware level alone reaches (R349). -/
def State.inRegion (s : State) (pa : Nat) : Bool :=
  decide (s.pkg.boot.region.1 ≤ pa ∧ pa < s.pkg.boot.region.1 + s.pkg.boot.region.2)

/-- Whether the physical map admits an access of memory type ty at pa (R301, R304, R345, R349, R365, R374, R375). -/
def State.paOk (s : State) (r : Reach) (pa ty : Nat) : Bool :=
  if pa / 2 ^ 47 ≠ 0 then decide (s.pkg.fid ≠ 0)
  else if pa < mainEnd then s.inStack pa && decide (ty ≤ 1) && r.owns pa && (!s.inRegion pa || decide (r = .level 2))
  else if regBase ≤ pa ∧ pa < regEnd then decide (2 ≤ ty) && (!reservedReg (pa - regBase) || r.system)
  else if hostBase ≤ pa then
    decide (2 ≤ ty) || s.pkg.cxl.any (fun r => decide (r.1 ≤ pa ∧ pa < r.1 + r.2))
  else false

/-- The physical address that an access reaches: this module's own number names it (R375), and a line that the migration
engine has copied answers at its new address (R260). -/
def State.home (s : State) (pa : Nat) : Nat :=
  let a := if pa / 2 ^ 47 = s.pkg.fid then pa % 2 ^ 47 else pa
  match s.pkg.migr.find? (fun m => decide (m.old ≤ a ∧ a < m.old + 128 * m.lines)) with
  | some m => m.new + (a - m.old)
  | none => a

/-- n bytes of main memory from pa, wherever their lines stand. -/
def State.readHome (s : State) (pa : Nat) : Nat → Nat
  | 0 => 0
  | n + 1 => (s.mem.read (s.home pa)).toNat + 256 * State.readHome s (pa + 1) n
def State.writeHome (s : State) (pa : Nat) : Nat → Nat → State
  | 0, _ => s
  | n + 1, x => State.writeHome { s with mem := s.mem.write (s.home pa) (BitVec.ofNat 8 x) } (pa + 1) n (x / 256)

/-- The line of a place: core SRAM lines are numbered above the physical ones. -/
def Loc.line : Loc → Option Nat
  | .sram a => some (sramLine a)
  | .hole => none
  | .phys pa _ => some (lineOf pa)
  | .image pa _ => some (lineOf pa)

/-- A place's byte, numbered like its line. -/
def Loc.byte : Loc → Option Nat
  | .sram a => some (2 ^ 57 + a)
  | .hole => none
  | .phys pa _ => some pa
  | .image pa _ => some pa

/-- Whether a line is poisoned (R318). -/
def State.badLine (s : State) (line : Nat) : Bool := s.pkg.poison.any (fun p => p.1 = line)
def State.poisoned (s : State) (pa : Nat) : Bool := s.badLine (lineOf pa)
/-- Whether an access at a place meets a poisoned line. -/
def State.poisonedAt (s : State) (l : Loc) : Bool :=
  match l.line with
  | some n => s.badLine n
  | none => false

/-- The table entry at pa; the cause that ends the walk there (R225, R227, R304). -/
def State.pte (s : State) (r : Reach) (a : Nat) : Except Nat Nat :=
  let pa := s.home a
  if s.paOk r pa 0 && decide (pa < mainEnd) then
    if s.poisoned pa then .error 4 else .ok (s.mem.readN pa 8)
  else .error 1

/-- A table entry that names a table: V set, LEAF and the leaf's fields clear, reserved bits clear (R225). -/
def tableOk (e : Nat) : Bool := e % 2 = 1 ∧ e / 2 % 2 = 0 ∧ e / 4 % 64 = 0 ∧ e / 2 ^ 52 = 0
/-- A leaf: V and LEAF set, reserved bits clear. -/
def leafOk (e : Nat) : Bool := e % 4 = 3 ∧ e / 2 ^ 52 = 0
def entryPa (e : Nat) : Nat := e / 2 ^ 16 % 2 ^ 36 * 2 ^ 16

/-- The lines of the table entries that a walk reads, up to the one that ends it (R223, R225). -/
def State.walkLines (s : State) (r : Reach) (root va : Nat) : List Nat :=
  let line := fun (a : Nat) => if s.paOk r (s.home a) 0 && decide (s.home a < mainEnd) then [lineOf (s.home a)] else []
  let a1 := root + 8 * (va / 2 ^ 42 % 2 ^ 13)
  line a1 ++ match s.pte r a1 with
  | .error _ => []
  | .ok e1 =>
    let a2 := entryPa e1 + 8 * (va / 2 ^ 29 % 2 ^ 13)
    if !tableOk e1 then []
    else line a2 ++ match s.pte r a2 with
      | .error _ => []
      | .ok e2 => if tableOk e2 then line (entryPa e2 + 8 * (va / 2 ^ 16 % 2 ^ 13)) else []

/-- The walk of the three levels (R223, R225): the leaf, made that of a 64 KiB page, or the cause. -/
def State.walk (s : State) (r : Reach) (root va : Nat) : Except Nat Nat :=
  match s.pte r (root + 8 * (va / 2 ^ 42 % 2 ^ 13)) with
  | .error c => .error c
  | .ok e1 =>
    if !tableOk e1 then .error 1
    else match s.pte r (entryPa e1 + 8 * (va / 2 ^ 29 % 2 ^ 13)) with
      | .error c => .error c
      | .ok e2 =>
        if leafOk e2 then
          if e2 / 2 ^ 16 % 2 ^ 13 ≠ 0 then .error 1
          else .ok (e2 + va / 2 ^ 16 % 2 ^ 13 * 2 ^ 16)
        else if !tableOk e2 then .error 1
        else match s.pte r (entryPa e2 + 8 * (va / 2 ^ 16 % 2 ^ 13)) with
          | .error c => .error c
          | .ok e3 => if leafOk e3 then .ok e3 else .error 1

/-- The line of the root table that names an address space of a plot (R224), where its page stands (R260). -/
def State.rootLine (s : State) (p : Plot) (aspace : Nat) : Nat := lineOf (s.home (p.roots + 8 * aspace))
/-- The root of an address space of a plot (R224); 0 where the entry is empty, or its line poisoned. -/
def State.rootOf (s : State) (p : Plot) (aspace : Nat) : Nat :=
  if decide (aspace = 0 ∨ 255 < aspace) || s.badLine (s.rootLine p aspace) then 0 else s.mem.readN (s.home (p.roots + 8 * aspace)) 8

/-- The lane group whose slice translates an address on a core of lg lane groups (R153). -/
def ownerGroup (lg va : Nat) : Nat := ((va / 2 ^ 16 % 8) ^^^ (va / 2 ^ 19 % 8)) % lg
/-- The translation of a page that a core holds in the slice that owns it (R153). -/
def State.tlbAt (s : State) (core plot aspace va : Nat) : Option TlbEnt :=
  s.pkg.tlb.find? (fun t => t.core = core ∧ t.slice = ownerGroup (s.coreCfg core).lg va ∧ t.plot = plot ∧ t.aspace = aspace ∧
    t.page = va / 2 ^ 16)

/-- The leaf of a page for a plot's address space as the tables hold it (R223, R225). -/
def State.walkFor (s : State) (plot aspace va : Nat) : Except Nat Nat :=
  match s.plotOf plot with
  | none => .error 1
  | some p =>
    let root := s.rootOf p aspace
    if decide (1 ≤ aspace ∧ aspace ≤ 255) && s.badLine (s.rootLine p aspace) then .error 4
    else if root = 0 then .error 1 else s.walk (.plot (some p)) root va
/-- The leaf of a page for an access: a cached translation where the slice of its core that owns the address holds one, else the
walk (R153, R228). -/
def State.leafFor (s : State) (v : Via) (va : Nat) : Except Nat Nat :=
  match v.core.bind (fun c => s.tlbAt c v.plot v.aspace va) with
  | some t => .ok t.leaf.toNat
  | none => s.walkFor v.plot v.aspace va

/-- The context area of a CT in its plot's pool (R233). -/
def State.areaOf (s : State) (c : Ct) : Option Nat := (s.plotOf c.plot).map fun p => p.ctxBase + 0x320000 * c.ctx
/-- Where the scratch of a saved CT stands: its image in the context area (R148, R233). The CT is named by the slot it held. -/
def State.imageOf (s : State) (v : Via) (id : BitVec 10) : Option Nat :=
  match s.cts.find? (fun c => c.status = .saved && c.launch = v.launch && c.gang = v.gang && c.plot = v.plot && c.id = id) with
  | some c => (s.areaOf c).map (· + 0x120000)
  | none => none

/-- A page that ALLOCR mapped for a provisional gang serves only that gang until it is firm (R291), through whatever address space
its frame is reached: `a` is the page that a leaf names. -/
def State.poolHidden (s : State) (v : Via) (a : Nat) : Bool :=
  s.pkg.pools.any fun q => q.pages.any fun pg => decide (s.home pg.frame = s.home a) &&
    (match pg.owner with | some o => !v.prov || o != (v.launch, v.gang) | none => false)

/-- RD, W and X of a leaf against what the access needs (R226). -/
def permOk (leaf : Nat) (k : Kind) : Bool :=
  let rd := leaf / 8 % 2 = 1
  let w := leaf / 16 % 2 = 1
  let x := leaf / 32 % 2 = 1
  match k with
  | .load => rd
  | .store => w
  | .atomic => decide rd && decide w
  | .fetch => x

/-- Windows, translation and permission of a CT's access of n bytes (R150, R151, R226, R227): the place, or the cause
(1 PAGE, 2 PERM, 3 WINDOW). What an engine or the VIQ still does for a saved CT reaches its gang's scratch where it now stands
(R222, R231). -/
def State.resolve (s : State) (v : Via) (a : Word) (n : Nat) (k : Kind) : Except Nat Loc :=
  let va := va55 a
  let top := va + n
  if !canonical a then .error 3
  else if scratchBase ≤ va then
    let off := va - scratchBase
    if off + n ≤ s.ssOf (coreOf v.id) (slotOf v.id) ∧ off + n ≤ scratchSize then
      match (if v.saved then s.imageOf v v.id else none) with
      | some b => .ok (.image (s.home (b + off)) ((coreOf v.id * 2 + slotOf v.id) * scratchSize + off))
      | none => .ok (.sram ((coreOf v.id * 2 + slotOf v.id) * scratchSize + off))
    else .error 3
  else if clusterBase ≤ va then
    let off := va - clusterBase
    let core := coreOf v.id / 8 * 8 + off / 0x400000
    let slot := off / 0x200000 % 2
    let o := off % 0x200000
    if off + n ≤ clusterSize ∧ o + n ≤ s.ssOf core slot then
      match (if v.saved then s.imageOf v (ctidOf core slot) else none) with
      | some b => .ok (.image (s.home (b + o)) ((core * 2 + slot) * scratchSize + o))
      | none =>
        if s.cts.any (fun c => c.inSlot && c.id = ctidOf core slot && (!v.saved || (c.launch = v.launch && c.gang = v.gang)))
        then .ok (.sram ((core * 2 + slot) * scratchSize + o)) else .ok .hole
    else .error 3
  else if clusterBase < top then .error 3
  else
    match s.leafFor v va with
    | .error c => .error c
    | .ok leaf =>
      let pa := s.home (entryPa leaf + va % 2 ^ 16)
      let ty := leaf / 64 % 4
      if s.poolHidden v (entryPa leaf) then .error 1
      else if !permOk leaf k || !s.paOk (.plot (s.plotOf v.plot)) pa ty then .error 2
      else .ok (.phys pa ty)

/-- A system core's access (R344): physical at level 2; through xroot below, with the rule of the U field. -/
def State.resolveSys (s : State) (n : Nat) (a : Word) (k : Kind) : Except Nat Loc :=
  let c := s.sysCore n
  if c.pl = 2 then
    let pa := s.home a.toNat
    let ty := if pa < mainEnd then 0 else 2
    if a.toNat < 2 ^ 52 ∧ s.paOk (.level 2) pa ty then .ok (.phys pa ty) else .error 2
  else
    let va := va55 a
    if !canonical a || decide (clusterBase ≤ va) then .error 3
    else
      match s.walk (.level c.pl) c.xroot.toNat va with
      | .error e => .error e
      | .ok leaf =>
        let pa := s.home (entryPa leaf + va % 2 ^ 16)
        let ty := leaf / 64 % 4
        let u : Bool := leaf / 4 % 2 = 1
        let uOk := if c.pl = 0 then u else !(u && decide (k = .fetch))
        if s.poolHidden s.via (entryPa leaf) then .error 1
        else if !permOk leaf k || !uOk || !s.paOk (.level c.pl) pa ty then .error 2 else .ok (.phys pa ty)

/-- The lines of the tables that a walk through an address space of a plot reads: the root table's, then the tables'. -/
def State.walkOf (s : State) (plot aspace va : Nat) : List Nat :=
  match s.plotOf plot with
  | none => []
  | some p =>
    if aspace = 0 ∨ 255 < aspace then []
    else s.rootLine p aspace :: (if s.rootOf p aspace = 0 then [] else s.walkLines (.plot (some p)) (s.rootOf p aspace) va)
/-- The lines of the tables that an access reads: none in the windows, none where the translation is cached. -/
def State.tableLines (s : State) (v : Via) (a : Word) : List Nat :=
  if !canonical a || decide (clusterBase ≤ va55 a) || (v.core.bind fun c => s.tlbAt c v.plot v.aspace (va55 a)).isSome then []
  else s.walkOf v.plot v.aspace (va55 a)
/-- The same for an access of the agent in focus. -/
def State.tableLinesNow (s : State) (a : Word) : List Nat :=
  match s.who with
  | .sys c => if (s.sysCore c).pl = 2 then [] else s.walkLines (.level (s.sysCore c).pl) (s.sysCore c).xroot.toNat (va55 a)
  | _ => s.tableLines s.ct.via a
/-- The line of a poisoned table entry that the walk for an access meets (R227, R319). -/
def State.badTable (s : State) (v : Via) (a : Word) : Option Nat := (s.tableLines v a).find? s.badLine
def State.badTableNow (s : State) (a : Word) : Option Nat := (s.tableLinesNow a).find? s.badLine

/-- The place of an access of the agent in focus. -/
def State.place (s : State) (a : Word) (n : Nat) (k : Kind) : Except Nat Loc :=
  match s.who with
  | .sys c => s.resolveSys c a k
  | _ => s.resolve s.ct.via a n k

/-! ### Bytes under provisional lines, claims, watermarks, waits -/

/-- A byte of main memory as an agent sees it: a provisional gang reads the bytes it has stored (R280). -/
def State.physByte (s : State) (v : Via) (pa : Nat) : BitVec 8 :=
  match (if v.prov then s.pkg.prov.find? (fun l => l.launch = v.launch ∧ l.gang = v.gang) else none) with
  | some l => match l.cells.find? (fun c => c.1 = pa) with
    | some c => c.2
    | none => s.mem.read pa
  | none => s.mem.read pa

def State.physN (s : State) (v : Via) (pa : Nat) : Nat → Nat
  | 0 => 0
  | n + 1 => (s.physByte v pa).toNat + 256 * State.physN s v (pa + 1) n

/-- The value of n bytes at a place, main memory and scratch; 0 at a slot that no CT holds (R152). -/
def State.peek (s : State) (v : Via) (l : Loc) (n : Nat) : Nat :=
  match l with
  | .sram a => s.sram.readN a n
  | .hole => 0
  | .phys pa _ => s.physN v pa n
  | .image pa _ => s.mem.readN pa n

/-- Whether a WAIT's deadline has come. -/
def WaitRec.due (w : WaitRec) (now : Word) : Bool :=
  match w.deadline with
  | some d => decide (d ≤ now)
  | none => false
/-- A write to a line wakes a stream's WAIT on it: the first cause that arrives stays, the lower one of two that arrive
together (R146). -/
def Stream.wake (t : Stream) (line : Nat) (now : Word) : Stream :=
  match t.wait with
  | some w =>
    if w.line = some line ∧ w.cause = none then { t with wait := some { w with cause := some (if w.due now then 0 else 1) } }
    else t
  | none => t

/-- Both streams' WAITs on a line. A scratch line is its slot's: a CT that has left the slot watches its own scratch no longer
there, but in the image (R148). -/
def Ct.wake (c : Ct) (line : Nat) (now : Word) : Ct :=
  if c.status = .saved && decide (2 ^ 50 ≤ line) then c
  else { c with ex := c.ex.wake line now, ac := c.ac.wake line now }
/-- A write by another agent than a stream wakes its WAIT; `self` is the stream of the agent in focus that wrote. -/
def State.wakeLine (s : State) (line : Nat) (self : Option Who) : State :=
  { s with
    ct := { s.ct with ex := if self = some .exec then s.ct.ex else s.ct.ex.wake line s.time,
                      ac := if self = some .access then s.ct.ac else s.ct.ac.wake line s.time },
    others := s.others.map (fun c => c.wake line s.time),
    sys := s.sys.mapIdx (fun n c => if self = some (.sys n) then c else { c with st := c.st.wake line s.time }) }
/-- The same where the write is visible to the gang of the CT in focus alone: a provisional gang's store (R280, R332). -/
def State.wakeGang (s : State) (line : Nat) (self : Option Who) : State :=
  let t := s.wakeLine line self
  { s with ct := t.ct, others := (s.others.zip t.others).map (fun p =>
      if p.1.launch = s.ct.launch && p.1.gang = s.ct.gang then p.2 else p.1) }
/-- The same where the gang itself has seen the bytes already: its commit (R285). -/
def State.wakeOthers (s : State) (line launch gang : Nat) : State :=
  let t := s.wakeLine line none
  let keep := fun (old new : Ct) => if old.launch = launch && old.gang = gang then old else new
  { t with ct := keep s.ct t.ct, others := (s.others.zip t.others).map fun p => keep p.1 p.2 }
/-- The same for a write to the image of a saved CT's scratch, for the line of the slot that it left: the saved CTs of the gang. -/
def State.wakeSaved (s : State) (v : Via) (line : Nat) : State :=
  let f := fun (c : Ct) => if c.status = .saved && c.launch = v.launch && c.gang = v.gang then
    { c with ex := c.ex.wake line s.time, ac := c.ac.wake line s.time } else c
  { s with ct := f s.ct, others := s.others.map f }
/-- The line of a store wakes the WAITs of the agents that see it; a scalar store never wakes its own stream (R146). -/
def State.stored (s : State) (v : Via) (l : Loc) (self : Option Who) : State :=
  match l with
  | .hole => s
  | .sram a => s.wakeLine (sramLine a) self
  | .phys pa _ => if v.prov then s.wakeGang (lineOf pa) self else s.wakeLine (lineOf pa) self
  | .image pa a => (s.wakeLine (lineOf pa) self).wakeSaved v (sramLine a)

/-- A byte stored by a provisional gang (R280). -/
def provWrite (ls : List ProvLines) (v : Via) (pa : Nat) (b : BitVec 8) : List ProvLines :=
  match ls with
  | [] => [⟨v.launch, v.gang, dieOf v.id, [(pa, b)]⟩]
  | l :: rest =>
    if l.launch = v.launch ∧ l.gang = v.gang then
      { l with cells := (l.cells.filter (fun c => c.1 != pa)) ++ [(pa, b)] } :: rest
    else l :: provWrite rest v pa b
def provWriteN (ls : List ProvLines) (v : Via) (pa : Nat) : Nat → Nat → List ProvLines
  | 0, _ => ls
  | n + 1, x => provWriteN (provWrite ls v pa (BitVec.ofNat 8 x)) v (pa + 1) n (x / 256)

/-- n bytes stored at a place, with no check: main memory (or the gang's provisional lines) and scratch; a store to a
slot that no CT holds is discarded (R152). -/
def State.poke (s : State) (v : Via) (l : Loc) (n x : Nat) : State :=
  match l with
  | .sram a => { s with sram := s.sram.writeN a n x }
  | .hole => s
  | .phys pa _ =>
    if v.prov then { s with pkg := { s.pkg with prov := provWriteN s.pkg.prov v pa n x } }
    else { s with mem := s.mem.writeN pa n x }
  | .image pa _ => { s with mem := s.mem.writeN pa n x }

/-- A line that a copy of another module still claims (R379). -/
def FarClaim.holds (f : FarClaim) (n : Nat) (k : Kind) : Bool := f.line = n && (f.dst || k != .load)
/-- A line that a copy still claims: any access to a destination line waits, a write to a source line waits (R261). -/
def State.lineClaimed (s : State) (n : Nat) (k : Kind) : Bool :=
  s.cts.any (fun c => c.copies.any (fun y => y.claims.any (fun z => z.1 = n && (z.2 || k != .load)))) ||
    s.pkg.farClaims.any (fun f => f.holds n k)
/-- Whether a copy claims a line at all. -/
def State.anyClaim (s : State) : Bool := s.cts.any (fun c => c.copies.any fun y => !y.claims.isEmpty) || !s.pkg.farClaims.isEmpty
/-- A walk waits like any other access while a copy is to write a line of a table that it reads (R261). -/
def State.walkHeld (s : State) (v : Via) (a : Word) : Bool := (s.tableLines v a).any fun n => s.lineClaimed n .load
def State.walkHeldNow (s : State) (a : Word) : Bool := (s.tableLinesNow a).any fun n => s.lineClaimed n .load
/-- Whether a provisional gang has stored every one of n bytes itself (R280). -/
def State.ownBytes (s : State) (v : Via) (pa n : Nat) : Bool :=
  v.prov && (match s.pkg.prov.find? (fun l => l.launch = v.launch ∧ l.gang = v.gang) with
    | some l => (List.range n).all (fun i => l.cells.any (fun c => c.1 = pa + i))
    | none => false)
/-- Whether an access waits for a copy's claim. Provisional lines take no part in claims: neither a store to one nor a load of
bytes that the gang has stored waits (R280). -/
def State.claimed (s : State) (v : Via) (l : Loc) (n : Nat) (k : Kind) : Bool :=
  match l, l.line with
  | .phys pa ty, some m =>
    if v.prov && decide (ty < 2) && (decide (k = .store) || s.ownBytes v pa n) then false else s.lineClaimed m k
  | _, some m => s.lineClaimed m k
  | _, none => false
/-- The address of an access that goes beyond main memory; none where it stays within, or where a provisional gang's lines take
the store or hold every byte (R280). -/
def State.beyond (s : State) (v : Via) (l : Loc) (n : Nat) (k : Kind) : Option Nat :=
  match l with
  | .phys pa ty =>
    if pa < mainEnd || (v.prov && decide (ty < 2) && (decide (k = .store) || s.ownBytes v pa n)) then none else some pa
  | _ => none
/-- n bytes read beyond main memory, with the bytes that a provisional gang has stored there itself (R280). -/
def State.provOver (s : State) (v : Via) (pa x : Nat) : Nat → Nat
  | 0 => 0
  | n + 1 =>
    (if s.ownBytes v pa 1 then (s.physByte v pa).toNat else x % 256) + 256 * State.provOver s v (pa + 1) (x / 256) n
/-- Whether n bytes read at a place lie in a poisoned line (R318), but for those that a provisional gang has stored itself. -/
def State.readsBad (s : State) (v : Via) (l : Loc) (n : Nat) : Bool :=
  match l with
  | .phys pa _ => s.poisoned pa && !s.ownBytes v pa n
  | _ => s.poisonedAt l

/-- The bindings of a CT (R273). -/
abbrev WmBinds := Vector (Option WmBind) 4

/-- Whether a load byte waits under a set of watermark bindings (R273). -/
def wmWaits (s : State) (w : WmBinds) (a : Word) : Bool :=
  w.toList.any (fun o => match o with
    | none => false
    | some b =>
      let d := (a - b.base).toNat
      decide (b.base.toNat ≤ a.toNat ∧ d < b.len.toNat) &&
        decide (((s.pkg.wm.find? (fun p => p.1 = b.slot)).map (·.2.toNat)).getD 0 * b.unit ≤ d))
/-- The same for n bytes: a vector word, a feed and a matrix word wait under the bindings that they captured. -/
def wmHolds (s : State) (w : WmBinds) (a : Word) (n : Nat) : Bool :=
  (List.range n).any (fun i => wmWaits s w (a + BitVec.ofNat 64 i))
/-- Whether a binding covers one of n bytes. -/
def wmBound (w : WmBinds) (a : Word) (n : Nat) : Bool :=
  (List.range n).any fun i => w.toList.any fun o => match o with
    | some b => decide (b.base.toNat ≤ (a + BitVec.ofNat 64 i).toNat ∧ (a + BitVec.ofNat 64 i - b.base).toNat < b.len.toNat)
    | none => false
/-- A scalar load of the agent in focus waits under its CT's bindings as they stand. -/
def wmWaitsN (s : State) (a : Word) (n : Nat) : Bool := !s.isSys && wmHolds s s.ct.wmb a n

/-- The lines of a die's provisional reserve in use (R280). -/
def State.provLines (s : State) (die : Nat) : Nat :=
  ((s.pkg.prov.filter (fun l => l.die = die)).map (fun l => ((l.cells.map (fun c => c.1 / 128)).eraseDups).length)).sum

/-- A provisional store that needs a new line while the reserve is full stalls (R280). -/
def State.provFull (s : State) (v : Via) (pa : Nat) : Bool :=
  v.prov && decide (131072 ≤ s.provLines (dieOf v.id)) &&
    !(s.pkg.prov.any (fun l => l.launch = v.launch && l.gang = v.gang && l.cells.any (fun c => c.1 / 128 = pa / 128)))

/-- A provisional CT stalls before it touches device-type memory or a slot outside its gang (R281). -/
def provStalls (s : State) (v : Via) (a : Word) (l : Loc) (k : Kind) : Bool :=
  v.prov && (match l with
    | .phys pa ty => decide (2 ≤ ty) || (decide (k ≠ .load) && s.provFull v pa)
    | .image _ _ => false
    | _ =>
      decide (va55 a < scratchBase) &&
        (let off := va55 a - clusterBase
         let id := ctidOf (coreOf v.id / 8 * 8 + off / 0x400000) (off / 0x200000 % 2)
         !(s.cts.any (fun c => c.inSlot && c.id = id && c.launch = v.launch && c.gang = v.gang))))

/-- What an access of the CT or the system core in focus comes to: done, a fault with its cause, or a wait, without effect
on the agent. -/
inductive MRes (α : Type) where
  | ok (x : α)
  | flt (cause : Nat) (s : State)
  | stall (s : State)
  deriving Repr

/-- A provisional CT's word has no effect yet and is tried again (R281); the CT is marked as stalled so (R283). -/
def provWait (s : State) : State := { s with ct := { s.ct with stalled := true } }

/-! ### Stores performed late, loads that take their values early (R139, R158, R323, R324) -/

/-- The side of the agent in focus, where it is a CT's stream. -/
def State.side (s : State) : Option Side :=
  match s.who with
  | .exec => some .exec
  | .access => some .access
  | .sys _ => none
/-- The stream of a scalar side. -/
def Side.who : Side → Option Who
  | .exec => some .exec
  | .access => some .access
  | .vec => none

/-- Whether a delayed store shares a byte with n bytes at a place. -/
def SbEnt.meets (e : SbEnt) (l : Loc) (n : Nat) : Bool :=
  match e.loc.byte, l.byte with
  | some a, some b => decide (a < b + n ∧ b < a + e.n)
  | _, _ => false
/-- Whether a store may not be performed before an older one: one of its side that shares a byte with it, or, where it is a
release, any of its side (R247, R323); an SHPUB's write also comes after the vector words posted before it (R284). -/
def SbEnt.follows (f e : SbEnt) : Bool :=
  f.side == e.side && (f.rel || f.meets e.loc e.n) ||
    (match f.ship with
      | some p => e.side == .vec && decide (e.id < p.vec.getD 0)
      | none => false)
/-- The stores of a set, and the older ones that these may not overtake. -/
def needed (p : SbEnt → Bool) (es : List SbEnt) : List SbEnt :=
  es.foldr (fun e acc => if p e || acc.any (·.follows e) then e :: acc else acc) []
/-- What the bytes of a store become. -/
def SbEnt.val (e : SbEnt) (old : Nat) : Nat :=
  match e.mask with
  | none => e.x
  | some m => (old &&& (2 ^ (8 * e.n) - 1 - m)) ||| (e.x &&& m)
/-- A delayed store of the CT in focus is performed; that of a shape record decides (R284). -/
def State.performEnt (s : State) (e : SbEnt) : State :=
  let t := (s.poke s.ct.via e.loc e.n (e.val (s.peek s.ct.via e.loc e.n))).stored s.ct.via e.loc e.side.who
  match e.ship, e.loc.byte with
  | some p, some pa => { t with pkg := { t.pkg with shPend := t.pkg.shPend ++ [(pa, p.count)] } }
  | _, _ => t
/-- Whether nothing holds back a CT's delayed store: no copy's claim (R261), no full reserve (R280), no vector word posted before an
SHPUB (R284). -/
def State.free (s : State) (v : Via) (e : SbEnt) : Bool :=
  !s.claimed v e.loc e.n .store && (match e.loc with | .phys pa _ => !s.provFull v pa | _ => true) &&
    (match e.ship with | some p => p.vec.isSome | none => true)
/-- Whether a CT's delayed stores of a set can be performed now. -/
def State.canFlush (s : State) (c : Ct) (p : SbEnt → Bool) : Bool := (needed p c.sbuf).all (s.free c.via)
/-- The delayed stores of a set are performed for the CT in focus, oldest first, each after those that it may not overtake. -/
def State.flush (s : State) (p : SbEnt → Bool) : State :=
  match needed p s.ct.sbuf with
  | [] => s
  | es =>
    let t := es.foldl State.performEnt s
    { t with ct := { t.ct with sbuf := s.ct.sbuf.filter fun e => !es.any fun f => f.id == e.id } }
/-- What follows once the delayed stores of a set are performed; it waits while one of them is held back. -/
def State.afterStores (s : State) (p : SbEnt → Bool) (f : State → State) : State :=
  if s.canFlush s.ct p then f (s.flush p) else s

/-- A delayed store of the scalar side in focus. -/
def State.mine (s : State) (e : SbEnt) : Bool := s.side == some e.side
/-- One of a side that an access of n bytes at a place meets. -/
def onSide (d : Side) (l : Loc) (n : Nat) (e : SbEnt) : Bool := e.side == d && e.meets l n
/-- One of the scalar side in focus that its access meets. -/
def State.own (s : State) (l : Loc) (n : Nat) (e : SbEnt) : Bool := s.mine e && e.meets l n
/-- One of those that an ordering event has before it. -/
def SbEnt.before (u : Upto) (e : SbEnt) : Bool :=
  match e.side with
  | .exec => decide (e.id < u.ex)
  | .access => decide (e.id < u.ac)
  | .vec => decide (e.id < u.vec)
/-- What follows an ordering event that has the accesses of the scalar side in focus, and no others, before it (R324): that side's
delayed stores are performed first. -/
def State.ordered (s : State) (f : State → State) : State := s.afterStores s.mine f

/-- The next moment: no value taken so far is as late. -/
def State.moment (s : State) : Nat := s.ticks + 1
def Floors.get (f : Floors) : Side → Nat
  | .exec => f.ex
  | .access => f.ac
  | .vec => f.vec
/-- Later accesses of the scalar side in focus take no value from before a moment (R247). -/
def State.acquireAt (s : State) (t : Nat) : State :=
  let f := s.ct.floors
  match s.who with
  | .exec => { s with ct := { s.ct with floors := { f with ex := max f.ex t } } }
  | .access => { s with ct := { s.ct with floors := { f with ac := max f.ac t } } }
  | .sys _ => s
/-- Later accesses of the stream in focus, of the execute stream the vector words that it posts later too, take no value from
before now. -/
def State.acquire (s : State) : State :=
  let t := s.acquireAt s.moment
  if s.who = .exec then { t with ct := { t.ct with floors := { t.ct.floors with post := s.moment } } } else t

/-- An access of a side at moment t: none of that side's later reads of those bytes takes an older value (R326). -/
def Look.note (k : Look) (d : Side) (t : Nat) (l : Loc) (n : Nat) : Look :=
  match l.byte with
  | some b => if k.side = d ∧ k.time < t then { k with hit := (b, n) :: k.hit } else k
  | none => k
def State.note (s : State) (d : Side) (t : Nat) (l : Loc) (n : Nat) : State :=
  { s with ct := { s.ct with looks := s.ct.looks.map (·.note d t l n) } }
/-- Whether a side's read at a place may take its value at an earlier moment: none of its bytes has been accessed since, its line
was no copy's destination then, and it is no device's. -/
def Look.open (k : Look) (l : Loc) (n : Nat) : Bool :=
  (match l with | .phys pa ty => decide (ty < 2 ∧ pa < mainEnd) | .sram _ => true | _ => false) &&
    (match l.byte with | some b => !k.hit.any (fun h => decide (h.1 < b + n ∧ b < h.1 + h.2)) | none => false) &&
    (match l.line with | some m => !k.claims.contains m | none => false)
/-- The earlier moment at which a side's next read takes its value, where one has been chosen and nothing orders the read after
it. -/
def State.lookFor (s : State) (d : Side) (floor : Nat) (l : Loc) (n : Nat) : Option Look :=
  match s.ct.early with
  | some i :: _ => match s.ct.looks[i]? with
    | some k => if k.side = d ∧ floor ≤ k.time ∧ k.open l n = true then some k else none
    | none => none
  | _ => none
/-- One read event of a side: the value, the moment at which it is taken, and the state. -/
def State.readEvent (s : State) (d : Side) (floor : Nat) (l : Loc) (n : Nat) : Nat × Nat × State :=
  let t := { s with ct := { s.ct with early := s.ct.early.drop 1 } }
  match s.lookFor d floor l n with
  | some k => ({ s with mem := k.mem, sram := k.sram, pkg := { s.pkg with prov := k.prov } }.peek s.ct.via l n, k.time,
      t.note d k.time l n)
  | none => (s.peek s.ct.via l n, s.moment, t.note d s.moment l n)
/-- The moment as it stands is kept for a side's later loads: but for the bytes that the side has already stored and not yet
performed. -/
def State.takeLook (s : State) (d : Side) : State :=
  let dst := s.cts.flatMap (fun c => c.copies.flatMap fun y => (y.claims.filter (·.2)).map (·.1)) ++
    (s.pkg.farClaims.filter (·.dst)).map (·.line)
  let own := (s.ct.sbuf.filter fun e => e.side == d).filterMap fun e => e.loc.byte.map fun b => (b, e.n)
  { s with ct := { s.ct with looks := s.ct.looks ++ [⟨d, s.ticks, s.mem, s.sram, s.pkg.prov, dst, own⟩] } }
/-- No load of some CTs takes a value from before now any more: the memory that addresses name has changed. -/
def State.dropLooks (s : State) (p : Ct → Bool := fun _ => true) : State :=
  let f := fun (c : Ct) => if c.looks.isEmpty || !p c then c else { c with looks := [] }
  { s with ct := f s.ct, others := s.others.map f }
/-- The CTs that reach the scratch of a cluster (R150). -/
def inCluster (cl : Nat) (c : Ct) : Bool := clusterOf c.id = cl

/-- A CT among those whose requests may be under way: its context area names it (R233). -/
def Ct.key (c : Ct) : Nat := c.plot * 2 ^ 32 + c.ctx
/-- The number under which the scalar side of the agent in focus waits for answers from beyond the module. -/
def State.port (s : State) : Nat :=
  match s.who with
  | .exec => s.ct.key * 4
  | .access => s.ct.key * 4 + 1
  | .sys n => 2 ^ 38 + 4 * n
/-- The number of field i of element e of the vector side. -/
def State.vport (s : State) (e i : Nat) : Nat := s.ct.key * 4 + 2 + 2 ^ 40 * (e * 16 + i)
/-- The number of piece i of a copy. -/
def Ct.cport (c : Ct) (ticket i : Nat) : Nat := c.key * 4 + 3 + 2 ^ 40 * (ticket * 2 ^ 40 + i)
/-- Drops the requests of a CT that meet a condition. -/
def State.dropReqs (s : State) (c : Ct) (p : Req → Bool) : State :=
  if s.pkg.reqs.isEmpty then s
  else { s with pkg := { s.pkg with reqs := s.pkg.reqs.filter (fun r => !(r.key % 2 ^ 40 / 4 = c.key && p r)) } }

/-- The new value of a read-modify-write of w bits: operand b, compared value d (R245). -/
def amoNew (op : AmoOp) (w : Nat) (old b d : Nat) : Nat :=
  let o := old % 2 ^ w
  let y := b % 2 ^ w
  let so := intOf ⟨w, true⟩ o
  let sy := intOf ⟨w, true⟩ y
  match op with
  | .add => (o + y) % 2 ^ w
  | .swap => y
  | .and => o &&& y
  | .or => o ||| y
  | .xor => o ^^^ y
  | .min => if sy < so then y else o
  | .max => if so < sy then y else o
  | .minu => min o y
  | .maxu => max o y
  | .cas => if o = d % 2 ^ w then y else o

/-- AMOCAS of unequal values writes nothing (R245). -/
def amoStep (op : AmoOp) (w : Nat) (b d old : Nat) : Option Nat :=
  if op = .cas ∧ old % 2 ^ w ≠ d % 2 ^ w then none else some (amoNew op w old b d)

/-- What n bytes become under a request, given what they held; none where it writes nothing. -/
def ReqOp.apply (o : ReqOp) (n old : Nat) : Option Nat :=
  match o with
  | .read => none
  | .write x => some x
  | .amo op b d => amoStep op (8 * n) b d old
  | .merge mask v => some ((old &&& (2 ^ (8 * n) - 1 - mask)) ||| (v &&& mask))
  | .claim _ => none
  | .release => none

/-- A request beyond main memory: who asks (the side, and for the vector side the element access), and what. -/
structure DevAsk where
  key : Nat
  op : ReqOp


end Sys2Proof.Machine
end

