-- ==== Sys2Proof/Machine/Dev.lean ====
section
/-! DEFINITION. What lies behind physical addresses beyond main memory: hub SRAM, the package registers (R345, R350, R363, R365,
R374), the host window and remote modules (R367, R375); and the error log (R319, R364, R365). -/
namespace Sys2Proof.Machine

/-! ### Interrupts and the log -/

/-- An interrupt source 0x80 + n becomes pending on every system core (R342). -/
def State.interrupt (s : State) (n : Nat) : State :=
  { s with sys := s.sys.map fun c => { c with irq := c.irq ||| (1#5 <<< n) } }

/-- A store by a unit of the package at a physical address of main memory or hub SRAM; it wakes the WAITs on its line. -/
def State.unitStore (s : State) (pa n x : Nat) : State :=
  { s with mem := s.mem.writeN pa n x }.wakeLine (lineOf pa) none

/-- The boot buffer of the log and its size (R365). -/
def bootLog : Nat := 0x400000008000
def Log.at_ (l : Log) : Nat := if l.base = 0 then bootLog else l.base.toNat
/-- LOGN reads 6 while LOGBASE selects the boot buffer. -/
def Log.n (l : Log) : Nat := if l.base = 0 then 6 else l.logn

/-- A log entry (R365): bytes 0x08 to 0x0F, 0x10 to 0x17, and the byte KIND. A full log drops it. -/
def State.logEntry (s : State) (b8 b16 kind : Nat) : State :=
  let l := s.pkg.log
  if l.head - l.tail < BitVec.ofNat 64 (2 ^ l.n) then
    let a := s.home (l.at_ + 32 * (l.head.toNat % 2 ^ l.n))
    let t := s.unitStore a 32 (s.time.toNat + 2 ^ 64 * (b8 % 2 ^ 64) + 2 ^ 128 * (b16 % 2 ^ 64) + 2 ^ 192 * kind)
    { t with pkg := { t.pkg with log := { t.pkg.log with head := l.head + 1 } } }.interrupt 4
  else { s with pkg := { s.pkg with log := { l with lost := l.lost + 1 } } }

/-- The fields of kinds 2 to 5: bytes 0x08 and 0x09, 2 bytes at 0x0A, 4 at 0x0C, 8 at 0x10. -/
def State.logKind (s : State) (kind b8 b9 h w q : Nat) : State :=
  s.logEntry (b8 % 256 + 256 * (b9 % 256) + 2 ^ 16 * (h % 2 ^ 16) + 2 ^ 32 * (w % 2 ^ 32)) q kind

/-- The slice of a line within its die (R256). -/
def sliceOf (pa : Nat) : Nat := (pa / 2 ^ 7 % 32) ^^^ (pa / 2 ^ 12 % 32) ^^^ (pa / 2 ^ 17 % 32)
/-- The channel of an address of a stack with c enabled channels: the one of that ordinal (R302). -/
def channelOf (c : BitVec 16) (off : Nat) : Nat :=
  let n := chanCount c
  let g := off / 256
  (((List.range 16).filter (fun i => c.getLsbD i))[(g + g / n) % n]?).getD 0

/-- The first detection of a poisoned line is logged (R319); `agent` is the AGENT field. -/
def State.detectBy (s : State) (line agent : Nat) : State :=
  if s.pkg.seen.contains line then s
  else
    let unit := ((s.pkg.poison.find? (fun p => p.1 = line)).map (·.2)).getD 0
    let src := unit % 4
    let t := { s with pkg := { s.pkg with seen := line :: s.pkg.seen } }
    if line < 2 ^ 50 then
      let pa := 128 * line
      let plot := ((s.pkg.plots.find? (fun p => p.owns pa)).map (·.id)).getD 0xFF
      let unit := if src = 1 then pa / (4 * stackBytes) * 32 + sliceOf pa
        else if src = 2 then unit / 4
        else pa / stackBytes * 16 + channelOf (s.pkg.chan.getD (pa / stackBytes) 0) (pa % stackBytes)
      t.logEntry pa (src + 256 * plot + 2 ^ 16 * unit + 2 ^ 32 * (agent % 2 ^ 32)) 0
    else
      -- a scratch line has no physical address: PA is a free value; its core's cluster names the plot
      let core := (line - 2 ^ 50) / (2 * scratchSize / 128)
      let plot := ((s.pkg.plots.find? (fun p => p.clusters.getLsbD (core / 8))).map (·.id)).getD 0xFF
      { t with draws := t.draws + 1 }.logEntry ((Config.freeValue s.draws).toNat / 128 * 128)
        (2 + 256 * plot + 2 ^ 16 * core + 2 ^ 32 * (agent % 2 ^ 32)) 0

/-- Detection by the agent in focus: AGENT is the reading CT's ctid with bit 31 set; for a system core, to whose reads
R319 gives no identifier, a free value with bit 31 clear. -/
def State.detectEcc (s : State) (line : Nat) : State :=
  if s.isSys then { s with draws := s.draws + 1 }.detectBy line ((Config.freeValue s.draws).toNat % 2 ^ 31)
  else s.detectBy line (2 ^ 31 + s.ct.id.toNat)
/-- A page walk for an access of the agent in focus at a that ended with cause c: a poisoned table line is logged (R227,
R319). -/
def State.detectWalk (s : State) (a : Word) (c : Nat) : State :=
  if c = 4 then (match s.badTableNow a with | some n => s.detectEcc n | none => s) else s
/-- Detection at a place that an access has met. -/
def State.detectAt (s : State) (l : Loc) : State :=
  match l.line with
  | some n => if s.badLine n then s.detectEcc n else s
  | none => s

/-! ### The package registers -/

/-- The registers of the package space. -/
inductive PReg8 where
  | doorbell
  | bootStatus
  | logBase | logN | logHead | logTail | logLost
  | kick (q : Nat)
  | cores (d : Nat)
  | lg (c : Nat)
  | chan (s : Nat)
  | lanes (p : Nat)
  | fabric
  | syncErr
  | route (d : Nat)
  deriving DecidableEq, Repr

/-- The register at an offset of the package space, a multiple of 8 (R345, R350, R359, R363, R365, R374). -/
def regAt (o : Nat) : Option PReg8 :=
  if o = 0x100 then some .doorbell
  else if o = 0x200 then some .bootStatus
  else if o = 0x400 then some .logBase
  else if o = 0x408 then some .logN
  else if o = 0x410 then some .logHead
  else if o = 0x418 then some .logTail
  else if o = 0x420 then some .logLost
  else if 0x1000 ≤ o ∧ o < 0x1200 then some (.kick ((o - 0x1000) / 8))
  else if 0x2000 ≤ o ∧ o < 0x2020 then some (.cores ((o - 0x2000) / 8))
  else if 0x2040 ≤ o ∧ o < 0x2840 then some (.lg ((o - 0x2040) / 8))
  else if 0x2840 ≤ o ∧ o < 0x28C0 then some (.chan ((o - 0x2840) / 8))
  else if 0x28C0 ≤ o ∧ o < 0x2920 then some (.lanes ((o - 0x28C0) / 8))
  else if o = 0x3000 then some .fabric
  else if o = 0x3008 then some .syncErr
  else if 0x3100 ≤ o ∧ o < 0x3200 then some (.route ((o - 0x3100) / 8))
  else none

/-- Hub SRAM: the lease and the heartbeats, the log's boot buffer, the coordinator's ring (R345, R347, R349, R365). -/
def hubSram (o : Nat) : Bool :=
  o < 0x30 || decide (0x8000 ≤ o ∧ o < 0x8800) || decide (0x10000 ≤ o ∧ o < 0x14000)

/-- Usable lanes of a port. -/
def laneCount (b : BitVec 8) : Nat := ((List.range 8).filter (fun i => b.getLsbD i)).length

/-- What a register reads. -/
def State.regRead (s : State) : PReg8 → Word
  | .doorbell => s.pkg.doorbell
  | .bootStatus => s.pkg.boot.status
  | .logBase => s.pkg.log.base
  | .logN => BitVec.ofNat 64 s.pkg.log.n
  | .logHead => s.pkg.log.head
  | .logTail => s.pkg.log.tail
  | .logLost => s.pkg.log.lost
  | .kick q => s.pkg.kick.toList.getD q 0
  | .cores d => (List.range 64).foldl (fun (w : Word) c => if (s.coreCfg (d * 64 + c)).lg = 0 then w else w ||| (1 <<< c)) 0
  | .lg c => BitVec.ofNat 64 (s.coreCfg c).lg
  | .chan k => (s.pkg.chan.getD k 0).setWidth 64
  | .lanes p => BitVec.ofNat 64 (laneCount ((s.pkg.ports[p]?.map (·.lanes)).getD 0))
  | .fabric => BitVec.ofNat 64 (s.pkg.fid % 32 + (if s.pkg.tmaster then 256 else 0) + (if s.pkg.sync.lock then 512 else 0))
  | .syncErr => s.pkg.sync.err.setWidth 64
  | .route d => (s.pkg.route.toList.getD d 0xF).setWidth 64

/-- A write of a register (R6): RW fields take the value; RO and reserved ones keep theirs. A write to LOGBASE or LOGN moves
the log (R365); LOGN keeps its value on one outside 6 to 24. -/
def State.regWrite (s : State) (r : PReg8) (v : Word) : State :=
  match r with
  | .doorbell => { s with pkg := { s.pkg with doorbell := v } }
  | .logBase => { s with pkg := { s.pkg with log := { s.pkg.log with base := v &&& ~~~63, tail := s.pkg.log.head } } }
  | .logN =>
    let n := v.toNat % 32
    { s with pkg := { s.pkg with log := { s.pkg.log with
        logn := if 6 ≤ n ∧ n ≤ 24 then n else s.pkg.log.logn, tail := s.pkg.log.head } } }
  | .logTail => { s with pkg := { s.pkg with log := { s.pkg.log with tail := v } } }
  | .kick q => { s with pkg := { s.pkg with kick := s.pkg.kick.setIfInBounds q v } }
  | .fabric => { s with pkg := { s.pkg with fid := v.toNat % 32, tmaster := v.getLsbD 8 } }
  | .route d => { s with pkg := { s.pkg with route := s.pkg.route.setIfInBounds d (v.setWidth 4) } }
  | .bootStatus | .logHead | .logLost | .cores _ | .lg _ | .chan _ | .lanes _ | .syncErr => s

/-! ### Accesses -/

/-- n bytes of the package space that lie in one 8-byte word. A word that names no register reads a free value and takes
no write: the spec describes none there. -/
def State.regAccess (s : State) (op : ReqOp) (o n : Nat) : Nat × State :=
  if hubSram o then
    let a := regBase + o
    let old := s.mem.readN a n
    (old, match op.apply n old with | some v => s.unitStore a n v | none => s)
  else
    let sh := 2 ^ (8 * (o % 8))
    match regAt (o / 8 * 8) with
    | none => ((Config.freeValue s.draws).toNat % 2 ^ (8 * n), { s with draws := s.draws + 1 })
    | some r =>
      let w := (s.regRead r).toNat
      let old := w / sh % 2 ^ (8 * n)
      (old, match op.apply n old with
        | some x => s.regWrite r (BitVec.ofNat 64 (w - old * sh + x % 2 ^ (8 * n) * sh))
        | none => s)

/-- A longer access: word by word. -/
def State.regRange (s : State) (op : ReqOp) (o : Nat) : Nat → Nat → Nat × State
  | 0, _ => (0, s)
  | fuel + 1, n =>
    if n = 0 then (0, s)
    else
      let k := min n (8 - o % 8)
      let part : ReqOp := match op with | .write x => .write (x % 2 ^ (8 * k)) | p => p
      let r := s.regAccess part o k
      let rest : ReqOp := match op with | .write x => .write (x / 2 ^ (8 * k)) | p => p
      let r2 := State.regRange r.2 rest (o + k) fuel (n - k)
      (r.1 + 2 ^ (8 * k) * r2.1, r2.2)



/-- The port that leads to a remote address (R375); none where there is no route. -/
def State.portOf (s : State) (pa : Nat) : Option Nat :=
  let p := (s.pkg.route.toList.getD (pa / 2 ^ 47) 0xF).toNat
  if p < 12 then some p else none

/-- A remote access that cannot be delivered is logged (R376). -/
def State.logRemote (s : State) (pa : Nat) : State :=
  let p := (s.portOf pa).getD 0xF
  s.logKind 5 p 5 (laneCount ((s.pkg.ports[p]?.map (·.lanes)).getD 0)) 0 pa

/-! ### Flits (R369 to R371) -/

/-- One step of CRC-64/ECMA-182: polynomial 0x42F0E1EBA9EA3693, the most significant bit first. -/
def crcBit (c : BitVec 64) : BitVec 64 := if c.msb then (c <<< 1) ^^^ 0x42F0E1EBA9EA3693 else c <<< 1
def crcByte (c : BitVec 64) (b : BitVec 8) : BitVec 64 :=
  (List.range 8).foldl (fun c _ => crcBit c) (c ^^^ (b.setWidth 64 <<< 56))
/-- The CRC of bytes 0x00 to 0xF7. -/
def Flit.crcOf (f : Flit) : BitVec 64 := (List.range 248).foldl (fun c i => crcByte c (f.extractLsb' (8 * i) 8)) 0

/-- A flit as it leaves: SEQ, ACK, VC, TYPE, destination, source, payload, CRC. -/
def flitOf (seq ack : BitVec 16) (vc type dest src : Nat) (payload : BitVec 1920) : Flit :=
  let f : Flit := BitVec.ofNat 2048 (seq.toNat + 2 ^ 16 * ack.toNat + 2 ^ 32 * (vc % 8 + 16 * (type % 16)) + 2 ^ 40 * (dest % 32) +
    2 ^ 48 * (src % 32) + 2 ^ 64 * payload.toNat)
  f ||| f.crcOf.setWidth 2048 <<< 1984
/-- The flits that a port has sent and no ACK covers are at most 512 (R370). -/
def Port.room (q : Port) : Bool := decide (q.retry.length < 512)
/-- A flit leaves: it takes the next SEQ, acknowledges what has come in order, and stands in the retry buffer. -/
def Port.send (q : Port) (vc type dest src key : Nat) (payload : BitVec 1920) : Port :=
  let f := flitOf q.tx (q.rx - 1) vc type dest src payload
  { q with tx := q.tx + 1, retry := q.retry ++ [⟨q.tx, vc, dest, key, f⟩], out := [f] }
/-- Whether a data flit of a VC can leave now: the VC is not paused (R371). -/
def Port.canSend (q : Port) (vc : Nat) : Bool := q.room && !q.paused.getLsbD vc

/-- The channel of a request (R371, R379): copies move on VC 2. -/
def DevAsk.vc (a : DevAsk) : Nat := if a.key % 4 = 3 then 2 else 0
/-- What a request's payload says (R376): the plot for which it is made, the place, what it asks. -/
def ReqOp.says (op : ReqOp) (plot pa n : Nat) : List Nat :=
  plot :: pa % 2 ^ 47 :: n :: (match op with
    | .read => [0]
    | .write x => [1, x]
    | .amo op b d => [2, op.ctorIdx, b, d]
    | .merge m v => [3, m, v]
    | .claim d => [4, if d then 1 else 0]
    | .release => [5])
/-- The plot for which the request of a number is made: that of the CT, the queue, the launch or the run that asks; a system core has
none, which is written 8. -/
def State.askPlot (s : State) (key : Nat) : Nat :=
  let k := key % 2 ^ 40
  if k < 2 ^ 38 then k / 2 ^ 34
  else
    let i := fun (base : Nat) => (k - base) / 4
    (if k < 2 ^ 38 + 64 then none
    else if k < 2 ^ 39 then (s.pkg.queues.find? fun q => q.q = i (2 ^ 38 + 64)).map (·.plot)
    else if k < 2 ^ 39 + 2 ^ 38 then (s.launchOf (i (2 ^ 39))).map (·.plot)
    else (s.pkg.runs.find? fun r => r.id = i (2 ^ 39 + 2 ^ 38)).map (·.plot)).getD 8

/-- Whether a data flit for a fabric id can leave now; where there is no route nothing holds it back. -/
def State.canSendTo (s : State) (dest vc : Nat) : Bool :=
  match s.pkg.ports[(s.pkg.route.toList.getD dest 0xF).toNat]? with
  | some q => q.canSend vc
  | none => true
/-- A data flit for a fabric id leaves through the port of its route; while it cannot, it waits behind those of its channel (R370,
R371). -/
def State.sendTo (s : State) (dest vc key : Nat) (what : List Nat) : State :=
  let p := (s.pkg.route.toList.getD dest 0xF).toNat
  match s.pkg.ports[p]? with
  | none => s
  | some q =>
    if !s.canSendTo dest vc || s.pkg.unsent.any (fun u => u.dest = dest && u.vc = vc) then
      { s with pkg := { s.pkg with unsent := s.pkg.unsent ++ [⟨dest, vc, key, what⟩] } }
    else { s with pkg := { s.pkg with ports := s.pkg.ports.setIfInBounds p (q.send vc 0 dest s.pkg.fid key (Config.payload what)) } }
/-- A control flit of a type for the partner leaves, or waits for room. -/
def Port.control (q : Port) (type fid : Nat) (payload : BitVec 1920) : Port :=
  if q.due.isEmpty && q.room then
    let t := q.send 0 type q.partner fid 0 payload
    { t with out := q.out ++ t.out }
  else { q with due := q.due ++ [(type, payload)] }
/-- The control flits that wait are tried again. -/
def Port.retryDue (q : Port) (fid : Nat) : Port :=
  q.due.foldl (fun t d => t.control d.1 fid d.2) { q with due := [], out := [] }
/-- The flits that wait are tried again, each channel's in order. -/
def State.retryUnsent (s : State) : State :=
  let t := if s.pkg.ports.toList.all (·.due.isEmpty) then s
    else { s with pkg := { s.pkg with ports := s.pkg.ports.map fun q => if q.due.isEmpty then q else q.retryDue s.pkg.fid } }
  match t.pkg.unsent with
  | [] => t
  | l => l.foldl (fun t u => t.sendTo u.dest u.vc u.key u.what) { t with pkg := { t.pkg with unsent := [] } }

/-- Sends a request: it stands in the table until it is answered; one to a remote module leaves as a flit (R370, R375). -/
def State.request (s : State) (ask : DevAsk) (pa n : Nat) : State :=
  let t := { s with pkg := { s.pkg with reqs := s.pkg.reqs ++ [⟨ask.key, pa, n, ask.op, none⟩] } }
  if pa / 2 ^ 47 = 0 then t else t.sendTo (pa / 2 ^ 47) ask.vc ask.key (ask.op.says (s.askPlot ask.key) pa n)
/-- The homes of some lines of other modules learn that a plot's copy claims them no longer (R379). -/
def State.releaseFar (s : State) (plot : Nat) (ls : List Nat) : State :=
  ls.foldl (fun t l => t.sendTo (l / 2 ^ 40) 2 0 (ReqOp.release.says plot (128 * l) 128)) s

/-- The state of a request: its answer, or the wait for it. -/
def State.ask (s : State) (ask : DevAsk) (pa n : Nat) : MRes Nat :=
  match s.pkg.reqs.find? (fun r => r.key = ask.key) with
  | some r => match r.ans with
    | some (.val x) => .ok x
    | some .refused => .flt 2 s
    | some .failed => .flt 4 s
    | none => .stall s
  | none =>
    if pa / 2 ^ 47 ≠ 0 ∧ (s.portOf pa).isNone then .flt 4 (s.logRemote pa)
    else .stall (s.request ask pa n)

/-- An access of n bytes beyond main memory: the value read, a fault with its cause, or a wait for an answer. -/
def State.dev (s : State) (ask : DevAsk) (pa n : Nat) : MRes (Nat × State) :=
  if regBase ≤ pa ∧ pa < regEnd then .ok (s.regRange ask.op (pa - regBase) n n)
  else match s.ask ask pa n with
    | .ok x => .ok (x % 2 ^ (8 * n), { s with pkg := { s.pkg with reqs := s.pkg.reqs.filter (fun r => r.key != ask.key) } })
    | .flt c t => .flt c { t with pkg := { t.pkg with reqs := t.pkg.reqs.filter (fun r => r.key != ask.key) } }
    | .stall t => .stall t

/-- Whether dev would answer at once: nothing, a fault's cause, or a wait with the request sent. -/
def State.devReady (s : State) (ask : DevAsk) (pa n : Nat) : MRes Unit :=
  if regBase ≤ pa ∧ pa < regEnd then .ok ()
  else match s.ask ask pa n with
    | .ok _ => .ok ()
    | .flt c t => .flt c t
    | .stall t => .stall t

end Sys2Proof.Machine
end

