-- ==== Sys2Proof/Machine/Flags.lean ====
section
/-! DEFINITION. What one element computes, and the flags it raises: the elementwise, widening, narrowing, conversion,
special-function, comparison and classification forms (spec chapter 04, R73 to R89), on the bits of the elements. -/
namespace Sys2Proof.Machine

/-- The width a tag code gives an element in a register (R37); 0 for untyped and unassigned codes. -/
def tagWidth (code : Nat) : Nat :=
  match code with
  | 1 => 2 | 2 => 4 | 3 => 8 | 4 => 8 | 5 => 16 | 6 => 16 | 7 => 32 | 8 => 32 | 9 => 64 | 10 => 64
  | 11 => 8 | 12 => 4 | 13 => 16 | 14 => 16 | 15 => 32 | 16 => 64 | 17 => 128 | 18 => 128
  | _ => 0

/-- The integer kind of a tag code (R37). -/
def tagInt (code : Nat) : Option ITag :=
  match code with
  | 1 => some ⟨2, true⟩ | 2 => some ⟨4, true⟩ | 3 => some ⟨8, true⟩ | 4 => some ⟨8, false⟩
  | 5 => some ⟨16, true⟩ | 6 => some ⟨16, false⟩ | 7 => some ⟨32, true⟩ | 8 => some ⟨32, false⟩
  | 9 => some ⟨64, true⟩ | 10 => some ⟨64, false⟩
  | _ => none

/-- The type that a tag byte names under the format registers (R22, R37, R43): none for an untyped or unassigned tag, and
for a flex tag whose format register holds no valid format of its width. -/
def tyOf (fmt : Vector Word 8) (byte : BitVec 8) : Option Ty :=
  let code := byte.toNat / 8
  match tagInt code with
  | some t => some (.int byte t)
  | none =>
    match code with
    | 11 => match fmtOfReg fmt[byte.toNat % 8] with
      | some f => if 5 ≤ f.width then some (.fp byte f 8) else none
      | none => none
    | 12 => match fmtOfReg fmt[byte.toNat % 8] with
      | some f => if f.width ≤ 4 then some (.fp byte f 4) else none
      | none => none
    | 13 => some (.fp byte fmtBf16 16)
    | 14 => some (.fp byte fmtF16 16)
    | 15 => some (.fp byte fmtF32 32)
    | 16 => some (.fp byte fmtF64 64)
    | 17 => some .fpos
    | 18 => some .fdisp
    | _ => none

/-- Whether two tag bytes are the same tag: the format slot counts for the flex tags alone (R73). -/
def sameTag (a b : BitVec 8) : Bool :=
  decide (a.toNat / 8 = b.toNat / 8) && (a == b || !decide (a.toNat / 8 = 11 ∨ a.toNat / 8 = 12))

/-- The width of an element of a type in its register. -/
def Ty.w : Ty → Nat
  | .int _ t => t.w
  | .fp _ _ cw => cw
  | .fpos => 128
  | .fdisp => 128
/-- The tag byte of a type. -/
def Ty.byte : Ty → BitVec 8
  | .int b _ => b
  | .fp b _ _ => b
  | .fpos => 0x88
  | .fdisp => 0x90
def Ty.isInt : Ty → Bool
  | .int _ _ => true
  | _ => false
def Ty.isFp : Ty → Bool
  | .fp _ _ _ => true
  | _ => false
def Ty.isFramed : Ty → Bool
  | .fpos => true
  | .fdisp => true
  | _ => false
/-- The tag code (R37). -/
def Ty.code (t : Ty) : Nat := t.byte.toNat / 8

/-- The exact value of a floating element (R60). -/
def Ty.val (t : Ty) (bits : Nat) : FVal :=
  match t with
  | .fp _ f _ => decodeVal f bits
  | .int _ k => fvalOfInt (intOf k bits)
  | _ => .fin false 0 0

/-- Quotient and remainder of R76, on the exact operands of kind t. -/
def divRem (t : ITag) (a b : Int) : Nat × Nat :=
  if b = 0 then (2 ^ t.w - 1, wrapInt t.w a)
  else if t.signed ∧ a = -(2 ^ (t.w - 1) : Nat) ∧ b = -1 then (wrapInt t.w a, 0)
  else
    let q := Int.tdiv a b
    (wrapInt t.w q, wrapInt t.w (a - q * b))

/-- An integer two-source operation with old destination c, at the result kind t (R76, R77, R79, R80, R86). -/
def intBin (op : BinOp) (xrm : Nat) (t ta tb : ITag) (a b c : Nat) : Nat × Fl :=
  let x := intOf ta a
  let y := intOf tb b
  let z := intOf t c
  let s := b % 2 ^ tb.w % t.w
  match op with
  | .add => (wrapInt t.w (x + y), {})
  | .sub => (wrapInt t.w (x - y), {})
  | .mul => (wrapInt t.w (x * y), {})
  | .mulh => (wrapInt t.w (x * y / (2 ^ t.w : Nat)), {})
  | .div => ((divRem t x y).1, {})
  | .rem => ((divRem t x y).2, {})
  | .min => (wrapInt t.w (min x y), {})
  | .max => (wrapInt t.w (max x y), {})
  | .and => (a % 2 ^ t.w &&& b % 2 ^ t.w, {})
  | .or => (a % 2 ^ t.w ||| b % 2 ^ t.w, {})
  | .xor => (a % 2 ^ t.w ^^^ b % 2 ^ t.w, {})
  | .andn => (a % 2 ^ t.w &&& (2 ^ t.w - 1 - b % 2 ^ t.w), {})
  | .shl => (a * 2 ^ s % 2 ^ t.w, {})
  | .shr => (a % 2 ^ t.w / 2 ^ s, {})
  | .sha => (wrapInt t.w (intOf ⟨t.w, true⟩ a / (2 ^ s : Nat)), {})
  | .fma => (wrapInt t.w (x * y + z), {})
  | .fms => (wrapInt t.w (x * y - z), {})
  | .fnma => (wrapInt t.w (z - x * y), {})
  | .clamp => (wrapInt t.w (min (max z x) y), {})
  | .addSat => let (d, ch) := satInt t (x + y); (d, { sat := ch })
  | .subSat => let (d, ch) := satInt t (x - y); (d, { sat := ch })
  | .nshr => let (d, ch) := satInt t (roundFixed xrm x (b % 2 ^ tb.w % 64)); (d, { sat := ch })

/-- VCLAMP of floating values: max first, then min, one rounding (R80). -/
def fpClamp (f : Fmt) (rm : Rm) (r : Nat) (a b c : FVal) : Nat × Fl :=
  let nv := a.isSnan || b.isSnan || c.isSnan
  let q : FVal → FVal := fun v => if v.isNan then .nan false else v
  let x := pickMin true (q c) (q a)
  let y := pickMin false x (q b)
  let (d, fl) := roundFp f rm r y
  (d, fl.or { nv := nv })

/-- A floating two-source operation with old destination c, rounded into f (R78 to R80, R86). The operations that only
integer tags admit (R75) answer zero: decode refuses them. -/
def fpBin (op : BinOp) (f : Fmt) (rm : Rm) (r : Nat) (a b c : FVal) : Nat × Fl :=
  match op with
  | .add => fpAdd f rm r a b
  | .sub => fpSub f rm r a b
  | .mul => fpMul f rm r a b
  | .div => fpDiv f rm r a b
  | .min => fpMinMax false f rm r a b
  | .max => fpMinMax true f rm r a b
  | .fma => fpFma f rm r a b c
  | .fms => fpFma f rm r a b c.negate
  | .fnma => fpFma f rm r a.negate b c
  | .clamp => fpClamp f rm r a b c
  | _ => (0, {})

/-- A two-source operation on elements (R73, R86). -/
def elemBin (op : BinOp) (rt ta tb : Ty) (rm : Rm) (xrm r : Nat) (a b c : Nat) : Nat × Fl :=
  match rt, ta, tb with
  | .int _ t, .int _ k, .int _ l => intBin op xrm t k l a b c
  | .fp _ f _, _, _ => fpBin op f rm r (ta.val a) (tb.val b) (rt.val c)
  | _, _, _ => (0, {})

/-- The floating rows of VABS and VNEG (R81): a NaN gives the canonical NaN with no flag. -/
def fpSign (neg : Bool) (f : Fmt) (bits : Nat) : Nat × Fl :=
  let m := bits % 2 ^ (f.e + f.m)
  let s := bits / 2 ^ (f.e + f.m) % 2
  if (decodeVal f bits).isNan then (f.nanBits, {})
  else if f.s = 0 then (if neg && decide (m ≠ 0) then (0, { nv := true }) else (m, {}))
  else if neg then (m + (1 - s) * 2 ^ (f.e + f.m), {})
  else (m, {})

/-- convert_value (R53), the helper of every conversion: a NaN becomes the canonical one, and with sat an infinity the
largest finite value, between equal formats too. -/
def convertValue (sat : Bool) (src dst : Ty) (rm : Rm) (r bits : Nat) : Nat × Fl :=
  match src, dst with
  | .int _ t, .int _ u =>
    if sat then let (d, ch) := satInt u (intOf t bits); (d, { sat := ch })
    else (wrapInt u.w (intOf t bits), {})
  | .int _ t, .fp _ f _ => cvtToFp f rm r sat (fvalOfInt (intOf t bits))
  | .fp _ f _, .int _ u => cvtToInt u rm r (decodeVal f bits)
  | .fp _ f _, .fp _ g _ => cvtToFp g rm r sat (decodeVal f bits)
  | _, _ => (0, {})

/-- VCVT and VCVT.SAT (R85): between equal tag bytes the bits stay, but for a signalling NaN and the container bits above
a flex width (R43); otherwise convert_value. -/
def vcvtElem (sat : Bool) (src dst : Ty) (rm : Rm) (r bits : Nat) : Nat × Fl :=
  match src with
  | .fp b f _ =>
    if sameTag b dst.byte then
      if (decodeVal f bits).isSnan then (f.nanBits, { nv := true }) else (bits % 2 ^ f.width, {})
    else convertValue sat src dst rm r bits
  | _ => convertValue sat src dst rm r bits

/-- A one-source operation on an element (R81, R85 to R87). -/
def elemUn (op : UnOp) (rt ta : Ty) (rm : Rm) (r : Nat) (a : Nat) : Nat × Fl :=
  match op, ta with
  | .abs, .int _ t => (if t.signed then wrapInt t.w (intOf t a).natAbs else a % 2 ^ t.w, {})
  | .neg, .int _ t => (wrapInt t.w (-(intOf t a)), {})
  | .abs, .fp _ f _ => fpSign false f a
  | .neg, .fp _ f _ => fpSign true f a
  | .mov, _ => (a, {})
  | .cvt, _ => vcvtElem false ta rt rm r a
  | .cvtSat, _ => vcvtElem true ta rt rm r a
  | .ncvt, .int _ t =>
    match rt with
    | .int _ u => let (d, ch) := satInt u (intOf t a); (d, { sat := ch })
    | _ => (0, {})
  | .sqrt, .fp _ f _ => fpSqrt f rm r (decodeVal f a)
  | .rcp, .fp _ f _ => fpRcp f rm r (decodeVal f a)
  | .rsq, .fp _ f _ => fpRsq f rm r (decodeVal f a)
  | .exp2, .fp _ f _ => fpExp2 f rm r (decodeVal f a)
  | .log2, .fp _ f _ => fpLog2 f rm r (decodeVal f a)
  | _, _ => (0, {})

/-- A comparison of exact values, with the NV rule of R88. -/
def fpCmp (c : CmpOp) (a b : FVal) : Bool × Fl :=
  let nan := a.isNan || b.isNan
  let snan := a.isSnan || b.isSnan
  match c with
  | .eq => (!nan && fvEq a b, { nv := snan })
  | .ne => (nan || !fvEq a b, { nv := snan })
  | .lt => (!nan && fvLt a b, { nv := nan })
  | .le => (!nan && (fvLt a b || fvEq a b), { nv := nan })
  | .gt => (!nan && fvLt b a, { nv := nan })
  | .ge => (!nan && (fvLt b a || fvEq a b), { nv := nan })
  | .un => (nan, { nv := snan })
def intCmp (c : CmpOp) (a b : Int) : Bool :=
  match c with
  | .eq => a = b | .ne => a ≠ b | .lt => a < b | .le => a ≤ b | .gt => a > b | .ge => a ≥ b | .un => false
/-- VCMP of elements (R88). -/
def elemCmp (c : CmpOp) (ta tb : Ty) (a b : Nat) : Bool × Fl :=
  match ta, tb with
  | .int _ t, .int _ u => (intCmp c (intOf t a) (intOf u b), {})
  | _, _ => fpCmp c (ta.val a) (tb.val b)

/-- VCLASS (R89): whether an element of format f falls in class k. -/
def fpClass (k : Nat) (f : Fmt) (bits : Nat) : Bool :=
  let v := decodeVal f bits
  let ex := bits / 2 ^ f.m % 2 ^ f.e
  let fin : Bool := match v with | .fin _ _ _ => true | _ => false
  let zero := v.isZero
  let sub := fin && !zero && decide (ex = 0)
  let nrm := fin && !zero && decide (ex ≠ 0)
  match k with
  | 0 => zero && !v.neg
  | 1 => zero && v.neg
  | 2 => sub && !v.neg
  | 3 => sub && v.neg
  | 4 => nrm && !v.neg
  | 5 => nrm && v.neg
  | 6 => v.isInf && !v.neg
  | 7 => v.isInf && v.neg
  | 8 => v.isNan && !v.isSnan
  | 9 => v.isSnan
  | 10 => v.isNan
  | 11 => v.isInf
  | 12 => zero
  | 13 => sub
  | 14 => fin
  | _ => fin && !zero

/-- An element's 64-bit form in a scalar register: sign-extended for i tags, zero-extended otherwise (R83, R180). -/
def extendElem (t : Ty) (bits : Nat) : Word :=
  match t with
  | .int _ k => if k.signed then BitVec.ofInt 64 (intOf k bits) else BitVec.ofNat 64 (bits % 2 ^ k.w)
  | _ => BitVec.ofNat 64 (bits % 2 ^ t.w)

/-- VIOTA's element (R84): the exact integer converted to the type. -/
def iotaElem (t : Ty) (rm : Rm) (r : Nat) (x : Int) : Nat × Fl :=
  match t with
  | .int _ k => (wrapInt k.w x, {})
  | .fp _ f _ => roundFp f rm r (fvalOfInt x)
  | _ => (0, {})

/-- The result type of two operand types for the two-source forms (R73); f32 and f64 carry fmt slot 0. -/
def promote (ta tb : Ty) : Option Ty :=
  match ta, tb with
  | .int b t, .int c _ => if b.toNat / 8 = c.toNat / 8 then some (.int b t) else none
  | .fp b f w, .fp c _ _ =>
    if sameTag b c then some (.fp b f w)
    else if b.toNat / 8 = 16 ∨ c.toNat / 8 = 16 then some (.fp 0x80 fmtF64 64)
    else some (.fp 0x78 fmtF32 32)
  | _, _ => none

end Sys2Proof.Machine
end

