-- ==== Sys2Proof/Machine/Operands.lean ====
section
/-! DEFINITION. Operand forms: the memory operands of the scalar side, the elements of vector and predicate registers, the
cells of planes and accumulator slots. -/
namespace Sys2Proof.Machine

/-! ### Memory operands -/

/-- The bytes of a read of the agent in focus at its place, now: the stores of its own side that it meets are performed first
(R139). -/
def State.readNow (s : State) (l : Loc) (n : Nat) : Nat × Nat × State :=
  let t := s.flush (s.own l n)
  match s.side with
  | some d => (t.peek t.ct.via l n, s.moment, t.note d s.moment l n)
  | none => (s.peek s.via l n, s.moment, s)
/-- The same at the moment that the next load of a CT's stream takes, now or an earlier one (R323, R324). -/
def State.readEarly (s : State) (l : Loc) (n : Nat) : Nat × Nat × State :=
  match s.side with
  | some d => (s.flush (s.own l n)).readEvent d (s.ct.floors.get d) l n
  | none => (s.peek s.via l n, s.moment, s)

/-- A read of n bytes at a by the agent in focus (R138, R226, R227, R261, R273, R280, R281, R318, R323): the value, its moment and
the state it leaves, a fault, or a wait. `k` is load, or fetch for an instruction word; `rd` reads at the place. A load under a
watermark binding takes its value now (R331). -/
def State.loadWith (s : State) (rd : State → Loc → Nat → Nat × Nat × State) (a : Word) (n : Nat) (k : Kind) :
    MRes (Nat × Nat × State) :=
  if s.walkHeldNow a then .stall s else
  match s.place a n k with
  | .error c => .flt c (s.detectWalk a c)
  | .ok l =>
    if provStalls s s.via a l k then .stall (provWait s)
    else if s.claimed s.via l n k || (decide (k = .load) && wmWaitsN s a n) then .stall s
    else
      match s.beyond s.via l n k with
      | some pa => match s.dev ⟨s.port, .read⟩ pa n with
        | .ok r => .ok (s.provOver s.via pa r.1 n, s.moment, r.2)
        | .flt c t => .flt c t
        | .stall t => .stall t
      | none =>
        if s.readsBad s.via l n then .flt 4 (s.detectAt l)
        else if k = .fetch then .ok (s.peek s.via l n, s.moment, s)
        else if s.canFlush s.ct (s.own l n) then
          .ok (if wmBound s.ct.wmb a n then s.readNow l n else rd s l n)
        else .stall s
/-- A load that takes its value now. -/
def State.memLoad (s : State) (a : Word) (n : Nat) (k : Kind) : MRes (Nat × State) :=
  match s.loadWith State.readNow a n k with
  | .ok r => .ok (r.1, r.2.2)
  | .flt c t => .flt c t
  | .stall t => .stall t

/-- Whether a side's store of the CT in focus is delayed (R323): while its stores are, one to the package's own memory, whose line
no error has poisoned. -/
def State.delays (s : State) (l : Loc) : Bool :=
  s.ct.lag && decide (s.ct.status = .running) && (match l with
    | .phys pa ty => decide (pa < mainEnd ∧ ty < 2)
    | .sram _ => true
    | _ => false) && !s.poisonedAt l
/-- A store of the CT in focus is delayed: it stands behind the older ones. -/
def State.delay (s : State) (e : SbEnt) : State :=
  { s with ct := { s.ct with sbuf := s.ct.sbuf ++ [e], sbn := s.ct.sbn + 1 } }.note e.side s.moment e.loc e.n
/-- A store of the CT in focus is performed, after the older ones that it may not overtake. -/
def State.storeNow (s : State) (e : SbEnt) : State :=
  ((s.flush (fun f => e.follows f)).performEnt e).note e.side s.moment e.loc e.n
/-- A store of a side at its place, of all bits or of those of a mask: it is performed now, after the side's older ones that it
meets, or, where the CT's stores are delayed, later (R139, R158, R323). -/
def State.storeBy (s : State) (d : Side) (rel : Bool) (l : Loc) (n : Nat) (mask : Option Nat) (x : Nat) : State :=
  let e : SbEnt := ⟨d, s.ct.sbn, rel, none, l, n, mask, x⟩
  if s.delays l then s.delay e else s.storeNow e
/-- Whether a store that is not delayed can be performed: the older ones that it follows can. -/
def State.storeFree (s : State) (d : Side) (rel : Bool) (l : Loc) (n : Nat) : Bool :=
  s.delays l || s.canFlush s.ct (fun f => (⟨d, 0, rel, none, l, n, none, 0⟩ : SbEnt).follows f)
/-- A store of the agent in focus at its place. -/
def State.storeAt (s : State) (l : Loc) (n x : Nat) (rel : Bool := false) : State :=
  match s.side with
  | some d => s.storeBy d rel l n none x
  | none => (s.poke s.via l n x).stored s.via l (some s.who)

/-- A scalar store at a place that nothing holds back: within the package at once or delayed, beyond it once it is answered; a
release there follows every older store of its side. -/
def State.storeTo (s : State) (l : Loc) (n x : Nat) (rel : Bool := false) : MRes State :=
  match s.beyond s.via l n .store with
  | some pa =>
    if rel && !s.canFlush s.ct s.mine then .stall s
    else match (if rel then s.flush s.mine else s).dev ⟨s.port, .write x⟩ pa n with
      | .ok r => .ok (r.2.stored s.via l (some s.who))
      | .flt c t => .flt c t
      | .stall t => .stall t
  | none => match s.side with
    | some d => if s.storeFree d rel l n then .ok (s.storeAt l n x rel) else .stall s
    | none => .ok (s.storeAt l n x rel)

/-- A store of the low n bytes of x at a by the agent in focus. -/
def State.memStore (s : State) (a : Word) (n x : Nat) : MRes State :=
  if s.walkHeldNow a then .stall s else
  match s.place a n .store with
  | .error c => .flt c (s.detectWalk a c)
  | .ok l =>
    if provStalls s s.via a l .store then .stall (provWait s)
    else if s.claimed s.via l n .store then .stall s
    else s.storeTo l n x

/-- What follows a memory access of a scalar word: the rest of the word, the memory fault, or the wait. -/
def MRes.orRaise {α : Type} (m : MRes α) (a : Word) (f : α → State) : State :=
  match m with
  | .ok x => f x
  | .flt c t => raise t (trapMem c a)
  | .stall t => t

/-! ### Elements of registers -/

/-- VLEN of a CT's core (R64). -/
def Ct.vlen (c : Ct) : Nat := 2048 * c.lg

/-- w bits of a wide pattern at a bit offset. -/
def getBits {n : Nat} (x : BitVec n) (off w : Nat) : Nat := (x.extractLsb' off w).toNat
/-- The pattern with w bits at an offset replaced. -/
def setBits {n : Nat} (x : BitVec n) (off w v : Nat) : BitVec n :=
  (x &&& ~~~(BitVec.ofNat n (2 ^ w - 1) <<< off)) ||| (BitVec.ofNat n (v % 2 ^ w) <<< off)

/-- Element e of width w of the group that starts at register r (R38). -/
def Ct.vget (c : Ct) (r w e : Nat) : Nat :=
  match c.v[r + e * w / c.vlen]? with
  | some x => getBits x (e * w % c.vlen) w
  | none => 0
/-- Element e of width w of the group at r, replaced; the other bits stay. -/
def Ct.vset (c : Ct) (r w e x : Nat) : Ct :=
  match c.v[r + e * w / c.vlen]? with
  | some y => { c with v := c.v.setIfInBounds (r + e * w / c.vlen) (setBits y (e * w % c.vlen) w x) }
  | none => c

/-- Bit e of a predicate; p0 reads all ones (R108). -/
def Ct.pbit (c : Ct) (p e : Nat) : Bool :=
  if p = 0 then true else (c.p[p]?.getD 0).getLsbD e
/-- Bit e of a predicate, written; a write to p0 is discarded (R108). -/
def Ct.psetBit (c : Ct) (p e : Nat) (b : Bool) : Ct :=
  if p = 0 then c
  else match c.p[p]? with
    | some y => { c with p := c.p.setIfInBounds p (setBits y e 1 (if b then 1 else 0)) }
    | none => c

/-- Cell (k, j) of a plane (R193). -/
def planeCell (x : Plane) (k j : Nat) : Nat := getBits x (16 * (128 * k + j)) 16
def planeSet (x : Plane) (k j v : Nat) : Plane := setBits x (16 * (128 * k + j)) 16 v
/-- Element (i, j) of a slot (R193). -/
def accElem (x : Acc) (i j : Nat) : Nat := getBits x (32 * (128 * i + j)) 32
def accSet (x : Acc) (i j v : Nat) : Acc := setBits x (32 * (128 * i + j)) 32 v

end Sys2Proof.Machine
end

