-- ==== Sys2Proof/Machine/Velem.lean ====
section
/-! DEFINITION. What a posted elementwise, selection, comparison or predicate word does when it runs (spec chapters 04 and 06):
the elements that compute, and their results. -/
namespace Sys2Proof.Machine

/-- What a run of the oldest VIQ entry comes to: it completed with flags, it stopped the CT and stays at the head as x
(R215), or it waits at the head as x, which keeps what it has popped and completed (R51, R170). -/
inductive VStep where
  | done (s : State) (fl : Fl)
  | stop (s : State) (x : Ventry) (t : Trap)
  | wait (s : State) (x : Ventry)

/-- Whether position e computes in entry x, with vstart taken as `from_` (R51, R109, R229). -/
def active (x : Ventry) (c : Ct) (from_ e : Nat) : Bool :=
  decide (from_ ≤ e) && decide (e < x.vl) &&
    (match x.pg with | some p => c.pbit p e | none => true) &&
    (match x.members with | some m => m.getLsbD e | none => true) &&
    (!x.masked || c.fmask.getLsbD e)
/-- The computing positions, rising. -/
def actives (x : Ventry) (c : Ct) : List Nat := (List.range x.vl).filter (active x c x.vstart)
/-- The computing positions of a word that treats vstart as 0 (R176, R180). -/
def actives0 (x : Ventry) (c : Ct) : List Nat := (List.range x.vl).filter (active x c 0)

/-- The random value of element e under SR (R47). -/
def Ventry.rand (x : Ventry) (e : Nat) : Nat := cmx x.key (x.sbase + BitVec.ofNat 64 e) x.srn

/-- Element e of an operand register: of the popped vector when the register is a bound feed (R170). -/
def opd (x : Ventry) (c : Ct) (r w e : Nat) : Nat :=
  match x.popped.find? (fun q => q.reg = r) with
  | some q => (q.elems.getD e (0, {})).1
  | none => c.vget r w e
/-- The flags that a popped element carries (R167). -/
def opdFl (x : Ventry) (r e : Nat) : Fl :=
  match x.popped.find? (fun q => q.reg = r) with
  | some q => (q.elems.getD e (0, {})).2
  | none => {}
/-- The second source's element. -/
def srcElem (x : Ventry) (c : Ct) (b : VSrc) (w e : Nat) : Nat :=
  match b with
  | .vec r => opd x c r w e
  | .sc v => v
def srcFl (x : Ventry) (b : VSrc) (e : Nat) : Fl :=
  match b with
  | .vec r => opdFl x r e
  | .sc _ => {}

/-- Writes f e into element e of the group at d, for each e listed; the flags are ORed. -/
def mapElems (c : Ct) (d w : Nat) (es : List Nat) (f : Nat → Nat × Fl) : Ct × Fl :=
  es.foldl (fun (acc : Ct × Fl) e => let r := f e; (acc.1.vset d w e r.1, acc.2.or r.2)) (c, {})

/-- Writes bits of a predicate, for each e listed. -/
def mapBits (c : Ct) (pd : Nat) (es : List Nat) (f : Nat → Bool × Fl) : Ct × Fl :=
  es.foldl (fun (acc : Ct × Fl) e => let r := f e; (acc.1.psetBit pd e r.1, acc.2.or r.2)) (c, {})

def doneCt (s : State) (r : Ct × Fl) : VStep := .done { s with ct := r.1 } r.2

/-- A two-source elementwise word (R67, R76 to R80, R86). -/
def runBin (x : Ventry) (s : State) (op : BinOp) (d : Nat) (rt : Ty) (a : Nat) (ta : Ty) (b : VSrc) (tb : Ty) : VStep :=
  let c := s.ct
  doneCt s (mapElems c d rt.w (actives x c) fun e =>
    let (v, fl) := elemBin op rt ta tb x.rm x.xrm (x.rand e) (opd x c a ta.w e) (srcElem x c b tb.w e) (opd x c d rt.w e)
    (v, fl.or ((opdFl x a e).or (srcFl x b e))))

/-- A one-source elementwise word (R81, R85 to R87). -/
def runUn (x : Ventry) (s : State) (op : UnOp) (d : Nat) (rt : Ty) (a : Nat) (ta : Ty) : VStep :=
  let c := s.ct
  doneCt s (mapElems c d rt.w (actives x c) fun e =>
    let (v, fl) := elemUn op rt ta x.rm (x.rand e) (opd x c a ta.w e)
    (v, fl.or (opdFl x a e)))

/-- VMOV (R82): the bits of each computing element; a move sets no flag, and hands on those that a popped element carries (R167,
assumption 72). -/
def runBits (x : Ventry) (s : State) (d a w : Nat) : VStep :=
  let c := s.ct
  doneCt s (mapElems c d w (actives x c) fun e => (opd x c a w e, opdFl x a e))

/-- VSEL (R82): pg selects; every element from vstart to vl - 1 is written, in a block those of the group. -/
def runSel (x : Ventry) (s : State) (d a : Nat) (b : VSrc) (w pg : Nat) : VStep :=
  let c := s.ct
  doneCt s (mapElems c d w (actives x c) fun e =>
    if c.pbit pg e then (opd x c a w e, opdFl x a e) else (srcElem x c b w e, srcFl x b e))

/-- VSPLAT (R82). -/
def runSplat (x : Ventry) (s : State) (d w v : Nat) : VStep :=
  doneCt s (mapElems s.ct d w (actives x s.ct) fun _ => (v, {}))

/-- VIOTA (R84). -/
def runIota (x : Ventry) (s : State) (d : Nat) (t : Ty) (i j : Int) : VStep :=
  doneCt s (mapElems s.ct d t.w (actives x s.ct) fun e => iotaElem t x.rm (x.rand e) (i + j * e))

/-- A scalar result of the vector side: written to the execute stream's register (R83, R180). -/
def retScalar (s : State) (sd : SReg) (v : Word) : State :=
  { s with ct := { s.ct with ex := s.ct.ex.wr sd v } }

/-- VEXT (R83). -/
def runExt (x : Ventry) (s : State) (sd : SReg) (a : Nat) (t : Ty) (idx : Word) : VStep :=
  let i := idx.toNat
  if i < x.vl then .done (retScalar s sd (extendElem t (opd x s.ct a t.w i))) (opdFl x a i)
  else .done (retScalar s sd 0) {}

/-- VCMP (R88). -/
def runCmp (x : Ventry) (s : State) (k : CmpOp) (pd a : Nat) (ta : Ty) (b : Nat) (tb : Ty) : VStep :=
  let c := s.ct
  doneCt s (mapBits c pd (actives x c) fun e =>
    let (v, fl) := elemCmp k ta tb (opd x c a ta.w e) (opd x c b tb.w e)
    (v, fl.or ((opdFl x a e).or (opdFl x b e))))

/-- VCLASS (R89); it sets no flag of its own. -/
def runCls (x : Ventry) (s : State) (k pd a : Nat) (ta : Ty) : VStep :=
  let c := s.ct
  match ta with
  | .fp _ f _ => doneCt s (mapBits c pd (actives x c) fun e => (fpClass k f (opd x c a ta.w e), opdFl x a e))
  | _ => .done s {}

/-- The lowest computing e with the bit set, or n (R111). -/
def firstSet (c : Ct) (pa : Nat) (es : List Nat) (n : Nat) : Nat := ((es.find? (fun e => c.pbit pa e)).getD n)

/-- PAND to PBRK (R111). -/
def runPred (x : Ventry) (s : State) (op : PredOp) (pd pa pb : Nat) : VStep :=
  let c := s.ct
  let es := actives x c
  doneCt s (mapBits c pd es fun e =>
    let a := c.pbit pa e
    let b := c.pbit pb e
    ((match op with
      | .and => a && b | .or => a || b | .xor => a != b | .andn => a && !b | .not => !a | .mov => a
      | .brk => decide (e < firstSet c pa es x.vl)), {}))

/-- PSET (R111): outside a block every position of pd. -/
def runPset (x : Ventry) (s : State) (pd : Nat) (v : Bool) : VStep :=
  let c := s.ct
  match x.members with
  | some _ => doneCt s (mapBits c pd (actives x c) fun _ => (v, {}))
  | none =>
    if pd = 0 then .done s {}
    else .done { s with ct := { c with p := c.p.setIfInBounds pd (if v then BitVec.ofNat predBits (2 ^ (c.vlen / 2) - 1) else 0) } } {}

/-- PCNT, PFIRST and PLAST (R112). -/
def runPscal (x : Ventry) (s : State) (op : PScalOp) (sd : SReg) (pa : Nat) : VStep :=
  let c := s.ct
  let es := (actives x c).filter (fun e => c.pbit pa e)
  let v : Word := match op with
    | .cnt => BitVec.ofNat 64 es.length
    | .first => match es.head? with | some e => BitVec.ofNat 64 e | none => -1
    | .last => match es.getLast? with | some e => BitVec.ofNat 64 e | none => -1
  .done (retScalar s sd v) {}

end Sys2Proof.Machine
end

