-- ==== Sys2Proof/Machine/Vmem.lean ====
section
/-! DEFINITION. What a posted vector memory word does when it runs (spec chapters 06, 08, 11 and 13): addresses, alignment,
faults under fmask, VLDFF, VSTO, the predicate words PLD and PST, and the vector atomics. -/
namespace Sys2Proof.Machine

/-- The bytes that an access of width w takes: the byte that holds a sub-byte element (R38). -/
def accBytes (w : Nat) : Nat := max 1 (w / 8)

/-- The accesses of element e (R156): (register, address) of each field. -/
def vaccs (x : Ventry) (c : Ct) (d w : Nat) (m : VMode) (base : Word) (e : Nat) : List (Nat × Word) :=
  match m with
  | .unit => [(d, base + BitVec.ofNat 64 (e * w / 8))]
  | .strided sx => [(d, base + BitVec.ofNat 64 e * sx)]
  | .indexed r t => [(d, base + BitVec.ofInt 64 (intOf t (opd x c r t.w e)))]
  | .seg f => (List.range f).map fun i => (d + i * 2 ^ x.g, base + BitVec.ofNat 64 ((e * f + i) * accBytes w))

/-- An element with its accesses placed (register, address, place, what is asked), and those that fault (cause, address)
(R227). -/
structure ElemPlan where
  e : Nat
  ok : List (Nat × Word × Loc × DevAsk)
  bad : List (Nat × Word)

/-- One access of the vector side: its place, or its cause. `dev` says which memory types the word admits (R159). -/
def State.vplace (s : State) (a : Word) (n : Nat) (k : Kind) (dev : Nat → Bool) (ask : DevAsk) : Except Nat Loc :=
  match s.resolve s.ct.via a n k with
  | .error c => .error c
  | .ok l =>
    if (match l with | .phys _ ty => !dev ty | _ => false) then .error 2
    else match s.beyond s.ct.via l n k with
      | some pa => match s.devReady ask pa n with
        | .flt c _ => .error c
        | _ => .ok l
      | none => if decide (k ≠ .store) && s.readsBad s.ct.via l n then .error 4 else .ok l

/-- An element's accesses (register, address, what is asked), each placed or faulting. -/
def State.elemPlan (s : State) (n : Nat) (k : Kind) (dev : Nat → Bool) (e : Nat) (as : List (Nat × Word × DevAsk)) :
    ElemPlan :=
  as.foldl (fun p a => match s.vplace a.2.1 n k dev a.2.2 with
    | .ok l => { p with ok := p.ok ++ [(a.1, a.2.1, l, a.2.2)] }
    | .error c => { p with bad := p.bad ++ [(c, a.2.1)] }) ⟨e, [], []⟩

/-- Whether the vector side's older stores that an access of n bytes meets can be performed, or may still be delayed with it
(R158). -/
def State.vecFree (s : State) (l : Loc) (n : Nat) (k : Kind) : Bool :=
  (decide (k = .store) && s.delays l) || s.canFlush s.ct (onSide .vec l n)
/-- Whether the planned accesses must wait before the word has any effect (R261, R273, R281): the state in which they
do, with the requests of R375 sent. `wmb` are the watermark bindings that the word captured. -/
def State.planStalls (s : State) (wmb : WmBinds) (n : Nat) (k : Kind) (ps : List ElemPlan) : Option State :=
  let qs := ps.flatMap fun p => if p.bad.isEmpty then p.ok else []
  if ps.any (fun p => (p.ok.map (·.2.1) ++ p.bad.map (·.2)).any (s.walkHeld s.ct.via)) then some s
  else if qs.any (fun q => provStalls s s.ct.via q.2.1 q.2.2.1 k) then some (provWait s)
  else if qs.any (fun q => s.claimed s.ct.via q.2.2.1 n k || !s.vecFree q.2.2.1 n k ||
      (decide (k = .load) && wmHolds s wmb q.2.1 n)) then some s
  else
    let r := qs.foldl (fun (acc : State × Bool) q => match s.beyond s.ct.via q.2.2.1 n k with
      | some pa => match acc.1.devReady q.2.2.2 pa n with
        | .stall t => (t, true)
        | _ => acc
      | none => acc) (s, false)
    if r.2 then some r.1 else none

/-- The poisoned line that an access of the vector side at a met, its own or one of the tables, is logged at its first detection
(R227, R319). -/
def State.detectMet (s : State) (a : Word) : State :=
  match s.resolve s.ct.via a 1 .load with
  | .ok l => s.detectAt l
  | .error _ => match s.badTable s.ct.via a with
    | some n => s.detectEcc n
    | none => s
/-- The same for every access of a word that failed. -/
def State.detectAll (s : State) (ps : List ElemPlan) : State :=
  (ps.flatMap (·.bad)).foldl (fun t b => if b.1 = 4 then t.detectMet b.2 else t) s

/-- The listed pages of faulting accesses (cause, address): the distinct 64 KiB blocks, the first cause of each (R217). -/
def pageList : List (Nat × Word) → List Word
  | [] => []
  | (c, a) :: rest => pageEntry a c :: (pageList rest).filter (fun p => p >>> 16 != a >>> 16)

/-- The trap of the faulting elements (R217): the lowest one's code, index and address, the distinct pages. -/
def planTrap (bad : List ElemPlan) : Trap :=
  match bad with
  | [] => { code := 0 }
  | p :: _ =>
    match p.bad with
    | [] => { code := 0 }
    | (c, a) :: _ =>
      { code := codeOfCause c, index := p.e, info := some a, pages := pageList (bad.flatMap (·.bad)) }

/-- A stop under mask-and-reissue (R160, R229); `fl` are the flags of the elements completed now, which are kept with the
word (R51). -/
def maskStop (s : State) (x : Ventry) (bad : List ElemPlan) (fl : Fl) : VStep :=
  let fm := bad.foldl (fun (m : PReg) p => setBits m p.e 1 1) (0 : PReg)
  let s := s.detectAll bad
  .stop { s with ct := { s.ct with fmask := fm } } { x with masked := true, fl := x.fl.or fl } (planTrap bad)

/-- Alignment (R157): the word's operands, or each computing element's address. The spec says neither whether a misaligned
base stops a word of no computing element nor which INDEX the record then holds: it stops, with INDEX 0 (assumption 74). -/
def misaligned (w : Nat) (m : VMode) (base : Word) (as : List (Nat × Word)) : Option (Nat × Word) :=
  if w < 8 then none
  else
    let b := w / 8
    let word : Bool := match m with
      | .unit => base.toNat % b ≠ 0
      | .strided sx => base.toNat % b ≠ 0 ∨ sx.toNat % b ≠ 0
      | .indexed _ _ => false
      | .seg _ => base.toNat % b ≠ 0
    match as.find? (fun p => p.2.toNat % b ≠ 0) with
    | some p => some p
    | none => if word then some (as.head?.getD (0, base)) else none

/-- ALIGN of a whole word: nothing is accessed. -/
def alignStop (s : State) (x : Ventry) (p : Nat × Word) : VStep :=
  .stop s x { code := 2, index := p.1, info := some p.2 }

/-- A read of n bytes at a place by a word of the vector side, once it is ready: now or at the earlier moment that this read takes, no
earlier than the word's floor (R158, R323, R324); under a watermark binding now (R331). -/
def State.vread (s : State) (floor : Nat) (l : Loc) (n key : Nat) : Nat × State :=
  match s.beyond s.ct.via l n .load with
  | some pa => match s.dev ⟨key, .read⟩ pa n with
    | .ok r => (s.provOver s.ct.via pa r.1 n, r.2)
    | _ => (0, s)
  | none =>
    let r := (s.flush (onSide .vec l n)).readEvent .vec floor l n
    (r.1, r.2.2)
/-- The moment before which a posted word reads nothing: every one that ordering events have put before it; for an access under a
binding that it captured, now. -/
def State.floorOf (s : State) (x : Ventry) (a : Word) (n : Nat) : Nat :=
  if wmBound x.wmb a n then s.moment else max x.floor s.ct.floors.vec
/-- Writes of whole lines clear their poison (R318): `ws` lists the (address, length) pairs written. -/
def State.clearLines (s : State) (ws : List (Nat × Nat)) : State :=
  if s.pkg.poison.isEmpty then s
  else { s with pkg := { s.pkg with poison := s.pkg.poison.filter (fun l =>
    !((List.range 128).all (fun i => ws.any (fun w => decide (w.1 ≤ 128 * l.1 + i ∧ 128 * l.1 + i < w.1 + w.2))))) } }
/-- The stores of one word; a provisional gang's reach no line yet. -/
def State.clearPoison (s : State) (ws : List (Nat × Nat)) : State := if s.ct.prov then s else s.clearLines ws

/-- A vector word has written the ranges `ws`, beside those that it wrote before a stop or a wait. -/
def State.wroteBy (s : State) (x : Ventry) (ws : List (Nat × Nat)) : State × Ventry :=
  (s.clearPoison (x.wrote ++ ws), { x with wrote := x.wrote ++ ws })

/-- The accesses of element e, with what each asks beyond main memory. -/
def asks (s : State) (e : Nat) (as : List (Nat × Word)) (op : Nat → ReqOp) : List (Nat × Word × DevAsk) :=
  as.mapIdx fun i q => (q.1, q.2, ⟨s.vport e i, op q.1⟩)

/-- A byte with the w bits of element e replaced (R38). -/
def bitMerge (w e v old : Nat) : Nat :=
  let sh := 2 ^ (e * w % 8)
  old % sh + v % 2 ^ w * sh + old / (sh * 2 ^ w) * (sh * 2 ^ w)
/-- What the store of an element asks: a sub-byte element is one indivisible change of its byte (R38). -/
def storeOp (w e v : Nat) : ReqOp :=
  if w < 8 then .merge ((2 ^ w - 1) * 2 ^ (e * w % 8)) (v % 2 ^ w * 2 ^ (e * w % 8)) else .write v

/-- w bits of an element from the bytes read (R38). -/
def pickBits (w e v : Nat) : Nat := if w < 8 then v / 2 ^ (e * w % 8) % 2 ^ w else v

/-- The reads of the planned elements: (register, element, bits). -/
def readPlan (s : State) (x : Ventry) (w : Nat) (ps : List ElemPlan) : State × List (Nat × Nat × Nat) :=
  ps.foldl (fun acc p => p.ok.foldl (fun (acc : State × List (Nat × Nat × Nat)) q =>
    let (v, t) := acc.1.vread (s.floorOf x q.2.1 (accBytes w)) q.2.2.1 (accBytes w) q.2.2.2.key
    (t, acc.2 ++ [(q.1, p.e, pickBits w p.e v)])) acc) (s, [])

/-- The flags that the operands of planned elements carry (R167): those of their index, and of the registers `rs`. -/
def planFl (x : Ventry) (m : VMode) (rs : List Nat) (ps : List ElemPlan) : Fl :=
  ps.foldl (fun f p =>
    let g := rs.foldl (fun (g : Fl) r => g.or (opdFl x r p.e)) f
    match m with | .indexed r _ => g.or (opdFl x r p.e) | _ => g) {}

/-- VLD, VLD.S, VLD.X, VLDFF and VLDSEG (R156, R160, R161, R230). -/
def runLoad (x : Ventry) (s : State) (d w : Nat) (m : VMode) (base : Word) (ff : Bool) : VStep :=
  let c := s.ct
  let es := actives x c
  let as := es.map fun e => (e, vaccs x c d w m base e)
  match misaligned w m base (as.flatMap fun p => p.2.map fun q => (p.1, q.2)) with
  | some p => alignStop s x p
  | none =>
    let ffo := ff && x.members.isNone
    let dev : Nat → Bool := fun ty => if ffo then decide (ty ≤ 1) else decide (ty ≠ 2)
    let ps := as.map fun p => s.elemPlan (accBytes w) .load dev p.1 (asks s p.1 p.2 fun _ => .read)
    let bad := ps.filter (fun p => !p.bad.isEmpty)
    -- VLDFF truncates at its first faulting element k, unless k is the lowest computing one
    let cut : Option Nat := match ffo, ps.head?, bad.head? with
      | true, some j, some k => if j.e < k.e then some k.e else none
      | _, _, _ => none
    let todo := (ps.filter (fun p => p.bad.isEmpty)).filter (fun p => match cut with | some k => decide (p.e < k) | none => true)
    match s.planStalls x.wmb (accBytes w) .load (ps.filter fun p => match cut with | some k => decide (p.e ≤ k) | none => true) with
    | some t => .wait t x
    | none =>
      let (t, vs) := readPlan s x w todo
      let t := { t with ct := vs.foldl (fun (c : Ct) v => c.vset v.1 w v.2.1 v.2.2) t.ct }
      let fl := planFl x m [] todo
      match cut with
      | some k => .done (let u := t.detectAll (bad.take 1); { u with ct := { u.ct with vl := k } }) fl
      | none => if bad.isEmpty then .done t fl else maskStop t x bad fl

/-- The write of n bytes, or of the bits of a mask, at a planned place; none when the provisional reserve is full (R280). `late` says
whether the store may be delayed (R323). -/
def storeOne (s : State) (late : Bool) (n : Nat) (mask : Option Nat) (x : Nat) (l : Loc) (ask : DevAsk) : Option State :=
  if (match l with | .phys pa _ => s.provFull s.ct.via pa | _ => false) then none
  else match s.beyond s.ct.via l n .store with
    | some pa => match s.dev ask pa n with
      | .ok r => some (r.2.stored s.ct.via l none)
      | _ => some s
    | none => some (if late then s.storeBy .vec false l n mask x else s.storeNow ⟨.vec, s.ct.sbn, false, none, l, n, mask, x⟩)

/-- The writes of the planned elements of w bits, whole bytes, rising; false when one waits for the reserve. -/
def storePlan (s : State) (late : Bool) (w : Nat) (val : Nat → Nat → Nat) (ps : List ElemPlan) : State × Bool :=
  ps.foldl (fun acc p => p.ok.foldl (fun (acc : State × Bool) q =>
    if acc.2 then
      match storeOne acc.1 late (w / 8) none (val q.1 p.e) q.2.2.1 q.2.2.2 with
      | some t => (t, true)
      | none => (acc.1, false)
    else acc) acc) (s, true)

/-- The computing elements of a sub-byte store, byte by byte (R38, R113): a byte's first element with its address, what it
asks, and all its elements. A byte that the word covers in full is written; one that it covers in part is updated by ONE
indivisible read-modify-write. `bits e` is the value of element e. -/
def subBytes (s : State) (w : Nat) (base : Word) (bits : Nat → Nat) (es : List Nat) :
    List (Nat × (Nat × Word × DevAsk) × List Nat) :=
  let k := 8 / w
  ((es.map (· / k)).eraseDups).map fun b =>
    let own := es.filter (fun e => e / k = b)
    let e := own.headD 0
    let put := own.foldl (fun (v : Nat) i => bitMerge w i (bits i) v) 0
    let mask := own.foldl (fun (v : Nat) i => bitMerge w i (2 ^ w - 1) v) 0
    (e, (0, base + BitVec.ofNat 64 b, ⟨s.vport e 0, if own.length = k then .write put else .merge mask put⟩), own)



/-- The physical ranges of planned accesses of n bytes. -/
def planRanges (n : Nat) (ps : List ElemPlan) : List (Nat × Nat) :=
  ps.flatMap fun p => p.ok.filterMap fun q => (q.2.2.1.byte).map fun a => (a, n)

/-- The registers whose elements a store's element reads. -/
def storeRegs (x : Ventry) (d : Nat) : VMode → List Nat
  | .seg f => (List.range f).map fun i => d + i * 2 ^ x.g
  | _ => [d]

/-- Whether a provisional gang's planned stores change only bits of a byte beyond main memory: its old bits are not at hand, and
the word waits until the gang is firm (assumption 78). -/
def State.farBits (s : State) (ps : List ElemPlan) : Bool :=
  s.ct.prov && ps.any (fun p => p.ok.any (fun q => match q.2.2.2.op, q.2.2.1 with
    | .merge _ _, .phys pa _ => decide (mainEnd ≤ pa)
    | _, _ => false))

/-- What a request writes: the bits of its mask, or all (R38). -/
def ReqOp.bits : ReqOp → Option Nat × Nat
  | .merge m v => (some m, v)
  | .write x => (none, x)
  | _ => (some 0, 0)

/-- VSTO's elements one at a time, rising (R162): an element is performed before the next one is looked at; one that must
wait, or that faults, leaves the word at it, with the elements below it completed. -/
def stoGo (d w : Nat) (m : VMode) (base : Word) : State → Ventry → List Nat → VStep
  | s, x, [] => .done s x.fl
  | s, x, e :: es =>
    let p := s.elemPlan (accBytes w) .store (fun _ => true) e
      (asks s e (vaccs x s.ct d w m base e) fun r => storeOp w e (opd x s.ct r w e))
    match s.planStalls x.wmb (accBytes w) .store [p] with
    | some t => .wait t { x with vstart := e }
    | none =>
      if !p.bad.isEmpty then
        .stop ({ s with ct := { s.ct with vstart := e } }.detectAll [p]) { x with vstart := e } (planTrap [p])
      else match storePlan s false w (fun r e => opd x s.ct r w e) [p] with
        | (t, true) =>
          let r := t.wroteBy x (planRanges (w / 8) [p])
          stoGo d w m base r.1 { r.2 with fl := x.fl.or (planFl x m (storeRegs x d m) [p]) } es
        | (t, false) => .wait (provWait t) { x with vstart := e }

/-- The store of bits below a byte, byte by byte (R38, R113, R160). -/
def runSubStore (x : Ventry) (s : State) (w : Nat) (base : Word) (bits : Nat → Nat) (rs : List Nat) : VStep :=
  let bs := subBytes s w base bits (actives x s.ct)
  let ps := bs.map fun b => (s.elemPlan 1 .store (fun ty => decide (ty ≠ 2)) b.1 [b.2.1], b.2.2)
  -- a byte that faults faults for each of its elements
  let each := fun (p : ElemPlan × List Nat) => p.2.map fun e => { p.1 with e := e }
  let bad := (ps.filter (fun p => !p.1.bad.isEmpty)).flatMap each
  let good := ps.filter (fun p => p.1.bad.isEmpty)
  let todo := good.map (·.1)
  if s.farBits todo then .wait (provWait s) x
  else match s.planStalls x.wmb 1 .store (ps.map (·.1)) with
  | some t => .wait t x
  | none =>
    let (t, fin) := todo.foldl (fun (acc : State × Bool) p => p.ok.foldl (fun (acc : State × Bool) q =>
      if acc.2 then
        match storeOne acc.1 true 1 q.2.2.2.op.bits.1 q.2.2.2.op.bits.2 q.2.2.1 q.2.2.2 with
        | some t => (t, true)
        | none => (acc.1, false)
      else acc) acc) (s, true)
    if !fin then .wait (provWait t) x
    else
      let (t, y) := t.wroteBy x (planRanges 1 ((good.filter (fun p => p.2.length = 8 / w)).map (·.1)))
      let fl := planFl x .unit rs (good.flatMap each)
      if bad.isEmpty then .done t fl else maskStop t y bad fl

/-- VST, VST.S, VST.X, VSTSEG and VSTO (R156, R160, R162). -/
def runStore (x : Ventry) (s : State) (d w : Nat) (m : VMode) (base : Word) (inOrder : Bool) : VStep :=
  let c := s.ct
  let es := actives x c
  if w < 8 then runSubStore x s w base (fun e => opd x c d w e) [d]
  else
    let as := es.map fun e => (e, vaccs x c d w m base e)
    match misaligned w m base (as.flatMap fun p => p.2.map fun q => (p.1, q.2)) with
    | some p => alignStop s x p
    | none =>
      if inOrder then stoGo d w m base s x es
      else
        let ps := as.map fun p => s.elemPlan (w / 8) .store (fun ty => decide (ty ≠ 2)) p.1
          (asks s p.1 p.2 fun r => storeOp w p.1 (opd x c r w p.1))
        let bad := ps.filter (fun p => !p.bad.isEmpty)
        let todo := ps.filter (fun p => p.bad.isEmpty)
        match s.planStalls x.wmb (w / 8) .store ps with
        | some t => .wait t x
        | none =>
          let (t, fin) := storePlan s true w (fun r e => opd x c r w e) todo
          if !fin then .wait (provWait t) x
          else
            let (t, y) := t.wroteBy x (planRanges (w / 8) todo)
            let fl := planFl x m (storeRegs x d m) todo
            if bad.isEmpty then .done t fl else maskStop t y bad fl

/-- PLD (R113). -/
def runPld (x : Ventry) (s : State) (pd : Nat) (base : Word) : VStep :=
  let es := actives x s.ct
  let ps := es.map fun e => s.elemPlan 1 .load (fun ty => decide (ty ≠ 2)) e
    (asks s e [(0, base + BitVec.ofNat 64 (e / 8))] fun _ => .read)
  let bad := ps.filter (fun p => !p.bad.isEmpty)
  let todo := ps.filter (fun p => p.bad.isEmpty)
  match s.planStalls x.wmb 1 .load ps with
  | some t => .wait t x
  | none =>
    let (t, vs) := readPlan s x 1 todo
    let t := { t with ct := vs.foldl (fun (c : Ct) v => c.psetBit pd v.2.1 (v.2.2 % 2 = 1)) t.ct }
    if bad.isEmpty then .done t {} else maskStop t x bad {}

/-- PST (R113). -/
def runPst (x : Ventry) (s : State) (pa : Nat) (base : Word) : VStep :=
  runSubStore x s 1 base (fun e => if s.ct.pbit pa e then 1 else 0) []

/-! ### Atomics (R245, R251) -/



/-- One indivisible read-modify-write at a place: the old value and the state. A slot that no CT holds gives 0 and
takes no write (R246). `key` says who asks, `self` the stream whose WAIT it does not wake. -/
def State.rmw (s : State) (key : Nat) (l : Loc) (n : Nat) (op : AmoOp) (b d : Nat) (self : Option Who) :
    MRes (Nat × State) :=
  match l with
  | .hole => .ok (0, s)
  | l => match s.beyond s.via l n .atomic with
    | some pa => match s.dev ⟨key, .amo op b d⟩ pa n with
      | .ok r => .ok (r.1, r.2.stored s.via l self)
      | r => r
    | none =>
      let old := s.peek s.via l n
      .ok (old, match amoStep op (8 * n) b d old with
        | some v => (s.poke s.via l n v).stored s.via l self
        | none => s)

/-- VAMO (R251). -/
def runVamo (x : Ventry) (s : State) (op : AmoOp) (d : Nat) (t : ITag) (i : Nat) (it : ITag) (base : Word) : VStep :=
  if s.ct.prov then .wait (provWait s) x
  else
    let c := s.ct
    let n := t.w / 8
    let es := actives x c
    let as := es.map fun e => (e, vaccs x c d t.w (.indexed i it) base e)
    match misaligned t.w (.indexed i it) base (as.flatMap fun p => p.2.map fun q => (p.1, q.2)) with
    | some p => alignStop s x p
    | none =>
      let op' : AmoOp := if t.signed then op else (match op with | .min => .minu | .max => .maxu | o => o)
      let ps := as.map fun p => s.elemPlan n .atomic (fun ty => decide (ty ≤ 1)) p.1
        (asks s p.1 p.2 fun _ => .amo op' (opd x c d t.w p.1) 0)
      let bad := ps.filter (fun p => !p.bad.isEmpty)
      let todo := ps.filter (fun p => p.bad.isEmpty)
      match s.planStalls x.wmb n .atomic ps with
      | some t => .wait t x
      | none =>
        let u := todo.foldl (fun (u : State) p => p.ok.foldl (fun (u : State) q =>
          match (u.flush (onSide .vec q.2.2.1 n)).rmw q.2.2.2.key q.2.2.1 n op' (opd x c d t.w p.e) 0 none with
          | .ok r => { r.2 with ct := r.2.ct.vset d t.w p.e r.1 }.note .vec s.moment q.2.2.1 n
          | _ => u) u) s
        let fl := planFl x (.indexed i it) [d] todo
        if bad.isEmpty then .done u fl else maskStop u x bad fl

end Sys2Proof.Machine
end

