-- ==== Sys2Proof/Machine/Vfeed.lean ====
section
/-! DEFINITION. Feeds: pattern records, pack64 blocks, the operators of a chain, pops in VIQ order, and the FEED words
(spec chapter 08, R163 to R173). -/
namespace Sys2Proof.Machine

/-- What an engine's step comes to: done, a trap, or a wait. -/
inductive EngRes where
  | ok (s : State)
  | trap (s : State) (t : Trap)
  | wait (s : State)

/-- What a feed's read comes to. -/
inductive FGet where
  | ok (v : Nat) (s : State)
  | bad (cause : Nat) (a : Word) (s : State)
  | wait (s : State)

/-- For which feed an engine reads: its register, and the bindings its reads wait under. -/
structure FWho where
  reg : Nat
  wmb : WmBinds

/-- The number of a feed's read beyond the module: copies have tickets below this one's. -/
def Ct.fport (c : Ct) (reg : Nat) (a : Word) : Nat := c.cport (2 ^ 200 + reg) 0 + 2 ^ 600 * a.toNat
/-- Once a round of a feed's reads is over, its answers are used up. -/
def State.dropFeed (s : State) (reg : Nat) : State :=
  s.dropReqs s.ct (fun r => decide (r.key % 4 = 3 ∧ r.key % 2 ^ 600 = s.ct.fport reg 0))

/-- A feed engine's read of n bytes within one page at a (R171, R226, R281): device pages fault as PERM. The delayed stores of the
vector side and the access stream that it meets are performed first, those before the FBIND among them (R171). An answer from
beyond the module stays until the round that asked for it is over (dropFeed). -/
def State.feedGet (s : State) (w : FWho) (a : Word) (n : Nat) : FGet :=
  if s.walkHeld s.ct.via a then .wait s else
  match s.resolve s.ct.via a n .load with
  | .error c => .bad c a s
  | .ok l =>
    if provStalls s s.ct.via a l .load then .wait (provWait s)
    else if s.claimed s.ct.via l n .load || wmHolds s w.wmb a n then .wait s
    else if (match l with | .phys _ ty => decide (2 ≤ ty) | _ => false) then .bad 2 a s
    else match s.beyond s.ct.via l n .load with
      | some pa => match s.ask ⟨s.ct.fport w.reg a, .read⟩ pa n with
        | .ok v => .ok (s.provOver s.ct.via pa (v % 2 ^ (8 * n)) n) s
        | .flt c t => .bad c a t
        | .stall t => .wait t
      | none =>
        let p := fun (e : SbEnt) => e.side != .exec && e.meets l n
        if s.readsBad s.ct.via l n then .bad 4 a s
        else if !s.canFlush s.ct p then .wait s
        else (let t := s.flush p; .ok (t.peek t.ct.via l n) t)

/-- A run of bytes, one at a time. -/
def State.feedBytes (s : State) (w : FWho) (a : Word) : Nat → FGet
  | 0 => .ok 0 s
  | n + 1 =>
    match s.feedGet w a 1 with
    | .ok b t => match State.feedBytes t w (a + 1) n with
      | .ok v u => .ok (b + 256 * v) u
      | r => r
    | r => r

/-! ### The element sequence (R163) -/

/-- N, the product of the counts. -/
def Feed.total (f : Feed) : Nat := f.count.foldl (· * ·) 1
/-- Whether the chain begins with EXPAND. -/
def Feed.expands (f : Feed) : Bool := match f.chain with | .expand :: _ => true | _ => false
/-- The address of element q: dimension 0 innermost. -/
def seqAddr (base : Word) : List Nat → List Int → Nat → Word
  | c :: cs, st :: ss, q => seqAddr (base + BitVec.ofInt 64 (st * (q % c : Nat))) cs ss (q / c)
  | _, _, _ => base

/-- The type of a tag code as a pattern record names it; an 8-bit flex tag under the value of fmt0 (assumption 6). -/
def recTy (code : Nat) (fmt0 : Word) : Ty :=
  match tyOf (Vector.replicate 8 fmt0) (BitVec.ofNat 8 (8 * code)) with
  | some t => t
  | none => .int (BitVec.ofNat 8 (8 * code)) ⟨8, false⟩

/-- The type after the operators of a chain. -/
def chainTy (t : Ty) : List FeedOp → Ty
  | [] => t
  | .convert u _ _ :: r => chainTy u r
  | _ :: r => chainTy t r

/-- The chain rules of R163 that the first pop checks. -/
def Feed.patternOk (f : Feed) : Bool :=
  f.expands ||
    (decide (f.ty.code ≠ 11) && decide (f.base.toNat % (f.ty.w / 8) = 0) &&
      f.stride.all (fun d => d % ((f.ty.w / 8 : Nat) : Int) = 0))

/-- How many elements the engine fetches at a time without EXPAND: a run of the largest HINV, otherwise one. -/
def Feed.run (f : Feed) : Nat := f.chain.foldl (fun m o => match o with | .hinv n _ => max m n | _ => m) 1
/-- The elements of a fetch: a pack64 block, or a run. -/
def Feed.unit (f : Feed) : Nat := if f.expands then 64 else f.run
/-- The sequence index of the next element to finish. -/
def Feed.next (f : Feed) : Nat := f.popped - f.skip + f.queue.length
/-- Whether n elements stand ready at the pop position. -/
def Feed.has (f : Feed) (n : Nat) : Bool := decide (f.skip + n ≤ f.queue.length)
/-- The n elements at the pop position. -/
def Feed.front (f : Feed) (n : Nat) : List (Nat × Fl) := (f.queue.drop f.skip).take n
/-- The addresses of the blocks from the one that holds element q on. -/
def Feed.blksFrom (f : Feed) (q : Nat) : List Word := f.blks.drop (q / 64 - (f.popped - f.skip) / 64)
/-- The feed past n more elements (R170). -/
def Feed.pop (f : Feed) (n : Nat) : Feed :=
  { f with popped := f.popped + n, delivered := f.delivered || decide (0 < n), skip := 0, queue := f.queue.drop (f.skip + n),
           blks := f.blksFrom (f.popped + n) }
/-- The feed with nothing fetched from element q on: the engine fetches again from the block or the run that holds q
(R171). -/
def Feed.rewind (f : Feed) (q : Nat) : Feed :=
  { f with popped := q, skip := q % f.unit, queue := [], blks := [], blkAddr := (f.blksFrom q).headD f.blkAddr, err := none }

/-! ### Operators (R167) -/

def Rnd.rand (r : Rnd) (q : Nat) : Nat := cmx r.key (r.sbase + BitVec.ofNat 64 q) r.srn

/-- Whether a number has an odd count of ones among its low 6 bits. -/
def oddOnes (n : Nat) : Bool := (List.range 6).foldl (fun b i => b != n.testBit i) false

/-- The exact sum of values with signs, under a rounding mode's rule for exact zeros; NaN and opposing infinities by
R78: the value, and NV. -/
def sumVals (rm : Rm) (l : List (Bool × FVal)) : FVal × Bool :=
  l.foldl (fun acc x =>
    let v := if x.1 then x.2.negate else x.2
    match acc.1, v with
    | .nan a, .nan b => (.nan (a || b), acc.2)
    | .nan a, _ => (.nan a, acc.2)
    | _, .nan b => (.nan b, acc.2)
    | .inf a, .inf b => if a = b then acc else (.nan true, true)
    | a, b => (addExact rm a b, acc.2)) (match l with
      | [] => (.fin false 0 0, false)
      | (n, v) :: _ => (match v with | .fin m _ _ => .fin (m != n) 0 0 | _ => .fin false 0 0, false))

/-- A value times 2^-k. -/
def scaleDown (v : FVal) (k : Nat) : FVal := match v with | .fin n m e => .fin n m (e - k) | w => w

/-- HINV over one run of n elements that starts at q0. -/
def hinvRun (f : Fmt) (rd : Rnd) (n q0 : Nat) (xs : List (Nat × Fl)) : List (Nat × Fl) :=
  let vs := xs.map fun x => decodeVal f x.1
  xs.mapIdx fun i x =>
    let (v, nv) := sumVals rd.rm (vs.mapIdx fun j y => (oddOnes (i &&& j), y))
    let (b, fl) := roundFp f rd.rm (rd.rand (q0 + i)) (scaleDown v n.log2)
    (b, (x.2.or fl).or { nv := nv })

/-- Runs of n. -/
def chunksGo {α : Type} (n : Nat) : Nat → List α → List (List α)
  | 0, _ => []
  | k + 1, l => if l.isEmpty then [] else l.take n :: chunksGo n k (l.drop n)

/-- What a stage of the engine gives: elements, a failure at a sequence index, or a wait. -/
inductive FRun where
  | ok (s : State) (xs : List (Nat × Fl))
  | bad (s : State) (q cause : Nat) (a : Word)
  | wait (s : State)

/-- SCALE by a factor each, in sequence; the array has any byte alignment. -/
def scaleGo (s : State) (reg : FWho) (f : Fmt) (va : Word) (blk : Nat) (rd : Rnd) : Nat → List (Nat × Fl) → FRun
  | _, [] => .ok s []
  | q, x :: rest =>
    match s.feedBytes reg (va + BitVec.ofNat 64 (4 * (q / blk))) 4 with
    | .ok k t =>
      match scaleGo t reg f va blk rd (q + 1) rest with
      | .ok u ys =>
        let (b, fl) := fpMul f rd.rm (rd.rand q) (decodeVal f x.1) (decodeVal fmtF32 k)
        .ok u ((b, x.2.or fl) :: ys)
      | r => r
    | .bad c a t => .bad t q c a
    | .wait t => .wait t

/-- A flex element without the container bits above its format (R43). -/
def Ty.trim (t : Ty) (bits : Nat) : Nat := match t with | .fp _ f _ => bits % 2 ^ f.width | _ => bits

/-- The operators in chain order on the elements from q0; every operator of a feed writes the container bits above a
flex width as zero (R43). -/
def chainGo (s : State) (reg : FWho) (q0 : Nat) : Ty → List FeedOp → List (Nat × Fl) → FRun
  | _, [], xs => .ok s xs
  | t, .expand :: ops, xs => chainGo s reg q0 t ops (xs.map fun x => (t.trim x.1, x.2))
  | t, .convert u sat rd :: ops, xs =>
    chainGo s reg q0 u ops (xs.mapIdx fun i x =>
      let (b, fl) := convertValue sat t u rd.rm (rd.rand (q0 + i)) x.1
      (b, x.2.or fl))
  | t, .scaleK k rd :: ops, xs =>
    match t with
    | .fp _ f _ => chainGo s reg q0 t ops (xs.mapIdx fun i x =>
        let (b, fl) := fpMul f rd.rm (rd.rand (q0 + i)) (decodeVal f x.1) (decodeVal fmtF32 k)
        (b, x.2.or fl))
    | _ => chainGo s reg q0 t ops xs
  | t, .scaleA va blk rd :: ops, xs =>
    match t with
    | .fp _ f _ =>
      match scaleGo s reg f va blk rd q0 xs with
      | .ok u ys => chainGo u reg q0 t ops ys
      | r => r
    | _ => chainGo s reg q0 t ops xs
  | t, .hinv n rd :: ops, xs =>
    match t with
    | .fp _ f _ => chainGo s reg q0 t ops
        (((chunksGo n xs.length xs).mapIdx fun i c => hinvRun f rd n (q0 + n * i) c).flatten)
    | _ => chainGo s reg q0 t ops xs

/-! ### Fetching (R168, R169) -/

/-- The elements of a pack64 block's payload: mode 0, 1 and 2. -/
def blockElems (w mode b payload : Nat) : List (Nat × Fl) :=
  (List.range 64).map fun q =>
    (match mode with
      | 0 => payload / 2 ^ (w * q) % 2 ^ w
      | 1 => payload % 2 ^ w
      | 2 => (payload % 2 ^ w + payload / 2 ^ (w + b * q) % 2 ^ b) % 2 ^ w
      | _ => 0, {})

/-- The feed after a failed fetch (R173). -/
def Feed.fail (f : Feed) (code k : Nat) (a : Word) : Feed := { f with err := some ⟨code, k, a⟩ }
/-- ERR of a page cause: 2 PAGE, 3 PERM, 4 ECC, 5 WINDOW. -/
def errOfCause (c : Nat) : Nat := match c with | 1 => 2 | 2 => 3 | 3 => 5 | _ => 4

/-- What an attempt to finish more elements comes to: the feed's new state, or a wait with what is finished so far. -/
inductive FMore where
  | more (s : State) (f : Feed)
  | wait (s : State) (f : Feed)

/-- Runs the chain over fetched elements and queues them. `blk` is the next block's address. The spec does not say which k
a fault on reading a SCALE array carries nor what stays presented: k is the block of the element that needed the factor, and nothing
of that block is presented, or without EXPAND its sequence index (assumption 76). -/
def feedPush (s : State) (reg : FWho) (f : Feed) (xs : List (Nat × Fl)) (blk : Word) : FMore :=
  let q0 := f.next
  match chainGo s reg q0 f.ty f.chain (xs.take (f.total - q0)) with
  | .ok t ys => .more t { f with queue := f.queue ++ ys, blkAddr := blk, blks := if f.expands then f.blks ++ [f.blkAddr] else [] }
  | .bad t q c a => .more t (f.fail (errOfCause c) (if f.expands then q / 64 else q) a)
  | .wait t => .wait t f

/-- Fetches elements q to q + n - 1 of a pattern without EXPAND. -/
def feedElems (s : State) (reg : FWho) (f : Feed) : Nat → Nat → FRun
  | _, 0 => .ok s []
  | q, n + 1 =>
    match s.feedGet reg (seqAddr f.base f.count f.stride q) (f.ty.w / 8) with
    | .ok v t => match feedElems t reg f (q + 1) n with
      | .ok u ys => .ok u ((v, {}) :: ys)
      | r => r
    | .bad c a t => .bad t q c a
    | .wait t => .wait t

/-- One more block or run of the sequence, fetched, decoded and converted (R168, R169). -/
def feedRound (s : State) (reg : FWho) (f : Feed) : FMore :=
  let q := f.next
  if f.err.isSome || decide (f.total ≤ q) then .more s f
  else if f.expands then
    let k := q / 64
    let w := f.ty.w
    match s.feedGet reg f.blkAddr 1 with
    | .bad c a t => .more t (f.fail (errOfCause c) k a)
    | .wait t => .wait t f
    | .ok h t =>
      let mode := h / 64
      let b := h % 32
      if h / 32 % 2 = 1 ∨ (mode ≠ 2 ∧ b ≠ 0) ∨ (mode = 2 ∧ (b = 0 ∨ w ≤ b)) then .more t (f.fail 1 k f.blkAddr)
      else
        let n := match mode with | 0 => 8 * w | 1 => w / 8 | 2 => w / 8 + 8 * b | _ => 0
        match t.feedBytes reg (f.blkAddr + 1) n with
        | .bad c a u => .more u (f.fail (errOfCause c) k a)
        | .wait u => .wait u f
        | .ok v u => feedPush u reg f (blockElems w mode b v) (f.blkAddr + BitVec.ofNat 64 (n + 1))
  else
    match feedElems s reg f q (min f.run (f.total - q)) with
    | .bad t j c a => .more t (f.fail (errOfCause c) j a)
    | .wait t => .wait t f
    | .ok t xs => feedPush t reg f xs f.blkAddr

/-- A round of the engine of a register's feed; once it is over, the answers it got from beyond the module are used up. -/
def feedMore (s : State) (reg : Nat) (f : Feed) : FMore :=
  match feedRound s ⟨reg, f.wmb⟩ f with
  | .more t g => .more (t.dropFeed reg) g
  | r => r

/-- Fetches until n elements stand ready, or the feed fails, in at most `fuel` rounds. -/
def feedFill (s : State) (reg : Nat) (f : Feed) (n : Nat) : Nat → FMore
  | 0 => .more s f
  | fuel + 1 =>
    if f.has n || f.err.isSome then .more s f
    else match feedMore s reg f with
      | .more t g => feedFill t reg g n fuel
      | r => r

/-! ### Pops (R170) -/

def Ct.feed (c : Ct) (reg : Nat) : Option Feed :=
  if 16 ≤ reg then (c.feeds[reg - 16]?).join else none
def Ct.setFeed (c : Ct) (reg : Nat) (f : Option Feed) : Ct := { c with feeds := c.feeds.setIfInBounds (reg - 16) f }

/-- The trap of a failed feed at a pop: DECODE with the register in INFO, or the fetch fault's own code. -/
def feedTrap (reg : Nat) (e : FeedErr) : Trap :=
  match e.code with
  | 1 => { code := 8, index := e.k % 2 ^ 32, info := some (BitVec.ofNat 64 reg) }
  | c =>
    let cause := match c with | 2 => 1 | 3 => 2 | 5 => 3 | _ => 4
    { code := codeOfCause cause, index := e.k % 2 ^ 32, info := some e.addr, pages := [pageEntry e.addr cause] }

/-- A fetch raises ECC, and its poisoned line is logged, at the pop (R318, R319). -/
def State.detectPop (s : State) (e : FeedErr) : State := if e.code = 4 then s.detectMet e.addr else s

/-- The conditions of the bound registers that a word reads, in increasing register number, each feed filled for its
pop: (register, width of the operand). -/
def feedChecks (s : State) (vl : Nat) : List (Nat × Nat) → EngRes
  | [] => .ok s
  | (reg, w) :: rest =>
    match s.ct.feed reg with
    | none => feedChecks s vl rest
    | some f =>
      if !f.patternOk then .trap s (trapEngine 1)
      else if f.total < f.popped + vl then .trap s (trapEngine 3)
      else if (chainTy f.ty f.chain).w ≠ w then .trap s (trapEngine 4)
      else match feedFill s reg f vl (vl + 1) with
        | .wait t g => .wait { t with ct := t.ct.setFeed reg (some g) }
        | .more t g =>
          let t := { t with ct := t.ct.setFeed reg (some g) }
          if g.has vl then feedChecks t vl rest
          else match g.err with
            | some e => .trap (t.detectPop e) (feedTrap reg e)
            | none => .wait t

/-- Pops vl elements of a bound register. -/
def popOne (c : Ct) (vl reg : Nat) : Ct × Option Popped :=
  match c.feed reg with
  | none => (c, none)
  | some f => (c.setFeed reg (some (f.pop vl)), some ⟨reg, f.popped, f.front vl, true, f.rewind f.popped⟩)

/-- The vectors that a saved VIQ entry had popped are fetched again from their positions (R170, R171); a failure shows in the
register's feed, where FSTAT finds it. -/
def refetchPopped (s : State) (vl : Nat) : List Popped → EngRes × List Popped
  | [] => (.ok s, [])
  | p :: rest =>
    if p.live then let r := refetchPopped s vl rest; (r.1, p :: r.2)
    else match feedFill s p.reg p.feed vl (vl + 1) with
      | .wait t g => (.wait t, { p with feed := g } :: rest)
      | .more t g =>
        if g.has vl then
          let r := refetchPopped t vl rest
          (r.1, { p with elems := g.front vl, live := true, feed := g.rewind p.pos } :: r.2)
        else
          let t := match t.ct.feed p.reg with
            | some f => { t with ct := t.ct.setFeed p.reg (some { f with err := g.err }) }
            | none => t
          (match g.err with
            | some e => .trap (t.detectPop e) (feedTrap p.reg e)
            | none => .wait t, { p with feed := g.rewind p.pos } :: rest)

/-- An insertion by register number; one entry per register. -/
def insReg (r : Nat × Nat) : List (Nat × Nat) → List (Nat × Nat)
  | [] => [r]
  | p :: rest => if r.1 < p.1 then r :: p :: rest else if r.1 = p.1 then p :: rest else p :: insReg r rest

/-- Every feed condition of a word, then its pops (R170): `reads` are (register, width), `writes` are (register, count). -/
def popFeeds (x : Ventry) (s : State) (reads writes : List (Nat × Nat)) : EngRes × Ventry :=
  if writes.any (fun p => (List.range p.2).any (fun i => (s.ct.feed (p.1 + i)).isSome)) then
    (.trap s (trapEngine 5), x)
  else if !x.popped.isEmpty then
    let r := refetchPopped s x.vl x.popped
    (r.1, { x with popped := r.2 })
  else
    let rs := reads.foldl (fun l r => insReg r l) []
    match feedChecks s x.vl rs with
    | .ok t =>
      let (c, ps) := rs.foldl (fun (acc : Ct × List Popped) r =>
        match popOne acc.1 x.vl r.1 with
        | (c, some p) => (c, acc.2 ++ [p])
        | (c, none) => (c, acc.2)) (t.ct, [])
      (.ok { t with ct := c }, { x with popped := ps })
    | r => (r, x)

/-! ### FEED words (R164 to R166, R173) -/

/-- A field of a record read as a number. -/
def recField (v off n : Nat) : Nat := v / 2 ^ (8 * off) % 2 ^ (8 * n)
/-- A 4-byte field, signed. -/
def recInt32 (v off : Nat) : Int := intOf ⟨32, true⟩ (recField v off 4)

/-- The record rules of R163. -/
def patternRecOk (v : Nat) : Bool :=
  let nd := recField v 8 1
  let tag := recField v 9 1
  decide (1 ≤ nd ∧ nd ≤ 4) && decide (3 ≤ tag ∧ tag ≤ 18 ∧ tag ≠ 12) &&
    decide (recField v 0x0A 6 = 0) && decide (recField v 0x30 16 = 0) &&
    (List.range 4).all (fun d =>
      let c := recField v (0x10 + 8 * d) 4
      if d < nd then decide (1 ≤ c) else decide (c = 0 ∧ recField v (0x14 + 8 * d) 4 = 0)) &&
    decide (((List.range nd).map fun d => recField v (0x10 + 8 * d) 4).foldl (· * ·) 1 < 2 ^ 40)

/-- The feed that a pattern record describes, with an empty chain. -/
def feedOfRec (v : Nat) (fmt0 : Word) (wmb : WmBinds) : Feed where
  base := BitVec.ofNat 64 (recField v 0 8)
  ndim := recField v 8 1
  ty := recTy (recField v 9 1) fmt0
  count := (List.range (recField v 8 1)).map fun d => recField v (0x10 + 8 * d) 4
  stride := (List.range (recField v 8 1)).map fun d => recInt32 v (0x14 + 8 * d)
  chain := []
  popped := 0
  delivered := false
  skip := 0
  queue := []
  blks := []
  blkAddr := BitVec.ofNat 64 (recField v 0 8)
  wmb := wmb
  err := none

/-- Binds or unbinds a register; reads of an earlier feed that are under way are no longer wanted. -/
def State.bindFeed (s : State) (d : Nat) (f : Option Feed) : State :=
  let t := s.dropFeed d
  { t with ct := t.ct.setFeed d f }

/-- FBIND (R165): after any fault vd is not bound. The feed's reads, and that of its record, wait under the bindings `wmb`. -/
def feedBind (s : State) (d : Nat) (a fmt0 : Word) (wmb : WmBinds) : EngRes :=
  if a.toNat % 64 ≠ 0 then .trap (s.bindFeed d none) (trapAlign a)
  else match s.feedGet ⟨d, wmb⟩ a 64 with
    | .wait t => .wait t
    | .bad c b t => .trap ((if c = 4 then t.detectMet b else t).bindFeed d none) (trapMem c b)
    | .ok v t =>
      if !patternRecOk v then .trap (t.bindFeed d none) (trapEngine 1)
      else .ok (t.bindFeed d (some (feedOfRec v fmt0 wmb)))

/-- The operator that FCHAIN appends, where its condition holds (R166): `t` is the type of a CONVERT parameter. Where the
current tag is framed, or an 8-bit flex tag under a format register that holds no valid format, R166 states no result of CONVERT: it is
refused (assumption 77). -/
def chainOp (f : Feed) (op : Nat) (par : Word) (t : Option Ty) (rd : Rnd) : Option FeedOp :=
  let cur := chainTy f.ty f.chain
  let v := par.toNat
  match op with
  | 0 =>
    if v = 0 ∧ f.chain = [] ∧ f.stride.all (· = 0) ∧ (f.ty.w = 8 ∨ f.ty.w = 16 ∨ f.ty.w = 32) ∧
        (f.ty.isFp ∨ f.ty.isInt) then some .expand else none
  | 1 =>
    match t with
    | some u => if v / 512 = 0 ∧ !u.isFramed ∧ 8 ≤ u.w ∧ !cur.isFramed ∧ !(cur.isInt ∧ cur.code = 11) then
        some (.convert u (v / 256 = 1) rd) else none
    | none => none
  | 2 =>
    if !cur.isFp then none
    else if v / 2 ^ 63 = 0 then (if v / 2 ^ 32 = 0 then some (.scaleK (v % 2 ^ 32) rd) else none)
    else if v / 2 ^ 59 % 16 = 0 ∧ v / 2 ^ 55 % 2 = 0 then
      some (.scaleA (sx64 (BitVec.ofNat 55 v)) (2 ^ (4 + v / 2 ^ 56 % 8)) rd)
    else none
  | _ =>
    let n := 16 * 2 ^ (v % 4)
    if v < 3 ∧ (cur.code = 13 ∨ cur.code = 14 ∨ cur.code = 15) ∧ f.total % n = 0 then some (.hinv n rd) else none

/-- FCHAIN (R166). The engine starts afresh under the longer chain. -/
def feedChain (s : State) (d op : Nat) (par : Word) (t : Option Ty) (rd : Rnd) : EngRes :=
  match s.ct.feed d with
  | none => .trap s (trapEngine 2)
  | some f =>
    if f.delivered || decide (4 ≤ f.chain.length) then .trap s (trapEngine 2)
    else match chainOp f op par t rd with
      | none => .trap s (trapEngine 2)
      | some o => .ok (s.bindFeed d (some { f with chain := f.chain ++ [o], skip := 0, queue := [], blks := [],
                                                   blkAddr := f.base, err := none }))

/-- FSTAT's value (R173). -/
def feedStat (c : Ct) (d sel : Nat) : Word :=
  match c.feed d with
  | none => if sel = 2 then -1 else 0
  | some f =>
    match sel with
    | 0 =>
      let st := if f.err.isSome then 3 else if f.total ≤ f.popped then 2 else 1
      BitVec.ofNat 64 (st * 256 + f.chain.length * 32 + (match f.err with | some e => e.code | none => 0))
    | 1 => BitVec.ofNat 64 f.popped
    | _ => match f.err with | some e => BitVec.ofNat 64 e.k | none => -1

/-- A resume makes each failed feed fetch again from its failure (R170). -/
def Ct.refetch (c : Ct) : Ct := { c with feeds := c.feeds.map (fun o => o.map fun f => { f with err := none }) }
/-- Of the feeds and of the popped vectors, a save keeps the positions alone: after the restore the engine fetches again both
the queued vectors and those that VIQ entries had popped (R170, R171). -/
def Ct.keepPositions (c : Ct) : Ct :=
  { c with feeds := c.feeds.map (fun o => o.map fun f => f.rewind f.popped)
           viq := c.viq.map fun x => { x with popped := x.popped.map fun p => { p with elems := [], live := false } } }

/-- An engine's result as that of a posted word. -/
def EngRes.vstep (r : EngRes) (x : Ventry) (f : State → VStep) : VStep :=
  match r with
  | .ok s => f s
  | .trap s t => .stop s x t
  | .wait s => .wait s x

end Sys2Proof.Machine
end

