-- ==== Sys2Proof/Machine/Vlanes.lean ====
section
/-! DEFINITION. Lane-ring words, reductions, scans, the online softmax, bins and strip marks as they run (spec chapter 09,
R176 to R189). Every word here treats vstart as 0. -/
namespace Sys2Proof.Machine

/-- Element i of the source, or zero at or beyond vl (R177). -/
def srcAt (x : Ventry) (c : Ct) (a w i : Nat) : Nat := if i < x.vl then opd x c a w i else 0

/-- The flags that a popped vector's elements at computing positions carry into a word (R167). -/
def carried (x : Ventry) (c : Ct) (a : Nat) : Fl := (actives0 x c).foldl (fun f e => f.or (opdFl x a e)) {}
/-- A VLANE word moves elements as bits: the elements listed are written; it sets no flag of its own, and hands on those that the
popped vectors carry (R167, R176, assumption 72). -/
def laneDone (s : State) (d w : Nat) (es : List Nat) (f : Nat → Nat) (fl : Fl) : VStep :=
  .done { s with ct := (mapElems s.ct d w es fun e => (f e, {})).1 } fl

/-- VPERM (R177): indices are zero-extended whatever the index tag's signedness. -/
def runPerm (x : Ventry) (s : State) (d a w : Nat) (b : VSrc) (wb : Nat) : VStep :=
  let c := s.ct
  laneDone s d w (actives0 x c) (fun e => srcAt x c a w (srcElem x c b wb e))
    ((carried x c a).or (match b with | .vec r => carried x c r | .sc _ => {}))

/-- VSLUP and VSLDN (R177). -/
def runSlide (x : Ventry) (s : State) (up : Bool) (d a w : Nat) (n : Word) : VStep :=
  let c := s.ct
  let es := actives0 x c
  if up then laneDone s d w (es.filter (fun e => n.toNat ≤ e)) (fun e => srcAt x c a w (e - n.toNat)) (carried x c a)
  else laneDone s d w es (fun e => srcAt x c a w (e + n.toNat)) (carried x c a)

/-- The positions below vl that a selector picks (R178). -/
def selected (x : Ventry) (c : Ct) (pg : Nat) : List Nat := (List.range x.vl).filter (fun e => c.pbit pg e)

/-- VCOMPR (R178). -/
def runCompr (x : Ventry) (s : State) (d a w pg : Nat) : VStep :=
  let c := s.ct
  let sel := selected x c pg
  laneDone s d w (List.range sel.length) (fun k => srcAt x c a w (sel.getD k 0)) (carried x c a)
/-- VEXPND (R178). -/
def runExpnd (x : Ventry) (s : State) (d a w pg : Nat) : VStep :=
  let c := s.ct
  let sel := selected x c pg
  let r := sel.foldl (fun (acc : Ct × Nat) e => (acc.1.vset d w e (srcAt x c a w acc.2), acc.2 + 1)) (c, 0)
  .done { s with ct := r.1 } (carried x c a)

/-- One node of a reduction tree (R55, R181). -/
def redOp (op : RedOp) (t : Ty) (rm : Rm) (a b : Nat) : Nat × Fl :=
  match t with
  | .int _ k =>
    match op with
    | .sum => (wrapInt k.w (intOf k a + intOf k b), {})
    | .max => (if intOf k a < intOf k b then b else a, {})
    | .min => (if intOf k b < intOf k a then b else a, {})
  | .fp _ f _ =>
    match op with
    | .sum => fpAdd f (reductionMode rm) 0 (decodeVal f a) (decodeVal f b)
    | .max => fpMinMax true f (reductionMode rm) 0 (decodeVal f a) (decodeVal f b)
    | .min => fpMinMax false f (reductionMode rm) 0 (decodeVal f a) (decodeVal f b)
  | _ => (0, {})

/-- The positions below vl, each with its element where it computes (R55). -/
def presents (x : Ventry) (c : Ct) (a w : Nat) : List (Option Nat) :=
  (List.range x.vl).map fun e => if active x c 0 e then some (opd x c a w e) else none


/-- The result of a tree that met one element alone, as every floating result is written: a NaN becomes the canonical one,
with NV where it was signalling (R41). -/
def loneResult (t : Ty) (bits : Nat) : Nat × Fl :=
  match t with
  | .fp _ f _ => if (decodeVal f bits).isNan then nanResult f { nv := (decodeVal f bits).isSnan } else (bits % 2 ^ f.width, {})
  | _ => (bits, {})

/-- The value of a reduction and its flags (R55, R181): +0 or 0 where no element computes. -/
def redResult (op : RedOp) (t : Ty) (rm : Rm) (xs : List (Option Nat)) : Nat × Fl :=
  let (r, fl) := treeFold (redOp op t rm) xs
  match r with
  | none => (0, {})
  | some v => let (y, g) := loneResult t v; (y, fl.or g)

/-- VREDSUM, VREDMAX and VREDMIN (R181). -/
def runRed (x : Ventry) (s : State) (op : RedOp) (sd : SReg) (a : Nat) (t : Ty) : VStep :=
  let c := s.ct
  let (r, fl) := redResult op t x.rm (presents x c a t.w)
  .done (retScalar s sd (extendElem t r)) (fl.or (carried x c a))

/-- VSCAN (R182). Where no element computes, the running total is sb's own value under va's tag, and its low w bits are
written back as they stand: the spec does not say whether a NaN payload there is made canonical (assumption 71). -/
def runScan (x : Ventry) (s : State) (d a : Nat) (t : Ty) (sd : SReg) (init : Nat) : VStep :=
  let c := s.ct
  let r := (actives0 x c).foldl (fun (acc : Ct × Nat × Fl) e =>
    let (v, fl) := redOp .sum t x.rm acc.2.1 (opd x c a t.w e)
    (acc.1.vset d t.w e v, v, acc.2.2.or (fl.or (opdFl x a e)))) (c, init % 2 ^ t.w, {})
  .done (retScalar { s with ct := r.1 } sd (extendElem t r.2.1)) r.2.2

/-- x - y of binary32 values, exact; infinities of one sign are invalid (R78). -/
def subExact (x y : FVal) : FVal × Bool :=
  match x, y with
  | .nan a, .nan b => (.nan (a || b), false)
  | .nan a, _ => (.nan a, false)
  | _, .nan b => (.nan b, false)
  | .inf a, .inf b => if a = b then (.nan true, true) else (.inf a, false)
  | a, b => (addExact .rne a b.negate, false)

/-- VSOFTMAX (R183): m, s and c return in sb, sb + 1 and sb + 2. -/
def runSoftmax (x : Ventry) (s : State) (d a : Nat) (sd : SReg) (m sum : Nat) : VStep :=
  let c := s.ct
  let es := actives0 x c
  let one : Nat := 0x3F800000
  if es.isEmpty then .done (retScalar s (sd + 2) (BitVec.ofNat 64 one)) {}
  else
    let rm := reductionMode x.rm
    let t32 : Ty := .fp 0x78 fmtF32 32
    let v := decodeVal fmtF32
    let (mx, f1) := treeFold (redOp .max t32 x.rm) (presents x c a 32)
    let (m2, f2) := fpMinMax true fmtF32 .rne 0 (v m) (v (mx.getD 0))
    let (k, f3) : Nat × Fl :=
      if !(v m).isNan && !(v m2).isNan && fvEq (v m) (v m2) then (one, {})
      else let (df, _) := subExact (v m) (v m2); fpExp2 fmtF32 .rne 0 df
    let (c2, f4) := mapElems c d 32 es fun e =>
      let (df, _) := subExact (v (opd x c a 32 e)) (v m2)
      fpExp2 fmtF32 rm 0 df
    let (t, f5) := treeFold (redOp .sum t32 x.rm)
      ((List.range x.vl).map fun e => if active x c 0 e then some (c2.vget d 32 e) else none)
    let (s2, f6) := fpFma fmtF32 rm 0 (v sum) (v k) (v (t.getD 0))
    let u := retScalar (retScalar (retScalar { s with ct := c2 } sd (BitVec.ofNat 64 m2)) (sd + 1) (BitVec.ofNat 64 s2))
      (sd + 2) (BitVec.ofNat 64 k)
    .done u ((((((f1.or f2).or f3).or f4).or f5).or f6).or (carried x c a))

/-! ### Bins (R184 to R189) -/

def Ct.setBin (c : Ct) (n : Nat) (f : Bin → Bin) : Ct :=
  match c.bins[n]? with
  | some b => { c with bins := c.bins.setIfInBounds n (f b) }
  | none => c

/-- BINZ's slots (R185). -/
def runBinz (s : State) (n : Nat) : VStep :=
  .done { s with ct := s.ct.setBin n fun b =>
    { b with work := Vector.replicate 64 0, comm := Vector.replicate 64 0 } } {}

/-- The format of a floating bin type. -/
def binFmt (bt : Nat) : Fmt := if bt = 15 then fmtF32 else fmtF64

/-- One add into a slot of type bt (R186): the term is a, or a * b. -/
def binAdd (bt : Nat) (rm : Rm) (t : Ty) (slot : Word) (a : Nat) (b : Option Nat) : Word × Fl :=
  match t with
  | .int _ k =>
    let x : Int := match b with | some y => intOf k a * intOf k y | none => intOf k a
    (slot + BitVec.ofInt 64 x, {})
  | .fp _ f _ =>
    let g := binFmt bt
    let sv := decodeVal g slot.toNat
    let (r, fl) := match b with
      | some y => fpFma g (reductionMode rm) 0 (decodeVal f a) (decodeVal f y) sv
      | none => fpAdd g (reductionMode rm) 0 sv (decodeVal f a)
    (BitVec.ofNat 64 r, fl)
  | _ => (slot, {})

/-- VBINACC and VBINMAC (R56, R186). -/
def runBinacc (x : Ventry) (s : State) (n bt a : Nat) (b : Option VSrc) (t : Ty) : VStep :=
  let c := s.ct
  match c.bins[n]? with
  | none => .done s {}
  | some bin =>
    let r := (actives0 x c).foldl (fun (acc : Vector Word 64 × Fl) e =>
      let k := (x.sbase + BitVec.ofNat 64 e).toNat % 64
      let (v, fl) := binAdd bt x.rm t (acc.1.toList.getD k 0) (opd x c a t.w e)
        (b.map fun q => srcElem x c q t.w e)
      (acc.1.setIfInBounds k v, acc.2.or (fl.or ((opdFl x a e).or (match b with | some q => srcFl x q e | none => {})))))
      (bin.work, {})
    doneCt s (c.setBin n fun q => { q with work := r.1 }, r.2)

/-- BINFOLD (R57, R187). -/
def runBinfold (x : Ventry) (s : State) (n bt : Nat) (sd : SReg) : VStep :=
  match s.ct.bins[n]? with
  | none => .done s {}
  | some b =>
    let t : Ty := if bt = 15 then .fp 0x78 fmtF32 32 else if bt = 16 then .fp 0x80 fmtF64 64 else .int 0x48 ⟨64, true⟩
    let (r, fl) := treeFold (redOp .sum t x.rm) (b.work.toList.map fun w => some (w.toNat % 2 ^ t.w))
    .done (retScalar s sd (BitVec.ofNat 64 (r.getD 0))) fl

/-- VMARK (R189). -/
def runMark (x : Ventry) (s : State) (a : Word) : VStep :=
  .done { s with ct := { s.ct with bins := s.ct.bins.map (fun b => { b with comm := b.work }),
                                   mark := some (a, x.sbase) } } {}

end Sys2Proof.Machine
end

