-- ==== Sys2Proof/Machine/Vframes.lean ====
section
/-! DEFINITION. Framed elements: chains of trellis nodes, the conversion through transit values, framed arithmetic and the
FRAME words as they run (spec chapters 03 and 05, R61, R92 to R106). -/
namespace Sys2Proof.Machine

/-! ### Trellis nodes (R305) -/

/-- A node as read: its 64 bytes as a number. -/
abbrev Node := Nat

def Node.parent (n : Node) : Nat := recField n 0 4
def Node.flags (n : Node) : Nat := recField n 4 4
/-- Translation along axis k, in counts of 2^-24 m. -/
def Node.trans (n : Node) (k : Nat) : Int := intOf ⟨64, true⟩ (recField n (8 + 8 * k) 8)
/-- Quaternion component k (w, x, y, z). -/
def Node.quat (n : Node) (k : Nat) : FVal := decodeVal fmtF32 (recField n (0x20 + 4 * k) 4)
def Node.version (n : Node) : Nat := recField n 0x30 4
def Node.gen (n : Node) : Nat := recField n 0x38 1
def Node.valid (n : Node) : Bool := n.flags.testBit 0
def Node.ident (n : Node) : Bool := n.flags.testBit 1
def Node.tomb (n : Node) : Bool := n.flags.testBit 2
def Node.root (n : Node) : Bool := n.flags.testBit 3
def Node.retired (n : Node) : Bool := n.flags.testBit 4
def Node.depth (n : Node) : Nat := n.flags / 256 % 64

/-- A frame condition of an element, with its place in the precedence of R101 and R102. -/
structure FrameFault where
  rank : Nat
  code : Nat
  info : Word
  pages : List Word

def fnull (tag : Nat) : FrameFault := ⟨0, 10, BitVec.ofNat 64 tag, []⟩
def fstale (tag : Nat) : FrameFault := ⟨2, 11, BitVec.ofNat 64 tag, []⟩
def fdepth (tag : Nat) : FrameFault := ⟨3, 12, BitVec.ofNat 64 tag, []⟩
def fdisj (tag : Nat) : FrameFault := ⟨4, 13, BitVec.ofNat 64 tag, []⟩
def frange (tag : Nat) : FrameFault := ⟨5, 14, BitVec.ofNat 64 tag, []⟩
def fmem (cause : Nat) (a : Word) : FrameFault := ⟨1, codeOfCause cause, a, [pageEntry a cause]⟩

/-- The plot of the CT in focus. -/
def State.myPlot (s : State) : Option Plot := s.plotOf s.ct.plot
/-- log2 of the node slots of the CT's trellis; trellisbase. -/
def State.tsz (s : State) : Nat := match s.myPlot with | some p => p.tsz | none => 0
def State.trellisBase (s : State) : Word := match s.myPlot with | some p => p.trellisVa | none => 0

/-- Node i as the plot's table holds it: one indivisible read (R97, R102). -/
def State.nodeNow (s : State) (i : Nat) : Except FrameFault Node :=
  let a := s.trellisBase + BitVec.ofNat 64 (64 * i)
  match s.resolve s.ct.via a 64 .load with
  | .error c => .error (fmem c a)
  | .ok l =>
    match l with
    | .phys pa ty =>
      if 2 ≤ ty ∨ mainEnd ≤ pa then .error (fmem 2 a)
      else if s.poisoned pa then .error (fmem 4 a)
      else .ok (s.peek s.ct.via l 64)
    | _ => .ok (s.peek s.ct.via l 64)

/-- The older versions of node i that a word may still read: those that no publish before its FRFENCE has replaced (R100, R333).
`fr` numbers the publishes that its fences have put before it. -/
def State.olderNodes (s : State) (fr i : Nat) : List Node :=
  (s.pkg.oldNodes.filter (fun o => o.plot = s.ct.plot && o.idx = i && decide (fr < o.upto))).map (·.node)
/-- A conversion's read of node i, whole and once for both its chains (R100, R333): the table's node, or an older version that it may
still read; which one is a free value of the o-th conversion of the word (assumption 14). -/
def State.nodeAt (s : State) (fr o i : Nat) : Except FrameFault Node :=
  match s.nodeNow i with
  | .error f => .error f
  | .ok n =>
    let l := n :: s.olderNodes fr i
    .ok (l.getD ((Config.freeValue (s.draws + 2 ^ 24 * o + i)).toNat % l.length) n)

/-- The chain of a tag: (tag, node) from the tag's own node to the root; at most 63 parent steps (R97). At FDEPTH the tag whose
node failed (R101) is taken to be that of the 64th node, from which a 64th parent step would be needed (assumption 80). The reads
are those of the o-th conversion of the word. -/
def State.chain (s : State) (fr o : Nat) : Nat → Nat → Except FrameFault (List (Nat × Node))
  | 0, tag => .error (fdepth tag)
  | fuel + 1, tag =>
    let i := tag / 256
    if 2 ^ s.tsz ≤ i then .error (fstale tag)
    else match s.nodeAt fr o i with
      | .error f => .error f
      | .ok n =>
        if n.retired || decide (n.gen ≠ tag % 256) || !(n.valid || n.tomb) then .error (fstale tag)
        else if n.root then .ok [(tag, n)]
        else if n.parent / 256 = 0 then .error (fdisj tag)
        else if fuel = 0 then .error (fdepth tag)
        else match State.chain s fr o fuel n.parent with
          | .error f => .error f
          | .ok l => .ok ((tag, n) :: l)
/-- The nodes of a tag's chain as the table holds them now, for an entry of the chain cache; none where the chain is broken. -/
def State.chainNow (s : State) : Nat → Nat → Option (List (Nat × Node))
  | 0, _ => none
  | fuel + 1, tag =>
    let i := tag / 256
    if 2 ^ s.tsz ≤ i then none
    else match s.nodeNow i with
      | .error _ => none
      | .ok n =>
        if n.root || decide (n.parent / 256 = 0) then some [(i, n)]
        else (State.chainNow s fuel n.parent).map fun l => (i, n) :: l

/-! ### Transit values (R61) and the conversion (R98) -/

/-- 2^127: a transit magnitude of 2^63. -/
def transitMax : Int := 2 ^ 127
def inRange (t : Int) : Bool := -transitMax < t ∧ t < transitMax

/-- transit_from_f32: none for FRANGE; whether truncation changed the value. -/
def transitOfF32 (bits : Nat) : Option (Int × Bool) :=
  match decodeVal fmtF32 bits with
  | .fin n m e =>
    let (q, cut) := shiftFloor m (e + 64)
    let t : Int := if n then -(q : Int) else q
    if inRange t then some (t, cut) else none
  | _ => none
/-- transit_from_f64: none for FRANGE; whether a nonzero value became 0. -/
def transitOfF64 (v : FVal) : Option (Int × Bool) :=
  match v with
  | .fin n m e =>
    let (t, _) := roundToInt .rne 0 n m (e + 64)
    if inRange t then some (t, decide (m ≠ 0 ∧ t = 0)) else none
  | _ => none
/-- The exact value of a transit count. -/
def valOfTransit (t : Int) : FVal := .fin (decide (t < 0)) t.natAbs (-64)
/-- f64_from_transit. -/
def f64OfTransit (t : Int) : FVal := decodeVal fmtF64 (roundFp fmtF64 .rne 0 (valOfTransit t)).1
/-- f32_from_transit. -/
def f32OfTransit (t : Int) : Nat × Fl := roundFp fmtF32 .rne 0 (valOfTransit t)

/-- binary64 arithmetic under RNE; flags of the rotation are not raised. -/
def mul64 (a b : FVal) : FVal := decodeVal fmtF64 (fpMul fmtF64 .rne 0 a b).1
def add64 (a b : FVal) : FVal := decodeVal fmtF64 (fpAdd fmtF64 .rne 0 a b).1
def sub64 (a b : FVal) : FVal := decodeVal fmtF64 (fpSub fmtF64 .rne 0 a b).1
def fma64 (a b c : FVal) : FVal := decodeVal fmtF64 (fpFma fmtF64 .rne 0 a b c).1
def two64 : FVal := .fin false 1 1
def one64 : FVal := .fin false 1 0

/-- The matrix of a quaternion (R98), row by row. -/
def rotMatrix (w x y z : FVal) : List (List FVal) :=
  let d := fun a b c e => sub64 one64 (mul64 two64 (add64 (mul64 a b) (mul64 c e)))
  let p := fun a b c e => mul64 two64 (add64 (mul64 a b) (mul64 c e))
  let q := fun a b c e => mul64 two64 (sub64 (mul64 a b) (mul64 c e))
  [[d y y z z, q x y w z, p x z w y], [p x y w z, d x x z z, q y z w x], [q x z w y, p y z w x, d x x y y]]

/-- A triple of transit values with the UF that its steps raised; none for FRANGE. -/
abbrev Triple := Option (List Int × Bool)

/-- rotate (R98). -/
def rotate (t : List Int) (n : Node) (down : Bool) : Triple :=
  let m := rotMatrix (n.quat 0) (n.quat 1) (n.quat 2) (n.quat 3)
  let at_ := fun i j => (if down then ((m.getD j []).getD i one64) else ((m.getD i []).getD j one64))
  let v := t.map f64OfTransit
  let c := fun j => v.getD j one64
  let u := [0, 1, 2].map fun i => fma64 (at_ i 2) (c 2) (fma64 (at_ i 1) (c 1) (mul64 (at_ i 0) (c 0)))
  u.foldl (fun acc x => match acc, transitOfF64 x with
    | some (l, f), some (y, g) => some (l ++ [y], f || g)
    | _, _ => none) (some ([], false))

/-- A translation added or subtracted, exactly (R98). -/
def translate (t : List Int) (n : Node) (down : Bool) : Triple :=
  let u := t.mapIdx fun k x => if down then x - n.trans k * 2 ^ 40 else x + n.trans k * 2 ^ 40
  if u.all inRange then some (u, false) else none

def Triple.step (t : Triple) (f : List Int → Triple) : Triple :=
  match t with
  | none => none
  | some (l, fl) => match f l with
    | some (l', g) => some (l', fl || g)
    | none => none

/-- Child to parent, and parent to child. -/
def climb (pos : Bool) (t : Triple) (n : Node) : Triple :=
  let t := if n.ident then t else t.step (fun l => rotate l n false)
  if pos then t.step (fun l => translate l n false) else t
def descend (pos : Bool) (t : Triple) (n : Node) : Triple :=
  let t := if pos then t.step (fun l => translate l n true) else t
  if n.ident then t else t.step (fun l => rotate l n true)

/-- The components and the tag of a framed element (R92). -/
def comps (v : Nat) : List Nat := [v % 2 ^ 32, v / 2 ^ 32 % 2 ^ 32, v / 2 ^ 64 % 2 ^ 32]
def ftag (v : Nat) : Nat := v / 2 ^ 96 % 2 ^ 32
/-- Null tags (R93). -/
def nullTag (t : Nat) : Bool := t / 256 = 0
def mkFramed (cs : List Nat) (tag : Nat) : Nat :=
  cs.getD 0 0 + 2 ^ 32 * cs.getD 1 0 + 2 ^ 64 * cs.getD 2 0 + 2 ^ 96 * tag

/-- The fault with the lower rank; of equals the first. -/
def FrameFault.first (a b : FrameFault) : FrameFault := if b.rank < a.rank then b else a

/-- convert (R98): the three components in frame D, with the flags of R99; it is the o-th conversion of the word. -/
def State.convert (s : State) (fr o : Nat) (v : Nat) (pos : Bool) (src dst : Nat) : Except FrameFault (List Nat × Fl) :=
  if src = dst then .ok (comps v, {})
  else
    let fix := fun (f : FrameFault) => if f.rank = 4 then fdisj src else f
    match s.chain fr o 64 src, s.chain fr o 64 dst with
    | .error f, .error g => .error (fix (f.first g))
    | .error f, .ok _ => .error (fix f)
    | .ok _, .error g => .error (fix g)
    | .ok cs, .ok cd =>
      if cs.getLast?.map (·.1) ≠ cd.getLast?.map (·.1) then .error (fdisj src)
      else
        let up := cs.takeWhile (fun p => !cd.any (fun q => q.1 = p.1))
        let lca := (cs.drop up.length).head?.map (·.1)
        let down := (cd.takeWhile (fun p => some p.1 ≠ lca)).reverse
        let start : Triple := (comps v).foldl (fun acc b => match acc, transitOfF32 b with
          | some (l, f), some (y, g) => some (l ++ [y], f || g)
          | _, _ => none) (some ([], false))
        let t := up.foldl (fun t p => climb pos t p.2) start
        match down.foldl (fun t p => descend pos t p.2) t with
        | none => .error (frange src)
        | some (l, uf) =>
          let r := l.map f32OfTransit
          let fl := r.foldl (fun (f : Fl) x => f.or x.2) { uf := uf, tomb := up.any (·.2.tomb) || down.any (·.2.tomb) }
          .ok (r.map (·.1), fl)

/-! ### Framed words as they run -/

/-- A word whose conversions, two of an element, could read older nodes has drawn its choices. -/
def State.drewNodes (s : State) (vl : Nat) : State :=
  if s.pkg.oldNodes.any (fun o => o.plot = s.ct.plot) then { s with draws := s.draws + 2 ^ 24 * (2 * vl) } else s

/-- A word that converts waits while a copy has still to write a node of its plot's table (R261). -/
def State.nodesHeld (s : State) : Bool :=
  s.anyClaim && (match s.myPlot with
    | some p => (List.range (2 ^ p.tsz)).any fun j => s.lineClaimed (lineOf (s.home (p.trellis + 64 * j))) .load
    | none => false)
def VStep.afterNodes (r : VStep) (s : State) (x : Ventry) : VStep := if s.nodesHeld then .wait s x else r

/-- Elements in increasing order until one faults (R101): those below it are written and flagged, vstart becomes its index. -/
def framedGo (x : Ventry) (s0 : State) (put : Ct → Nat → Nat → Ct) (f : Nat → Except FrameFault (Nat × Fl)) :
    List Nat → Ct → Fl → VStep
  | [], c, fl => .done ({ s0 with ct := c }.drewNodes x.vl) fl
  | e :: es, c, fl =>
    match f e with
    | .ok (v, g) => framedGo x s0 put f es (put c e v) (fl.or g)
    | .error b =>
      let c' := { c with a := c.a.flag fl, vstart := e }
      let s1 := { s0 with ct := c' }.drewNodes x.vl
      let s1 := if b.code = 6 then s1.detectMet b.info else s1
      .stop s1 { x with vstart := e } { code := b.code, index := e, info := some b.info, pages := b.pages }

/-- The frame of a framed sum, and both operands in it (R95, R96): components of a, of b, the tag, the flags. -/
def State.bothIn (s : State) (fr o : Nat) (a : Nat) (pa : Bool) (b : Nat) (pb : Bool) :
    Except FrameFault (List Nat × List Nat × Nat × Fl) :=
  if pa && nullTag (ftag a) then .error (fnull (ftag a))
  else if pb && nullTag (ftag b) then .error (fnull (ftag b))
  else
    let t := if !pa && (pb || nullTag (ftag a)) then ftag b else ftag a
    let tr := if nullTag t then 0 else t
    let one := fun (o : Nat) (v : Nat) (p : Bool) =>
      if nullTag (ftag v) || decide (ftag v = tr) then Except.ok (comps v, ({} : Fl)) else s.convert fr o v p (ftag v) tr
    match one o a pa, one (o + 1) b pb with
    | .ok (ca, f), .ok (cb, g) => .ok (ca, cb, tr, f.or g)
    | .error f, .error g => .error (f.first g)
    | .error f, _ => .error f
    | _, .error g => .error g

def isPos (t : Ty) : Bool := match t with | .fpos => true | _ => false

/-- Three component operations, with their flags. -/
def zip3 (f : Nat → Nat → Nat × Fl) (a b : List Nat) : List Nat × Fl :=
  let r := (a.zip b).map fun p => f p.1 p.2
  (r.map (·.1), r.foldl (fun (g : Fl) q => g.or q.2) {})

/-- Framed VADD, VSUB and VMUL (R95, R96). -/
def runFbin (x : Ventry) (s : State) (op : BinOp) (d a : Nat) (ta : Ty) (b : VSrc) (tb : Ty) : VStep :=
  let c := s.ct
  framedGo x s (fun c e v => c.vset d 128 e v) (fun e =>
    let va := opd x c a ta.w e
    let vb := srcElem x c b tb.w e
    let cf := (opdFl x a e).or (srcFl x b e)
    match op with
    | .mul =>
      let fr := if ta.isFramed then va else vb
      let k := decodeVal fmtF32 ((if ta.isFramed then vb else va) % 2 ^ 32)
      let (l, fl) := zip3 (fun p _ => fpMul fmtF32 x.rm (x.rand e) (decodeVal fmtF32 p) k) (comps fr) [0, 0, 0]
      .ok (mkFramed l (ftag fr), fl.or cf)
    | _ =>
      match s.bothIn x.frames (2 * e) va (isPos ta) vb (isPos tb) with
      | .error f => .error f
      | .ok (ca, cb, tr, f) =>
        let sum := fun p q => (if op = .sub then fpSub else fpAdd) fmtF32 x.rm (x.rand e) (decodeVal fmtF32 p) (decodeVal fmtF32 q)
        let (l, g) := zip3 sum ca cb
        .ok (mkFramed l tr, (f.or g).or cf)) (actives x c) c {}

/-- VNEG of an fdisp (R81). -/
def runFneg (x : Ventry) (s : State) (d a : Nat) : VStep :=
  let c := s.ct
  doneCt s (mapElems c d 128 (actives x c) fun e =>
    let v := opd x c a 128 e
    (mkFramed ((comps v).map fun p => (fpSign true fmtF32 p).1) (ftag v), opdFl x a e))

/-- Framed VCMP.EQ and VCMP.NE (R96). -/
def runFcmp (x : Ventry) (s : State) (k : CmpOp) (pd a : Nat) (ta : Ty) (b : Nat) (tb : Ty) : VStep :=
  let c := s.ct
  framedGo x s (fun c e v => c.psetBit pd e (v = 1)) (fun e =>
    match s.bothIn x.frames (2 * e) (opd x c a 128 e) (isPos ta) (opd x c b 128 e) (isPos tb) with
    | .error f => .error f
    | .ok (ca, cb, _, f) =>
      let (l, g) := zip3 (fun p q =>
        let (r, h) := fpCmp .eq (decodeVal fmtF32 p) (decodeVal fmtF32 q); (if r then 1 else 0, h)) ca cb
      let eq := l.all (· = 1)
      .ok (if eq = (k = .eq : Bool) then 1 else 0, (f.or g).or ((opdFl x a e).or (opdFl x b e)))) (actives x c) c {}

/-- FPCVT (R104). -/
def runFpcvt (x : Ventry) (s : State) (d a : Nat) (pos : Bool) (tag : BitVec 32) : VStep :=
  let c := s.ct
  framedGo x s (fun c e v => c.vset d 128 e v) (fun e =>
    let v := opd x c a 128 e
    if nullTag tag.toNat then .error (fnull tag.toNat)
    else if nullTag (ftag v) then
      (if pos then .error (fnull (ftag v)) else .ok (mkFramed (comps v) tag.toNat, opdFl x a e))
    else match s.convert x.frames (2 * e) v pos (ftag v) tag.toNat with
      | .error f => .error f
      | .ok (l, f) => .ok (mkFramed l tag.toNat, f.or (opdFl x a e))) (actives x c) c {}

/-- The sum of three squares, exact, rounded once (R105). -/
def len2 (rm : Rm) (r : Nat) (v : Nat) : Nat × Fl :=
  let vs := (comps v).map (decodeVal fmtF32)
  if vs.any (·.isNan) then nanResult fmtF32 { nv := vs.any (·.isSnan) }
  else if vs.any (·.isInf) then infResult fmtF32 false
  else roundFp fmtF32 rm r (vs.foldl (fun acc y => addExact .rne acc (mulExact y y)) (.fin false 0 0))

/-- FPLEN2 (R105). -/
def runFplen2 (x : Ventry) (s : State) (d a : Nat) : VStep :=
  let c := s.ct
  doneCt s (mapElems c d 32 (actives x c) fun e =>
    let (v, fl) := len2 x.rm (x.rand e) (opd x c a 128 e)
    (v, fl.or (opdFl x a e)))
/-- FPGTAG (R106). -/
def runFpgtag (x : Ventry) (s : State) (d a : Nat) : VStep :=
  let c := s.ct
  doneCt s (mapElems c d 32 (actives x c) fun e => (ftag (opd x c a 128 e), opdFl x a e))
/-- FPSTAG (R106). -/
def runFpstag (x : Ventry) (s : State) (d a : Nat) (b : VSrc) : VStep :=
  let c := s.ct
  doneCt s (mapElems c d 128 (actives x c) fun e =>
    (mkFramed (comps (opd x c a 128 e)) (srcElem x c b 32 e % 2 ^ 32), (opdFl x a e).or (srcFl x b e)))

end Sys2Proof.Machine
end

