-- ==== Sys2Proof/Machine/Vmatrix.lean ====
section
/-! DEFINITION. Matrix words as they run: multiply-accumulate, slot and plane moves, seed records and the seed search
(spec chapter 10, R193 to R213). -/
namespace Sys2Proof.Machine

/-- Replaces slot ac. -/
def Ct.setAcc (c : Ct) (ac : Nat) (a : Acc) : Ct := { c with mx := { c.mx with acc := c.mx.acc.setIfInBounds ac a } }
def Ct.accOf (c : Ct) (ac : Nat) : Acc := c.mx.acc[ac]?.getD 0

/-! ### Rows of a row operand (R197) -/

/-- The rows (r, i) of a row operand of row length W that compute: from vstart, below M and 128, and under the row
predicate of MMAC.M. The spec states no wrap of a row index: i0 + r is taken modulo 2^64 (assumption 79). -/
def rowList (x : Ventry) (c : Ct) (len : Nat) (i0 : Word) (m : Nat) (rows : Option Nat) : List (Nat × Nat) :=
  let n := if len = 0 then 0 else x.vl / len
  (List.range n).filterMap fun r =>
    let i := (i0 + BitVec.ofNat 64 r).toNat
    if x.vstart ≤ r ∧ i < m ∧ i < 128 ∧ (match rows with | some p => c.pbit p i | none => true) = true then some (r, i)
    else none

/-- dot_exact of floating terms (R58), and NV. -/
def dotFp (ps : List (FVal × FVal)) : FVal × Bool :=
  let inv := ps.any (fun p => badProduct p.1 p.2)
  let nan := ps.any (fun p => p.1.isNan || p.2.isNan)
  let snan := ps.any (fun p => p.1.isSnan || p.2.isSnan)
  let prods := ps.map fun p => mulExact p.1 p.2
  let infs := (ps.filter (fun p => !p.1.isNan && !p.2.isNan && !badProduct p.1 p.2)).map (fun p => mulExact p.1 p.2)
  let opp := infs.any (fun v => v.isInf && v.neg) && infs.any (fun v => v.isInf && !v.neg)
  if inv || nan || opp then (.nan false, snan || inv || opp)
  else (match prods with
    | [] => .fin false 0 0
    | p :: rest => rest.foldl (addExact .rne) p, false)

/-- The exact dot product of a row and a column (R58): an integer one is exact, a zero of it is +0. -/
def dotExact (ta tp : Ty) (xs ws : List Nat) : FVal × Bool :=
  match ta, tp with
  | .int _ t, .int _ u => (fvalOfInt (((xs.zip ws).map fun p => intOf t p.1 * intOf u p.2).sum), false)
  | _, _ => dotFp ((xs.zip ws).map fun p => (ta.val p.1, tp.val p.2))

/-- One accumulation into a slot element: two RNE roundings (R58, R198). -/
def macElem (old : Nat) (d : FVal × Bool) : Nat × Fl :=
  let (b, f) := roundFp fmtF32 .rne 0 d.1
  let (v, g) := fpAdd fmtF32 .rne 0 (decodeVal fmtF32 old) (decodeVal fmtF32 b)
  (v, (f.or g).or { nv := d.2 })

/-- Writes f j into row i of a slot, for the columns below n. -/
def setRow (a : Acc) (i n : Nat) (f : Nat → Nat × Fl) : Acc × Fl :=
  (List.range n).foldl (fun (r : Acc × Fl) j => let v := f j; (accSet r.1 i j v.1, r.2.or v.2)) (a, {})

/-- MMAC and MMAC.M (R198). -/
def runMmac (x : Ventry) (s : State) (ac a : Nat) (ta tp : Ty) (i0 : Word) (rows : Option Nat) (m n k : Nat) : VStep :=
  let c := s.ct
  if m = 0 ∨ n = 0 ∨ k = 0 then .done s {}
  else
    let r := (rowList x c k i0 m rows).foldl (fun (q : Acc × Fl) ri =>
      let xs := (List.range k).map fun kk => opd x c a ta.w (ri.1 * k + kk)
      let cf := (List.range k).foldl (fun (f : Fl) kk => f.or (opdFl x a (ri.1 * k + kk))) {}
      let (acc, fl) := setRow q.1 ri.2 n fun j =>
        macElem (accElem q.1 ri.2 j) (dotExact ta tp xs ((List.range k).map fun kk => planeCell c.mx.act kk j % 2 ^ tp.w))
      (acc, q.2.or (fl.or cf))) (c.accOf ac, {})
    doneCt s (c.setAcc ac r.1, r.2)

/-- MACZ (R199). -/
def runMacz (s : State) (ac : Nat) : VStep := .done { s with ct := s.ct.setAcc ac 0 } {}

/-- An element converted to binary32 as MACIN and MACLD convert it (R199, R202). -/
def toF32 (t : Ty) (bits : Nat) : Nat × Fl := cvtToFp fmtF32 .rne 0 false (t.val bits)

/-- MACIN (R199): m and n are 0 under any zero grant (R195). -/
def runMacin (x : Ventry) (s : State) (ac a : Nat) (t : Ty) (i0 : Word) (m n : Nat) : VStep :=
  let c := s.ct
  if m = 0 ∨ n = 0 then .done s {}
  else
    let r := (rowList x c n i0 m none).foldl (fun (q : Acc × Fl) ri =>
      let (acc, fl) := setRow q.1 ri.2 n fun j =>
        let e := ri.1 * n + j
        let (v, f) := toF32 t (opd x c a t.w e)
        (v, f.or (opdFl x a e))
      (acc, q.2.or fl)) (c.accOf ac, {})
    doneCt s (c.setAcc ac r.1, r.2)

/-- MSWAP's planes; the tags were exchanged at decode (R196, R203). -/
def runMswap (s : State) : VStep :=
  .done { s with ct := { s.ct with mx := { s.ct.mx with act := s.ct.mx.sha, sha := s.ct.mx.act } } } {}

/-! ### Rows in memory (R200, R213) -/

/-- The accesses of the columns below `cols` of a row at `a`. -/
def rowAsks (s : State) (a : Word) (w q cols : Nat) (op : Nat → ReqOp) : List (Nat × Word × DevAsk) :=
  (List.range cols).map fun j => (j, a + BitVec.ofNat 64 (j * w / 8), ⟨s.vport (128 * q + j) 0, op j⟩)

/-- The planned rows up to the first that faults, and that one. -/
def rowPlans (s : State) (k : Kind) (base stride : Word) (w cols : Nat) (op : Nat → Nat → ReqOp) (qs : List Nat) :
    List ElemPlan × Option ElemPlan :=
  let ps := qs.map fun q =>
    s.elemPlan (accBytes w) k (fun ty => decide (ty ≠ 2)) q (rowAsks s (base + BitVec.ofNat 64 q * stride) w q cols (op q))
  (ps.takeWhile (fun p => p.bad.isEmpty), ps.find? (fun p => !p.bad.isEmpty))

/-- A planned row read: (column, bits). -/
def readRow (s : State) (x : Ventry) (w : Nat) (p : ElemPlan) : State × List (Nat × Nat) :=
  p.ok.foldl (fun (acc : State × List (Nat × Nat)) q =>
    let (v, t) := acc.1.vread (s.floorOf x q.2.1 (accBytes w)) q.2.2.1 (accBytes w) q.2.2.2.key
    (t, acc.2 ++ [(q.1, pickBits w q.1 v)])) (s, [])

/-- A planned row written; none when it waits for the provisional reserve. -/
def writeRow (s : State) (late : Bool) (w : Nat) (p : ElemPlan) (val : Nat → Nat) : Option State :=
  p.ok.foldl (fun (acc : Option State) q => acc.bind fun t =>
    let b := (storeOp w q.1 (val q.1)).bits
    storeOne t late (accBytes w) b.1 b.2 q.2.2.1 q.2.2.2) (some s)

/-- The end of a row-wise memory word: done, or the stop at its faulting row, whose completed rows have raised their
flags (R213). -/
def rowEnd (s : State) (x : Ventry) (bad : Option ElemPlan) (fl : Fl) : VStep :=
  match bad with
  | none => .done s fl
  | some p =>
    let t := s.detectAll [p]
    .stop { t with ct := { t.ct with a := t.ct.a.flag fl, vstart := p.e } } { x with vstart := p.e } (planTrap [p])

/-- The first of some addresses that is no multiple of b; where only a row stride is none, the stride stands for it in INFO
(assumption 102). -/
def offAlign (b : Nat) (as : List Word) : Option Word := as.find? (fun a => a.toNat % b ≠ 0)
/-- Alignment of base and stride, or of a tile, under R200: element sizes below a byte need none. -/
def matAlign (w : Nat) (as : List Word) : Option Word := if w < 8 then none else offAlign (w / 8) as

/-- Rows q of a word that begins at row vstart. -/
def rowsFrom (x : Ventry) (n : Nat) : List Nat := (List.range n).filter (fun q => x.vstart ≤ q)

/-- Row k of a plane: the columns given, zero bits elsewhere (R201). -/
def planeRow (p : Plane) (k : Nat) (vs : List (Nat × Nat)) : Plane :=
  vs.foldl (fun (p : Plane) v => planeSet p k v.1 v.2) (setBits p (2048 * k) 2048 0)

/-- MLDS (R195, R201): n and k are 0 under any zero grant. -/
def runMlds (x : Ventry) (s : State) (t : Ty) (base stride : Word) (n k : Nat) : VStep :=
  match matAlign t.w [base, stride] with
  | some a => .stop s x (trapAlign a)
  | none =>
    let (good, bad) := rowPlans s .load base stride t.w n (fun _ _ => .read) (rowsFrom x k)
    match s.planStalls x.wmb (accBytes t.w) .load (good ++ bad.toList) with
    | some u => .wait u x
    | none =>
      let (u, p) := good.foldl (fun (acc : State × Plane) r =>
        let (v, vs) := readRow acc.1 x t.w r
        (v, planeRow acc.2 r.e vs)) (s, s.ct.mx.sha)
      let p := match bad with
        | some _ => p
        | none => ((List.range 128).filter (fun q => k ≤ q)).foldl (fun (p : Plane) q => planeRow p q []) p
      rowEnd { u with ct := { u.ct with mx := { u.ct.mx with sha := p } } } x bad {}

/-- MACLD (R202): m and n are 0 under any zero grant (R195). -/
def runMacld (x : Ventry) (s : State) (ac : Nat) (t : Ty) (base stride : Word) (m n : Nat) : VStep :=
  match matAlign t.w [base, stride] with
  | some a => .stop s x (trapAlign a)
  | none =>
    let (good, bad) := rowPlans s .load base stride t.w n (fun _ _ => .read) (rowsFrom x m)
    match s.planStalls x.wmb (accBytes t.w) .load (good ++ bad.toList) with
    | some u => .wait u x
    | none =>
      let (u, a, fl) := good.foldl (fun (acc : State × Acc × Fl) r =>
        let (v, vs) := readRow acc.1 x t.w r
        let q := vs.foldl (fun (q : Acc × Fl) y =>
          let (b, f) := toF32 t y.2
          (accSet q.1 r.e y.1 b, q.2.or f)) (acc.2.1, acc.2.2)
        (v, q.1, q.2)) (s, s.ct.accOf ac, {})
      rowEnd { u with ct := u.ct.setAcc ac a } x bad fl

/-- The rows written by a storing word, and the flags of the rows done; none when one waits for the reserve. -/
def writeRows (s : State) (w : Nat) (val : Nat → Nat → Nat × Fl) (cols : Nat) (good : List ElemPlan) :
    Option (State × Fl) :=
  good.foldl (fun (acc : Option (State × Fl)) r => acc.bind fun t =>
    (writeRow t.1 true w r (fun j => (val r.e j).1)).map fun u =>
      (u, (List.range cols).foldl (fun (f : Fl) j => f.or (val r.e j).2) t.2)) (some (s, {}))

/-- The bytes that planned rows write in full. -/
def rowRanges (w : Nat) (ps : List ElemPlan) : List (Nat × Nat) :=
  if w < 8 then planRanges 1 (ps.map fun p => { p with ok := p.ok.filter (fun q => (q.1 + 1) % (8 / w) = 0) })
  else planRanges (w / 8) ps

/-- The rows of a storing word (MACST, MSEEDGEN), planned, awaited and written. -/
def runRows (x : Ventry) (s : State) (w : Nat) (base stride : Word) (m cols : Nat) (val : Nat → Nat → Nat × Fl) : VStep :=
  let (good, bad) := rowPlans s .store base stride w cols (fun q j => storeOp w j (val q j).1) (rowsFrom x m)
  if s.farBits good then .wait (provWait s) x
  else match s.planStalls x.wmb (accBytes w) .store (good ++ bad.toList) with
  | some u => .wait u x
  | none =>
    match writeRows s w val cols good with
    | none => .wait (provWait s) x
    | some (u, fl) =>
      let r := u.wroteBy x (rowRanges w good)
      rowEnd r.1 r.2 bad fl

/-- MACST (R202): the SR element index is i * 128 + j; m and n are 0 under any zero grant (R195). -/
def runMacst (x : Ventry) (s : State) (ac : Nat) (t : Ty) (base stride : Word) (m n : Nat) : VStep :=
  match matAlign t.w [base, stride] with
  | some a => .stop s x (trapAlign a)
  | none =>
    let a := s.ct.accOf ac
    runRows x s t.w base stride m n fun i j =>
      convertValue true (.fp 0x78 fmtF32 32) t x.rm (x.rand (i * 128 + j)) (accElem a i j)

/-! ### Seed records (R206 to R212) -/

/-- Whether a record is refused (R207): as bytes, under the type register's byte. -/
def seedRecOk (v : Nat) (code : BitVec 8) : Bool :=
  decide (1 ≤ recField v 8 1 ∧ recField v 8 1 ≤ 16) && decide (recField v 9 1 = code.toNat) &&
    decide (recField v 0x0A 2 = 0) && decide (recField v 0x30 16 = 0)

/-- The start state of basis k (R208). -/
def basisStart (seed : Word) (k : Nat) : Word :=
  let s := seed ^^^ (BitVec.ofNat 64 k * 0x9E3779B97F4A7C15#64)
  if s = 0 then 1 else s

/-- n steps of a basis, output t being the t-th element (R208). -/
def basisGo : Nat → Word → List Bool
  | 0, _ => []
  | n + 1, s => let r := lfsrStep s; r.2 :: basisGo n r.1
def basis (seed : Word) (k : Nat) : List Bool := basisGo 16384 (basisStart seed k)

/-- A weight from the scale and the signed coefficients (R209). -/
def seedWeight (f : Fmt) (scale : FVal) (cs : List (FVal × Bool)) : Nat × Fl :=
  let terms := cs.map fun c => if c.2 then c.1 else c.1.negate
  if scale.isNan || terms.any (·.isNan) then nanResult f { nv := scale.isSnan || terms.any (·.isSnan) }
  else if terms.any (fun v => v.isInf && v.neg) && terms.any (fun v => v.isInf && !v.neg) then invalidResult f
  else
    let sum := match terms with
      | [] => .fin false 0 0
      | t :: rest => rest.foldl (addExact .rne) t
    if badProduct scale sum then invalidResult f else roundFp f .rne 0 (mulExact scale sum)

/-- The columns of the bases: the t-th outputs of each. -/
def transposeBits : Nat → List (List Bool) → List (List Bool)
  | 0, _ => []
  | n + 1, bs => bs.map (fun b => b.headD false) :: transposeBits n (bs.map List.tail)

/-- The 16,384 weights of a record, row by row (R208, R209). -/
def seedWeights (v : Nat) (f : Fmt) : List (Nat × Fl) :=
  let nb := recField v 8 1
  let seed := BitVec.ofNat 64 (recField v 0 8)
  let scale := decodeVal fmtF32 (recField v 0x0C 4)
  let cs := (List.range nb).map fun k => decodeVal fmtBf16 (recField v (0x10 + 2 * k) 2)
  (transposeBits 16384 ((List.range nb).map fun k => basis seed k)).map fun bs => seedWeight f scale (cs.zip bs)

/-- The record of a sowing word: read whole, its refusal a stop with nothing changed (R207, R210). -/
def withSeedRec (x : Ventry) (s : State) (code : BitVec 8) (rec : Word) (f : State → Nat → VStep) : VStep :=
  if rec.toNat % 64 ≠ 0 then .stop s x (trapAlign rec)
  else
    let p := s.elemPlan 64 .load (fun ty => decide (ty ≠ 2)) 0 [(0, rec, ⟨s.vport 16384 0, .read⟩)]
    match s.planStalls x.wmb 64 .load [p] with
    | some t => .wait t x
    | none => match p.bad, p.ok with
      | (c, a) :: _, _ => .stop (s.detectAll [p]) x (trapMem c a)
      | [], q :: _ =>
        let (v, t) := s.vread (s.floorOf x rec 64) q.2.2.1 64 q.2.2.2.key
        if seedRecOk v code then f t v else .stop t x { code := 9, sub := 6, info := some rec }
      | [], [] => .done s {}

/-- MSOW (R210). -/
def runMsow (x : Ventry) (s : State) (code : BitVec 8) (f : Fmt) (rec : Word) : VStep :=
  withSeedRec x s code rec fun t v =>
    let ws := seedWeights v f
    let bits := ws.foldr (fun (y : Nat × Fl) (n : Nat) => y.1 + 2 ^ 16 * n) 0
    .done { t with ct := { t.ct with mx := { t.ct.mx with sha := BitVec.ofNat planeBits bits } } }
      (ws.foldl (fun (g : Fl) y => g.or y.2) {})

/-- MSEEDGEN (R211). Resumed after a fault it reads its seed record again (assumption 102). -/
def runMseedgen (x : Ventry) (s : State) (code : BitVec 8) (f : Fmt) (w : Nat) (rec dst : Word) : VStep :=
  if rec.toNat % 64 ≠ 0 then .stop s x (trapAlign rec)
  else match matAlign w [dst] with
  | some a => .stop s x (trapAlign a)
  | none =>
    withSeedRec x s code rec fun t v =>
      let ws := seedWeights v f
      runRows x t w dst (BitVec.ofNat 64 (16 * w)) 128 128 fun i j => ws.getD (128 * i + j) (0, {})

/-- The sign of a target element (R212): 0 for a zero and for a NaN. -/
def targetSign (t : Ty) (bits : Nat) : Int :=
  let v := t.val bits
  if v.isNan || v.isZero then 0 else if v.neg then -1 else 1

/-- The score of a seed against the target's signs (R212). -/
def seedScore : List Int → Word → Int
  | [], _ => 0
  | g :: rest, s => let r := lfsrStep s; (if r.2 then g else -g) + seedScore rest r.1

/-- The search over n candidates from `seed`: the best seed and its score. -/
def scanGo (signs : List Int) : Nat → Word → Word × Int → Word × Int
  | 0, _, b => b
  | n + 1, seed, b =>
    let sc := seedScore signs (basisStart seed 0)
    scanGo signs n (seed + 1) (if b.2 < sc ∨ (sc = b.2 ∧ seed.toNat < b.1.toNat) then (seed, sc) else b)

/-- MSEEDSCAN's results: none are written when they start at s0 (R12, R212). -/
def scanPut (s : State) (sd : SReg) (r : Word × Int) : State :=
  if sd = 0 then s else retScalar (retScalar s sd r.1) (sd + 1) (BitVec.ofInt 64 r.2)

/-- MSEEDSCAN (R212, R213). A misaligned tile stops it before a count that is refused does (assumption 102). -/
def runMseedscan (x : Ventry) (s : State) (sd : SReg) (t : Ty) (tile first count : Word) : VStep :=
  match matAlign t.w [tile] with
  | some a => .stop s x (trapAlign a)
  | none =>
    if count.toNat / 2 ^ 32 ≠ 0 then .stop s x (trapEngine 7)
    else if count = 0 then .done (scanPut s sd (-1, -(2 ^ 63))) {}
    else
      let (good, bad) := rowPlans s .load tile (BitVec.ofNat 64 (16 * t.w)) t.w 128 (fun _ _ => .read) (List.range 128)
      match s.planStalls x.wmb (accBytes t.w) .load (good ++ bad.toList) with
      | some u => .wait u x
      | none => match bad with
        | some p =>
          let u := s.detectAll [p]
          .stop { u with ct := { u.ct with vstart := 0 } } { x with vstart := 0 } (planTrap [p])
        | none =>
          let (u, gs) := good.foldl (fun (acc : State × List Int) r =>
            let (v, vs) := readRow acc.1 x t.w r
            (v, acc.2 ++ vs.map fun y => targetSign t y.2)) (s, [])
          .done (scanPut u sd (scanGo gs count.toNat first (-1, -(2 ^ 63)))) {}

end Sys2Proof.Machine
end

