-- ==== Sys2Proof/Machine/Vctx.lean ====
section
/-! DEFINITION. The images of the vector and the matrix state, and the words that save and restore them (spec chapter 11,
R231 to R237). -/
namespace Sys2Proof.Machine

/-- A value in n bytes of an image, at an offset. -/
def imgAt (off n v : Nat) : Nat := v % 2 ^ (8 * n) * 2 ^ (8 * off)

/-- The low bits of a register pattern, at a stride of n bytes. -/
def packRegs (n : Nat) : List Nat → Nat
  | [] => 0
  | v :: rest => v % 2 ^ (8 * n) + 2 ^ (8 * n) * packRegs n rest

/-- Bytes of a vector register (R64), and of a predicate (R108). -/
def Ct.vbytes (c : Ct) : Nat := c.vlen / 8
def Ct.pbytes (c : Ct) : Nat := c.vlen / 16
/-- Bytes of a vector image (R235). -/
def Ct.vimgLen (c : Ct) : Nat := 0x2100 + 32 * c.vbytes + 129 * c.pbytes
/-- Bytes of a matrix image (R236). -/
def mimgLen : Nat := 0xD0100

/-- VLOG (R64). -/
def Ct.vlog (c : Ct) : Nat := c.vlen.log2

/-- vtypea to vtyped, and vtypeg (R22), as 40 bytes. -/
def vtypeBytes (tags : List (BitVec 8)) (g m n k : Nat) : Nat :=
  packRegs 1 (tags.map (·.toNat)) + imgAt 32 8 (g + 2 ^ 8 * m + 2 ^ 16 * n + 2 ^ 24 * k)

/-- The bytes of a predicate: p0 is all ones (R108, R113). -/
def Ct.predImg (c : Ct) : Nat :=
  packRegs c.pbytes ((List.range 128).map fun i =>
    if i = 0 then 2 ^ (c.vlen / 2) - 1 else (c.p[i]?.getD 0).toNat)

/-- The vector image (R235): `ctx` when the context engine writes it. -/
def vimage (c : Ct) (ctx : Bool) (tags : List (BitVec 8)) (vl sw vstart g m n k : Nat) : Nat :=
  let mk := c.mark.getD (0, 0)
  let flags := 1 + (if c.mark.isSome then 2 else 0) + (if ctx then 4 else 0)
  imgAt 0 4 1 + imgAt 4 1 c.vlog + imgAt 5 1 flags + imgAt 8 40 (vtypeBytes tags g m n k) + imgAt 0x30 4 vl +
    imgAt 0x34 1 sw + imgAt 0x38 4 vstart + imgAt 0x40 8 mk.1.toNat + imgAt 0x48 8 mk.2.toNat +
    imgAt 0x50 8 (packRegs 1 (c.bins.toList.map (·.ty))) +
    imgAt 0x100 8192 (packRegs 8 (c.bins.toList.flatMap fun b => (b.work.toList ++ b.comm.toList).map (·.toNat))) +
    imgAt 0x2100 (32 * c.vbytes) (packRegs c.vbytes (c.v.toList.map (·.toNat))) +
    imgAt (0x2100 + 32 * c.vbytes) (128 * c.pbytes) c.predImg +
    imgAt (0x2100 + 32 * c.vbytes + 128 * c.pbytes) c.pbytes c.fmask.toNat

/-- The matrix image (R236). -/
def mimage (c : Ct) (m n k : Nat) (act sha : BitVec 8 × Word) : Nat :=
  imgAt 0 4 1 + imgAt 8 8 (2 ^ 8 * m + 2 ^ 16 * n + 2 ^ 24 * k) +
    imgAt 0x10 1 act.1.toNat + imgAt 0x14 4 act.2.toNat + imgAt 0x18 1 sha.1.toNat + imgAt 0x1C 4 sha.2.toNat +
    imgAt 0x100 32768 c.mx.act.toNat + imgAt 0x8100 32768 c.mx.sha.toNat +
    imgAt 0x10100 786432 (packRegs 65536 (c.mx.acc.toList.map (·.toNat)))

/-! ### Moving an image -/

/-- The lines of an image of n bytes at a, planned. -/
def imgPlans (s : State) (k : Kind) (a : Word) (n : Nat) (op : Nat → ReqOp) : List ElemPlan :=
  (List.range (n / 128)).map fun i =>
    s.elemPlan 128 k (fun ty => decide (ty ≤ 1)) i [(i, a + BitVec.ofNat 64 (128 * i), ⟨s.vport i 0, op i⟩)]

/-- The checks every VCTX word makes before it acts (R237): alignment, faults, waits. A fault's INDEX is 0 (assumption 56). -/
def withImage (x : Ventry) (s : State) (k : Kind) (a : Word) (n : Nat) (op : Nat → ReqOp)
    (f : List ElemPlan → VStep) : VStep :=
  if a.toNat % 128 ≠ 0 then .stop s x (trapAlign a)
  else
    let ps := imgPlans s k a n op
    let bad := ps.filter (fun p => !p.bad.isEmpty)
    match s.planStalls x.wmb 128 k ps with
    | some t => .wait t x
    | none => if bad.isEmpty then f ps else .stop (s.detectAll bad) x { planTrap bad with index := 0 }

/-- Line i of an image. -/
def imgLine (img i : Nat) : Nat := img / 2 ^ (1024 * i) % 2 ^ 1024

/-- An image of n bytes stored at a. -/
def saveImage (x : Ventry) (s : State) (a : Word) (n img : Nat) : VStep :=
  withImage x s .store a n (fun i => .write (imgLine img i)) fun ps =>
    let r := ps.foldl (fun (acc : Option State) p => acc.bind fun t => writeRow t false 1024 p (imgLine img)) (some s)
    match r with
    | none => .wait (provWait s) x
    | some t => .done (t.clearPoison (planRanges 128 ps)) {}

/-- The image of n bytes read at a. -/
def loadImage (x : Ventry) (s : State) (a : Word) (n : Nat) (f : State → Nat → VStep) : VStep :=
  withImage x s .load a n (fun _ => .read) fun ps =>
    let (t, vs) := ps.foldl (fun (acc : State × List Nat) p =>
      let (u, ws) := readRow acc.1 x 1024 p
      (u, acc.2 ++ ws.map (·.2))) (s, [])
    f t (packRegs 128 vs)

/-- The CT with the bin types that a word captured at its decode (R184). -/
def Ct.withBinTypes (c : Ct) (bts : List Nat) : Ct :=
  { c with bins := c.bins.mapIdx fun i b => { b with ty := bts.getD i b.ty } }

/-- VSAVE (R235): the image shows the types as they stood at its decode. -/
def runVsave (x : Ventry) (s : State) (a : Word) (tags : List (BitVec 8)) (bts : List Nat) (sw m n k : Nat) : VStep :=
  saveImage x s a s.ct.vimgLen (vimage (s.ct.withBinTypes bts) false tags x.vl sw x.vstart x.g m n k)

/-- MSAVE (R236). -/
def runMsave (x : Ventry) (s : State) (a : Word) (m n k : Nat) (act sha : BitVec 8 × Word) : VStep :=
  saveImage x s a mimgLen (mimage s.ct m n k act sha)

/-- A tag code that R37 assigns. -/
def tagKnown (b : Nat) : Bool := decide (b / 8 ≤ 18)
/-- A bin type of R184, or unset. -/
def binKnown (b : Nat) : Bool := decide (b = 0 ∨ b = 9 ∨ b = 10 ∨ b = 15 ∨ b = 16)

/-- The header checks of VRESTORE (R237). -/
def vimageOk (c : Ct) (img : Nat) : Bool :=
  decide (recField img 0 4 = 1) && decide (recField img 4 1 = c.vlog) && decide (recField img 5 1 / 8 = 0) &&
    decide (recField img 6 2 = 0) && decide (recField img 0x35 3 = 0) && decide (recField img 0x3C 4 = 0) &&
    decide (recField img 0x58 168 = 0) && (List.range 32).all (fun i => tagKnown (recField img (8 + i) 1)) &&
    (List.range 8).all (fun i => binKnown (recField img (0x50 + i) 1))

/-- The header checks of MRESTORE (R237). -/
def mimageOk (img : Nat) : Bool :=
  decide (recField img 0 4 = 1) && decide (recField img 4 4 = 0) && decide (recField img 8 1 = 0) &&
    decide (recField img 0xC 4 = 0) && tagKnown (recField img 0x10 1) && decide (recField img 0x11 3 = 0) &&
    tagKnown (recField img 0x18 1) && decide (recField img 0x19 3 = 0) && decide (recField img 0x20 224 = 0)

/-- A value in range stays; one out of range is a free value within it (assumption 15). -/
def State.within (s : State) (top v : Nat) : Nat × State :=
  if v ≤ top then (v, s)
  else ((Config.freeValue s.draws).toNat % (top + 1), { s with draws := s.draws + 1 })

/-- vlmax (R65). -/
def vlmaxOf (vlen g sw : Nat) : Nat := min (vlen * 2 ^ g / sw) (vlen / 2)
def Ct.vlmax (c : Ct) : Nat := vlmaxOf c.vlen c.g c.vsw

/-- The bins of an image. -/
def imgBins (img : Nat) : Vector Bin 8 :=
  Vector.ofFn fun (i : Fin 8) =>
    let slot := fun j => BitVec.ofNat 64 (recField img (0x100 + 1024 * i.val + 8 * j) 8)
    ⟨recField img (0x50 + i.val) 1, Vector.ofFn (fun (j : Fin 64) => slot j.val), Vector.ofFn (fun (j : Fin 64) => slot (64 + j.val))⟩

/-- The vector state that an image gives (R235). -/
def restoreV (s : State) (img : Nat) : State :=
  let c := s.ct
  let sw0 := recField img 0x34 1
  let (swi, s) := s.within 6 (if sw0 = 2 ^ sw0.log2 ∧ 2 ≤ sw0 then sw0.log2 - 1 else 7)
  let sw := 2 ^ (swi + 1)
  let gw := recField img 0x28 8
  let g := gw % 4
  let (m, s) := s.within 128 (gw / 2 ^ 8 % 256)
  let (n, s) := s.within 128 (gw / 2 ^ 16 % 256)
  let (k, s) := s.within 128 (gw / 2 ^ 24 % 256)
  let (vl, s) := s.within (vlmaxOf c.vlen g sw) (recField img 0x30 4)
  let preds := 0x2100 + 32 * c.vbytes
  { s with ct := { c with
      vl := vl, vsw := sw, g := g, grantM := m, grantN := n, grantK := k,
      vtype := Vector.ofFn fun (i : Fin 32) => BitVec.ofNat 8 (recField img (8 + i.val) 1),
      vstart := recField img 0x38 4,
      mark := if recField img 5 1 / 2 % 2 = 1 then
        some (BitVec.ofNat 64 (recField img 0x40 8), BitVec.ofNat 64 (recField img 0x48 8)) else none,
      bins := imgBins img,
      v := Vector.ofFn fun (i : Fin 32) => BitVec.ofNat vregBits (recField img (0x2100 + c.vbytes * i.val) c.vbytes),
      p := Vector.ofFn fun (i : Fin 128) =>
        if i.val = 0 then c.p[0] else BitVec.ofNat predBits (recField img (preds + c.pbytes * i.val) c.pbytes),
      fmask := BitVec.ofNat predBits (recField img (preds + 128 * c.pbytes) c.pbytes) } }

/-- The matrix state that an image gives (R236). -/
def restoreM (s : State) (img : Nat) : State :=
  let gw := recField img 8 8
  let (m, s) := s.within 128 (gw / 2 ^ 8 % 256)
  let (n, s) := s.within 128 (gw / 2 ^ 16 % 256)
  let (k, s) := s.within 128 (gw / 2 ^ 24 % 256)
  let tag := fun off => (⟨BitVec.ofNat 8 (recField img off 1), BitVec.ofNat 64 (recField img (off + 4) 4)⟩ : PlaneTag)
  { s with ct := { s.ct with
      grantM := m, grantN := n, grantK := k,
      mx := { act := BitVec.ofNat planeBits (recField img 0x100 32768),
              sha := BitVec.ofNat planeBits (recField img 0x8100 32768),
              actTag := tag 0x10, shaTag := tag 0x18,
              acc := Vector.ofFn fun (i : Fin 12) => BitVec.ofNat accBits (recField img (0x10100 + 65536 * i.val) 65536) } } }

/-- VRESTORE (R235, R237). -/
def runVrestore (x : Ventry) (s : State) (a : Word) : VStep :=
  loadImage x s a s.ct.vimgLen fun t img =>
    if vimageOk s.ct img then .done (restoreV t img) {} else .stop t x (trapEngine 8)

/-- MRESTORE (R236, R237). -/
def runMrestore (x : Ventry) (s : State) (a : Word) : VStep :=
  loadImage x s a mimgLen fun t img =>
    if mimageOk img then .done (restoreM t img) {} else .stop t x (trapEngine 8)

end Sys2Proof.Machine
end

