-- ==== Sys2Proof/Machine/Vrun.lean ====
section
/-! DEFINITION. The VIQ: the bound registers a posted word reads and writes, the run of its oldest entry, and what
completing, stopping and waiting leave (spec chapters 02, 08, 09 and 11: R52, R69, R170, R215, R394). -/
namespace Sys2Proof.Machine

/-- The operations that read their destination as an operand (R79, R80). -/
def BinOp.threeOp : BinOp → Bool
  | .fma => true
  | .fms => true
  | .fnma => true
  | .clamp => true
  | _ => false

def VSrc.reads (b : VSrc) (w : Nat) : List (Nat × Nat) :=
  match b with
  | .vec r => [(r, w)]
  | .sc _ => []

/-- Index vectors of an addressing mode. -/
def VMode.reads : VMode → List (Nat × Nat)
  | .indexed r t => [(r, t.w)]
  | _ => []
/-- The data registers of an addressing mode (R155). -/
def VMode.regs (g d : Nat) : VMode → List Nat
  | .seg f => (List.range f).map fun i => d + i * 2 ^ g
  | _ => [d]

/-- The registers that a posted word reads as vector operands, each with the width of the tag it captured (R170). -/
def Vop.reads (g : Nat) : Vop → List (Nat × Nat)
  | .bin op _ d rt a ta b tb => (a, ta.w) :: b.reads tb.w ++ (if op.threeOp then [(d, rt.w)] else [])
  | .fbin _ _ a ta b tb => (a, ta.w) :: b.reads tb.w
  | .fneg _ a => [(a, 128)]
  | .un _ _ _ a ta => [(a, ta.w)]
  | .bits _ a w => [(a, w)]
  | .sel _ a b w _ => (a, w) :: b.reads w
  | .splat _ _ _ => []
  | .iota _ _ _ _ => []
  | .ext _ a t _ => [(a, t.w)]
  | .cmp _ _ a ta b tb => [(a, ta.w), (b, tb.w)]
  | .cls _ _ a ta => [(a, ta.w)]
  | .pred _ _ _ _ => []
  | .pset _ _ => []
  | .pscal _ _ _ => []
  | .pld _ _ => []
  | .pst _ _ => []
  | .load _ _ m _ _ => m.reads
  | .store d w m _ _ => (m.regs g d).map (fun r => (r, w)) ++ m.reads
  | .vamo _ d t i it _ => [(d, t.w), (i, it.w)]
  | .perm _ a w b wb => (a, w) :: b.reads wb
  | .slide _ _ a w _ => [(a, w)]
  | .compr _ a w _ => [(a, w)]
  | .expnd _ a w _ => [(a, w)]
  | .red _ _ a t => [(a, t.w)]
  | .scan _ a t _ _ => [(a, t.w)]
  | .softmax _ a _ _ _ => [(a, 32)]
  | .binz _ => []
  | .binacc _ _ a t => [(a, t.w)]
  | .binmac _ _ a b t => (a, t.w) :: b.reads t.w
  | .binfold _ _ _ => []
  | .mark _ => []
  | .fbind _ _ _ => []
  | .fchain _ _ _ _ _ => []
  | .funbind _ => []
  | .fstat _ _ _ => []
  | .fpcvt _ a _ _ => [(a, 128)]
  | .fplen2 _ a => [(a, 128)]
  | .fpgtag _ a => [(a, 128)]
  | .fpstag _ a b => (a, 128) :: b.reads 32
  | .mlds _ _ _ _ _ => []
  | .msow _ _ _ => []
  | .mswap => []
  | .mmac _ a ta _ _ _ _ _ _ => [(a, ta.w)]
  | .macz _ => []
  | .macld _ _ _ _ _ _ => []
  | .macst _ _ _ _ _ _ => []
  | .macin _ a t _ _ _ => [(a, t.w)]
  | .mseedgen _ _ _ _ _ => []
  | .mseedscan _ _ _ _ _ => []
  | .barMark _ _ => []
  | .pub _ _ _ => []
  | .ship _ => []
  | .fence _ _ => []
  | .vsave _ _ _ _ _ _ _ => []
  | .vrestore _ => []
  | .msave _ _ _ _ _ _ => []
  | .mrestore _ => []

/-- The registers that a posted word writes: first register and count (R23, R86, R155). -/
def Vop.writes (g : Nat) : Vop → List (Nat × Nat)
  | .bin _ wide d _ _ _ _ _ => [(d, if wide then 2 ^ (g + 1) else 2 ^ g)]
  | .fbin _ d _ _ _ _ => [(d, 2 ^ g)]
  | .fneg d _ => [(d, 2 ^ g)]
  | .un _ d _ _ _ => [(d, 2 ^ g)]
  | .bits d _ _ => [(d, 2 ^ g)]
  | .sel d _ _ _ _ => [(d, 2 ^ g)]
  | .splat d _ _ => [(d, 2 ^ g)]
  | .iota d _ _ _ => [(d, 2 ^ g)]
  | .load d _ m _ _ => (m.regs g d).map fun r => (r, 2 ^ g)
  | .vamo _ d _ _ _ _ => [(d, 2 ^ g)]
  | .perm d _ _ _ _ => [(d, 2 ^ g)]
  | .slide _ d _ _ _ => [(d, 2 ^ g)]
  | .compr d _ _ _ => [(d, 2 ^ g)]
  | .expnd d _ _ _ => [(d, 2 ^ g)]
  | .scan d _ _ _ _ => [(d, 2 ^ g)]
  | .softmax d _ _ _ _ => [(d, 2 ^ g)]
  | .fpcvt d _ _ _ => [(d, 2 ^ g)]
  | .fplen2 d _ => [(d, 2 ^ g)]
  | .fpgtag d _ => [(d, 2 ^ g)]
  | .fpstag d _ _ => [(d, 2 ^ g)]
  | .ext _ _ _ _ => []
  | .cmp _ _ _ _ _ _ => []
  | .cls _ _ _ _ => []
  | .pred _ _ _ _ => []
  | .pset _ _ => []
  | .pscal _ _ _ => []
  | .pld _ _ => []
  | .pst _ _ => []
  | .store _ _ _ _ _ => []
  | .red _ _ _ _ => []
  | .binz _ => []
  | .binacc _ _ _ _ => []
  | .binmac _ _ _ _ _ => []
  | .binfold _ _ _ => []
  | .mark _ => []
  | .fbind _ _ _ => []
  | .fchain _ _ _ _ _ => []
  | .funbind _ => []
  | .fstat _ _ _ => []
  | .mlds _ _ _ _ _ => []
  | .msow _ _ _ => []
  | .mswap => []
  | .mmac _ _ _ _ _ _ _ _ _ => []
  | .macz _ => []
  | .macld _ _ _ _ _ _ => []
  | .macst _ _ _ _ _ _ => []
  | .macin _ _ _ _ _ _ => []
  | .mseedgen _ _ _ _ _ => []
  | .mseedscan _ _ _ _ _ => []
  | .barMark _ _ => []
  | .pub _ _ _ => []
  | .ship _ => []
  | .fence _ _ => []
  | .vsave _ _ _ _ _ _ _ => []
  | .vrestore _ => []
  | .msave _ _ _ _ _ _ => []
  | .mrestore _ => []

/-- A barrier marker fires (R253): every access that stands before it, of the vector and of the scalar side, has been
performed. -/
def Ct.fire (c : Ct) (n : Nat) : Ct :=
  match c.bar[n]? with
  | some b => { c with bar := c.bar.setIfInBounds n { b with fired := b.fired + 1, pend := none } }
  | none => c
/-- An unfired marker of the CT in focus fires once the stores before it are performed (R253); while one is held back it stays. -/
def State.tryFire (s : State) (n : Nat) : State :=
  match (s.ct.bar[n]?).bind (·.pend) with
  | some u => s.afterStores (SbEnt.before u) fun s => { s with ct := s.ct.fire n }
  | none => s
/-- A marker has nothing before it left to be performed. -/
def Ct.ripe (c : Ct) (n : Nat) : Bool :=
  match (c.bar[n]?).bind (·.pend) with
  | some u => (needed (SbEnt.before u) c.sbuf).isEmpty
  | none => false
/-- The marker of a barrier leaves the VIQ: the vector words before it have run, and younger words go on; it fires at once where no
store before it is still to be performed (R253). `upto` numbers the execute stream's stores before it. -/
def State.marked (s : State) (n upto : Nat) : State :=
  match s.ct.bar[n]? with
  | some b =>
    let t := { s with ct := { s.ct with bar := s.ct.bar.setIfInBounds n { b with pend := some ⟨upto, 0, s.ct.sbn⟩ } } }
    if t.ct.ripe n then t.tryFire n else t
  | none => s

/-- A WMPUB's publication (R272): it becomes visible with WATERMARK_VISIBLE, once the stores before it are performed. -/
def State.published (s : State) (slot : Nat) (v : Word) (u : Upto) : State :=
  { s with pkg := { s.pkg with wmPend := s.pkg.wmPend ++ [⟨slot, v, s.ct.key, u⟩] } }

/-- The vector words posted before an SHPUB have run: what the vector side has stored so far comes before the record's write
(R284). -/
def Ct.shipReady (c : Ct) (id : Nat) : Ct :=
  { c with sbuf := c.sbuf.map fun e => if e.id = id then { e with ship := e.ship.map fun p => { p with vec := some c.sbn } } else e }
/-- A FENCE.SV or FENCE.VV reaches the head of the VIQ (R250): the scalar stores before the one, the vector side's before the other,
are performed, and no vector word behind it reads what stood before. -/
def runFence (x : Ventry) (s : State) (vv : Bool) (upto : Nat) : VStep :=
  let p := fun (e : SbEnt) => if vv then e.side == .vec else e.side == .exec && decide (e.id < upto)
  if s.canFlush s.ct p then
    let t := s.flush p
    .done { t with ct := { t.ct with floors := { t.ct.floors with vec := t.moment } } } {}
  else .wait s x

/-- What a posted word does, once its feeds have been popped. -/
def Vop.run (x : Ventry) (s : State) : Vop → VStep
  | .bin op _ d rt a ta b tb => runBin x s op d rt a ta b tb
  | .fbin op d a ta b tb => if op = .mul then runFbin x s op d a ta b tb else (runFbin x s op d a ta b tb).afterNodes s x
  | .fneg d a => runFneg x s d a
  | .un op d rt a ta => runUn x s op d rt a ta
  | .bits d a w => runBits x s d a w
  | .sel d a b w pg => runSel x s d a b w pg
  | .splat d w v => runSplat x s d w v
  | .iota d t i j => runIota x s d t i j
  | .ext sd a t idx => runExt x s sd a t idx
  | .cmp c pd a ta b tb => if ta.isFramed then (runFcmp x s c pd a ta b tb).afterNodes s x else runCmp x s c pd a ta b tb
  | .cls k pd a ta => runCls x s k pd a ta
  | .pred op pd pa pb => runPred x s op pd pa pb
  | .pset pd v => runPset x s pd v
  | .pscal op sd pa => runPscal x s op sd pa
  | .pld pd a => runPld x s pd a
  | .pst pa a => runPst x s pa a
  | .load d w m base ff => runLoad x s d w m base ff
  | .store d w m base o => runStore x s d w m base o
  | .vamo op d t i it base => runVamo x s op d t i it base
  | .perm d a w b wb => runPerm x s d a w b wb
  | .slide up d a w n => runSlide x s up d a w n
  | .compr d a w pg => runCompr x s d a w pg
  | .expnd d a w pg => runExpnd x s d a w pg
  | .red op sd a t => runRed x s op sd a t
  | .scan d a t sd i => runScan x s d a t sd i
  | .softmax d a sd m t => runSoftmax x s d a sd m t
  | .binz n => runBinz s n
  | .binacc n bt a t => runBinacc x s n bt a none t
  | .binmac n bt a b t => runBinacc x s n bt a (some b) t
  | .binfold n bt sd => runBinfold x s n bt sd
  | .mark a => runMark x s a
  | .fbind d a f => (feedBind s d a f x.wmb).vstep x fun t => .done t {}
  | .fchain d op par t rd => (feedChain s d op par t rd).vstep x fun t => .done t {}
  | .funbind d => .done (s.bindFeed d none) {}
  | .fstat d k sd => .done (retScalar s sd (feedStat s.ct d k)) {}
  | .fpcvt d a pos tag => (runFpcvt x s d a pos tag).afterNodes s x
  | .fplen2 d a => runFplen2 x s d a
  | .fpgtag d a => runFpgtag x s d a
  | .fpstag d a b => runFpstag x s d a b
  | .mlds t base st n k => runMlds x s t base st n k
  | .msow code f r => runMsow x s code f r
  | .mswap => runMswap s
  | .mmac ac a ta tp i0 rows m n k => runMmac x s ac a ta tp i0 rows m n k
  | .macz ac => runMacz s ac
  | .macld ac t base st m n => runMacld x s ac t base st m n
  | .macst ac t base st m n => runMacst x s ac t base st m n
  | .macin ac a t i0 m n => runMacin x s ac a t i0 m n
  | .mseedgen code f w r dst => runMseedgen x s code f w r dst
  | .mseedscan sd t tile first count => runMseedscan x s sd t tile first count
  | .barMark n upto => .done (s.marked n upto) {}
  | .pub slot v upto => .done (s.published slot v ⟨upto, 0, s.ct.sbn⟩) {}
  | .ship id => .done { s with ct := s.ct.shipReady id } {}
  | .fence vv upto => runFence x s vv upto
  | .vsave a tags bts sw m n k => runVsave x s a tags bts sw m n k
  | .vrestore a => runVrestore x s a
  | .msave a m n k act sha => runMsave x s a m n k act sha
  | .mrestore a => runMrestore x s a

/-- The run of a VIQ entry: every feed condition, the pops, then the word (R170). -/
def runEntry (x : Ventry) (s : State) : VStep :=
  let r := popFeeds x s (x.op.reads x.g) (x.op.writes x.g)
  r.1.vstep r.2 fun t => r.2.op.run r.2 t

/-- A word of the matrix side, whose state one CT of a core owns (R193, R231). -/
def Vop.usesMatrix : Vop → Bool
  | .mlds _ _ _ _ _ => true
  | .msow _ _ _ => true
  | .mswap => true
  | .mmac _ _ _ _ _ _ _ _ _ => true
  | .macz _ => true
  | .macld _ _ _ _ _ _ => true
  | .macst _ _ _ _ _ _ => true
  | .macin _ _ _ _ _ _ => true
  | .msave _ _ _ _ _ _ => true
  | .mrestore _ => true
  | _ => false

/-- A publication or a fence is no vector-class word. -/
def Vop.isPub : Vop → Bool
  | .pub _ _ _ => true
  | .ship _ => true
  | .fence _ _ => true
  | _ => false
/-- Whether no vector-class word is posted. -/
def Ct.idle (c : Ct) : Bool := c.viq.all fun x => x.op.isPub

/-- Whether an entry leaves vstart alone: VRESTORE has set it (R394); a publication or a fence is no vector-class word. -/
def Vop.keepsVstart : Vop → Bool
  | .vrestore _ => true
  | o => o.isPub

/-- Runs the oldest VIQ entry of the CT in focus: whether it moved. A completed word's flags are ORed, and it leaves
vstart 0 and, if it was reissued, fmask clear (R52, R229, R394); a stopped one stays at the head (R215), and one that waits
stays there with what it has popped and completed. -/
def runHead (s : State) : State × Bool :=
  match s.ct.viq with
  | [] => (s, false)
  | x :: rest =>
    match runEntry x s with
    | .done t fl =>
      let t := t.dropReqs t.ct (fun r => decide (r.key % 4 = 2))
      ({ t with ct := { t.ct with
          viq := rest, a := t.ct.a.flag (x.fl.or fl),
          vstart := if x.op.keepsVstart then t.ct.vstart else 0,
          fmask := if x.masked then 0 else t.ct.fmask } }, true)
    | .stop t y tr =>
      (stopCt { t with ct := { t.ct with viq := y :: rest } }
        (faultRec t tr x.word x.pc true x.members.isSome false), true)
    | .wait t y => ({ t with ct := { t.ct with viq := y :: rest } }, false)

/-- Runs entries while they move and the CT runs, at most n of them. -/
def drain : Nat → State → State
  | 0, s => s
  | n + 1, s =>
    if s.ct.status = .running then
      match runHead s with
      | (t, true) => drain n t
      | (t, false) => t
    else s

/-- Posted words run at once unless the vector side lags (R69). -/
def settle (s : State) : State := if s.ct.hold then s else drain s.ct.viq.length s

/-- A word that acts only after every posted word has completed: while some are posted, the oldest one runs instead. -/
def afterViq (s : State) (f : State → State) : State :=
  if s.ct.viq.isEmpty then f s else (runHead s).1

/-- The scalar registers that a posted word will write (R83, R112, R164, R180, R183, R212); a result in s0 is discarded. -/
def Vop.sregs (o : Vop) : List SReg :=
  (match o with
    | .ext sd _ _ _ => [sd]
    | .pscal _ sd _ => [sd]
    | .red _ sd _ _ => [sd]
    | .scan _ _ _ sd _ => [sd]
    | .softmax _ _ sd _ _ => [sd, sd + 1, sd + 2]
    | .binfold _ _ sd => [sd]
    | .fstat _ _ sd => [sd]
    | .mseedscan sd _ _ _ _ => if sd = 0 then [] else [sd, sd + 1]
    | _ => []).filter (· != 0)

/-- Words that fix vl or vtype when they complete: the next vector-class word, and a SYS word of that state, wait for them;
scalar words do not (R161, R237). -/
def Ventry.fixes (x : Ventry) : Bool :=
  match x.op with
  | .load _ _ _ _ ff => ff && x.members.isNone
  | .vrestore _ => true
  | .mrestore _ => true
  | _ => false

end Sys2Proof.Machine
end

