-- ==== Sys2Proof/Machine/Copy.lean ====
section
/-! DEFINITION. The copy engines: the pieces of a copy, their moves, the quantisation of CPYQ, and what a covering word finds
(spec chapter 14, R261 to R265). -/
namespace Sys2Proof.Machine

/-- A place that an engine is to write: the bytes, the value, the number of its request. -/
structure EngWrite where
  l : Loc
  n : Nat
  x : Nat
  key : Nat

/-- What an engine's read comes to: the value, the faults (cause, address), whether it must wait. -/
structure Eng where
  s : State
  val : Nat := 0
  fails : List (Nat × Word) := []
  waits : Bool := false

/-- A range cut at line boundaries: (address, bytes). -/
def lineSpans : Nat → Word → Nat → List (Word × Nat)
  | 0, _, _ => []
  | fuel + 1, a, n =>
    if n = 0 then []
    else
      let k := min n (128 - a.toNat % 128)
      (a, k) :: lineSpans fuel (a + BitVec.ofNat 64 k) (n - k)
def spans (a : Word) (n : Nat) : List (Word × Nat) := lineSpans (n / 128 + 2) a n

/-- Whether a line waits for a copy that issued before this one, or for another module's: a claim binds what comes after it (R261,
R379). -/
def State.claimedBy (s : State) (c : Ct) (ticket n : Nat) (k : Kind) : Bool :=
  let mine := ((c.copies.find? (fun y => y.ticket = ticket)).map (·.issue)).getD s.pkg.copySeq
  s.cts.any (fun d => d.copies.any (fun y =>
    decide (y.issue < mine) && y.claims.any (fun z => z.1 = n && (z.2 || k != .load)))) || s.pkg.farClaims.any (fun f => f.holds n k)
/-- Whether an engine's access to a place waits for one. -/
def State.engineHeld (s : State) (c : Ct) (ticket : Nat) (l : Loc) (k : Kind) : Bool := l.line.any fun n => s.claimedBy c ticket n k
/-- Whether its walk for an address does. -/
def State.engineWalks (s : State) (c : Ct) (ticket : Nat) (a : Word) : Bool :=
  (s.tableLines c.via a).any fun n => s.claimedBy c ticket n .load

/-- A poisoned line that an engine reads is logged (R258, R319): AGENT is an engine's identifier, to which the spec gives no
values, with bit 31 clear (assumption 26). -/
def State.detectEngine (s : State) (line : Nat) : State :=
  { s with draws := s.draws + 1 }.detectBy line ((Config.freeValue s.draws).toNat % 2 ^ 31)
/-- A unit reads a line: where it is poisoned, that is logged. -/
def State.meets (s : State) (line : Nat) : State := if s.badLine line then s.detectEngine line else s
/-- The same for a table line that the walk for an engine's access ended at with cause c. -/
def State.engineWalk (s : State) (v : Via) (a : Word) (c : Nat) : State :=
  if c = 4 then (match s.badTable v a with | some n => s.detectEngine n | none => s) else s

/-- An engine's read of n bytes at a for a CT's copy; request numbers count from `i`. -/
def engGet (s : State) (c : Ct) (ticket i : Nat) (a : Word) (n : Nat) : Eng :=
  ((spans a n).foldl (fun (acc : Eng × Nat × Nat) sp =>
    let e := acc.1
    let pos := acc.2.1
    let next := fun (e : Eng) => (e, pos + sp.2, acc.2.2 + 1)
    let bad := fun (cause : Nat) (t : State) => next { e with s := t, fails := e.fails ++ [(cause, sp.1)] }
    if e.s.engineWalks c ticket sp.1 then next { e with waits := true } else
    match e.s.resolve c.via sp.1 sp.2 .load with
    | .error cause => bad cause (e.s.engineWalk c.via sp.1 cause)
    | .ok l =>
      if e.s.engineHeld c ticket l .load then next { e with waits := true }
      else match e.s.beyond c.via l sp.2 .load with
        | some pa => match e.s.dev ⟨c.cport ticket acc.2.2, .read⟩ pa sp.2 with
          | .ok r => next { e with s := r.2, val := e.val + r.2.provOver c.via pa r.1 sp.2 * 2 ^ (8 * pos) }
          | .flt cause t => bad cause t
          | .stall t => next { e with s := t, waits := true }
        | none =>
          if e.s.readsBad c.via l sp.2 then bad 4 (match l.line with | some k => e.s.detectEngine k | none => e.s)
          else next { e with val := e.val + e.s.peek c.via l sp.2 * 2 ^ (8 * pos) })
    ({ s := s }, 0, i)).1

/-- What the write of one line's part by an engine comes to: ready, a fault, or a wait with its request sent (R379). -/
inductive EngPut where
  | ready (s : State) (w : EngWrite)
  | bad (s : State) (cause : Nat)
  | wait (s : State)

def engPlace (s : State) (c : Ct) (ticket i : Nat) (a : Word) (n x : Nat) : EngPut :=
  if s.engineWalks c ticket a then .wait s else
  match s.resolve c.via a n .store with
  | .error cause => .bad (s.engineWalk c.via a cause) cause
  | .ok l =>
    let w : EngWrite := ⟨l, n, x, c.cport ticket i⟩
    if s.engineHeld c ticket l .store then .wait s
    else match l with
      | .phys pa _ =>
        if mainEnd ≤ pa then
          match s.devReady ⟨w.key, .write x⟩ pa n with
          | .ok _ => .ready s w
          | .flt cause t => .bad t cause
          | .stall t => .wait t
        else .ready s w
      | _ => .ready s w

/-- A write of an engine, each byte once (R263). -/
def engPut (s : State) (c : Ct) (w : EngWrite) : State :=
  let v := { c.via with prov := false }
  match w.l with
  | .phys pa _ =>
    if mainEnd ≤ pa then (match s.dev ⟨w.key, .write w.x⟩ pa w.n with | .ok r => r.2 | .flt _ t => t | .stall t => t)
    else (s.poke v w.l w.n w.x).stored v w.l none
  | _ => (s.poke v w.l w.n w.x).stored v w.l none

/-! ### Quantisation (R264) -/

/-- The block length and the rotation of a CPYQ. -/
def Quant.b (q : Quant) : Nat := 2 ^ (4 + q.logb)
def Quant.rotN (q : Quant) : Nat := if q.rot = 0 then 0 else 2 ^ (3 + q.rot)
/-- The source format. -/
def stagFmt (k : Nat) : Fmt := if k = 13 then fmtBf16 else if k = 14 then fmtF16 else fmtF32

def FVal.finite : FVal → Bool
  | .fin _ _ _ => true
  | _ => false

/-- The larger magnitude of two finite values. -/
def maxMag (a b : FVal) : FVal :=
  match a, b with
  | .fin _ m e, .fin _ n f =>
    let k := min e f
    if m * 2 ^ (e - k).toNat < n * 2 ^ (f - k).toNat then b.abs else a.abs
  | a, _ => a

/-- Round to nearest integer, ties to even, of a quotient of finite values; the divisor is positive. -/
def rneQuot (a b : FVal) : Int :=
  match a, b with
  | .fin n m e, .fin _ d f =>
    let k := min e f
    let num := m * 2 ^ (e - k).toNat
    let den := d * 2 ^ (f - k).toNat
    let q := num / den
    let r := num % den
    let q' := if den < 2 * r ∨ (den = 2 * r ∧ q % 2 = 1) then q + 1 else q
    if n then -(q' : Int) else q'
  | _, _ => 0

/-- qmax of a target type. -/
def qmaxOf (t : Ty) : FVal :=
  match t with
  | .int _ u => .fin false (2 ^ (u.w - 1) - 1) 0
  | .fp _ f _ => decodeVal f f.maxCode
  | _ => .fin false 1 0

/-- One element of the target: y / s rounded once and clamped. -/
def quantElem (t : Ty) (y s : FVal) : Nat :=
  match t with
  | .int _ u =>
    let top : Int := 2 ^ (u.w - 1) - 1
    let v := rneQuot y s
    ((if v < -top then -top else if top < v then top else v) % 2 ^ u.w).toNat
  | .fp _ f _ =>
    let b := (fpDiv f .rne 0 y s).1
    if (decodeVal f b).finite then b else maxFiniteBits f y.neg
  | _ => 0

/-- Whether a number has an odd count of ones among its low 7 bits (R264, popcount). -/
def oddPop (n : Nat) : Bool := (List.range 7).foldl (fun b i => b != n.testBit i) false

/-- One run of the rotation: signed exact sums; a sum of zeros of one sign keeps it (R46). -/
def rotRun (xs : List FVal) : List FVal :=
  xs.mapIdx fun i _ => match xs.mapIdx fun j x => if oddPop (i &&& j) then x.negate else x with
    | [] => .fin false 0 0
    | y :: ys => ys.foldl (addExact .rne) y

/-- One block: its scale and its elements. Where the scale rounds to zero the quotients have no value, and every element is zero
(assumption 103). -/
def quantBlock (t : Ty) (n : Nat) (xs : List FVal) : Nat × List Nat :=
  let bad := (fmtF32.nanBits, xs.map fun _ => 0)
  if !xs.all FVal.finite then bad
  else
    let ys := if n = 0 then xs else ((chunksGo n xs.length xs).map rotRun).flatten
    let m := ys.foldl maxMag (.fin false 0 0)
    let s := if m.isZero then 0x3F800000 else (fpDiv fmtF32 .rne 0 m (qmaxOf t)).1
    if !(decodeVal fmtF32 s).finite then bad
    else
      let sv := decodeVal fmtF32 s
      (s, ys.map fun y => if sv.isZero then (quantElem t (.fin false 0 0) (.fin false 1 0)) else quantElem t y sv)

/-- The type of the target under the captured format. -/
def Quant.ty (q : Quant) : Option Ty := tyOf (Vector.replicate 8 q.fmt) q.dtag

/-- The tensor record (R264). -/
def Quant.image (q : Quant) : Nat :=
  q.dst.toNat + 2 ^ 64 * q.scl.toNat + 2 ^ 128 * q.n +
    2 ^ 192 * (q.dtag.toNat + 256 * q.logb + 2 ^ 16 * q.rot + 2 ^ 32 * (match q.ty with
      | some (.fp _ _ _) => q.fmt.toNat % 2 ^ 32
      | _ => 0))

/-! ### Pieces -/

/-- The request numbers that a piece may use, from its own number; what is left of it is numbered by the request of its line. -/
def pieceBase (i : Nat) : Nat := i * 2 ^ 14

/-- The ranges that a piece reads. -/
def Piece.srcs : Piece → List (Word × Nat)
  | .bytes src _ n => [(src, n)]
  | .block q k =>
    let m := q.b * ((stagFmt q.stag).width / 8)
    [(q.src + BitVec.ofNat 64 (k * m), m)]
  | .record _ => []
  | .put _ _ _ => []
/-- The ranges that a piece writes. -/
def Piece.dsts : Piece → List (Word × Nat)
  | .bytes _ dst n => [(dst, n)]
  | .block q k =>
    let m := q.b * ((q.ty.map Ty.w).getD 0) / 8
    [(q.dst + BitVec.ofNat 64 (k * m), m), (q.scl + BitVec.ofNat 64 (4 * k), 4)]
  | .record q => [(q.trec, 64)]
  | .put dst n _ => [(dst, n)]

/-- What a piece writes to its ranges, given the bytes that it has read. -/
def Piece.values (p : Piece) (v : Nat) : List Nat :=
  match p with
  | .bytes _ _ _ => [v]
  | .block q _ =>
    let f := stagFmt q.stag
    match q.ty with
    | none => []
    | some t =>
      let xs := (List.range q.b).map fun j => decodeVal f (v / 2 ^ (f.width * j) % 2 ^ f.width)
      let r := quantBlock t q.rotN xs
      [r.2.foldr (fun x acc => x + 2 ^ t.w * acc) 0, r.1]
  | .record q => [q.image]
  | .put _ _ x => [x]

/-- The line that an address names, whatever may be done there; none where nothing is mapped. -/
def State.lineAt (s : State) (v : Via) (a : Word) : Option Nat :=
  match s.resolve v a 1 .load with
  | .ok l => l.line
  | .error _ => match s.resolve v a 1 .store with
    | .ok l => l.line
    | .error _ =>
      if canonical a && decide (va55 a < clusterBase) then
        match s.leafFor v (va55 a) with
        | .ok leaf => some (lineOf (s.home (entryPa leaf + va55 a % 2 ^ 16)))
        | .error _ => none
      else none
/-- The lines of some ranges. -/
def State.linesAt (s : State) (v : Via) (rs : List (Word × Nat)) : List Nat :=
  rs.flatMap fun r => (spans r.1 r.2).filterMap fun sp => s.lineAt v sp.1
/-- The lines that a piece claims while it is still to do: its destinations, its sources (R261). -/
def claimsOf (s : State) (v : Via) (p : Piece) : List (Nat × Bool) :=
  (s.linesAt v p.dsts).map (fun n => (n, true)) ++ (s.linesAt v p.srcs).map (fun n => (n, false))

def Piece.isRecord : Piece → Bool
  | .record _ => true
  | _ => false

/-- The bytes a list of writes covers. -/
def writtenRanges (ws : List EngWrite) : List (Nat × Nat) := ws.filterMap fun w => (w.l.byte).map fun a => (a, w.n)

/-- The lowest of some faulting addresses, with its cause. -/
def lowest (l : List (Nat × Word)) : Option (Nat × Word) :=
  l.foldl (fun m p => match m with | none => some p | some q => if p.2 < q.2 then some p else some q) none

/-- What an engine has done so far on a copy: the writes gathered, the pieces left to do, those that have faulted with their
faults. -/
structure Work where
  s : State
  ws : List EngWrite := []
  rest : List (Nat × Piece) := []
  held : List (Nat × Piece) := []
  fails : List (Nat × Word) := []

/-- One line's part of a piece's destination, under the number of its request: it is ready, or is left to do, or has faulted. -/
def Work.part (w : Work) (c : Ct) (ticket i : Nat) (a : Word) (n x : Nat) : Work :=
  match engPlace w.s c ticket i a n x with
  | .ready t e => { w with s := t, ws := w.ws ++ [e] }
  | .wait t => { w with s := t, rest := w.rest ++ [(i, .put a n x)] }
  | .bad t cause => { w with s := t, held := w.held ++ [(i, .put a n x)], fails := w.fails ++ [(cause, a)] }
/-- A range of a piece's destination, line by line; request numbers count from `i`. -/
def Work.range (w : Work) (c : Ct) (ticket i : Nat) (r : Word × Nat) (v : Nat) : Work :=
  ((spans r.1 r.2).foldl (fun (acc : Work × Nat × Nat) sp =>
    (acc.1.part c ticket acc.2.2 sp.1 sp.2 (acc.2.1 % 2 ^ (8 * sp.2)), acc.2.1 / 2 ^ (8 * sp.2), acc.2.2 + 1)) (w, v, i)).1

/-- A piece: where every byte of its source has come, each line of its destination that neither faults nor waits is ready to be
written (R265). -/
def Work.piece (w : Work) (c : Ct) (ticket : Nat) (q : Nat × Piece) : Work :=
  match q.2 with
  | .put a n x => w.part c ticket q.1 a n x
  | p =>
    let e := p.srcs.foldl (fun (_ : Eng) r => engGet w.s c ticket (pieceBase q.1) r.1 r.2) { s := w.s }
    if !e.fails.isEmpty then { w with s := e.s, held := w.held ++ [q], fails := w.fails ++ e.fails }
    else if e.waits then { w with s := e.s, rest := w.rest ++ [q] }
    else
      ((p.dsts.zip (p.values e.val)).foldl (fun (acc : Work × Nat) r =>
        (acc.1.range c ticket acc.2 r.1 r.2, acc.2 + 2 ^ 10)) ({ w with s := e.s }, pieceBase q.1 + 2 ^ 13)).1
/-- The writes gathered are performed; whole lines clear their poison. -/
def Work.flush (w : Work) (c : Ct) : Work :=
  { w with s := (w.ws.foldl (fun t x => engPut t c x) w.s).clearLines (writtenRanges w.ws), ws := [] }

/-- An engine works on a copy (R261, R263 to R265): every piece that can move does, all reads before all writes, the tensor
record after the rest. What is left keeps its claims, and, where it faulted, is held until the CT resumes. -/
def copyWork (s : State) (c : Ct) (y : Copy) : State × Copy :=
  let w : Work := ((y.todo.filter (fun q => !q.2.isRecord)).foldl (fun (w : Work) q => w.piece c y.ticket q) { s := s }).flush c
  let recs := y.todo.filter (fun q => q.2.isRecord)
  let w : Work := if w.rest.isEmpty && w.held.isEmpty && y.held.isEmpty then (recs.foldl (fun (w : Work) q => w.piece c y.ticket q) w).flush c
    else { w with rest := w.rest ++ recs }
  let held := y.held ++ w.held
  let pages := y.pages ++ (pageList w.fails).filter (fun (p : Word) => !y.pages.any (fun q => q >>> 16 == p >>> 16))
  (w.s, { y with todo := w.rest, held := held, err := lowest (y.err.toList ++ w.fails), pages := pages,
                 claims := (w.rest ++ held).flatMap fun q => claimsOf w.s c.via q.2 })

/-- Changes a CT wherever it stands: the one in focus, or one of the others, found by its key. -/
def State.onKey (s : State) (k : Nat) (f : Ct → Ct) : State :=
  { s with ct := if s.ct.key = k && s.ct.status != .ended then f s.ct else s.ct,
           others := s.others.map (fun c => if c.key = k && c.status != .ended then f c else c) }
def State.ofKey (s : State) (k : Nat) : Option Ct := s.cts.find? (fun c => c.key = k && c.status != .ended)

/-- Puts a copy back. -/
def Ct.setCopy (c : Ct) (y : Copy) : Ct :=
  { c with copies := c.copies.map (fun z => if z.ticket = y.ticket then y else z) }

/-- A line of another module. -/
def farLine (l : Nat) : Bool := decide (2 ^ 40 ≤ l ∧ l < 2 ^ 50)
/-- What a copy claims no longer on other modules is released there (R261, R379). -/
def State.released (s : State) (c : Ct) (y : Copy) : State × Copy :=
  let still := fun (l : Nat) => y.claims.any fun z => z.1 = l
  (s.releaseFar c.plot (y.far.filter fun l => !still l), { y with far := y.far.filter still })

/-- The engine takes up a copy of a CT again; it completes once no piece is left. Pieces that a fault holds wait for a
resume. -/
def copyStep (s : State) (k ticket : Nat) : State :=
  match s.ofKey k with
  | none => s
  | some c =>
    match c.copies.find? (fun y => y.ticket = ticket) with
    | none => s
    | some y =>
      if y.done || (y.todo.isEmpty && !y.held.isEmpty) then s
      else
        let (t, z) := copyWork s c y
        let (u, z) := t.released c z
        u.onKey k (fun d => d.setCopy { z with done := z.todo.isEmpty && z.held.isEmpty })
/-- A resume makes the engine take up the pieces that a fault held (R265). -/
def Copy.again (y : Copy) : Copy := { y with err := none, pages := [], todo := y.todo ++ y.held, held := [] }

/-- Issues a copy: the CT's next ticket, the pieces (R263). Whatever moves at once has moved; the completion comes with
copyStep. -/
def copyIssue (s : State) (ps : List Piece) : State × Nat :=
  let n := s.ct.ticket + 1
  let far := (((ps.flatMap fun p => claimsOf s s.ct.via p).map (·.1)).filter fun l => farLine l && (s.portOf (128 * l)).isSome).eraseDups
  let y : Copy := ⟨n, s.pkg.copySeq, ps.isEmpty, none, [], ps.mapIdx fun i p => (i, p), [], far, []⟩
  let (t, z) := copyWork { s with ct := { s.ct with ticket := n } } s.ct y
  let (t, z) := t.released s.ct z
  ({ t with ct := { t.ct with copies := t.ct.copies ++ [z] }, pkg := { t.pkg with copySeq := t.pkg.copySeq + 1 } }, n)

/-- The copies of the CT in focus up to a ticket that have not completed. -/
def Ct.pendingUpTo (c : Ct) (n : Nat) : List Copy := c.copies.filter (fun y => !y.done && decide (y.ticket ≤ n))

/-- The fault of a failed copy that a word covers (R265): the word stops, with the ticket and the lowest address. -/
def copyTrap (y : Copy) : Option Trap :=
  y.err.map fun e => { code := codeOfCause e.1, info := some e.2, index := y.ticket % 2 ^ 32, pages := y.pages }

/-- A word that covers the copies up to a ticket: it stops at the lowest failed one; where some are still under way the
engines go on with them and it waits. -/
def coverCopies (s : State) (n : Nat) (f : State → State) : State :=
  let l := s.ct.pendingUpTo n
  match l.filterMap copyTrap with
  | t :: _ => raise s t
  | [] => if l.isEmpty then f s else l.foldl (fun t y => copyStep t s.ct.key y.ticket) s

end Sys2Proof.Machine
end

