-- ==== Sys2Proof/Machine/Vdec.lean ====
section
/-! DEFINITION. The decode of vector-class words: ownership, operand types, groups, convoys, place rules, and posting into the VIQ
(spec chapters 02, 04 and 11: R22 to R36, R63 to R75, R231, R394). -/
namespace Sys2Proof.Machine

/-! ### The lazy switch (R231, R233) -/

/-- A range of a byte memory set to what an unlisted byte reads as. -/
def Memory.clear (m : Memory) (a n : Nat) : Memory := m.filter (fun c => !decide (a ≤ c.1 ∧ c.1 < a + n))

/-- n bytes of main memory from pa set to what an unlisted byte reads as, wherever their lines stand (R260). -/
def State.clearHome (s : State) (pa n : Nat) : State :=
  if s.pkg.migr.isEmpty then { s with mem := s.mem.clear pa n } else s.writeHome pa n 0

/-- Bytes of main memory have been written, wherever their lines stand: whole lines clear their poison (R318). -/
def State.wroteHome (s : State) (ws : List (Nat × Nat)) : State :=
  if s.pkg.poison.isEmpty then s
  else s.clearLines (ws.flatMap fun w => (List.range w.2).map fun i => (s.home (w.1 + i), 1))

/-- The context engine writes a CT's vector state to its context area, and the zeros that follow its extension (R231, R233). Its
VIQ, block, feed and mark state stays with the CT, and the extension's bytes are never read back, so that a change of them changes
nothing (assumption 105). -/
def saveVector (s : State) (c : Ct) : State :=
  match s.areaOf c with
  | none => s
  | some a =>
    let img := vimage c true c.vtype.toList c.vl c.vsw c.vstart c.g c.grantM c.grantN c.grantK
    ((s.writeHome (a + 0x1000) c.vimgLen img).clearHome (a + 0x3E000) 0x2000).wroteHome [(a + 0x1000, c.vimgLen), (a + 0x3E000, 0x2000)]
/-- The same for its matrix state. -/
def saveMatrix (s : State) (c : Ct) : State :=
  match s.areaOf c with
  | none => s
  | some a =>
    let img := mimage c c.grantM c.grantN c.grantK (c.mx.actTag.code, c.mx.actTag.fmt) (c.mx.shaTag.code, c.mx.shaTag.fmt)
    ((s.writeHome (a + 0x40000) mimgLen img).clearHome (a + 0x110100) 0xFF00).wroteHome [(a + 0x40000, mimgLen), (a + 0x110100, 0xFF00)]

/-- A CT whose vector state has left the registers: of its feeds, and of the vectors that posted words have popped, the positions
alone are kept (R170, R171). -/
def Ct.leaveV (c : Ct) : Ct := if c.vown then { c.keepPositions with vown := false } else c

/-- The internal ownership trap: the CT in focus takes the vector state of its slot (R231). Results never change. -/
def takeVector (s : State) : State :=
  if s.ct.vown then s
  else
    let old := s.others.filter (fun c => c.vown && c.id = s.ct.id && c.status != .ended)
    let t := old.foldl saveVector s
    { t with ct := { t.ct with vown := true },
             others := t.others.map (fun c => if c.id = s.ct.id then c.leaveV else c) }
/-- The same for the matrix state of its core. -/
def takeMatrix (s : State) : State :=
  if s.ct.mown then s
  else
    let old := s.others.filter (fun c => c.mown && coreOf c.id = coreOf s.ct.id && c.status != .ended)
    let t := old.foldl saveMatrix s
    { t with ct := { t.ct with mown := true },
             others := t.others.map (fun c => if coreOf c.id = coreOf s.ct.id then { c with mown := false } else c) }

/-- The vector side of the CT in focus is about to run a posted word: the registers hold its state, and, where matrix words are among
those posted, the core's registers its matrix state, so that another owner's words stand still (R231). -/
def holdVector (s : State) : State :=
  if s.ct.viq.isEmpty then s
  else
    let t := takeVector s
    if s.ct.viq.any (·.op.usesMatrix) then takeMatrix t else t

/-! ### Operand types -/

/-- The type that a register's tag byte names now (R24, R43). -/
def State.ty (s : State) (r : Nat) : Option Ty := tyOf s.ct.a.fmt (s.ct.vtype[r]?.getD 0)
/-- Whether an operand of width w and span k holds vl elements (R66). -/
def State.fits (s : State) (w k : Nat) : Bool := decide (s.ct.vl * w ≤ s.ct.vlen * 2 ^ s.ct.g * k)
/-- An operand: its type, when its tag is admitted at all and holds vl elements over k groups (R25, R66). -/
def State.opT (s : State) (r k : Nat) : Option Ty :=
  match s.ty r with
  | some t => if s.fits t.w k then some t else none
  | none => none

/-- A register field names a group (R23). -/
def State.grp (s : State) (r : VRegNo) : Bool := decide (r.toNat % 2 ^ s.ct.g = 0)
/-- A field names the first of two groups, within the file (R23, R86). -/
def State.grp2 (s : State) (r : VRegNo) : Bool :=
  decide (r.toNat % 2 ^ (s.ct.g + 1) = 0 ∧ r.toNat + 2 ^ (s.ct.g + 1) ≤ 32)

/-- A second source as the word names it. -/
inductive BOp where
  | v (r : VRegNo)
  | x (r : SReg)
  deriving DecidableEq, Repr

def BOp.isX : BOp → Bool
  | .v _ => false
  | .x _ => true
/-- Its group rule. -/
def State.grpB (s : State) (b : BOp) : Bool := match b with | .v r => s.grp r | .x _ => true
/-- Its type: a vector's own, the scalar's that of the other operand (R68). -/
def State.bTy (s : State) (b : BOp) (t : Ty) : Option Ty := match b with | .v r => s.opT r.toNat 1 | .x _ => some t
/-- Its source: a vector group, or the low w bits of the scalar at decode (R68). -/
def State.bSrc (s : State) (b : BOp) (w : Nat) : VSrc :=
  match b with
  | .v r => .vec r.toNat
  | .x r => .sc ((s.rd r).toNat % 2 ^ w)

/-! ### Convoys (R26 to R31) -/

/-- The convoy classes of a word (R27). -/
structure Cls where
  mem : Bool := false
  mat : Bool := false
  ring : Bool := false
  solo : Bool := false
  deriving DecidableEq, Repr

def Cls.free : Cls := {}

/-- The counts after a word, or none where it raises CONVOY (R26 to R28). -/
def countConvoy (v : Convoy) (c : Bool) (k : Cls) : Option Convoy :=
  if (v.solo || k.solo) && !c then none
  else
    let b : Convoy := if c || !v.opened then ⟨true, 0, 0, 0, false⟩ else v
    let n : Convoy := { b with mem := b.mem + (if k.mem then 1 else 0), mat := b.mat + (if k.mat then 1 else 0),
                               ring := b.ring + (if k.ring then 1 else 0), solo := k.solo }
    if 2 < n.mem ∨ 1 < n.mat ∨ 1 < n.ring then none else some n

/-- The convoy counts in force: those of the running VP group inside a block (R31). -/
def State.conv (s : State) : Convoy := match s.group with | some g => g.conv | none => s.ct.conv
def State.setConv (s : State) (v : Convoy) : State :=
  match s.group with
  | some g => { s with ct := s.ct.setGroup { g with conv := v } }
  | none => { s with ct := { s.ct with conv := v } }

/-! ### Posting -/

/-- A word enters the VIQ with what it captures (R24, R45, R68, R109, R118, R273, R394). vstart governs the next word
posted, and every younger word captures 0: while an older one is still posted, the register shows where that one stopped. -/
def vpost (s : State) (op : Vop) (pg : Option PGov) : State :=
  let x : Ventry := {
    op := op, word := s.ir, pc := s.pc, members := s.group.map (·.members), vl := s.ct.vl,
    vstart := if s.ct.idle then s.ct.vstart else 0,
    g := s.ct.g, rm := rmOf s.ct.a.frm, xrm := s.ct.a.vround, key := s.ct.a.vseed, srn := s.ct.a.vsrn.toNat,
    sbase := s.ct.a.sbase, pg := pg.map (·.toNat), masked := false, popped := [], fl := {}, wmb := s.ct.wmb,
    floor := s.ct.floors.post, frames := s.ct.frE, wrote := [] }
  { s with ct := { s.ct with viq := s.ct.viq ++ [x], vstart := if s.ct.idle then 0 else s.ct.vstart } }

/-- A publication or a fence goes among the posted words; it is no vector-class word and leaves vstart (R250, R272, R284). -/
def postMark (s : State) (op : Vop) : State :=
  let t := vpost s op none
  settle { t with ct := { t.ct with vstart := s.ct.vstart } }

/-- Writes a tag byte to n registers from r (R23, R74). -/
def Ct.tag (c : Ct) (r n : Nat) (b : BitVec 8) : Ct :=
  { c with vtype := (List.range n).foldl (fun v i => v.setIfInBounds (r + i) b) c.vtype }
/-- A destination group's tag, written at decode (R74). -/
def setTag (s : State) (r : VRegNo) (b : BitVec 8) : State := { s with ct := s.ct.tag r.toNat (2 ^ s.ct.g) b }

/-- The posting of a word, with its result tag. -/
def postTag (d : VRegNo) (b : BitVec 8) (op : Vop) (pg : Option PGov) : State → State :=
  fun s => setTag (vpost s op pg) d b
/-- The posting of a word that writes no tag. -/
def postOnly (op : Vop) (pg : Option PGov) : State → State := fun s => vpost s op pg

/-- A vector-class word (R22 to R36): the lowest subcode among FIELD, TYPE, CONVOY and PLACE is raised; otherwise the word
counts in its convoy, takes its effect at decode and is posted. It waits while an earlier word has still to fix vl or
vtype (R161, R237), and while the VIQ is full (R190). Only the execute stream admits it (R32, R341). `blk` says
whether a VP block does (R115). -/
def vword (s : State) (c : Bool) (k : Cls) (blk : Bool) (field : State → Bool) (plan : State → Option (State → State)) :
    Res :=
  .next (match s.who with
    | .exec =>
      if s.ct.viq.any Ventry.fixes then (runHead s).1
      else
        let s := takeVector s
        if !field s then raise s (trapIll 5)
        else match plan s with
          | none => raise s (trapIll 6)
          | some f =>
            match countConvoy s.conv c k with
            | none => raise s (trapIll 7)
            | some v =>
              if s.group.isSome && !blk then raise s (trapIll 9)
              else if 256 ≤ s.ct.viq.length then (runHead s).1
              else settle (f (s.setConv v)).advance
    | _ => raise s (trapIll 9))

end Sys2Proof.Machine
end

