-- ==== Sys2Proof/Machine/Page.lean ====
section
/-! DEFINITION. The page reserve, the mapping of pages and the invalidation of translations (R224, R228, R291, R292), and
the pools of ALLOCR. -/
namespace Sys2Proof.Machine

def pageSize : Nat := 0x10000


/-- n bytes copied from a of one memory to b of another. -/
def Memory.copyFrom (m src : Memory) (a b n : Nat) : Memory :=
  (src.filter (fun c => decide (a ≤ c.1 ∧ c.1 < a + n))).foldl (fun m c => m.write (b + (c.1 - a)) c.2) (m.clear b n)

/-- The first frame number that is not in use, looked for among one more than are. -/
def freeFrame (used : List Nat) (n : Nat) : Nat → Option Nat
  | 0 => none
  | k + 1 =>
    let i := used.length - k
    if n ≤ i then none else if used.contains i then freeFrame used n k else some i

/-- Takes a zeroed 64 KiB frame from a plot's page reserve (R224, R291). -/
def State.takeFrame (s : State) (plot : Nat) : Option (State × Nat) :=
  match s.plotOf plot with
  | none => none
  | some p =>
    match freeFrame p.used p.rframes (p.used.length + 1) with
    | none => none
    | some i =>
      let a := p.reserve + pageSize * i
      let t := s.setPlot { p with used := i :: p.used }
      some (({ t with mem := t.mem.clear (s.home a) pageSize }.clearLines [(s.home a, pageSize)]).dropLooks (fun c => c.plot = plot), a)
/-- The bytes that provisional gangs have stored in a range are discarded. -/
def State.dropCells (s : State) (a n : Nat) : State :=
  { s with pkg := { s.pkg with prov := s.pkg.prov.map (fun (l : ProvLines) =>
      { l with cells := l.cells.filter (fun c => !decide (a ≤ c.1 ∧ c.1 < a + n)) }) } }

/-- Returns a frame to the reserve; its contents are discarded (R292). -/
def State.giveFrame (s : State) (plot a : Nat) : State :=
  match s.plotOf plot with
  | none => s
  | some p =>
    (s.dropCells (s.home a) pageSize).setPlot { p with used := p.used.filter (fun i => p.reserve + pageSize * i != a) }

/-- A table entry at pa, read and written. -/
def State.entry (s : State) (pa : Nat) : Nat := s.mem.readN (s.home pa) 8
def State.setEntry (s : State) (pa x : Nat) : State := { s with mem := s.mem.writeN (s.home pa) 8 x }

/-- The table below an entry; one is taken from the reserve where there is none (R224). -/
def State.tableAt (s : State) (plot pa : Nat) : Option (State × Nat) :=
  let e := s.entry pa
  if e % 2 = 1 then some (s, entryPa e)
  else match s.takeFrame plot with
    | none => none
    | some (t, f) => some (t.setEntry pa (f + 1), f)

/-- Maps a 64 KiB page: `bits` are the leaf's low 16 bits (R225). Nothing is mapped where the reserve is empty. -/
def State.mapPage (s : State) (plot aspace va frame bits : Nat) : Option State :=
  match s.plotOf plot with
  | none => none
  | some p =>
    match s.tableAt plot (s.rootOf p aspace + 8 * (va / 2 ^ 42 % 2 ^ 13)) with
    | none => none
    | some (t, t2) =>
      match t.tableAt plot (t2 + 8 * (va / 2 ^ 29 % 2 ^ 13)) with
      | none => none
      | some (u, t3) => some (u.setEntry (t3 + 8 * (va / 2 ^ 16 % 2 ^ 13)) (frame + bits))

/-- The address of the level-3 entry of a page, where the tables reach it. -/
def State.leafAddr (s : State) (plot aspace va : Nat) : Option Nat :=
  match s.plotOf plot with
  | none => none
  | some p =>
    let e1 := s.entry (s.rootOf p aspace + 8 * (va / 2 ^ 42 % 2 ^ 13))
    let e2 := s.entry (entryPa e1 + 8 * (va / 2 ^ 29 % 2 ^ 13))
    if e1 % 2 = 1 ∧ e2 % 4 = 1 then some (entryPa e2 + 8 * (va / 2 ^ 16 % 2 ^ 13)) else none

/-- Invalidates the translations of an address space for pages lo to hi (R228). -/
def State.inval (s : State) (plot aspace lo hi : Nat) : State :=
  { s with pkg := { s.pkg with tlb := s.pkg.tlb.filter (fun t =>
      !(t.plot = plot && t.aspace = aspace && decide (lo ≤ t.page ∧ t.page < hi))) } }

/-- Unmaps a page, invalidates it and returns its frame (R292). -/
def State.unmapPage (s : State) (plot aspace : Nat) (pg : PoolPage) : State :=
  let va := va55 pg.va
  let t := match s.leafAddr plot aspace va with
    | some a => s.setEntry a 0
    | none => s
  (t.inval plot aspace (va / 2 ^ 16) (va / 2 ^ 16 + 1)).giveFrame plot pg.frame

/-- Leaf bits: V and LEAF, with RD, W, X. -/
def leafBits (rd w x : Bool) : Nat := 3 + (if rd then 8 else 0) + (if w then 16 else 0) + (if x then 32 else 0)

/-- Retracts a position of a pool (R292). -/
def State.retract (s : State) (q : PoolPos) : State :=
  let t := q.pages.foldl (fun t pg => t.unmapPage q.plot q.aspace pg) s
  { t with pkg := { t.pkg with pools := t.pkg.pools.filter (fun r =>
      !(r.plot = q.plot && r.aspace = q.aspace && r.pool = q.pool && r.pos = q.pos)) } }

end Sys2Proof.Machine
end

