-- ==== Sys2Proof/Machine/Scalar.lean ====
section
/-! DEFINITION. The integer instructions, the immediates, the branches and jumps, the scalar loads and stores, the scalar
floating-point words and the queue words (spec chapter 07, R134 to R143). -/
namespace Sys2Proof.Machine

/-- A scalar-class word: inside a VP block it raises ILL PLACE (R115). -/
def scal (s : State) (f : State → State) : Res :=
  .next (if s.group.isSome then raise s (trapIll 9) else f s)

/-- A word that writes one register and moves on. -/
def put (s : State) (d : SReg) (v : Word) : State := (s.wr d v).advance

/-! ### SALU (R134) -/

/-- The signed division of R76 at w = 64: quotient and remainder. -/
def divS (a b : Word) : Word × Word :=
  let (q, r) := divRem ⟨64, true⟩ a.toInt b.toInt
  (BitVec.ofNat 64 q, BitVec.ofNat 64 r)
/-- The unsigned division of R76 at w = 64. -/
def divU (a b : Word) : Word × Word :=
  let (q, r) := divRem ⟨64, false⟩ a.toNat b.toNat
  (BitVec.ofNat 64 q, BitVec.ofNat 64 r)

/-- Leading zero bits among the low n. -/
def clzGo (v : Word) : Nat → Nat
  | 0 => 0
  | n + 1 => if v.getLsbD n then 0 else 1 + clzGo v n
def clz (v : Word) : Nat := clzGo v 64
/-- Trailing zero bits, n of them still to look at. -/
def ctzGo (v : Word) : Nat → Nat
  | 0 => 0
  | n + 1 => if v.getLsbD (63 - n) then 0 else 1 + ctzGo v n
def ctz (v : Word) : Nat := ctzGo v 64
def popcGo (v : Word) : Nat → Nat
  | 0 => 0
  | n + 1 => (if v.getLsbD n then 1 else 0) + popcGo v n
def popc (v : Word) : Nat := popcGo v 64

def boolWord (b : Bool) : Word := if b then 1 else 0
/-- The shift amount: the operand modulo 64. -/
def amt (b : Word) : Nat := b.toNat % 64

def execAdd (d a b : SReg) (s : State) : Res := scal s fun s => put s d (s.rd a + s.rd b)
def execSub (d a b : SReg) (s : State) : Res := scal s fun s => put s d (s.rd a - s.rd b)
def execMul (d a b : SReg) (s : State) : Res := scal s fun s => put s d (s.rd a * s.rd b)
def execMulh (d a b : SReg) (s : State) : Res :=
  scal s fun s => put s d (BitVec.ofInt 64 ((s.rd a).toInt * (s.rd b).toInt / 2 ^ 64))
def execMulhu (d a b : SReg) (s : State) : Res :=
  scal s fun s => put s d (BitVec.ofNat 64 ((s.rd a).toNat * (s.rd b).toNat / 2 ^ 64))
def execDiv (d a b : SReg) (s : State) : Res := scal s fun s => put s d (divS (s.rd a) (s.rd b)).1
def execDivu (d a b : SReg) (s : State) : Res := scal s fun s => put s d (divU (s.rd a) (s.rd b)).1
def execRem (d a b : SReg) (s : State) : Res := scal s fun s => put s d (divS (s.rd a) (s.rd b)).2
def execRemu (d a b : SReg) (s : State) : Res := scal s fun s => put s d (divU (s.rd a) (s.rd b)).2
def execAnd (d a b : SReg) (s : State) : Res := scal s fun s => put s d (s.rd a &&& s.rd b)
def execOr (d a b : SReg) (s : State) : Res := scal s fun s => put s d (s.rd a ||| s.rd b)
def execXor (d a b : SReg) (s : State) : Res := scal s fun s => put s d (s.rd a ^^^ s.rd b)
def execAndn (d a b : SReg) (s : State) : Res := scal s fun s => put s d (s.rd a &&& ~~~(s.rd b))
def execShl (d a b : SReg) (s : State) : Res := scal s fun s => put s d (s.rd a <<< amt (s.rd b))
def execShr (d a b : SReg) (s : State) : Res := scal s fun s => put s d (s.rd a >>> amt (s.rd b))
def execSha (d a b : SReg) (s : State) : Res := scal s fun s => put s d ((s.rd a).sshiftRight (amt (s.rd b)))
def execRot (d a b : SReg) (s : State) : Res := scal s fun s => put s d (rotl64 (s.rd a) (amt (s.rd b)))
def execSlt (d a b : SReg) (s : State) : Res := scal s fun s => put s d (boolWord ((s.rd a).slt (s.rd b)))
def execSltu (d a b : SReg) (s : State) : Res := scal s fun s => put s d (boolWord ((s.rd a).ult (s.rd b)))
def execMin (d a b : SReg) (s : State) : Res :=
  scal s fun s => put s d (if (s.rd b).slt (s.rd a) then s.rd b else s.rd a)
def execMax (d a b : SReg) (s : State) : Res :=
  scal s fun s => put s d (if (s.rd a).slt (s.rd b) then s.rd b else s.rd a)
def execMinu (d a b : SReg) (s : State) : Res :=
  scal s fun s => put s d (if (s.rd b).ult (s.rd a) then s.rd b else s.rd a)
def execMaxu (d a b : SReg) (s : State) : Res :=
  scal s fun s => put s d (if (s.rd a).ult (s.rd b) then s.rd b else s.rd a)
def execClz (d a : SReg) (s : State) : Res := scal s fun s => put s d (BitVec.ofNat 64 (clz (s.rd a)))
def execCtz (d a : SReg) (s : State) : Res := scal s fun s => put s d (BitVec.ofNat 64 (ctz (s.rd a)))
def execPopc (d a : SReg) (s : State) : Res := scal s fun s => put s d (BitVec.ofNat 64 (popc (s.rd a)))

/-! ### Immediates (R135) -/

def execAddi (d a : SReg) (i : BitVec 14) (s : State) : Res := scal s fun s => put s d (s.rd a + sx64 i)
def execAndi (d a : SReg) (i : BitVec 14) (s : State) : Res := scal s fun s => put s d (s.rd a &&& zx64 i)
def execOri (d a : SReg) (i : BitVec 14) (s : State) : Res := scal s fun s => put s d (s.rd a ||| zx64 i)
def execXori (d a : SReg) (i : BitVec 14) (s : State) : Res := scal s fun s => put s d (s.rd a ^^^ zx64 i)
def execSlti (d a : SReg) (i : BitVec 14) (s : State) : Res :=
  scal s fun s => put s d (boolWord ((s.rd a).slt (sx64 i)))
def execShli (d a : SReg) (n : BitVec 6) (s : State) : Res := scal s fun s => put s d (s.rd a <<< n.toNat)
def execShri (d a : SReg) (n : BitVec 6) (s : State) : Res := scal s fun s => put s d (s.rd a >>> n.toNat)
def execShai (d a : SReg) (n : BitVec 6) (s : State) : Res := scal s fun s => put s d ((s.rd a).sshiftRight n.toNat)
def execLdi (d : SReg) (i : BitVec 20) (s : State) : Res := scal s fun s => put s d (sx64 i)
def execAdpc (d : SReg) (o : BitVec 20) (s : State) : Res := scal s fun s => put s d (s.pc + sx64 o)

/-! ### Branches and jumps (R136, R137) -/

/-- A target counted in words from the word's own address (R10). -/
def target {n : Nat} (pc : Word) (o : BitVec n) : Word := pc + (sx64 o <<< 2)

def branch (c : Bool) (o : BitVec 14) (s : State) : State := if c then s.jump (target s.pc o) else s.advance

def execBeq (a b : SReg) (o : BitVec 14) (s : State) : Res := scal s fun s => branch (s.rd a == s.rd b) o s
def execBne (a b : SReg) (o : BitVec 14) (s : State) : Res := scal s fun s => branch (s.rd a != s.rd b) o s
def execBlt (a b : SReg) (o : BitVec 14) (s : State) : Res := scal s fun s => branch ((s.rd a).slt (s.rd b)) o s
def execBge (a b : SReg) (o : BitVec 14) (s : State) : Res := scal s fun s => branch (!(s.rd a).slt (s.rd b)) o s
def execBltu (a b : SReg) (o : BitVec 14) (s : State) : Res := scal s fun s => branch ((s.rd a).ult (s.rd b)) o s
def execBgeu (a b : SReg) (o : BitVec 14) (s : State) : Res := scal s fun s => branch (!(s.rd a).ult (s.rd b)) o s
def execJmp (d : SReg) (o : BitVec 20) (s : State) : Res :=
  scal s fun s => (s.wr d (s.pc + 4)).jump (target s.pc o)
/-- JMPR (R8, R137): a target with bit 1 or 0 set raises ALIGN and writes no link. -/
def execJmpr (d a : SReg) (i : BitVec 14) (s : State) : Res :=
  scal s fun s =>
    let t := s.rd a + sx64 i
    if t &&& 3 ≠ 0 then raise s (trapAlign t) else (s.wr d (s.pc + 4)).jump t

/-! ### Scalar loads and stores (R138) -/

/-- Sign extension of n bytes. -/
def sextBytes (n v : Nat) : Word := BitVec.ofInt 64 (intOf ⟨8 * n, true⟩ v)

/-- The address of an SM word. -/
def smAddr (s : State) (a : SReg) (w : BitVec 2) (i : BitVec 10) : Word := s.rd a + (sx64 i <<< w.toNat)

def aligned (a : Word) (n : Nat) : Bool := a.toNat % n = 0

/-- A scalar load of n bytes at a; `ext` widens the value. -/
def loadTo (s : State) (d : SReg) (a : Word) (n : Nat) (ext : Nat → Word) : State :=
  if !aligned a n then raise s (trapAlign a)
  else (s.loadWith State.readEarly a n .load).orRaise a fun (v, _, t) => put t d (ext v)

def storeFrom (s : State) (a : Word) (n : Nat) (x : Word) : State :=
  if !aligned a n then raise s (trapAlign a)
  else (s.memStore a n x.toNat).orRaise a fun t => t.advance

def execLd (d a : SReg) (w c : BitVec 2) (i : BitVec 10) (s : State) : Res :=
  scal s fun s => let _ := c; loadTo s d (smAddr s a w i) (2 ^ w.toNat) (sextBytes (2 ^ w.toNat))
def execLdu (d a : SReg) (w c : BitVec 2) (i : BitVec 10) (s : State) : Res :=
  scal s fun s => let _ := c; loadTo s d (smAddr s a w i) (2 ^ w.toNat) (BitVec.ofNat 64)
def execSt (d a : SReg) (w c : BitVec 2) (i : BitVec 10) (s : State) : Res :=
  scal s fun s => let _ := c; storeFrom s (smAddr s a w i) (2 ^ w.toNat) (s.rd d)

/-! ### Scalar floating point (R141, R142) -/

/-- The format of a fmt code: 0 f32, 1 f64, 2 f16, 3 bf16. -/
def sfmt (f : BitVec 2) : Fmt :=
  match f.toNat with
  | 0 => fmtF32 | 1 => fmtF64 | 2 => fmtF16 | _ => fmtBf16
/-- The integer kind of a k code: 0 i64, 1 u64, 2 i32, 3 u32. -/
def kint (k : BitVec 2) : ITag :=
  match k.toNat with
  | 0 => ⟨64, true⟩ | 1 => ⟨64, false⟩ | 2 => ⟨32, true⟩ | _ => ⟨32, false⟩

/-- The operand a register holds in a format. -/
def fopd (s : State) (f : BitVec 2) (a : SReg) : FVal :=
  decodeVal (sfmt f) ((s.rd a).toNat % 2 ^ (sfmt f).width)
def sysRm (a : SysA) : Rm := rmOf a.frm
/-- The random value of a scalar word under SR: e = 0 (R142). -/
def sysRand (a : SysA) : Nat := cmx a.vseed a.sbase a.vsrn.toNat

/-- A floating result: written zero-extended, its flags ORed when the word executes (R142). -/
def fput (s : State) (d : SReg) (x : Nat × Fl) : State :=
  put (s.setSysA (s.sysA.flag x.2)) d (BitVec.ofNat 64 x.1)

def execFadd (d a b : SReg) (f : BitVec 2) (s : State) : Res :=
  scal s fun s => fput s d (fpAdd (sfmt f) (sysRm s.sysA) (sysRand s.sysA) (fopd s f a) (fopd s f b))
def execFsub (d a b : SReg) (f : BitVec 2) (s : State) : Res :=
  scal s fun s => fput s d (fpSub (sfmt f) (sysRm s.sysA) (sysRand s.sysA) (fopd s f a) (fopd s f b))
def execFmul (d a b : SReg) (f : BitVec 2) (s : State) : Res :=
  scal s fun s => fput s d (fpMul (sfmt f) (sysRm s.sysA) (sysRand s.sysA) (fopd s f a) (fopd s f b))
def execFdiv (d a b : SReg) (f : BitVec 2) (s : State) : Res :=
  scal s fun s => fput s d (fpDiv (sfmt f) (sysRm s.sysA) (sysRand s.sysA) (fopd s f a) (fopd s f b))
def execFsqrt (d a : SReg) (f : BitVec 2) (s : State) : Res :=
  scal s fun s => fput s d (fpSqrt (sfmt f) (sysRm s.sysA) (sysRand s.sysA) (fopd s f a))
def execFma (d a b : SReg) (f : BitVec 2) (s : State) : Res :=
  scal s fun s => fput s d (fpFma (sfmt f) (sysRm s.sysA) (sysRand s.sysA) (fopd s f a) (fopd s f b) (fopd s f d))
def execFmin (d a b : SReg) (f : BitVec 2) (s : State) : Res :=
  scal s fun s => fput s d (fpMinMax false (sfmt f) (sysRm s.sysA) (sysRand s.sysA) (fopd s f a) (fopd s f b))
def execFmax (d a b : SReg) (f : BitVec 2) (s : State) : Res :=
  scal s fun s => fput s d (fpMinMax true (sfmt f) (sysRm s.sysA) (sysRand s.sysA) (fopd s f a) (fopd s f b))

/-- The condition of FCMP: 0 EQ, 1 LT, 2 LE, 3 UN. -/
def fcond (c : BitVec 2) : CmpOp :=
  match c.toNat with
  | 0 => .eq | 1 => .lt | 2 => .le | _ => .un
def execFcmp (d a b : SReg) (f c : BitVec 2) (s : State) : Res :=
  scal s fun s =>
    let (r, fl) := fpCmp (fcond c) (fopd s f a) (fopd s f b)
    fput s d (if r then 1 else 0, fl)

/-- The type of a scalar fmt code, as convert_value takes it. -/
def sty (f : BitVec 2) : Ty :=
  match f.toNat with
  | 0 => .fp 0x78 fmtF32 32 | 1 => .fp 0x80 fmtF64 64 | 2 => .fp 0x70 fmtF16 16 | _ => .fp 0x68 fmtBf16 16
def kty (k : BitVec 2) : Ty :=
  match k.toNat with
  | 0 => .int 0x48 ⟨64, true⟩ | 1 => .int 0x50 ⟨64, false⟩ | 2 => .int 0x38 ⟨32, true⟩ | _ => .int 0x40 ⟨32, false⟩

def execFcvtDS (d a : SReg) (f c : BitVec 2) (s : State) : Res :=
  scal s fun s => fput s d (convertValue false (sty c) (sty f) (sysRm s.sysA) (sysRand s.sysA)
    ((s.rd a).toNat % 2 ^ (sfmt c).width))
def execFmv (d a : SReg) (f : BitVec 2) (s : State) : Res :=
  scal s fun s => put s d (BitVec.ofNat 64 ((s.rd a).toNat % 2 ^ (sfmt f).width))
def execFmvNeg (d a : SReg) (f : BitVec 2) (s : State) : Res :=
  scal s fun s => fput s d (fpSign true (sfmt f) ((s.rd a).toNat % 2 ^ (sfmt f).width))
def execFmvAbs (d a : SReg) (f : BitVec 2) (s : State) : Res :=
  scal s fun s => fput s d (fpSign false (sfmt f) ((s.rd a).toNat % 2 ^ (sfmt f).width))
def execFcvtFK (d a : SReg) (f k : BitVec 2) (s : State) : Res :=
  scal s fun s => fput s d (convertValue false (kty k) (sty f) (sysRm s.sysA) (sysRand s.sysA) (s.rd a).toNat)

/-- A float converted to an integer kind: an i32 result sign-extended, a u32 one zero-extended (R142). -/
def fcvtInt (s : State) (d a : SReg) (f k : BitVec 2) (rm : Rm) : State :=
  let (x, fl) := convertValue false (sty f) (kty k) rm (sysRand s.sysA) ((s.rd a).toNat % 2 ^ (sfmt f).width)
  put (s.setSysA (s.sysA.flag fl)) d (extendElem (kty k) x)
def execFcvtKF (d a : SReg) (f k : BitVec 2) (s : State) : Res :=
  scal s fun s => fcvtInt s d a f k (sysRm s.sysA)
def execFcvtRtz (d a : SReg) (f k : BitVec 2) (s : State) : Res :=
  scal s fun s => fcvtInt s d a f k .rtz

/-! ### Queue words (R125, R127 to R129, R143) -/

/-- A queue entry of a CT. -/
def Ct.queue (c : Ct) (q : BitVec 2) : List Word := c.q[q.toNat]
def Ct.setQueue (c : Ct) (q : BitVec 2) (l : List Word) : Ct := { c with q := c.q.set q.toNat l }

/-- The TRAP a queue raises when its producer has ended (R129). -/
def queueTrap : Trap := { code := 7, qtrap := true }

/-- What an entry sent now carries for its pop: the access stream's stores before it, the frames that its fences have put before it
(R128, R314). -/
def Ct.stamp (c : Ct) : Stamp := ⟨c.sbn, c.frA⟩
def Ct.stampsOf (c : Ct) (q : BitVec 2) : List Stamp := c.qAt[q.toNat]
def Ct.setStamps (c : Ct) (q : BitVec 2) (l : List Stamp) : Ct := { c with qAt := c.qAt.set q.toNat l }
/-- The pop of an entry acquires (R128, R314): the access stream's stores before the send are performed first, the execute stream's
later accesses and frame conversions come after what was before the send. -/
def popped (s : State) (k : Stamp) (f : State → State) : State :=
  s.afterStores (fun e => e.side == .access && decide (e.id < k.upto)) fun s =>
    f { s with ct := { s.ct with frE := max s.ct.frE k.frames } }.acquire

/-- QSEND (R127, R128): the stream does not wait; the pop does. -/
def execQsend (a : SReg) (q : BitVec 2) (s : State) : Res :=
  scal s fun s =>
    if s.who ≠ .access then raise s (trapIll 9)
    else if 16 ≤ (s.ct.queue q).length then s
    else { s with ct := (s.ct.setQueue q (s.ct.queue q ++ [s.rd a])).setStamps q (s.ct.stampsOf q ++ [s.ct.stamp]) }.advance
def execQrecv (d : SReg) (q : BitVec 2) (s : State) : Res :=
  scal s fun s =>
    if s.who ≠ .exec then raise s (trapIll 9)
    else match s.ct.queue q with
      | v :: rest => popped s ((s.ct.stampsOf q).headD ⟨0, 0⟩) fun s =>
        put { s with ct := (s.ct.setQueue q rest).setStamps q ((s.ct.stampsOf q).drop 1) } d v
      | [] => if s.ct.aend then raise s queueTrap else s
def execQbsend (a : SReg) (s : State) : Res :=
  scal s fun s =>
    if s.who ≠ .access then raise s (trapIll 9)
    else if 64 ≤ s.ct.bq.length then s
    else { s with ct := { s.ct with bq := s.ct.bq ++ [s.rd a != 0], bqAt := s.ct.bqAt ++ [s.ct.stamp] } }.advance
def execBq (o : BitVec 10) (s : State) : Res :=
  scal s fun s =>
    if s.who ≠ .exec then raise s (trapIll 9)
    else match s.ct.bq with
      | b :: rest => popped s (s.ct.bqAt.headD ⟨0, 0⟩) fun s =>
        let t := { s with ct := { s.ct with bq := rest, bqAt := s.ct.bqAt.drop 1 } }
        if b then t.jump (target s.pc o) else t.advance
      | [] => if s.ct.aend then raise s queueTrap else s

/-- HINT changes nothing, in a block too (R34). -/
def execHint (i : BitVec 26) (s : State) : Res := let _ := i; .next s.advance

end Sys2Proof.Machine
end

