-- ==== Sys2Proof/Machine/Gang.lean ====
section
/-! DEFINITION. Gangs and launches: the distributors and their leader, placement, the end of a CT, completion, decision, commit and
pruning, saving and resuming (spec chapters 11, 13, 14, 15 and 22: R232, R233, R241, R242, R269, R270, R279 to R289, R347 to R349,
R395). -/
namespace Sys2Proof.Machine

/-! ### The firmware cores that run the distributors (R347 to R349) -/

def leaseAddr : Nat := regBase
def State.fwCore (s : State) (d : Nat) : FwCore := s.pkg.fw.toList.getD d ⟨true, false, 0⟩
/-- A firmware core that runs. -/
def State.fwRuns (s : State) (d : Nat) : Bool := s.pkg.boot.booted && decide (d < 5) && !(s.fwCore d).halted
/-- EXPIRY of a lease word. -/
def expiry (w : Word) : Word := w &&& ~~~7
/-- Whether a core acts as leader now: until 1 ms before its lease expires. -/
def State.leads (s : State) (d : Nat) : Bool :=
  s.fwRuns d && (s.fwCore d).leader && decide (s.time.toNat + 1000000 < (expiry (s.fwCore d).seen).toNat)
/-- Whether some core keeps the launch queues now. -/
def State.led (s : State) : Bool := (List.range 5).any s.leads
/-- Whether the distributor of a compute die is being run. -/
def State.serves (s : State) (die : Nat) : Bool := s.fwRuns (s.pkg.dist.toList.getD die 5)

/-- n words of open values from pa. -/
def State.openWords (s : State) (pa : Nat) : Nat → State
  | 0 => s
  | n + 1 => State.openWords { s with mem := s.mem.writeN pa 8 (Config.freeValue s.draws).toNat, draws := s.draws + 1 } (pa + 8) n
/-- The firmware writes its launch records and gang maps (R349). What they hold stands in the launches of the state; where in the
firmware region each of them lies is not given, so the region's bytes are open values. -/
def State.tables (s : State) : State :=
  if s.pkg.boot.region.2 = 0 then s else s.openWords s.pkg.boot.region.1 (s.pkg.boot.region.2 / 8)

/-! ### Launches -/

/-- The number of gangs of a launch (R288, R289); the predicted number while it is undecided. -/
def Launch.count (l : Launch) : Nat :=
  match l.spec with
  | none => l.d.ngang
  | some p => match p.count with
    | some c => max c p.floor
    | none => p.n

/-- Whether a gang is provisional: from the LSPEC until the decision, and on to the end of its commit (R279). -/
def Launch.isProv (l : Launch) (g : Nat) : Bool :=
  match l.spec with
  | none => false
  | some p => match p.count with
    | none => decide (p.floor ≤ g)
    | some _ => p.toCommit.contains g

/-- The launch state code (R289). -/
def Launch.state (l : Launch) : Nat :=
  if l.fin = 2 ∨ l.closed then 5 else if l.fin = 1 then 4
  else match l.spec with
    | none => 0
    | some p => match p.count with
      | none => 1
      | some _ => if p.toCommit.isEmpty then 3 else 2

/-- The class in which the distributor serves it (R270). -/
def Launch.cls (l : Launch) : Nat := min 3 (l.d.cls + l.age)

/-- For whom the units of the die act in a launch's address space. -/
def Launch.via (l : Launch) : Via := ⟨l.plot, l.d.aspace, l.id, 0, 0, false, false, none⟩
/-- The number of request i that a unit makes beyond main memory for a launch. -/
def Launch.port (id i : Nat) : Nat := 2 ^ 39 + 4 * id + 2 ^ 40 * i

/-- A place in the global window alone. -/
def State.globalPlace (s : State) (v : Via) (a : Word) (n : Nat) (k : Kind) : Except Nat Loc :=
  if canonical a && decide (va55 a + n ≤ clusterBase) then s.resolve v a n k else .error 3

/-- A write of n bytes by a unit through an address space, with a store's permissions, under a request number: a fault, or
device-type memory, makes it fail (R269); it waits for a copy's claim and for an answer from beyond main memory. -/
def State.unitWrite (s : State) (v : Via) (key : Nat) (a : Word) (n x : Nat) : MRes State :=
  if s.walkHeld v a then .stall s else
  match s.globalPlace v a n .store with
  | .error c => .flt c (s.engineWalk v a c)
  | .ok (.phys pa ty) =>
    if 2 ≤ ty then .flt 2 s
    else if s.lineClaimed (lineOf pa) .store then .stall s
    else if pa < mainEnd then .ok (s.unitStore pa n x)
    else match s.dev ⟨key, .write x⟩ pa n with
      | .ok r => .ok r.2
      | .flt c t => .flt c t
      | .stall t => .stall t
  | .ok _ => .flt 3 s
/-- A read likewise; an answer from beyond main memory stays until the whole of what is read has come. -/
def State.unitRead (s : State) (v : Via) (key : Nat) (a : Word) (n : Nat) : MRes (Nat × State) :=
  if s.walkHeld v a then .stall s else
  match s.globalPlace v a n .load with
  | .error c => .flt c (s.engineWalk v a c)
  | .ok (.phys pa ty) =>
    if 2 ≤ ty then .flt 2 s
    else if s.lineClaimed (lineOf pa) .load then .stall s
    else if s.poisoned pa then .flt 4 (s.detectEngine (lineOf pa))
    else if pa < mainEnd then .ok (s.mem.readN pa n, s)
    else match s.ask ⟨key, .read⟩ pa n with
      | .ok x => .ok (x % 2 ^ (8 * n), s)
      | .flt c t => .flt c t
      | .stall t => .stall t
  | .ok _ => .flt 3 s
/-- The answers under the numbers key + 2^40 i have served. -/
def State.forget (s : State) (key : Nat) : State :=
  if s.pkg.reqs.isEmpty then s
  else { s with pkg := { s.pkg with reqs := s.pkg.reqs.filter (fun r => r.key % 2 ^ 40 != key % 2 ^ 40) } }

/-- Every CT of a gang that has not ended. -/
def State.gang (s : State) (launch g : Nat) : List Ct :=
  s.cts.filter (fun c => c.launch = launch && c.gang = g && c.status != .ended)

/-! ### Context areas (R233) -/

def regsImage (x : Vector Word 64) : Nat := (x.toList.drop 1).foldr (fun w acc => w.toNat + 2 ^ 64 * acc) 0 * 2 ^ 64
def boolsImage (l : List Bool) : Nat := l.foldr (fun b acc => (if b then 1 else 0) + 2 * acc) 0
def wordsImage (l : List Word) : Nat := l.foldr (fun w acc => w.toNat + 2 ^ 64 * acc) 0

/-- qstat (R132). -/
def Ct.qstat (c : Ct) : Nat :=
  c.q[0].length + 2 ^ 5 * c.q[1].length + 2 ^ 10 * c.q[2].length + 2 ^ 15 * c.q[3].length + 2 ^ 20 * c.bq.length +
    (if c.aend then 2 ^ 27 else 0)
/-- vconv (R30). -/
def Convoy.word (v : Convoy) : Nat :=
  (if v.opened then 1 else 0) + 2 * v.mem + 8 * v.mat + 16 * v.ring + (if v.solo then 32 else 0)
/-- frm, vround, fflags, vsat, frflags, vseed, vsrn, sbase. -/
def SysA.words (a : SysA) : List Word :=
  [BitVec.ofNat 64 a.frm, BitVec.ofNat 64 a.vround, a.fflags.setWidth 64, boolWord a.vsat, boolWord a.tomb, a.vseed,
    a.vsrn.setWidth 64, a.sbase]

/-- The context engine writes a CT's scalar state to its context area (R219, R233). -/
def State.saveScalar (s : State) (c : Ct) : State :=
  match s.areaOf c with
  | none => s
  | some a =>
    let wmb := c.wmb.toList.foldr (fun o acc => (match o with
      | none => 0
      | some b => b.slot + 2 ^ 64 * b.base.toNat + 2 ^ 128 * b.len.toNat + 2 ^ 192 * b.unit) + 2 ^ 256 * acc) 0
    let parts : List (Nat × Nat × Nat) := [
      (0x000, 8, c.ex.pc.toNat), (0x008, 8, if c.dual then c.ac.pc.toNat else 0), (0x010, 8, c.qstat), (0x018, 8, c.ticket),
      (0x020, 8, (if c.next then 1 else 0) + (if c.blk.isSome then 2 else 0)), (0x028, 24, 0),
      (0x040, 512, regsImage c.ex.x), (0x240, 512, regsImage c.ac.x),
      (0x440, 128, wordsImage c.q[0]), (0x4C0, 128, wordsImage c.q[1]), (0x540, 128, wordsImage c.q[2]),
      (0x5C0, 128, wordsImage c.q[3]), (0x640, 8, boolsImage c.bq), (0x648, 56, 0),
      (0x680, 64, wordsImage c.a.words), (0x6C0, 8, c.conv.word), (0x6C8, 56, 0),
      (0x700, 64, wordsImage c.a.fmt.toList), (0x740, 128, wmb)]
    (parts.foldl (fun (t : State) p => t.writeHome (a + p.1) p.2.1 p.2.2) s).wroteHome [(a, 0x7C0)]

/-- A field written under its register's rules: a reserved value of frm leaves it (R45, R133); `rd` reads 8 bytes of the area. -/
def SysA.load (a : SysA) (rd : Nat → Nat) : SysA :=
  let w := fun i => rd (0x680 + 8 * i)
  { a with
    frm := if w 0 % 8 < 6 then w 0 % 8 else a.frm,
    vround := w 1 % 4,
    fflags := BitVec.ofNat 5 (w 2),
    vsat := w 3 % 2 = 1,
    tomb := w 4 % 2 = 1,
    vseed := BitVec.ofNat 64 (w 5),
    vsrn := BitVec.ofNat 8 (w 6),
    sbase := BitVec.ofNat 64 (w 7),
    fmt := Vector.ofFn fun (i : Fin 8) => BitVec.ofNat 64 (rd (0x700 + 8 * i.val)) &&& 0x03FF0FF1 }

/-- s1 to s63 from an area. -/
def regsLoad (rd : Nat → Nat) (a : Nat) : Vector Word 64 :=
  Vector.ofFn fun (i : Fin 64) => if i.val = 0 then 0 else BitVec.ofNat 64 (rd (a + 8 * i.val))

/-- A stream that resumes: a WAIT that no cause has reached takes 0 where its deadline has passed, else 2 (R146); one that
system software has moved elsewhere is over. -/
def Stream.resume (t : Stream) (pc : Word) (x : Vector Word 64) (switched : Bool) (now : Word) : Stream :=
  { t with
    x := x, pc := pc,
    wait := if pc = t.pc then t.wait.map (fun w =>
      if w.cause = none then { w with cause := if w.due now then some 0 else if switched then some 2 else none } else w)
      else none }

/-- The scalar state read back at RESUME: the fields that system software may change (R233); NEXT moves the stream that
raised past its word (R221). A change of another field has no effect (assumption 104). -/
def Ct.loadScalar (c : Ct) (rd : Nat → Nat) (now : Word) : Ct :=
  let epc := asPc (BitVec.ofNat 64 (rd 0))
  let apc := asPc (BitVec.ofNat 64 (rd 8))
  let acc := c.next && ((c.frec.map (·.acc)).getD false)
  let sw := c.status = .saved
  { c with
    ex := c.ex.resume (if c.next && !acc then epc + 4 else epc) (regsLoad rd 0x040) sw now,
    ac := if c.dual then c.ac.resume (if acc then apc + 4 else apc) (regsLoad rd 0x240) sw now else c.ac,
    a := c.a.load rd, next := false, frec := none }

/-! ### Slots -/

def slotBase (id : BitVec 10) : Nat := (coreOf id * 2 + slotOf id) * scratchSize

/-- The poison of n bytes of lines goes along from a to b, m bytes of which have been written (R318). -/
def State.carryPoison (s : State) (a b n m : Nat) : State :=
  if s.pkg.poison.isEmpty then s
  else
    let src := fun (k : Nat) => lineOf (s.home (a + 128 * k))
    let dst := fun (k : Nat) => lineOf (s.home (b + 128 * k))
    let bad := (List.range (n / 128)).filter (fun k => s.badLine (src k))
    let other := fun (line : Nat) => !(List.range (m / 128)).any (fun k => dst k = line)
    { s with pkg := { s.pkg with
      poison := bad.map (fun k => (dst k, ((s.pkg.poison.find? (fun p => p.1 = src k)).map (·.2)).getD 0)) ++
        s.pkg.poison.filter (fun p => other p.1),
      seen := (bad.filter (fun k => s.pkg.seen.contains (src k))).map dst ++ s.pkg.seen.filter other } }

/-- The context engine writes a CT's scratch image: SS bytes, then zeros (R148, R233). -/
def State.saveScratch (s : State) (c : Ct) : State :=
  match s.areaOf c with
  | none => s
  | some a =>
    let n := s.ssOf (coreOf c.id) (slotOf c.id)
    let img := a + 0x120000
    ((s.clearHome img scratchSize).writeHome img n (s.sram.readN (slotBase c.id) n)).carryPoison (2 ^ 57 + slotBase c.id) img n
      scratchSize
/-- The scratch region of a slot read back from the image at an address. -/
def State.loadScratch (s : State) (img : Nat) (id : BitVec 10) : State :=
  let n := s.ssOf (coreOf id) (slotOf id)
  { s with sram := s.sram.writeN (slotBase id) n (s.readHome img n) }.carryPoison img (2 ^ 57 + slotBase id) n n

/-- The claims of every copy where its lines stand now: a scratch region that moves takes its lines along. -/
def State.reclaim (s : State) : State :=
  let f := fun (c : Ct) => if c.copies.isEmpty then c else { c with copies := c.copies.map fun y =>
    { y with claims := (y.todo ++ y.held).flatMap fun q => claimsOf s c.via q.2 } }
  { s with ct := f s.ct, others := s.others.map f }

/-- The delayed stores of other CTs to the scratch of a CT that leaves its slot: those of its gang follow it to its image, where it
is saved (R148, R222); the others find no CT there (R152). -/
def State.slotLeft (s : State) (c : Ct) (img : Option Nat) : State :=
  let lo := slotBase c.id
  let f := fun (d : Ct) => if d.sbuf.isEmpty then d else { d with sbuf := d.sbuf.map fun e => { e with loc := match e.loc with
    | .sram a =>
      if lo ≤ a ∧ a < lo + scratchSize then
        (match (if d.launch = c.launch ∧ d.gang = c.gang then img else none) with
          | some b => .image (s.home (b + (a - lo))) a
          | none => .hole)
      else e.loc
    | l => l } }
  { s with ct := f s.ct, others := s.others.map f }
/-- A CT takes a slot: the delayed stores to its image follow it there. -/
def State.slotTaken (s : State) (c : Ct) (id : BitVec 10) : State :=
  let lo := slotBase c.id
  let f := fun (d : Ct) => if d.sbuf.isEmpty || decide (d.launch ≠ c.launch ∨ d.gang ≠ c.gang) then d
    else { d with sbuf := d.sbuf.map fun e => { e with loc := match e.loc with
      | .image _ a => if lo ≤ a ∧ a < lo + scratchSize then .sram (slotBase id + (a - lo)) else e.loc
      | l => l } }
  { s with ct := f s.ct, others := s.others.map f }

/-- The CT of a key does something in focus. -/
def State.withKey (s : State) (k : Nat) (f : State → State) : State := s.withCt (fun c => c.key = k && c.status != .ended) f
/-- A delayed store that no SHPUB holds back which still waits for posted vector words (R284). -/
def Ct.ready (c : Ct) (e : SbEnt) : Bool :=
  (needed (fun f => f.id == e.id) c.sbuf).all fun f => match f.ship with | some p => p.vec.isSome | none => true
/-- A CT stands at a boundary at which its delayed stores can be performed (R222), but for those behind such an SHPUB. -/
def State.settled (s : State) (c : Ct) : Bool := s.canFlush c c.ready
/-- The CTs whose accesses go through an address space of a plot. -/
def State.users (s : State) (plot aspace : Nat) : List Ct :=
  s.cts.filter (fun c => c.plot = plot && c.aspace = aspace && c.status != .ended)
/-- Whether every delayed store under the entries of an address space can be performed. -/
def State.usersFree (s : State) (plot aspace : Nat) : Bool := (s.users plot aspace).all fun c => s.canFlush c fun _ => true
/-- They are performed, and no load takes an older value any more: every access under the old entries is complete (R228). -/
def State.flushUsers (s : State) (plot aspace : Nat) : State :=
  ((s.users plot aspace).foldl (fun (t : State) c => t.withKey c.key fun t => t.flush fun _ => true) s).dropLooks

/-- A pre-emption of a CT (R222): its delayed stores are performed, its scalar state and its scratch image go to its context area
(R148, R233), it leaves its slot. The scalar state of a CT that stands stopped is there already, and system software may have
changed it (R219). -/
def State.park (s : State) (c : Ct) : State :=
  let t := s.withKey c.key fun t => t.flush t.ct.ready
  let t := if c.status = .stopped && c.posted then t else t.saveScalar c
  let t := (t.saveScratch c).slotLeft c ((s.areaOf c).map (· + 0x120000))
  ((t.onKey c.key (fun d => { d with status := .saved, early := [] })).reclaim).dropLooks (inCluster (clusterOf c.id))

/-- A WAIT on a scratch line of its own slot moves with the CT. -/
def Stream.moveWait (t : Stream) (old new : BitVec 10) : Stream :=
  { t with wait := t.wait.map (fun w => { w with line := w.line.map (fun n =>
      let lo := 2 ^ 50 + slotBase old / 128
      if lo ≤ n ∧ n < lo + scratchSize / 128 then n - lo + (2 ^ 50 + slotBase new / 128) else n) }) }

/-- The migrating restore (R238). An unfired marker goes with the VIQ that it discards; the counts stay (assumption 106). -/
def Ct.migrate (c : Ct) (lg : Nat) : Ct :=
  let m := c.mark.getD (0, 0)
  { c with
    lg := lg, bins := c.bins.map (fun b => { b with work := b.comm }), vl := 0, vstart := 0, fmask := 0,
    v := Vector.replicate 32 0, p := Vector.replicate 128 0, conv := .clear, viq := [], blk := none,
    feeds := Vector.replicate 16 none, bar := c.bar.map (fun b => { b with pend := none }),
    sbuf := c.sbuf.map (fun e => { e with ship := e.ship.map fun p => { p with vec := some (p.vec.getD 0) } }),
    a := { c.a with sbase := m.2 }, ex := { c.ex with pc := asPc m.1, wait := none } }

/-- A resume elsewhere forces the holding core's context engine to save what it still holds (R232). -/
def State.evict (s : State) (c : Ct) (id : BitVec 10) : State :=
  let t := if c.vown && decide (c.id ≠ id) then saveVector s c else s
  if c.mown && decide (coreOf c.id ≠ coreOf id) then saveMatrix t c else t

/-- A saved or stopped CT resumes in a slot (R221, R232, R242): what another core still holds of it is saved first, its scratch
region is restored, failed copies are taken up again (R265). -/
def State.resumeCt (s : State) (c : Ct) (id : BitVec 10) : State :=
  let s := s.evict c id
  let area := s.areaOf c
  let lg := (s.coreCfg (coreOf id)).lg
  let c0 := if c.id = id then c else c.leaveV
  let c1 := match area with
    | some a => c0.loadScalar (fun o => s.readHome (a + o) 8) s.time
    | none => c0
  let c2 : Ct := { c1.refetch with
    id := id, status := .running, stalled := false,
    ex := c1.ex.moveWait c.id id, ac := c1.ac.moveWait c.id id,
    mown := c.mown && decide (coreOf c.id = coreOf id),
    copies := c1.copies.map Copy.again }
  let c3 := if lg = c.lg then c2 else c2.migrate lg
  let t := s.onKey c.key (fun _ => c3)
  (if c.status = .saved then
    match area with
    | some a => (t.loadScratch (a + 0x120000) id).slotTaken c id
    | none => t
  else t).reclaim.dropLooks (fun d => inCluster (clusterOf c.id) d || inCluster (clusterOf id) d)

/-! ### The end of a CT -/

/-- A CT leaves the machine: its slot, its context area, its requests and copies are free. -/
def State.dropCt (s : State) (c : Ct) : State :=
  let t := (s.dropReqs c (fun _ => true)).releaseFar c.plot (c.copies.flatMap (·.far))
  let t := match t.plotOf c.plot with
    | some p => t.setPlot { p with areas := p.areas.filter (fun i => i != c.ctx) }
    | none => t
  let t := { t with
    ct := if t.ct.key = c.key then { t.ct with status := .ended, copies := [], viq := [], frec := none, sbuf := [], looks := [] } else t.ct,
    others := t.others.filter (fun d => d.key != c.key),
    pkg := { t.pkg with wmPend := t.pkg.wmPend.map fun (p : Pub) => if p.key = c.key then { p with upto := ⟨0, 0, 0⟩ } else p } }
  if c.inSlot then t.slotLeft c none else t

/-- The distributor of a die records a gang complete (R349), unless its firmware core stands halted. -/
def State.recordGang (s : State) (launch g die : Nat) : State :=
  match s.launchOf launch with
  | none => s
  | some l =>
    let l := { l with die := some die }
    if (s.fwCore (s.pkg.dist.toList.getD die 5)).halted then s.setLaunch { l with unrec := l.unrec ++ [(g, die)] }
    else (s.setLaunch { l with halted := l.halted ++ [g] }).tables

/-- The CT in focus ends (R129): with the last CT of its gang, the gang is complete. -/
def State.haltCt (s : State) : State :=
  let c := s.ct
  let t := s.dropCt c
  if (t.gang c.launch c.gang).isEmpty then t.recordGang c.launch c.gang (dieOf c.id) else t

/-! ### Speculation -/

/-- A provisional gang's lines. -/
def State.linesOf (s : State) (launch g : Nat) : List (Nat × BitVec 8) :=
  (s.pkg.prov.filter (fun l => l.launch = launch && l.gang = g)).flatMap (·.cells)
def State.dropLines (s : State) (launch g : Nat) : State :=
  { s with pkg := { s.pkg with prov := s.pkg.prov.filter (fun l => !(l.launch = launch && l.gang = g)) } }

/-- A position holds pages that ALLOCR mapped for a gang while it was provisional. -/
def PoolPos.of (q : PoolPos) (launch g : Nat) : Bool := q.pages.any fun pg => pg.owner = some (launch, g)
/-- A gang is discarded wherever it stands: its CTs, its provisional lines, its ALLOCR pages, position by position (R286,
R292). -/
def State.prune (s : State) (launch g : Nat) : State :=
  let t := (s.gang launch g).foldl (fun t c => t.dropCt c) s
  let t := (t.pkg.pools.filter (fun q => q.of launch g)).foldl (fun t q => t.retract q) t
  t.dropLines launch g

/-- The predictor takes a count (R275): at most four, the oldest dropped. -/
def State.predict (s : State) (i c : Nat) : State :=
  let h := ((s.pkg.pred.find? (fun p => p.1 = i)).map (·.2)).getD []
  let h' := (h ++ [c]).drop (h.length + 1 - 4)
  { s with pkg := { s.pkg with pred := (i, h') :: s.pkg.pred.filter (fun p => p.1 != i) } }

/-- The gangs of a launch that have been dispensed and are not among a list. -/
def natRange (a b : Nat) : List Nat := (List.range (b - a)).map (· + a)

/-- A launch is decided with count c (R285 to R288): surplus gangs are pruned, placed provisional ones are to commit,
waiting ones become firm, missing ones are grafted at the head of its queue. -/
def State.decideLaunch (s : State) (id c : Nat) : State :=
  match s.launchOf id with
  | none => s
  | some l =>
    match l.spec with
    | none => s
    | some p =>
      if p.count.isSome ∨ l.fin ≠ 0 ∨ l.closed then s
      else
        let t := s.predict p.pred c
        let top := max c p.floor
        let placed := fun g => !l.todo.contains g
        let t := ((natRange top p.n).filter placed).foldl (fun t g => t.prune id g) t
        let commit := (natRange p.floor (min c p.n)).filter placed
        let t := t.setLaunch { l with
          todo := l.todo.filter (fun g => decide (g < top)), graft := natRange p.n c,
          halted := l.halted.filter (fun g => decide (g < top)),
          unrec := l.unrec.filter (fun x => decide (x.1 < top)),
          spec := some { p with count := some c, toCommit := commit, parked := p.parked.filter (fun g => decide (g < top)) } }
        (if p.n < c then { t with pkg := { t.pkg with grafts := id :: t.pkg.grafts } } else t).tables

/-- The masked bytes of a gang that lie on another module or in the host's memory are asked for there; whether every answer has
come. -/
def State.askFar (s : State) (id g : Nat) (far : List (Nat × BitVec 8)) : Bool × State :=
  (far.mapIdx fun i c => (Launch.port id (1 + g * 2 ^ 40 + i), c)).foldl (fun (acc : Bool × State) x =>
    match acc.2.ask ⟨x.1, .write x.2.2.toNat⟩ x.2.1 1 with
    | .stall t => (false, t)
    | .flt _ t => (acc.1, t)
    | .ok _ => acc) (true, s)
/-- The masked bytes of a gang stored in main memory: whole lines clear their poison (R318), every other agent sees them. -/
def State.commitBytes (s : State) (id g : Nat) (near : List (Nat × BitVec 8)) : State :=
  let t : State := { s with mem := near.foldl (fun (m : Memory) (c : Nat × BitVec 8) => m.write c.1 c.2) s.mem }.clearLines
    (near.map fun (c : Nat × BitVec 8) => (c.1, 1))
  ((near.map (fun c => lineOf c.1)).eraseDups).foldl (fun t l => t.wakeOthers l id g) t

/-- The commit of one gang (R285): its masked bytes are stored, once no copy claims one of their lines (R261), its CTs go on as
firm ones, its pages serve every agent. -/
def State.commit (s : State) (id g : Nat) : State :=
  match s.launchOf id with
  | none => s
  | some l =>
    match l.spec with
    | none => s
    | some p =>
      if !p.toCommit.contains g then s
      else
        let near := (s.linesOf id g).filter (fun c => decide (c.1 < mainEnd))
        let far := (s.linesOf id g).filter (fun c => decide (mainEnd ≤ c.1))
        if near.any (fun c => s.lineClaimed (lineOf c.1) .store) then s
        else
          let r := s.askFar id g far
          if !r.1 then r.2
          else
            let t := ((r.2.forget (Launch.port id 0)).commitBytes id g near).dropLines id g
            let t := t.setLaunch
              { l with spec := some { p with toCommit := p.toCommit.filter (· != g), committed := p.committed ++ [g] } }
            let firm := fun (c : Ct) => if c.launch = id && c.gang = g then { c with prov := false, looks := [] } else c
            let serve := fun (pg : PoolPage) => if pg.owner = some (id, g) then { pg with owner := none } else pg
            { t with
              ct := firm t.ct, others := t.others.map firm,
              pkg := { t.pkg with pools := t.pkg.pools.map fun q => { q with pages := q.pages.map serve } } }

/-- A CT that waits at a word boundary for its gang's commit (R285). -/
def State.pausing (s : State) : Bool :=
  s.ct.prov && (match (s.launchOf s.ct.launch).bind (·.spec) with
    | some p => p.count.isSome
    | none => false)

/-! ### Completion -/

/-- The completion record (R269): TIME, STATUS, the gangs complete. -/
def recordImage (time : Word) (status gangs : Nat) : Nat := time.toNat + 2 ^ 64 * status + 2 ^ 96 * (gangs % 2 ^ 32)

/-- The status that a launch's end has. -/
def Launch.status (l : Launch) : Nat := if l.indet then 0x11 else if l.aband then 1 else 0

/-- A completion record that could not be written (R269, R358): the log entry, with the die whose distributor ended the launch or
run (R365); a launch that ends without a gang has none, and that field is a free value. -/
def State.logEnd (s : State) (die : Option Nat) (q : Nat) : State :=
  match die with
  | some d => s.logKind 4 d 4 0 0 q
  | none => { s with draws := s.draws + 1 }.logKind 4 ((Config.freeValue s.draws).toNat % 4) 4 0 0 q

/-- The gangs that its record counts: for a launch of which system software has abandoned a gang, those that had halted before
(R269). -/
def Launch.gangs (l : Launch) : Nat := l.counted.getD l.halted.length

/-- A launch ends: its record is written, or the failed write is logged (R269, R289). It waits while the write does. -/
def State.finish (s : State) (l : Launch) : State :=
  let ended := fun (t : State) => (t.setLaunch { l with fin := if l.aband then 2 else 1, todo := [], graft := [] }).tables
  if l.d.done = 0 then ended s
  else match s.unitWrite l.via (Launch.port l.id 0) l.d.done 16 (recordImage s.time l.status l.gangs) with
    | .ok t => ended t
    | .flt _ t => (ended t).logEnd l.die l.id
    | .stall t => t.setLaunch l

/-- Whether every gang of a launch has halted and been committed. -/
def State.ready (s : State) (l : Launch) : Bool :=
  decide (l.fin = 0) && l.todo.isEmpty && l.graft.isEmpty && l.unrec.isEmpty &&
    (l.closed || match l.spec with
      | none => true
      | some p => p.count.isSome && p.toCommit.isEmpty && p.parked.isEmpty) &&
    !(s.cts.any (fun c => c.launch = l.id && c.status != .ended))

/-- System software abandons a launch (R345, R289). -/
def State.abandon (s : State) (l : Launch) : State :=
  let gs := ((s.cts.filter (fun c => c.launch = l.id && c.status != .ended)).map (·.gang)).eraseDups
  let pg := ((s.pkg.prov.filter (fun q => q.launch = l.id)).map (·.gang)).eraseDups
  let t := (gs ++ pg).foldl (fun t g => t.prune l.id g) s
  t.finish { l with
    aband := true, closed := true, todo := [], graft := [], unrec := [],
    halted := (l.halted ++ l.unrec.map (·.1)).filter (fun g => !l.isProv g) }

/-! ### Placement (R241, R270) -/

/-- The cores that a gang takes: rank r on core (c0 + r) mod 8 of the cluster (R241). -/
def gangCore (cl c0 r : Nat) : Nat := cl * 8 + (c0 + r) % 8

/-- Free context areas of a plot. -/
def freeAreas (p : Plot) : Nat := p.ctxCount - p.areas.length
/-- The first free area. -/
def firstArea (used : List Nat) : Nat → Nat
  | 0 => 0
  | k + 1 => let i := used.length - k; if used.contains i then firstArea used k else i

/-- The members' slots of the live gang of a CT that holds its slot, those of members that have halted among them (R241,
R242). -/
def Ct.keeps (c : Ct) (id : BitVec 10) : Bool :=
  c.inSlot && decide (clusterOf c.id = clusterOf id ∧ slotOf c.id = slotOf id ∧
    (coreOf id % 8 + 8 - coreOf c.id % 8 + c.rank) % 8 < c.size)
/-- Whether a gang other than the one named keeps a slot. -/
def State.slotKept (s : State) (id : BitVec 10) (but : Option (Nat × Nat)) : Bool :=
  s.cts.any (fun c => c.keeps id && decide (some (c.launch, c.gang) ≠ but))

/-- Whether a slot of a core can take a CT that needs ss bytes of scratch. -/
def State.slotFits (s : State) (core slot ss : Nat) : Bool :=
  decide ((s.coreCfg core).lg ≠ 0) && !s.slotKept (ctidOf core slot) none && decide (ss ≤ s.ssOf core slot)

/-- Whether the next gang of a launch can be placed there: a core has slots 0 and 1. -/
def State.canPlace (s : State) (l : Launch) (cl c0 slot : Nat) : Bool :=
  match s.plotOf l.plot with
  | none => false
  | some p =>
    decide (cl < 32 ∧ slot < 2) && p.clusters.getLsbD cl && s.serves (cl / 8) && decide (l.d.gsize ≤ freeAreas p) &&
      (List.range l.d.gsize).all (fun r => s.slotFits (gangCore cl c0 r) slot (l.d.scratch * 131072))

/-- How many gangs of n members fit on the cores of a cluster for which f holds: each takes n in a row, around the cluster. -/
def ringRoom (f : Nat → Bool) (n : Nat) : Nat :=
  match (List.range 8).find? (fun k => !f k) with
  | none => 8 / n
  | some k0 => ((List.range 8).foldl (fun (acc : Nat × Nat) i =>
      if f ((k0 + i) % 8) then (if acc.2 + 1 = n then (acc.1 + 1, 0) else (acc.1, acc.2 + 1)) else (acc.1, 0)) (0, 0)).1
/-- How many gangs of a launch the free slots of its plot admit, on the clusters for which f holds. -/
def State.slotRoom (s : State) (l : Launch) (f : Nat → Bool) : Nat :=
  match s.plotOf l.plot with
  | none => 0
  | some p => (((List.range 32).filter (fun cl => p.clusters.getLsbD cl && f cl)).map (fun cl =>
      ringRoom (fun k => s.slotFits (cl * 8 + k) 0 (l.d.scratch * 131072)) l.d.gsize +
      ringRoom (fun k => s.slotFits (cl * 8 + k) 1 (l.d.scratch * 131072)) l.d.gsize)).sum
/-- The gangs that a launch places in one turn: a resident one all of them, any other the next (R270). -/
def Launch.need (l : Launch) : Nat := if l.d.resident then l.todo.length else 1
/-- A launch with gangs still to dispense. -/
def Launch.waits (l : Launch) : Bool := decide (l.fin = 0) && !(l.graft.isEmpty && l.todo.isEmpty)

/-- Whether what a launch places next can be placed at all. -/
def State.placeable (s : State) (l : Launch) : Bool :=
  l.waits && decide (l.need ≤ s.slotRoom l (fun cl => s.serves (cl / 8))) &&
    (match s.plotOf l.plot with
      | some p => decide (l.need * l.d.gsize ≤ freeAreas p)
      | none => false)
/-- Whether no set of free slots admits it (R283). -/
def State.crowded (s : State) (l : Launch) : Bool := l.waits && decide (s.slotRoom l (fun _ => true) < l.need)

/-- The argument registers (R267): s4 to s13. -/
def argRegs (args : Vector Word 10) : Vector Word 64 :=
  Vector.ofFn fun (i : Fin 64) => if 4 ≤ i.val then args.toList.getD (i.val - 4) 0 else 0

/-- A CT as its launch starts it (R124, R267). -/
def Launch.newCt (l : Launch) (g r ctx lg : Nat) (id : BitVec 10) : Ct :=
  { Ct.fresh with
    id := id, lg := lg, status := .running,
    ex := { Stream.zero with pc := asPc l.d.exec, x := argRegs l.args },
    ac := { Stream.zero with pc := asPc l.d.acc, x := argRegs l.args, halted := decide (l.d.acc = 0) },
    dual := decide (l.d.acc ≠ 0), aend := decide (l.d.acc = 0),
    gang := g, size := l.d.gsize, rank := r, launch := l.id, plot := l.plot, aspace := l.d.aspace, ctx := ctx,
    scratch := l.d.scratch * 131072, prov := l.isProv g, vown := false, mown := false }

/-- One rank of a gang placed: an area, a zeroed scratch region, the CT. -/
def State.placeRank (s : State) (l : Launch) (g cl c0 slot r : Nat) : State :=
  let core := gangCore cl c0 r
  let id := ctidOf core slot
  match s.plotOf l.plot with
  | none => s
  | some p =>
    let ctx := firstArea p.areas (p.areas.length + 1)
    let t := s.setPlot { p with areas := ctx :: p.areas }
    ({ t with sram := t.sram.clear (slotBase id) (s.ssOf core slot),
              others := t.others ++ [l.newCt g r ctx (s.coreCfg core).lg id] }.clearLines
      [(2 ^ 57 + slotBase id, s.ssOf core slot)]).dropLooks (inCluster cl)

/-- The die of a plot that placed last; the gangs go to its dies in rotation (R270). -/
def State.lastDie (s : State) (plot : Nat) : Nat := ((s.pkg.lastDie.find? (fun q => q.1 = plot)).map (·.2)).getD 3
/-- Whether the next gang of a launch can be placed on a die. -/
def State.dieFits (s : State) (l : Launch) (d : Nat) : Bool :=
  (List.range 8).any fun k => (List.range 8).any fun c0 => s.canPlace l (8 * d + k) c0 0 || s.canPlace l (8 * d + k) c0 1
/-- Whether it is a die's turn: no die that comes before it in the rotation can place the gang. -/
def State.dieTurn (s : State) (l : Launch) (d : Nat) : Bool :=
  let last := s.lastDie l.plot
  (List.range ((d + 3 - last) % 4)).all fun k => !s.dieFits l ((last + 1 + k) % 4)

/-- The gangs of a launch in the order in which they go: its graft first (R287). -/
def Launch.dispense (l : Launch) : Option (Nat × Launch) :=
  match l.graft, l.todo with
  | g :: rest, _ => some (g, { l with graft := rest })
  | [], g :: rest => some (g, { l with todo := rest })
  | [], [] => none

/-- The next gang of a launch is placed whole; none where it does not fit there or another die's turn comes first. -/
def State.placeNext (s : State) (id cl c0 slot : Nat) : Option State :=
  match s.launchOf id with
  | none => none
  | some l =>
    match l.dispense with
    | none => none
    | some (g, k) =>
      if s.canPlace l cl c0 slot && s.dieTurn l (cl / 8) then
        let t := (List.range l.d.gsize).foldl (fun t r => t.placeRank l g cl c0 slot r) (s.setLaunch { k with last := s.time }).tables
        some { t with pkg := { t.pkg with lastDie := (l.plot, cl / 8) :: t.pkg.lastDie.filter (fun q => q.1 != l.plot) } }
      else none

/-- The head launch of a queue (R270): the latest graft stands before the others (R287). -/
def State.headOf (s : State) (queue : Nat) : Option Launch :=
  match (s.pkg.grafts.filterMap s.launchOf).find? (fun k => k.queue = queue && decide (k.fin = 0) && !k.graft.isEmpty) with
  | some k => some k
  | none => s.pkg.launches.find? (fun k => k.queue = queue && k.waits)
def State.isHead (s : State) (l : Launch) : Bool := (s.headOf l.queue).any (fun k => k.id = l.id)

/-- Whether a head launch of a higher class could be placed (R270). -/
def State.outranked (s : State) (l : Launch) : Bool :=
  s.pkg.launches.any (fun k => decide (l.cls < k.cls) && s.isHead k && s.placeable k)
/-- How far a queue stands from the one of its plot and class that placed last. -/
def State.queueTurn (s : State) (l : Launch) : Nat :=
  (l.queue + 71 - ((s.pkg.lastQueue.find? (fun q => q.1 = l.plot && q.2.1 = l.cls)).map (·.2.2)).getD 71) % 72
/-- Whether another queue of its class has its turn before (R270): round-robin, one gang per turn. -/
def State.outturned (s : State) (l : Launch) : Bool :=
  s.pkg.launches.any (fun k => k.plot = l.plot && decide (k.cls = l.cls ∧ s.queueTurn k < s.queueTurn l) && s.isHead k && s.placeable k)
/-- A launch has had its queue's turn. -/
def State.served (s : State) (l : Launch) : State :=
  { s with pkg := { s.pkg with
    lastQueue := (l.plot, l.cls, l.queue) :: s.pkg.lastQueue.filter (fun q => !(q.1 = l.plot && q.2.1 = l.cls)) } }

/-- The coordinator pre-empts stalled provisional gangs of a plot, the highest gang index first, until a launch fits
(R283). -/
def State.relieve (s : State) (id : Nat) : Nat → State
  | 0 => s
  | fuel + 1 =>
    match s.launchOf id with
    | none => s
    | some l =>
      if !s.crowded l then s
      else
        let decided := fun (c : Ct) => ((s.launchOf c.launch).bind (·.spec)).any (·.count.isSome)
        let cand := s.cts.filter (fun c => c.plot = l.plot && c.prov && c.stalled && c.status = .running && !decided c)
        match cand.foldl (fun (m : Option Ct) c => match m with
            | none => some c
            | some d => if d.gang < c.gang then some c else some d) none with
        | none => s
        | some c =>
          let cs := (s.gang c.launch c.gang).filter Ct.inSlot
          if !cs.all s.settled then s
          else
            let t := cs.foldl (fun t d => t.park d) s
            let t := match t.launchOf c.launch with
              | some k => t.setLaunch { k with spec := k.spec.map (fun p => { p with parked := p.parked ++ [c.gang] }) }
              | none => t
            State.relieve t id fuel

end Sys2Proof.Machine
end

