-- ==== Sys2Proof/Machine/Sys.lean ====
section
/-! DEFINITION. The SYS words and the system registers, the CTRL words, the AMO words and FENCE, and the word that raises ILL
(spec chapters 02, 07, 13 and 22: R35, R131 to R133, R144 to R147, R244 to R250, R341 to R343). -/
namespace Sys2Proof.Machine

/-! ### System registers -/

/-- The groups of the register index (R131, R342). -/
inductive CsrGroup where
  | v | a | i | t | q | p
  deriving DecidableEq, Repr

/-- The group of a csr number that some core assigns. -/
def csrGroup (c : Nat) : Option CsrGroup :=
  if c ≤ 0x005 ∨ (0x008 ≤ c ∧ c ≤ 0x00C) then some .v
  else if 0x010 ≤ c ∧ c ≤ 0x01F then some .a
  else if 0x020 ≤ c ∧ c ≤ 0x027 then some .i
  else if c = 0x030 then some .t
  else if c = 0x040 then some .q
  else if (0x100 ≤ c ∧ c ≤ 0x107) ∨ (0x108 ≤ c ∧ c ≤ 0x10C) then some .p
  else none
/-- The group of a csr number on the core in focus: a compute core has no group P; a system core, which has no vector
side, no queues and no launch, has groups A, T and P. -/
def State.csr (s : State) (c : Nat) : Option CsrGroup :=
  match csrGroup c with
  | some g =>
    if s.isSys then (if g = .a ∨ g = .t ∨ g = .p then some g else none)
    else (if g = .p then none else some g)
  | none => none
/-- The registers that completing words write (R131). -/
def csrResult (c : Nat) : Bool := c = 0x003 || c = 0x004 || c = 0x012 || c = 0x013 || c = 0x014
/-- The level that a privileged register needs (R342). -/
def csrLevel (c : Nat) : Nat := if 0x108 ≤ c then 2 else 1

/-- Set bits of a predicate-sized pattern, n positions. -/
def bitCount (m : PReg) (n : Nat) : Nat := ((List.range n).filter (fun e => m.getLsbD e)).length
/-- fmask as SYSR reads it (R229). -/
def fmaskWord (m : PReg) (n : Nat) : Word :=
  match (List.range n).find? (fun e => m.getLsbD e) with
  | some e => BitVec.ofNat 64 (bitCount m n * 2 ^ 32 + e)
  | none => 0xFFFFFFFF
/-- Eight tag bytes from register r (R22). -/
def tagsWord (v : Vector (BitVec 8) 32) (r : Nat) : Word :=
  (List.range 8).foldl (fun (w : Word) i => w ||| ((v.toList.getD (r + i) 0).setWidth 64 <<< (8 * i))) 0
/-- vtypeg (R22, R193). -/
def Ct.vtypeg (c : Ct) : Word := BitVec.ofNat 64 (c.g % 4 + 2 ^ 8 * c.grantM + 2 ^ 16 * c.grantN + 2 ^ 24 * c.grantK)

/-- xstat or fstat (R342): PIE, IE, PPL, PL. -/
def statWord (t : TrapSet) (pl : Nat) : Word :=
  BitVec.ofNat 64 ((if t.pie then 32 else 0) + (if t.ie then 16 else 0) + 4 * (t.ppl % 4) + pl % 4)
/-- A privileged register of a system core. -/
def SysCore.csr (c : SysCore) (n : Nat) : Word :=
  match n with
  | 0x100 => statWord c.xs c.pl
  | 0x101 => c.xs.vec
  | 0x102 => c.xs.pc
  | 0x103 => c.xs.cause
  | 0x104 => c.xs.info
  | 0x105 => c.xroot
  | 0x106 => c.xtimecmp
  | 0x107 => c.xscratch
  | 0x108 => statWord c.fs c.pl
  | 0x109 => c.fs.vec
  | 0x10A => c.fs.pc
  | 0x10B => c.fs.cause
  | 0x10C => c.fs.info
  | _ => 0

/-- The value of a system register (R131, R132). -/
def State.csrRead (s : State) (c : Nat) : Word :=
  let ct := s.ct
  let a := s.sysA
  match c with
  | 0x000 => BitVec.ofNat 64 ct.vl
  | 0x001 => BitVec.ofNat 64 ct.vlmax
  | 0x002 => BitVec.ofNat 64 ct.vsw
  | 0x003 => BitVec.ofNat 64 ct.vstart
  | 0x004 => fmaskWord ct.fmask (ct.vlen / 2)
  | 0x005 => BitVec.ofNat 64 s.conv.word
  | 0x008 => tagsWord ct.vtype 0
  | 0x009 => tagsWord ct.vtype 8
  | 0x00A => tagsWord ct.vtype 16
  | 0x00B => tagsWord ct.vtype 24
  | 0x00C => ct.vtypeg
  | 0x010 => BitVec.ofNat 64 a.frm
  | 0x011 => BitVec.ofNat 64 a.vround
  | 0x012 => a.fflags.setWidth 64
  | 0x013 => boolWord a.vsat
  | 0x014 => boolWord a.tomb
  | 0x015 => a.vseed
  | 0x016 => a.vsrn.setWidth 64
  | 0x017 => a.sbase
  | 0x020 => ct.id.setWidth 64
  | 0x021 => BitVec.ofNat 64 ct.gang
  | 0x022 => BitVec.ofNat 64 (ct.rank * 256 + ct.size)
  | 0x023 => BitVec.ofNat 64 ct.launch
  | 0x024 => BitVec.ofNat 64 ct.plot
  | 0x025 => BitVec.ofNat 64 (ct.vlen.log2 * 256 + ct.lg)
  | 0x026 => (s.trellisBase &&& ~~~63) ||| BitVec.ofNat 64 s.tsz
  | 0x027 => BitVec.ofNat 64 ((if ct.dual then 2 else 0) + (if s.who = .access then 1 else 0))
  | 0x030 => s.time
  | 0x040 => BitVec.ofNat 64 ct.qstat
  | _ =>
    if 0x018 ≤ c ∧ c ≤ 0x01F then a.fmt.toList.getD (c - 0x018) 0
    else match s.who with
      | .sys n => (s.sysCore n).csr c
      | _ => 0

/-- A trap set with a written status: PIE, IE and PPL; a PPL of 3, a level that never occurs, leaves PPL. -/
def TrapSet.setStat (t : TrapSet) (v : Word) : TrapSet :=
  { t with pie := v.getLsbD 5, ie := v.getLsbD 4, ppl := if v.toNat / 4 % 4 = 3 then t.ppl else v.toNat / 4 % 4 }
/-- A write of a privileged register (R342). -/
def SysCore.setCsr (c : SysCore) (n : Nat) (v : Word) : SysCore :=
  match n with
  | 0x100 => { c with xs := c.xs.setStat v }
  | 0x101 => { c with xs := { c.xs with vec := v &&& ~~~3 } }
  | 0x102 => { c with xs := { c.xs with pc := v } }
  | 0x104 => { c with xs := { c.xs with info := v } }
  | 0x105 => { c with xroot := v }
  | 0x106 => { c with xtimecmp := v }
  | 0x107 => { c with xscratch := v }
  | 0x108 => { c with fs := c.fs.setStat v }
  | 0x109 => { c with fs := { c.fs with vec := v &&& ~~~3 } }
  | 0x10A => { c with fs := { c.fs with pc := v } }
  | 0x10C => { c with fs := { c.fs with info := v } }
  | _ => c

/-- A write of a system register, field by field: RW fields take the value, RO and RSV ones keep theirs (R133). -/
def State.csrWrite (s : State) (c : Nat) (v : Word) : State :=
  let a := s.sysA
  match c with
  | 0x003 => { s with ct := { s.ct with vstart := v.toNat % 2 ^ 32 } }
  | 0x010 => if v.toNat % 8 < 6 then s.setSysA { a with frm := v.toNat % 8 } else s
  | 0x011 => s.setSysA { a with vround := v.toNat % 4 }
  | 0x012 => s.setSysA { a with fflags := v.setWidth 5 }
  | 0x013 => s.setSysA { a with vsat := v.getLsbD 0 }
  | 0x014 => s.setSysA { a with tomb := v.getLsbD 0 }
  | 0x015 => s.setSysA { a with vseed := v }
  | 0x016 => s.setSysA { a with vsrn := v.setWidth 8 }
  | 0x017 => s.setSysA { a with sbase := v }
  | _ =>
    if 0x018 ≤ c ∧ c ≤ 0x01F then s.setSysA { a with fmt := a.fmt.setIfInBounds (c - 0x018) (v &&& 0x03FF0FF1) }
    else match s.who with
      | .sys n => if 0x100 ≤ c then s.setSys n ((s.sysCore n).setCsr c v) else s
      | _ => s

/-- The privilege level of the system core in focus. -/
def State.level (s : State) : Nat :=
  match s.who with
  | .sys n => (s.sysCore n).pl
  | _ => 0

/-- The checks and waits of a SYS word (R131, R133): CSR, PLACE, the level; a result register waits for every posted word,
a group V one for a word that has still to fix vl or vtype (R161, R237). -/
def sysWord (c : Nat) (write : Bool) (s : State) (f : State → State) : Res :=
  .next (match s.csr c with
    | none => raise s (trapIll 8)
    | some g =>
      if s.group.isSome then raise s (trapIll 9)
      else if write && decide (s.who = .access) && (decide (g = .v) || decide (g = .a)) then raise s (trapIll 9)
      else if decide (g = .p) && decide (s.level < csrLevel c) then raise s trapPerm
      else if csrResult c && !s.isSys then afterViq s f
      else if decide (g = .v) && s.ct.viq.any Ventry.fixes then (runHead s).1
      else f s)

def execSysr (d : SReg) (c : BitVec 12) (s : State) : Res :=
  sysWord c.toNat false s fun s => put s d (s.csrRead c.toNat)
def execSysw (a : SReg) (c : BitVec 12) (s : State) : Res :=
  sysWord c.toNat true s fun s => (s.csrWrite c.toNat (s.rd a)).advance
def execSysset (a : SReg) (c : BitVec 12) (s : State) : Res :=
  sysWord c.toNat true s fun s => (s.csrWrite c.toNat (s.csrRead c.toNat ||| s.rd a)).advance
def execSysclr (a : SReg) (c : BitVec 12) (s : State) : Res :=
  sysWord c.toNat true s fun s => (s.csrWrite c.toNat (s.csrRead c.toNat &&& ~~~(s.rd a))).advance

/-! ### CTRL words -/

/-- TRAP (R145): the value of sa is INFO, the resume point the next word. -/
def execTrap (a : SReg) (s : State) : Res :=
  scal s fun s => raise s { code := 7, info := some (s.rd a), next := true }

/-- TRET (R145, R343). -/
def execTret (s : State) : Res :=
  scal s fun s => match s.who with
    | .sys n =>
      let c := s.sysCore n
      if c.pl = 0 then raise s { code := 5, info := some 0 } else s.setSys n (sysReturn c)
    | _ => raise s trapPerm

/-- Writes the WAIT of the stream in focus. -/
def State.setWait (s : State) (w : Option WaitRec) : State := s.setCur { s.cur with wait := w }

/-- A stream that is suspended in a WAIT: it goes on with the cause that has arrived, or stays (R146). -/
def waitTurn (s : State) (w : WaitRec) : State :=
  match w.cause with
  | some c => put (s.setWait none) w.sd (BitVec.ofNat 64 c)
  | none => if w.due s.time then put (s.setWait none) w.sd 0 else s

/-- WAIT (R146). -/
def execWait (d a b : SReg) (s : State) : Res :=
  scal s fun s => match s.cur.wait with
    | some w => waitTurn s w
    | none =>
      let dl : Option Word := if b = 0 then none else some (s.rd b)
      if a = 0 then (if b = 0 then put s d 0 else waitTurn (s.setWait (some ⟨d, none, dl, none⟩)) ⟨d, none, dl, none⟩)
      else if s.walkHeldNow (s.rd a) then s
      else
        match s.place (s.rd a) 1 .load with
        | .error c => raise (s.detectWalk (s.rd a) c) (trapMem c (s.rd a))
        | .ok l =>
          let dev : Bool := match l with | .phys _ ty => 2 ≤ ty | _ => false
          if dev then raise s (trapMem 2 (s.rd a))
          else if s.readsBad s.via l 1 then raise (s.detectAt l) (trapMem 4 (s.rd a))
          else waitTurn (s.setWait (some ⟨d, l.line, dl, none⟩)) ⟨d, l.line, dl, none⟩

/-- YIELD changes no visible state (R147). -/
def execYield (s : State) : Res := scal s fun s => s.advance

/-- Whether an interrupt is pending on a system core; the timer's while time ≥ xtimecmp (R342). -/
def SysCore.pending (c : SysCore) (now : Word) : Bool := c.irq != 0 || decide (c.xtimecmp ≤ now)

/-- HALT of a system core (R343): it waits for a pending interrupt, then goes on. -/
def sysHalt (s : State) (n : Nat) : State :=
  let c := s.sysCore n
  if c.pl = 0 then raise s trapPerm
  else if c.pending s.time then (s.setSys n { c with waiting := false }).advance
  else s.setSys n { c with waiting := true }

/-- HALT (R129, R147, R265, R343): the execute stream's waits for every posted word and every copy, then ends the CT, the stores
of all its sides performed; the access stream's ends that stream. -/
def execHalt (s : State) : Res :=
  scal s fun s => match s.who with
    | .exec => afterViq s fun s => coverCopies s s.ct.ticket fun s => s.afterStores (fun _ => true) State.haltCt
    | .access => { s with ct := { s.ct with aend := true, ac := { s.ct.ac with halted := true } } }
    | .sys n => sysHalt s n

/-- TIME (R147). -/
def execTime (d : SReg) (s : State) : Res := scal s fun s => put s d s.time

/-! ### Atomics, LDA, STL, FENCE -/

/-- The checks of an AMO-major word (R248, R281): a provisional gang waits; then alignment, the place, its memory type,
claims. `f` acts at the place. -/
def amoAt (s : State) (a : Word) (n : Nat) (k : Kind) (f : Loc → State → State) : State :=
  if !s.isSys && s.ct.prov then provWait s
  else if !aligned a n then raise s (trapAlign a)
  else if s.walkHeldNow a then s
  else match s.place a n k with
    | .error c => raise (s.detectWalk a c) (trapMem c a)
    | .ok l =>
      let dev : Bool := match l with | .phys _ ty => 2 ≤ ty | _ => false
      if dev then raise s (trapMem 2 a)
      else if s.claimed s.via l n k || (decide (k = .load) && wmWaitsN s a n) then s
      else if decide (k ≠ .store) && s.readsBad s.via l n then raise (s.detectAt l) (trapMem 4 a)
      else f l s

/-- A scalar atomic (R245, R247): the old value goes to sd, sign-extended; the stream's earlier accesses are performed before it, its
later ones after it. -/
def amo (op : AmoOp) (d a b : SReg) (w : BitVec 1) (s : State) : Res :=
  scal s fun s =>
    let n := 4 + 4 * w.toNat
    let ad := s.rd a
    amoAt s ad n .atomic fun l s => s.ordered fun s =>
      (s.rmw s.port l n op (s.rd b).toNat (s.rd d).toNat (some s.who)).orRaise ad fun (old, t) =>
        put (t.acquireAt t.moment) d (sextBytes n old)

def execAmoadd (d a b : SReg) (w : BitVec 1) (sc : BitVec 3) (s : State) : Res := let _ := sc; amo .add d a b w s
def execAmoswap (d a b : SReg) (w : BitVec 1) (sc : BitVec 3) (s : State) : Res := let _ := sc; amo .swap d a b w s
def execAmoand (d a b : SReg) (w : BitVec 1) (sc : BitVec 3) (s : State) : Res := let _ := sc; amo .and d a b w s
def execAmoor (d a b : SReg) (w : BitVec 1) (sc : BitVec 3) (s : State) : Res := let _ := sc; amo .or d a b w s
def execAmoxor (d a b : SReg) (w : BitVec 1) (sc : BitVec 3) (s : State) : Res := let _ := sc; amo .xor d a b w s
def execAmomin (d a b : SReg) (w : BitVec 1) (sc : BitVec 3) (s : State) : Res := let _ := sc; amo .min d a b w s
def execAmomax (d a b : SReg) (w : BitVec 1) (sc : BitVec 3) (s : State) : Res := let _ := sc; amo .max d a b w s
def execAmominu (d a b : SReg) (w : BitVec 1) (sc : BitVec 3) (s : State) : Res := let _ := sc; amo .minu d a b w s
def execAmomaxu (d a b : SReg) (w : BitVec 1) (sc : BitVec 3) (s : State) : Res := let _ := sc; amo .maxu d a b w s
def execAmocas (d a b : SReg) (w : BitVec 1) (sc : BitVec 3) (s : State) : Res := let _ := sc; amo .cas d a b w s

/-- LDA (R245, R247): the load of n bytes; no later access of the stream is performed before it. -/
def execLda (d a : SReg) (w : BitVec 1) (sc : BitVec 3) (s : State) : Res :=
  let _ := sc
  scal s fun s =>
    let n := 4 + 4 * w.toNat
    let ad := s.rd a
    amoAt s ad n .load fun _ s => (s.loadWith State.readEarly ad n .load).orRaise ad fun (v, m, t) => put (t.acquireAt m) d (sextBytes n v)
/-- STL (R245, R247): the store of the low n bytes of sb, which follows every earlier store of the stream. -/
def execStl (a b : SReg) (w : BitVec 1) (sc : BitVec 3) (s : State) : Res :=
  let _ := sc
  scal s fun s =>
    let n := 4 + 4 * w.toNat
    let ad := s.rd a
    amoAt s ad n .store fun l s => (s.storeTo l n (s.rd b).toNat true).orRaise ad fun t => t.advance

/-- FENCE (R249, R250, R281). VS and ALL wait for the posted vector words and perform the vector side's stores, ALL the stream's too;
SV and VV stall nothing: they go among the posted words, and the vector words behind them follow what was before them. The access
stream admits ALL alone, for its own accesses, and a provisional gang waits at a scope wider than .CL. -/
def execFence (k : BitVec 2) (sc : BitVec 3) (s : State) : Res :=
  scal s fun s =>
    if decide (s.who = .access) && decide (k ≠ 3) then raise s (trapIll 9)
    else if !s.isSys && s.ct.prov && decide (2 ≤ sc.toNat) then provWait s
    else if s.who = .exec then
      if k = 1 then afterViq s fun s => s.afterStores (·.side == .vec) fun s => (s.acquireAt s.moment).advance
      else if k = 3 then afterViq s fun s => s.afterStores (fun e => e.side != .access) fun s => s.acquire.advance
      else (postMark s (.fence (decide (k = 2)) s.ct.sbn)).advance
    else s.ordered fun s => s.acquire.advance

/-! ### The word that raises ILL -/

/-- A word that the opcode map does not admit (R35): ILL with its subcode, whatever the place. -/
def execIllegalWord (w : IWord) (sub : Nat) (s : State) : Res := .next (raise { s with ir := w } (trapIll sub))

end Sys2Proof.Machine
end

