-- ==== Sys2Proof/Machine/Engine.lean ====
section
/-! DEFINITION. The ENGINE words: copies, tile queries, watermarks (spec chapter 14, R261 to R266, R271 to R273). -/
namespace Sys2Proof.Machine

/-- A scalar-class word that only compute cores admit (R115, R341). -/
def coreWord (s : State) (f : State → State) : Res :=
  scal s fun s => if s.isSys then raise s (trapIll 9) else f s

/-- The window of an address (R150): 0 global, 1 cluster, 2 scratch. -/
def windowOf (va : Nat) : Option Nat :=
  if va < clusterBase then some 0
  else if va < clusterBase + clusterSize then some 1
  else if scratchBase ≤ va ∧ va < scratchBase + scratchSize then some 2
  else none

/-- Whether a range of n bytes lies canonical in one window, all of it (R150, R151, R263): no range runs across the middle of the
address space. -/
def rangeOk (a : Word) (n : Nat) : Bool :=
  canonical a && decide (va55 a + n ≤ 2 ^ 55) && (n = 0 || decide (va55 a / 2 ^ 54 = (va55 a + n - 1) / 2 ^ 54)) &&
    (n = 0 || ((windowOf (va55 a)).isSome && windowOf (va55 a) == windowOf (va55 a + n - 1)))

/-- Whether two ranges share a byte. -/
def rangesMeet (a : Word) (m : Nat) (b : Word) (n : Nat) : Bool :=
  decide (0 < m ∧ 0 < n ∧ va55 a < va55 b + n ∧ va55 b < va55 a + m)

/-- Whether a range has a byte in the global window. -/
def isGlobal (a : Word) (n : Nat) : Bool := decide (0 < n ∧ va55 a < clusterBase)
/-- Whether a range holds a place that a provisional CT waits before (R281): device-type memory, a slot outside its gang. -/
def provRange (s : State) (a : Word) (n : Nat) (k : Kind) : Bool :=
  (spans a n).any fun sp => match s.resolve s.ct.via sp.1 sp.2 k with
    | .ok l => provStalls s s.ct.via sp.1 l .load
    | .error _ => false

/-- A further copy word waits while 16 copies are incomplete (R263): the engines go on with them. -/
def withRoom (s : State) (f : State → State) : State :=
  let l := s.ct.copies.filter (fun y => !y.done)
  if 16 ≤ l.length then l.foldl (fun t y => copyStep t s.ct.key y.ticket) s else f s

/-- The pieces of a copy of n bytes: cut where a source or a destination line ends. -/
def bytePieces : Nat → Word → Word → Nat → List Piece
  | 0, _, _, _ => []
  | fuel + 1, src, dst, n =>
    if n = 0 then []
    else
      let k := min n (min (128 - src.toNat % 128) (128 - dst.toNat % 128))
      .bytes src dst k :: bytePieces fuel (src + BitVec.ofNat 64 k) (dst + BitVec.ofNat 64 k) (n - k)

/-- Issues a copy and writes its ticket. -/
def issueTo (s : State) (d : SReg) (ps : List Piece) : State :=
  let (t, n) := copyIssue s ps
  put t d (BitVec.ofNat 64 n)


/-- The lines of another module that a copy claims at their homes, where a route leads there (R379). -/
def State.farLines (s : State) (src dst : Word) (n : Nat) : List (Nat × Bool) :=
  (claimsOf s s.ct.via (.bytes src dst n)).filter fun l => farLine l.1 && (s.portOf (128 * l.1)).isSome
/-- A copy's claims on other modules are registered before its word completes (R379): it waits until each has been answered. One
that is refused fails with the copy's own accesses. -/
def claimFar (s : State) (ls : List (Nat × Bool)) (f : State → State) : State :=
  let r := (ls.mapIdx fun i l => (s.ct.cport (s.ct.ticket + 1) (2 ^ 39 + i), l)).foldl (fun (acc : Bool × State) x =>
    match acc.2.ask ⟨x.1, .claim x.2.2⟩ (128 * x.2.1) 128 with
    | .stall t => (false, t)
    | .flt _ t => (acc.1, t)
    | .ok _ => acc) (true, s)
  if r.1 then f (r.2.dropReqs r.2.ct (fun q => decide (q.key % 4 = 3 ∧ 2 ^ 39 ≤ q.key / 2 ^ 40 % 2 ^ 40))) else r.2

/-- CPY (R263, R379). -/
def execCpy (d a b : SReg) (p : BitVec 2) (sc : BitVec 3) (s : State) : Res :=
  let _ := p
  let _ := sc
  coreWord s fun s =>
    let dst := s.rd a
    let src := s.rd (a + 1)
    let n := (s.rd b).toNat
    if 2 ^ 40 ≤ n then raise s (trapEngine 0x0A)
    else if !rangeOk dst n then raise s (trapMem 3 dst)
    else if !rangeOk src n then raise s (trapMem 3 src)
    else if rangesMeet dst n src n then raise s (trapEngine 0x09)
    else if s.ct.prov && (isGlobal dst n || provRange s dst n .store || provRange s src n .load) then provWait s
    else withRoom s fun s => claimFar s (s.farLines src dst n) fun s => s.ordered fun s =>
      issueTo s.acquire d (bytePieces (n / 64 + 3) src dst n)

/-- Bytes of a record as a number. -/
def recBytes (v off n : Nat) : Nat := v / 2 ^ (8 * off) % 2 ^ (8 * n)

/-- The record of CPYQ, where every field is in range (R264). -/
def quantOf (fmt : Vector Word 8) (v : Nat) : Option Quant :=
  let q : Quant := {
    src := BitVec.ofNat 64 (recBytes v 0x00 8), dst := BitVec.ofNat 64 (recBytes v 0x08 8),
    scl := BitVec.ofNat 64 (recBytes v 0x10 8), trec := BitVec.ofNat 64 (recBytes v 0x18 8), n := recBytes v 0x20 8,
    stag := recBytes v 0x28 1, dtag := BitVec.ofNat 8 (recBytes v 0x29 1), logb := recBytes v 0x2A 1,
    rot := recBytes v 0x2B 1, fmt := fmt.toList.getD (recBytes v 0x29 1 % 8) 0 }
  let code := q.dtag.toNat / 8
  if recBytes v 0x2C 20 = 0 ∧ q.n < 2 ^ 40 ∧ (q.stag = 13 ∨ q.stag = 14 ∨ q.stag = 15) ∧
      (code = 3 ∨ code = 2 ∨ code = 11 ∨ code = 12) ∧ q.logb < 8 ∧ q.rot < 4 ∧ q.rotN ≤ q.b ∧ q.n % q.b = 0 ∧
      q.src.toNat % ((stagFmt q.stag).width / 8) = 0 ∧ q.scl.toNat % 4 = 0 ∧ q.trec.toNat % 64 = 0 ∧ q.ty.isSome = true then
    some q
  else none

/-- The ranges of a CPYQ: source, elements, scales, record. -/
def Quant.ranges (q : Quant) : List (Word × Nat) :=
  let w := (q.ty.map Ty.w).getD 8
  [(q.src, q.n * ((stagFmt q.stag).width / 8)), (q.dst, q.n * w / 8), (q.scl, 4 * (q.n / q.b)),
    (q.trec, if q.trec = 0 then 0 else 64)]

/-- Whether some pair of ranges shares a byte. -/
def anyMeet : List (Word × Nat) → Bool
  | [] => false
  | r :: rest => rest.any (fun q => rangesMeet r.1 r.2 q.1 q.2) || anyMeet rest

/-- Whether a byte of a range lies on another module (R379), whatever the page admits. -/
def remoteRange (s : State) (a : Word) (n : Nat) : Bool :=
  (s.linesAt s.ct.via [(a, n)]).any farLine

/-- CPYQ (R264, R379). -/
def execCpyq (d a : SReg) (sc : BitVec 3) (s : State) : Res :=
  let _ := sc
  coreWord s fun s =>
    let ad := s.rd a
    if !aligned ad 64 then raise s (trapAlign ad)
    else (s.memLoad ad 64 .load).orRaise ad fun (v, s) =>
      match quantOf s.ct.a.fmt v with
      | none => raise s (trapEngine 0x0B)
      | some q =>
        if q.ranges.any (fun r => remoteRange s r.1 r.2) then raise s (trapEngine 0x0B)
        else if anyMeet q.ranges then raise s (trapEngine 0x09)
        else if s.ct.prov && ((q.ranges.drop 1).any (fun r => isGlobal r.1 r.2 || provRange s r.1 r.2 .store) ||
            provRange s q.src (q.n * ((stagFmt q.stag).width / 8)) .load) then provWait s
        else withRoom s fun s => s.ordered fun s =>
          issueTo s.acquire d ((List.range (q.n / q.b)).map (fun i => Piece.block q i) ++
            (if q.trec = 0 then [] else [Piece.record q]))

/-- CPYW (R265). -/
def execCpyw (d a : SReg) (s : State) : Res :=
  coreWord s fun s =>
    let n := (s.rd a).toNat
    if s.ct.ticket < n then raise s (trapEngine 0x0F) else coverCopies s n fun s => put s.acquire d 1

/-- CPYW.P (R265). -/
def execCpywP (d a : SReg) (s : State) : Res :=
  coreWord s fun s =>
    let n := (s.rd a).toNat
    if s.ct.ticket < n then raise s (trapEngine 0x0F)
    else
      let l := s.ct.pendingUpTo n
      match l.filterMap copyTrap with
      | t :: _ => raise s t
      | [] => put (if l.isEmpty then s.acquire else s) d (boolWord l.isEmpty)

/-- WDQRY (R271). -/
def execWdqry (a : SReg) (s : State) : Res :=
  coreWord s fun s =>
    let ad := s.rd a
    if !aligned ad 8 then raise s (trapAlign ad)
    else if !(canonical ad && windowOf (va55 ad) == some 2) then raise s (trapMem 3 ad)
    else if s.walkHeldNow ad then s
    else match s.place ad 8 .store with
      | .error c => raise (s.detectWalk ad c) (trapMem c ad)
      | .ok _ =>
        if s.ct.prov then provWait s
        else if 4 ≤ s.ct.wdq.length then s
        else (s.memStore ad 8 0xFFFFFFFFFFFFFFFE).orRaise ad fun t =>
          let new := fun (e : SbEnt) => t.mine e && decide (s.ct.sbn ≤ e.id)
          if !t.canFlush t.ct new then s
          else (let t := t.flush new; { t with ct := { t.ct with wdq := t.ct.wdq ++ [ad] } }.advance)

/-- Whether a watermark slot lies in the plot's range (R272). -/
def slotOk (s : State) (n : Nat) : Bool :=
  match s.plotOf s.ct.plot with
  | some p => decide (p.wmFirst ≤ n ∧ n < p.wmFirst + p.wmCount)
  | none => false

/-- WMBIND (R273). -/
def execWmbind (a b : SReg) (k : BitVec 2) (s : State) : Res :=
  coreWord s fun s =>
    let slot := s.rd a
    let base := s.rd (a + 1)
    let len := s.rd (a + 2)
    let u := s.rd b
    if len = 0 then { s with ct := { s.ct with wmb := s.ct.wmb.set k.toNat none } }.advance
    else if !slotOk s slot.toNat then raise s (trapEngine 0x0D)
    else if u = 0 ∨ 65536 < u.toNat then raise s (trapEngine 0x0E)
    else { s with ct := { s.ct with wmb := s.ct.wmb.set k.toNat (some ⟨slot.toNat, base, len, u.toNat⟩) } }.advance

/-- WMPUB (R272): the stream does not stall. In the execute stream the publication goes behind the vector words posted before
it. It becomes visible with WATERMARK_VISIBLE, once the accesses before it are performed. -/
def execWmpub (a b : SReg) (s : State) : Res :=
  coreWord s fun s =>
    let slot := (s.rd a).toNat
    let v := s.rd b
    if !slotOk s slot then raise s (trapEngine 0x0D)
    else if s.ct.prov then provWait s
    else if s.who = .exec then (postMark s (.pub slot v s.ct.sbn)).advance
    else (s.published slot v ⟨0, s.ct.sbn, 0⟩).advance

end Sys2Proof.Machine
end

