-- ==== Sys2Proof/Machine/Launching.lean ====
section
/-! DEFINITION. The LAUNCH words: launches, speculative launches, counts, pools (spec chapters 14 and 15: R267, R268, R274 to R278,
R284, R290 to R294). -/
namespace Sys2Proof.Machine

/-- n bytes read by the stream in focus over any number of lines. -/
def readLines : List (Word × Nat) → State → MRes (Nat × State) × Word
  | [], s => (.ok (0, s), 0)
  | sp :: rest, s =>
    match s.memLoad sp.1 sp.2 .load with
    | .flt c t => (.flt c t, sp.1)
    | .stall t => (.stall t, sp.1)
    | .ok (v, t) =>
      match readLines rest t with
      | (.ok (w, u), a) => (.ok (v + 2 ^ (8 * sp.2) * w, u), a)
      | r => r
/-- What follows such a read. -/
def withBytes (s : State) (a : Word) (n : Nat) (f : Nat → State → State) : State :=
  match readLines (spans a n) s with
  | (.ok (v, t), _) => f v t
  | (.flt c t, b) => raise t (trapMem c b)
  | (.stall t, _) => t

/-! ### Descriptors -/

/-- The fields of a descriptor (R267, R274). -/
def descOf (v : Nat) : Desc where
  resident := recBytes v 0x02 2 % 2 = 1
  cls := recBytes v 0x02 2 / 4 % 4
  gsize := recBytes v 0x04 1
  scratch := recBytes v 0x05 1
  aspace := recBytes v 0x06 2
  ngang := recBytes v 0x08 4
  exec := BitVec.ofNat 64 (recBytes v 0x10 8)
  acc := BitVec.ofNat 64 (recBytes v 0x18 8)
  argsAt := BitVec.ofNat 64 (recBytes v 0x20 8)
  done := BitVec.ofNat 64 (recBytes v 0x28 8)
  gx := recBytes v 0x30 2
  gy := recBytes v 0x32 2
  pred := recBytes v 0x40 2
  hint := recBytes v 0x44 4
  floor := recBytes v 0x48 4
  ceil := recBytes v 0x4C 4
  shape := BitVec.ofNat 64 (recBytes v 0x50 8)

/-- The fields that LAUNCH and LSPEC share lie in their ranges (R267). -/
def descOk (v : Nat) : Bool :=
  let d := descOf v
  decide (recBytes v 0x00 2 = 1 ∧ recBytes v 0x02 2 &&& 0xFFF2 = 0 ∧ 1 ≤ d.gsize ∧ d.gsize ≤ 8 ∧ d.scratch ≤ 16 ∧
    d.aspace ≤ 255 ∧ recBytes v 0x0C 4 = 0 ∧ d.done.toNat % 16 = 0 ∧ recBytes v 0x34 12 = 0 ∧ recBytes v 0x58 40 = 0)
/-- What LAUNCH asks besides. -/
def plainOk (v : Nat) : Bool :=
  let d := descOf v
  decide (1 ≤ d.ngang ∧ d.ngang ≤ 2 ^ 24 ∧ recBytes v 0x40 24 = 0)
/-- What LSPEC asks besides (R274). -/
def specOk (p : Plot) (v : Nat) : Bool :=
  let d := descOf v
  decide (d.ngang = 0 ∧ d.resident = false ∧ recBytes v 0x42 2 = 0 ∧ d.pred < 1024 ∧ p.predFirst ≤ d.pred ∧
    d.pred < p.predFirst + p.predCount ∧ d.floor ≤ d.ceil ∧ 1 ≤ d.ceil ∧ d.ceil ≤ 2 ^ 24 ∧ d.shape ≠ 0 ∧ d.shape.toNat % 16 = 0)

/-- The plot's CT slots that can hold a CT of a launch (R268). -/
def State.slotCount (s : State) (p : Plot) (ss : Nat) : Nat :=
  ((List.range 256).map (fun core =>
    if p.clusters.getLsbD (core / 8) && decide ((s.coreCfg core).lg ≠ 0) then
      (if ss ≤ s.ssOf core 0 then 1 else 0) + (if ss ≤ s.ssOf core 1 then 1 else 0)
    else 0)).sum
/-- A resident launch fits the plot (R268). -/
def State.residentOk (s : State) (p : Plot) (d : Desc) : Bool :=
  !d.resident || decide (d.ngang * d.gsize ≤ s.slotCount p (d.scratch * 131072))
/-- The address space of a launch, where its root exists (R224). -/
def State.aspaceOf (s : State) (p : Plot) (own : Nat) (d : Desc) : Option Nat :=
  let a := if d.aspace = 0 then own else d.aspace
  if s.rootOf p a = 0 then none else some a

/-- The argument block as registers. -/
def argsOf (v : Nat) : Vector Word 10 := Vector.ofFn fun (i : Fin 10) => BitVec.ofNat 64 (recBytes v (8 * i.val) 8)

/-- Launches of a queue with gangs still to dispense (R268). -/
def State.queued (s : State) (q : Nat) : Nat := (s.pkg.launches.filter (fun l => l.queue = q && l.waits)).length

/-- A launch enters its queue; the id it gets. -/
def State.enqueue (s : State) (plot queue : Nat) (d : Desc) (args : Vector Word 10) (sp : Option Spec) (n : Nat)
    (run : Option (Nat × Nat)) : State × Nat :=
  let id := s.pkg.nextLaunch
  let l : Launch := {
    id := id, plot := plot, queue := queue, d := d, args := args, spec := sp, todo := List.range n, graft := [], halted := [],
    unrec := [], tile := 0, age := 0, last := s.time, fin := 0, indet := false, aband := false, counted := none, closed := false,
    die := none, run := run }
  ({ s with pkg := { s.pkg with launches := s.pkg.launches ++ [l], nextLaunch := id + 1 } }.tables, id)

/-- A speculative launch (R276, R278): decided at once where its record is published, else bound to it. -/
def State.enqueueSpec (s : State) (plot queue : Nat) (d : Desc) (args : Vector Word 10) (pa count state : Nat)
    (run : Option (Nat × Nat)) : State × Nat :=
  if state = 1 then
    let n := max count d.floor
    (s.predict d.pred count).enqueue plot queue d args (some ⟨d.pred, d.floor, d.ceil, pa, n, some count, [], [], []⟩) n run
  else
    let h := ((s.pkg.pred.find? (fun p => p.1 = d.pred)).map (·.2)).getD []
    let pred := if h.isEmpty then d.hint else h.foldl max 0
    let n := min (max pred d.floor) d.ceil
    s.enqueue plot queue d args (some ⟨d.pred, d.floor, d.ceil, pa, n, none, [], [], []⟩) n run

/-- Reads and checks the descriptor at sa, then the arguments (R268, R278): `f` gets them. -/
def withDesc (s : State) (a : Word) (ok : Plot → Nat → Bool) (f : Plot → Desc → Vector Word 10 → State → State) : State :=
  if s.ct.prov then provWait s
  else if !aligned a 128 then raise s (trapAlign a)
  else withBytes s a 128 fun v s =>
    match s.plotOf s.ct.plot with
    | none => raise s (trapEngine 0x0C)
    | some p =>
      let d := descOf v
      let root := s.rootLine p (if d.aspace = 0 then s.ct.aspace else d.aspace)
      if s.lineClaimed root .load then s else
      match s.aspaceOf p s.ct.aspace d with
      | none => raise (s.meets root) (trapEngine 0x0C)
      | some asp =>
        if !(descOk v && ok p v && s.residentOk p d) then raise s (trapEngine 0x0C)
        else
          let d := { d with aspace := asp }
          if d.argsAt = 0 then f p d (Vector.replicate 10 0) s
          else withBytes s d.argsAt 80 fun w s => f p d (argsOf w) s

/-- LAUNCH (R268). -/
def execLaunch (d a : SReg) (s : State) : Res :=
  coreWord s fun s => withDesc s (s.rd a) (fun _ v => plainOk v) fun p desc args s =>
    if 256 ≤ s.queued p.id then s
    else
      let (t, id) := s.enqueue p.id p.id desc args none desc.ngang none
      put t d (BitVec.ofNat 64 id)

/-- The shape record's place (R277, R278): global memory of no device type. -/
def withShape (s : State) (a : Word) (k : Kind) (f : Nat → State → State) : State :=
  if !(canonical a && decide (va55 a + 16 ≤ clusterBase)) then raise s (trapMem 3 a)
  else if s.walkHeldNow a then s
  else match s.place a 16 k with
    | .error c => raise (s.detectWalk a c) (trapMem c a)
    | .ok (.phys pa ty) => if 2 ≤ ty then raise s (trapMem 2 a) else f pa s
    | .ok _ => raise s (trapMem 3 a)

/-- LSPEC (R278). A provisional gang's waits before its descriptor is looked at, while its SHPUB, WMPUB, WDQRY and CPY raise their
refusals first (assumption 32). -/
def execLspec (d a : SReg) (s : State) : Res :=
  coreWord s fun s => withDesc s (s.rd a) specOk fun p desc args s =>
    withShape s desc.shape .load fun pa s =>
      if 256 ≤ s.queued p.id then s
      else withBytes s desc.shape 16 fun v s =>
        let count := v % 2 ^ 64
        let state := v / 2 ^ 64 % 2 ^ 32
        if 1 < state ∨ 2 ^ 24 < count then raise s (trapEngine 0x10)
        else
          let (t, id) := s.enqueueSpec p.id p.id desc args pa count state none
          put t.acquire d (BitVec.ofNat 64 id)

/-- Every launch bound to a shape record is decided with its count, in the order of binding (R284). -/
def State.decideAt (s : State) (pa c : Nat) : State :=
  (s.pkg.launches.filter (fun l => l.fin = 0 && (match l.spec with
    | some p => p.count.isNone && decide (p.shape = pa)
    | none => false))).foldl (fun t l => t.decideLaunch l.id c) s
/-- The decisions of the records written. -/
def State.decides (s : State) : State :=
  match s.pkg.shPend with
  | [] => s
  | l => l.foldl (fun t q => t.decideAt q.1 q.2) { s with pkg := { s.pkg with shPend := [] } }

/-- An SHPUB's write among the stores of the CT in focus: it follows every older store of its side, and in the execute stream waits
for the vector words posted before it. -/
def State.shipped (s : State) (d : Side) (l : Loc) (c : Nat) : State :=
  let id := s.ct.sbn
  let vec := if d = .exec && !s.ct.viq.isEmpty then none else some (if d = .exec then id else 0)
  let t := s.delay ⟨d, id, true, some ⟨vec, c⟩, l, 12, none, c + 2 ^ 64⟩
  if vec.isNone then postMark t (.ship id) else t
/-- The SHPUB writes of the CT in focus that nothing holds back any more are performed, and decide; while its stores are delayed they
are, as the others are. -/
def State.shipDue (s : State) : State :=
  if s.ct.lag then s
  else
    (s.ct.sbuf.filter (·.ship.isSome)).foldl (fun t e => t.afterStores (fun f => f.id == e.id) id) s

/-- SHPUB (R284): the record's write, then the decision of every launch bound to it, in the order of binding. The stream does not
stall. -/
def execShpub (a b : SReg) (s : State) : Res :=
  coreWord s fun s =>
    let ad := s.rd a
    let c := (s.rd b).toNat
    if !aligned ad 16 then raise s (trapAlign ad)
    else if 2 ^ 24 < c then raise s (trapEngine 0x10)
    else withShape s ad .store fun pa s =>
      if s.ct.prov then provWait s
      else if pa < mainEnd then (s.shipped (s.side.getD .exec) (.phys pa 0) c).shipDue.decides.advance
      else
        -- a record on another module: the word waits for its home's answer
        let go := fun (s : State) => s.afterStores (fun e => s.mine e || (decide (s.who = .exec) && e.side == .vec)) fun s =>
          (s.memStore ad 12 (c + 2 ^ 64)).orRaise ad fun t => (t.decideAt pa c).advance
        if s.who = .exec then afterViq s go else go s

/-! ### Pools -/

/-- A pool record (R290): base, quota, positions, owner; whether its fields lie in range. -/
def poolOk (v : Nat) : Bool :=
  let base := BitVec.ofNat 64 (recBytes v 0 8)
  decide (base.toNat % pageSize = 0 ∧ 1 ≤ recBytes v 8 4 ∧ recBytes v 8 4 ≤ 65535 ∧ 1 ≤ recBytes v 12 4 ∧
    recBytes v 12 4 ≤ 2 ^ 27 ∧ recBytes v 24 40 = 0 ∧ va55 base < clusterBase) && canonical base

/-- The pages held at a position of a pool. -/
def State.poolAt (s : State) (plot aspace : Nat) (pool : Word) (q : Nat) : Option PoolPos :=
  s.pkg.pools.find? (fun p => p.plot = plot && p.aspace = aspace && p.pool = pool && p.pos = q)

/-- n pages mapped from an address on for a gang while it is provisional, each with a zeroed frame; none where the reserve runs
out (R291). -/
def State.mapPages (s : State) (plot aspace : Nat) (va : Word) (bits : Nat) (owner : Option (Nat × Nat)) :
    Nat → Option (State × List PoolPage)
  | 0 => some (s, [])
  | n + 1 =>
    match s.takeFrame plot with
    | none => none
    | some (t, f) =>
      match t.mapPage plot aspace (va55 va) f bits with
      | none => none
      | some u =>
        match State.mapPages u plot aspace (va + 0x10000) bits owner n with
        | none => none
        | some (w, l) => some (w, ⟨va, f, owner⟩ :: l)

/-- ALLOCR (R291). -/
def execAllocr (d a b : SReg) (s : State) : Res :=
  coreWord s fun s =>
    let ad := s.rd a
    let n := (s.rd b).toNat
    if !aligned ad 64 then raise s (trapAlign ad)
    else (s.memLoad ad 64 .load).orRaise ad fun (v, s) =>
      let q := s.ct.gang * s.ct.size + s.ct.rank
      let held := s.poolAt s.ct.plot s.ct.aspace ad q
      let k := (held.map (·.pages.length)).getD 0
      let quota := recBytes v 8 4
      if !(poolOk v && decide (recBytes v 16 8 = s.ct.launch ∧ q < recBytes v 12 4 ∧ n ≠ 0 ∧ k + n ≤ quota)) then
        raise s (trapEngine 0x11)
      else
        let va := BitVec.ofNat 64 (recBytes v 0 8) + BitVec.ofNat 64 ((q * quota + k) * pageSize)
        let owner := if s.ct.prov then some (s.ct.launch, s.ct.gang) else none
        match s.mapPages s.ct.plot s.ct.aspace va (leafBits true true false) owner n with
        | none => s
        | some (t, pages) =>
          let p : PoolPos := match held with
            | some p => { p with pages := p.pages ++ pages }
            | none => ⟨s.ct.plot, s.ct.aspace, ad, q, pages⟩
          put { t with pkg := { t.pkg with pools := p :: t.pkg.pools.filter (fun r =>
            !(r.plot = p.plot && r.aspace = p.aspace && r.pool = p.pool && r.pos = p.pos)) } } d va

/-- RETRACT (R292). -/
def execRetract (a b : SReg) (s : State) : Res :=
  coreWord s fun s =>
    let ad := s.rd a
    let q := (s.rd b).toNat
    if !aligned ad 64 then raise s (trapAlign ad)
    else (s.memLoad ad 64 .load).orRaise ad fun (v, s) =>
      if recBytes v 12 4 ≤ q then raise s (trapEngine 0x11)
      else if s.ct.prov && decide (q ≠ s.ct.gang * s.ct.size + s.ct.rank) then provWait s
      else
        let go := fun (s : State) =>
          coverCopies s s.ct.ticket fun s =>
            s.afterStores (fun e => s.mine e || (decide (s.who = .exec) && e.side == .vec)) fun s =>
              if !s.usersFree s.ct.plot s.ct.aspace then s else
              let s := s.flushUsers s.ct.plot s.ct.aspace
              (match s.poolAt s.ct.plot s.ct.aspace ad q with
                | some p => s.retract p
                | none => s).advance
        if s.who = .exec then afterViq s go else go s

/-! ### LSTAT (R293) -/

/-- What a selector returns of a speculative launch. -/
def lstatWord (l : Launch) (p : Spec) (sel : Nat) : Word :=
  match sel with
  | 0 => BitVec.ofNat 64 (l.state + (match p.count with
      | some c => (if p.n < c then 64 else 0) + (if c < p.floor then 128 else 0)
      | none => 0))
  | 1 => BitVec.ofNat 64 p.n
  | 2 => (match p.count with | some c => BitVec.ofNat 64 c | none => -1)
  | 3 => (match p.count with | some c => BitVec.ofNat 64 (p.n - max c p.floor) | none => 0)
  | 4 => (match p.count with | some c => BitVec.ofNat 64 (c - p.n) | none => 0)
  | _ => (match p.count with | some _ => BitVec.ofNat 64 p.committed.length | none => 0)

/-- GRAFT for a launch that its LSPEC decided is never set: its n is its own gang count. -/
def execLstat (d a : SReg) (l : BitVec 5) (s : State) : Res :=
  coreWord s fun s =>
    let id := (s.rd a).toNat
    let mine := s.pkg.launches.filter (fun k => k.plot = s.ct.plot && k.spec.isSome)
    let v : Word := match mine.find? (fun k => k.id = id) with
      | some k => match k.spec with
        | some p => if 4096 ≤ (mine.filter (fun j => decide (id < j.id))).length then 0 else lstatWord k p l.toNat
        | none => 0
      | none => 0
    put (if v.toNat % 8 = 3 ∨ v.toNat % 8 = 4 then (if l = 0 then s.acquire else s) else s) d v

end Sys2Proof.Machine
end

