-- ==== Sys2Proof/Machine/Trellis.lean ====
section
/-! DEFINITION. The trellis as its coordinator keeps it: publishes, FRSET, FRDEL, FRFENCE, FRLOOK, the sweep and the repair
(spec chapter 18, R305 to R315, R319). -/
namespace Sys2Proof.Machine

/-- The physical address of node i of a plot. -/
def nodeAddr (p : Plot) (i : Nat) : Nat := p.trellis + 64 * i
/-- Node i as the coordinator reads it; none in a poisoned line (R319). -/
def State.coordNode (s : State) (p : Plot) (i : Nat) : Option Node :=
  let a := s.home (nodeAddr p i)
  if s.poisoned a then none else some (s.mem.readN a 64)

/-- The cores whose chain caches receive a plot's invalidations: awake ones of its clusters (R307, R317). -/
def State.awake (s : State) (p : Plot) : List Nat :=
  (List.range 256).filter (fun c => p.clusters.getLsbD (c / 8) && decide ((s.coreCfg c).lg ≠ 0) &&
    !s.pkg.asleep.any (fun x => x.1 = c))

/-- The trellis sequence numbers of the plots. -/
def State.stamps (s : State) : List (Nat × Nat) := s.pkg.plots.map fun p => (p.id, p.seq)
/-- The coordinator brings a core out of retention before a plot's number can have advanced 2^31 times since its stamp: it flushes
its chain cache and sleeps again (R317). -/
def State.wakeInTime (s : State) (p : Plot) : State :=
  let late := fun (x : Nat × List (Nat × Nat)) => x.2.any fun q => q.1 = p.id && decide (2 ^ 31 ≤ (p.seq + 2 ^ 32 - q.2) % 2 ^ 32 + 1)
  let cores := (s.pkg.asleep.filter late).map (·.1)
  if cores.isEmpty then s
  else { s with pkg := { s.pkg with
    chain := s.pkg.chain.filter (fun e => !cores.contains e.core),
    asleep := s.pkg.asleep.map fun x => if late x then (x.1, s.stamps) else x } }

/-- A publish counts (R307): the plot's sequence number rises, the invalidations are sent. -/
def State.countPublish (s : State) (p : Plot) (i : Nat) : State :=
  let t := (s.wakeInTime p).setPlot { p with seq := (p.seq + 1) % 2 ^ 32 }
  let acks := t.pkg.acks.filter (fun x => !(x.2.1 = p.id && x.2.2 = i)) ++ (s.awake p).map fun c => (c, p.id, i)
  { t with pkg := { t.pkg with acks := acks, pubs := t.pkg.pubs + 1 } }
/-- The node that the k-th next publish replaces stays one that a conversion may read (R100, R333), unless its line is poisoned. -/
def State.keepNode (s : State) (p : Plot) (i k : Nat) : State :=
  match s.coordNode p i with
  | some n => { s with pkg := { s.pkg with oldNodes := s.pkg.oldNodes ++ [⟨p.id, i, n, s.pkg.pubs + k⟩] } }
  | none => s
/-- A publish: the node's 64 bytes as one write, then the count. -/
def State.publish (s : State) (p : Plot) (i : Nat) (n : Node) : State :=
  ((s.keepNode p i 1).unitStore (s.home (nodeAddr p i)) 64 n).countPublish p i

/-- The node built from its fields (R305). -/
def mkNode (parent flags : Nat) (pose : Nat) (version succ gen : Nat) : Node :=
  parent % 2 ^ 32 + 2 ^ 32 * flags + 2 ^ 64 * pose + 2 ^ (8 * 0x30) * (version % 2 ^ 32) + 2 ^ (8 * 0x34) * succ +
    2 ^ (8 * 0x38) * gen
/-- Translation and rotation, bytes 0x08 to 0x2F. -/
def Node.pose (n : Node) : Nat := recField n 8 40

/-- The value of a refusal (R309). -/
def refusal (r : Nat) : Word := 0x8000000000000000 + BitVec.ofNat 64 r

/-- Whether the chain from a tag reaches slot i (R310); the index of the node of it that is poisoned, where one is. -/
def State.reaches (s : State) (p : Plot) (i : Nat) : Nat → Nat → Except Nat Bool
  | 0, _ => .ok false
  | fuel + 1, tag =>
    let j := tag / 256
    if 2 ^ p.tsz ≤ j then .ok false
    else match s.coordNode p j with
      | none => .error j
      | some n =>
        if !(n.valid || n.tomb) || decide (n.gen ≠ tag % 256) then .ok false
        else if j = i then .ok true
        else if n.root then .ok false
        else State.reaches s p i fuel n.parent

/-- What an operation of the coordinator on a node comes to: a result with the state, or a poisoned node. -/
inductive FrRes where
  | done (v : Word) (s : State)
  | ecc (i : Nat)

/-- The parent check of FRSET (R310): the depth, a refusal, or a poisoned node. -/
def State.frParent (s : State) (p : Plot) (i : Nat) (img : Node) : Except FrRes Nat :=
  if img.root then (if img.parent = 0 then .ok 0 else .error (.done (refusal 6) s))
  else
    let j := img.parent / 256
    if j = 0 ∨ j = i ∨ 2 ^ p.tsz ≤ j then .error (.done (refusal 6) s)
    else match s.coordNode p j with
      | none => .error (.ecc j)
      | some q =>
        if !q.valid ∨ q.gen ≠ img.parent % 256 then .error (.done (refusal 6) s)
        else if q.depth = 63 then .error (.done (refusal 7) s)
        else match s.reaches p i (2 ^ p.tsz) img.parent with
          | .error k => .error (.ecc k)
          | .ok true => .error (.done (refusal 8) s)
          | .ok false => .ok (q.depth + 1)

/-- FRSET's operation on slot tag with an image (R310). -/
def State.frSet (s : State) (p : Plot) (tag : Nat) (img : Node) : FrRes :=
  let i := tag / 256
  let g := tag % 256
  if i = 0 ∨ 2 ^ p.tsz ≤ i then .done (refusal 1) s
  else match s.coordNode p i with
    | none => .ecc i
    | some n =>
      if n.retired then .done (refusal 2) s
      else if g ≠ n.gen then .done (refusal 3) s
      else if img.flags &&& 0xFFFFC0F5 ≠ 0 then .done (refusal 5) s
      else match s.frParent p i img with
        | .error r => r
        | .ok depth =>
          if !n.valid ∧ g = 254 then
            .done (refusal 9) (s.publish p i (mkNode 0 16 0 (n.version + 1) 0 255))
          else
            let gen := if n.valid then g else g + 1
            .done (BitVec.ofNat 64 (i * 256 + gen))
              (s.publish p i (mkNode img.parent (1 + (img.flags &&& 0xA) + 256 * depth) img.pose (n.version + 1) 0 gen))

/-- FRDEL's operation (R311). -/
def State.frDel (s : State) (p : Plot) (tag succ : Nat) : FrRes :=
  let i := tag / 256
  let g := tag % 256
  if i = 0 ∨ 2 ^ p.tsz ≤ i then .done (refusal 1) s
  else match s.coordNode p i with
    | none => .ecc i
    | some n =>
      if n.retired then .done (refusal 2) s
      else if g ≠ n.gen then .done (refusal 3) s
      else if !n.valid then .done (refusal 4) s
      else .done 0 (s.publish p i (mkNode n.parent ((n.flags &&& 0xFFFFFFFE) ||| 4) n.pose (n.version + 1) (succ % 2 ^ 32) g))

/-- Whether a copy still claims the line of node i, or has still to write a node of the table (R261). -/
def State.nodesBusy (s : State) (p : Plot) (i : Nat) : Bool :=
  s.anyClaim && (s.lineClaimed (lineOf (s.home (nodeAddr p i))) .store ||
      (List.range (2 ^ p.tsz)).any (fun j => s.lineClaimed (lineOf (s.home (nodeAddr p j))) .load))

/-- A poisoned node stops the CT with ECC at the node's address in trellisbase (R319). -/
def frEcc (s : State) (p : Plot) (i : Nat) : State :=
  raise (s.detectEcc (lineOf (s.home (nodeAddr p i)))) (trapMem 4 (p.trellisVa + BitVec.ofNat 64 (64 * i)))

/-- The low 32 bits of a register: a tag. -/
def tagOf (w : Word) : Nat := w.toNat % 2 ^ 32

/-- The end of FRSET and FRDEL. -/
def frEnd (s : State) (p : Plot) (d : SReg) (r : FrRes) : State :=
  match r with
  | .done v t => put t d v
  | .ecc i => frEcc s p i

/-- A trellis word of a CT whose plot stands. -/
def withPlot (s : State) (f : Plot → State) : State :=
  match s.plotOf s.ct.plot with
  | some p => f p
  | none => raise s (trapMem 1 (s.trellisBase))

/-- FRSET (R307, R309, R310, R319): its publish is a write of its stream's scalar side. -/
def execFrset (d a b : SReg) (s : State) : Res :=
  coreWord s fun s => withPlot s fun p =>
    if s.ct.prov then provWait s
    else if !aligned (s.rd b) 64 then raise s (trapAlign (s.rd b))
    else if s.nodesBusy p (tagOf (s.rd a) / 256) then s
    else (s.memLoad (s.rd b) 64 .load).orRaise (s.rd b) fun (v, t) => frEnd t p d (t.frSet p (tagOf (t.rd a)) v)

/-- FRDEL (R307, R311, R319). -/
def execFrdel (d a b : SReg) (s : State) : Res :=
  coreWord s fun s => withPlot s fun p =>
    if s.ct.prov then provWait s
    else if s.nodesBusy p (tagOf (s.rd a) / 256) then s
    else frEnd s p d (s.frDel p (tagOf (s.rd a)) (tagOf (s.rd b)))

/-- FRFENCE (R314): it stalls while a chain cache of the plot has still to acknowledge an invalidation. No conversion of a vector word
that the execute stream decodes later reads a node that a publish before it has replaced; one in the access stream says so of the
words behind the pop of an entry sent later. -/
def execFrfence (s : State) : Res :=
  coreWord s fun s =>
    if s.pkg.acks.any (fun x => x.2.1 = s.ct.plot) then s
    else if s.who = .exec then { s with ct := { s.ct with frE := s.pkg.pubs } }.advance
    else { s with ct := { s.ct with frA := s.pkg.pubs } }.advance

/-- The status of FRLOOK (R315). -/
def lookStatus (n : Node) (g : Nat) : Nat :=
  if n.retired then 3 else if n.gen ≠ g then 2 else if n.valid then 0 else if n.tomb then 1 else 4

/-- FRLOOK (R315, R319). -/
def execFrlook (d a b : SReg) (s : State) : Res :=
  coreWord s fun s => withPlot s fun p =>
    let tag := tagOf (s.rd a)
    let i := tag / 256
    if !aligned (s.rd b) 64 then raise s (trapAlign (s.rd b))
    else if i = 0 ∨ 2 ^ p.tsz ≤ i then put s d 5
    else if s.lineClaimed (lineOf (s.home (nodeAddr p i))) .load then s
    else match s.coordNode p i with
      | none => frEcc s p i
      | some n => (s.memStore (s.rd b) 64 n).orRaise (s.rd b) fun t => put t d (BitVec.ofNat 64 (lookStatus n (tag % 256)))

/-! ### The sweep and the repair (R313, R319) -/

/-- The sweep of a slot: the STATUS, and the state. -/
def State.sweepSlot (s : State) (p : Plot) (i : Nat) : Nat × State :=
  if i = 0 ∨ 2 ^ p.tsz ≤ i then (2, s)
  else match s.coordNode p i with
    | none => (4, s.meets (lineOf (s.home (nodeAddr p i))))
    | some n => if !n.retired then (4, s) else (1, s.publish p i (mkNode 0 0 0 (n.version + 1) 0 0))

/-- The repair of the line that holds slot i, from a 128-byte image: both nodes, one full-line write, two publishes. -/
def State.repairLine (s : State) (p : Plot) (i img : Nat) : State :=
  let j := i / 2 * 2
  let a := s.home (nodeAddr p j)
  let t := (((s.keepNode p j 1).keepNode p (j + 1) 2).unitStore a 128 img).clearLines [(a, 128)]
  let t := t.countPublish p j
  match t.plotOf p.id with
  | some q => t.countPublish q (j + 1)
  | none => t

end Sys2Proof.Machine
end

