-- ==== Sys2Proof/Machine/Units.lean ====
section
/-! DEFINITION. The events of the units within a die: the vector side and the context engine, the page walkers, fault records, waits,
the directory, the migration engine, ECC and scrub, the log and registers, copies, tiles, watermarks, gangs (spec chapters 06 to 19:
R69, R146, R191, R219, R220, R228, R231, R253, R257, R260, R263, R270, R271, R273, R285, R307, R317 to R319, R365). -/
namespace Sys2Proof.Machine

/-! ### The vector side of a CT, wherever the turn is -/

/-- The CT whose vector state a slot's registers hold (R231): one that runs, or one that has been saved since and whose VIQ keeps
draining. -/
def Ct.owns (c : Ct) (id : BitVec 10) : Bool := c.vown && c.id = id && (c.status = .running || c.status = .saved)
/-- An operation of the vector side of a slot: its owner's, else that of the CT that holds the slot. -/
def State.onVector (s : State) (id : BitVec 10) (f : State → State) : State :=
  if s.cts.any (fun c => c.owns id) then s.withCt (fun c => c.owns id) f else s.onFocus id f

/-- What a word of a saved CT's VIQ has changed of its scalar state goes to its context area: the flags that it sets, and the scalars
that it has written (R52, R231, R233). -/
def State.syncArea (s : State) (rs : List SReg) (f : SysA) : State :=
  match s.areaOf s.ct with
  | none => s
  | some a =>
    let or8 := fun (t : State) (o x : Nat) => t.writeHome (a + o) 8 (t.readHome (a + o) 8 ||| x)
    let t := or8 (or8 (or8 s 0x690 f.fflags.toNat) 0x698 (boolWord f.vsat).toNat) 0x6A0 (boolWord f.tomb).toNat
    rs.foldl (fun t r => t.writeHome (a + 0x040 + 8 * r.toNat) 8 (s.ct.ex.rd r).toNat) t

/-- The flags of a stream's registers cleared, or joined to others. -/
def SysA.noFlags (a : SysA) : SysA := { a with fflags := 0, vsat := false, tomb := false }
def SysA.join (a b : SysA) : SysA :=
  { a with fflags := a.fflags ||| b.fflags, vsat := a.vsat || b.vsat, tomb := a.tomb || b.tomb }
/-- The oldest posted word of a CT completes: of one that runs, or of one that has left the slot and still owns the registers that the
word needs (R231), unless it stands stopped by a fault, which keeps the VIQ as it is (R215). A word of a saved CT that would stop it
stays as it is, and stops it once it runs again. -/
def State.vectorStep (s : State) : State :=
  match s.ct.status, s.ct.viq with
  | .running, _ => (runHead (holdVector s)).1
  | .saved, x :: _ =>
    if s.ct.frec.isSome || (x.op.usesMatrix && !s.ct.mown) then s
    else
      let t := (runHead { s with ct := { s.ct with a := s.ct.a.noFlags } }).1
      if t.ct.status ≠ .saved then s
      else
        let f := t.ct.a
        let t := { t with ct := { t.ct with a := f.join s.ct.a } }
        if t.ct.viq.length = s.ct.viq.length then t else t.syncArea x.op.sregs f
  | _, _ => s

/-- UOP_ISSUE (R69, R191): from here on the vector side lags behind decode, or keeps up with it. When micro-operations issue
changes no result. -/
def execUopIssue (ctid : BitVec 10) (busy : Bool) (s : State) : Res :=
  .next (s.onVector ctid fun s =>
    let t := { s with ct := { s.ct with hold := busy } }
    if t.ct.status = .running then settle (holdVector t) else t)

/-- UOP_COMPLETE (R52, R69, R204, R231): the oldest posted word of a slot's owner completes. -/
def execUopComplete (ctid : BitVec 10) (s : State) : Res := .next (s.onVector ctid State.vectorStep)

/-- Whether the oldest posted word is the marker of a barrier. -/
def Ct.atMarker (c : Ct) (n : BitVec 2) : Bool :=
  match c.viq with
  | x :: _ => (match x.op with | .barMark k _ => decide (k = n.toNat) | _ => false)
  | [] => false

/-- BARRIER_MARKER_FIRE (R253): the marker of a barrier fires, every access before it performed. -/
def execBarrierMarkerFire (ctid : BitVec 10) (n : BitVec 2) (s : State) : Res :=
  .next (s.onVector ctid fun s => (if s.ct.atMarker n then s.vectorStep else s).tryFire n.toNat)

/-- OWNERSHIP_TRAP (R231): the context engine moves the vector or the matrix state; no result changes. -/
def execOwnershipTrap (ctid : BitVec 10) (matrix : Bool) (s : State) : Res :=
  .next (s.onFocus ctid fun s => if matrix then takeMatrix s else takeVector s)

/-- A translation enters the slice of a core that owns its address, which holds 512 of them; which one goes when it is full
changes no result, and the model lets the oldest go (R153). -/
def State.fillTlb (s : State) (e : TlbEnt) : State :=
  let here := fun (t : TlbEnt) => t.core = e.core && t.slice = e.slice
  { s with pkg := { s.pkg with tlb := e :: (s.pkg.tlb.filter here).take 511 ++ s.pkg.tlb.filter (fun t => !here t) } }

/-- PAGE_WALK (R153, R225, R228): a walker fills the translation of one 64 KiB page for a core, unless its slice holds it. -/
def execPageWalk (w : Walker) (aspace : Nat) (va : Word) (s : State) : Res :=
  let a := va55 va
  let core := w.core
  let plot := w.plot
  .next (if !canonical va || decide (256 ≤ core ∨ clusterBase ≤ a ∨ (s.coreCfg core).lg = 0) || (s.tlbAt core plot aspace a).isSome then s
    else match s.walkFor plot aspace a with
      | .error c => if c = 4 then (match (s.walkOf plot aspace a).find? s.badLine with | some n => s.detectEngine n | none => s) else s
      | .ok leaf => s.fillTlb ⟨core, ownerGroup (s.coreCfg core).lg a, plot, aspace, a / 2 ^ 16, BitVec.ofNat 64 leaf⟩)

/-! ### Fault records -/

/-- FLAGS of a fault record (R217). -/
def FaultRec.flags (r : FaultRec) : Nat :=
  (if r.next then 256 else 0) + (if r.more then 128 else 0) + 32 * r.npg + (if r.blk then 16 else 0) + (if r.vec then 8 else 0) +
    (if r.qtrap then 4 else 0) + (if r.acc then 2 else 0)
/-- The 64 bytes of a fault record (R217). -/
def FaultRec.image (r : FaultRec) : Nat :=
  let pg := fun (i : Nat) => (r.pages.getD i 0).toNat
  r.time.toNat + 2 ^ 64 * r.code + 2 ^ 72 * r.sub + 2 ^ 80 * r.flags + 2 ^ 96 * (r.ctid.toNat + 2 ^ 10 * r.ctx) +
    2 ^ 128 * r.pc.toNat + 2 ^ 192 * r.word.toNat + 2 ^ 224 * r.index.toNat + 2 ^ 256 * r.info.toNat +
    2 ^ 320 * pg 0 + 2 ^ 384 * pg 1 + 2 ^ 448 * pg 2

/-- The slot of the next record in a plot's supervisor queue, and the header's address; none where the queue is full or its
header breaks R220. -/
def State.supSlot (s : State) (p : Plot) : Option (Nat × Nat) :=
  let h := s.home p.supq
  let f := fun (o n : Nat) => s.mem.readN (h + o) n
  let base := f 0 8
  let n := 2 ^ f 8 4
  let head := f 0x10 8
  let tail := f 0x18 8
  if s.poisoned h then none
  else if base % 64 = 0 ∧ f 8 4 ≤ 20 ∧ f 12 4 = 0 ∧ f 0x20 32 = 0 ∧ tail ≤ head ∧ head - tail < n then
    some (s.home (base + 64 * (head % n)), h)
  else none

/-- FAULT_RECORD_POST (R219, R220, R282): the CT's scalar state goes to its context area, the record to the supervisor queue
of its plot, with interrupt 0x80. The record of a provisional gang is held, and so is one that finds no room. -/
def execFaultRecordPost (ctid : BitVec 10) (s : State) : Res :=
  .next (match s.cts.find? (fun c => c.id = ctid && c.status != .ended && c.frec.isSome && !c.posted) with
    | none => s
    | some c =>
      match c.frec, s.plotOf c.plot with
      | some r, some p =>
        if c.prov || !s.settled c then s
        else match s.supSlot p with
          | none => s.meets (lineOf (s.home p.supq))
          | some (a, h) =>
            if s.lineClaimed (lineOf a) .store || s.lineClaimed (lineOf h) .store then s
            else
              let t := ((s.withKey c.key fun t => t.flush t.ct.ready).saveScalar c).unitStore a 64 r.image
              let t := t.unitStore (h + 0x10) 8 (t.mem.readN (h + 0x10) 8 + 1)
              (t.onKey c.key (fun d => { d with posted := true })).interrupt 0
      | _, _ => s)

/-! ### Waits -/

/-- WAIT_LINE_WRITE (R146): a write by another agent to a line becomes visible. -/
def execWaitLineWrite (line : Nat) (s : State) : Res := .next (s.wakeLine line none)

/-- A stream whose deadline has come. -/
def Stream.expire (t : Stream) (now : Word) : Stream :=
  match t.wait with
  | some w => if w.cause = none ∧ w.due now then { t with wait := some { w with cause := some 0 } } else t
  | none => t

/-- WAIT_DEADLINE (R146): device time reaches the deadline of a stream's WAIT, and wakes it with cause 0. -/
def execWaitDeadline (ctid : BitVec 10) (acc : Bool) (s : State) : Res :=
  .next (match s.ctOf ctid with
    | none => s
    | some c =>
      match ((if acc then c.ac else c.ex).wait).bind (·.deadline) with
      | none => s
      | some d =>
        let now := if s.time ≤ d then d else s.time
        { s with time := now }.onCt ctid fun c =>
          if acc then { c with ac := c.ac.expire now } else { c with ex := c.ex.expire now })

/-! ### The directory (R257) -/

/-- Caching agents: L1s, copy engines, the caches of the system cores. -/
def agents : Nat := 320

/-- The entry of a line; no copy at first. -/
def State.dirLine (s : State) (line : Nat) : DirLine :=
  (s.pkg.dir.find? (fun d => d.line = line)).getD ⟨line, none, []⟩
/-- Puts an entry back; a line without copies has none. -/
def State.setDir (s : State) (d : DirLine) : State :=
  let rest := s.pkg.dir.filter (fun e => e.line != d.line)
  { s with pkg := { s.pkg with dir := if d.owner.isNone && d.sharers.isEmpty then rest else d :: rest } }

/-- A read request: S, or E where there is no other copy; an owner in M or E goes to O. -/
def DirLine.read (d : DirLine) (a : Nat) : DirLine :=
  match d.owner with
  | none => if d.sharers.isEmpty then { d with owner := some (a, 1) } else { d with sharers := a :: d.sharers.filter (· != a) }
  | some (o, _) =>
    if o = a then d else { d with owner := some (o, 2), sharers := a :: d.sharers.filter (· != a) }
/-- A write or an upgrade: every other copy goes, the asker is owner in M. -/
def DirLine.write (d : DirLine) (a : Nat) : DirLine := { d with owner := some (a, 0), sharers := [] }
/-- The eviction of an owner's M or O line: the owner goes. -/
def DirLine.evict (d : DirLine) (a : Nat) : DirLine :=
  match d.owner with
  | some (o, st) => if o = a && st != 1 then { d with owner := none } else d
  | none => d

def execDirectoryRead (agent line : Nat) (s : State) : Res :=
  .next (if agent < agents then s.setDir ((s.dirLine line).read agent) else s)
def execDirectoryWrite (agent line : Nat) (s : State) : Res :=
  .next (if agent < agents then s.setDir ((s.dirLine line).write agent) else s)
def execDirectoryEviction (agent line : Nat) (s : State) : Res :=
  .next (if agent < agents then s.setDir ((s.dirLine line).evict agent) else s)
/-- A wide-scope atomic recalls every copy to the slice; its word performs it there. -/
def execDirectoryAtomic (line : Nat) (s : State) : Res := .next (s.setDir ⟨line, none, []⟩)

/-! ### Migration (R260) -/

/-- A WAIT on a line that has moved. -/
def Stream.follow (t : Stream) (a b : Nat) : Stream :=
  { t with wait := t.wait.map (fun w => if w.line = some a then { w with line := some b } else w) }
/-- A physical address within a line that has moved. -/
def movedPa (a b pa : Nat) : Nat := if pa / 128 = a then b * 128 + pa % 128 else pa
/-- The place of a delayed store. -/
def Loc.follow (l : Loc) (a b : Nat) : Loc :=
  match l with
  | .phys pa ty => .phys (movedPa a b pa) ty
  | .image pa x => .image (movedPa a b pa) x
  | l => l
/-- Provisional bytes. -/
def ProvLines.follow (l : ProvLines) (a b : Nat) : ProvLines := { l with cells := l.cells.map fun c => (movedPa a b c.1, c.2) }
/-- An earlier moment of the memory. -/
def Look.follow (k : Look) (a b : Nat) : Look :=
  let mem : Memory := k.mem
  { k with
    mem := mem.copyFrom mem (128 * a) (128 * b) 128, prov := k.prov.map (·.follow a b),
    claims := k.claims.map fun n => if n = a then b else n, hit := k.hit.map fun h => (movedPa a b h.1, h.2) }
/-- What a CT keeps by line. -/
def Ct.follow (c : Ct) (a b : Nat) : Ct :=
  { c with
    ex := c.ex.follow a b, ac := c.ac.follow a b,
    copies := c.copies.map (fun y => { y with claims := y.claims.map (fun z => if z.1 = a then (b, z.2) else z) }),
    sbuf := c.sbuf.map (fun e => { e with loc := e.loc.follow a b }), looks := c.looks.map (·.follow a b) }

/-- A line moves with all that is kept of it: its bytes, its poison, waits, claims, delayed stores, provisional bytes, bound and
written shape records. -/
def State.moveLine (s : State) (a b : Nat) : State :=
  let bad := s.pkg.poison.filter (fun p => p.1 = a)
  let poison := s.pkg.poison.filter (fun p => p.1 != a && p.1 != b) ++ bad.map (fun p => (b, p.2))
  let seen := if s.pkg.seen.contains a then b :: s.pkg.seen.filter (· != b) else s.pkg.seen.filter (· != b)
  let prov := s.pkg.prov.map (·.follow a b)
  let far := s.pkg.farClaims.map (fun f => if f.line = a then { f with line := b } else f)
  let launches := s.pkg.launches.map (fun l => { l with spec := l.spec.map (fun p => { p with shape := movedPa a b p.shape }) })
  { s with
    mem := s.mem.copyFrom s.mem (128 * a) (128 * b) 128,
    ct := s.ct.follow a b, others := s.others.map (fun c => c.follow a b),
    sys := s.sys.map (fun c => { c with st := c.st.follow a b }),
    pkg := { s.pkg with
      poison := poison, seen := seen, prov := prov, launches := launches, farClaims := far,
      shPend := s.pkg.shPend.map (fun q => (movedPa a b q.1, q.2)), dir := s.pkg.dir.filter (fun d => d.line != a) } }

/-- The ring entry of a command (R345). -/
def ringBase : Nat := 0x400000010000
def ringAt (k : Nat) : Nat := ringBase + 64 * (k % 256)

/-- A command is done (R345): its STATUS is written, the ring goes on, interrupt 0x82 is raised. -/
def State.complete (s : State) (status : Nat) : State :=
  let t := s.unitStore (ringAt s.pkg.ring + 2) 2 status
  { t with pkg := { t.pkg with ring := t.pkg.ring + 1 } }.interrupt 2

/-- MIGRATION_LINE_COPY: the next line of the page in transit is copied and released; with the last one the command is done. -/
def execMigrationLineCopy (s : State) : Res :=
  .next (match s.pkg.migr.find? (fun m => decide (m.lines < 512)) with
    | none => s
    | some m =>
      let t := s.moveLine (m.old / 128 + m.lines) (m.new / 128 + m.lines)
      let done := decide (m.lines = 511)
      let m' := { m with lines := m.lines + 1, entry := if done then none else m.entry }
      let t := { t with pkg := { t.pkg with migr := t.pkg.migr.map (fun x => if x = m then m' else x) } }
      if done && m.entry.isSome then t.complete 1 else t)

/-! ### ECC -/

/-- A line becomes poisoned: it is found anew. -/
def State.poison (s : State) (line src : Nat) : State :=
  if s.badLine line then s
  else { s with pkg := { s.pkg with poison := (line, src) :: s.pkg.poison, seen := s.pkg.seen.filter (· != line) } }

/-- The unit that an error is found in: 0 a stack, 1 an L2 slice, 2 the SRAM of a core. -/
def errorUnit (u : ErrorUnit) : Nat := u.src.toNat + if u.src = 2 then 4 * u.core else 0
/-- ECC_POISON (R318): an uncorrectable error poisons its line; the first access that meets it posts the record (R319). -/
def execEccPoison (line : Nat) (u : ErrorUnit) (s : State) : Res :=
  .next (if u.src.toNat < 3 ∧ u.core < 256 then s.poison line (errorUnit u) else s)

/-- The counter of a unit that corrects an error of a line (R318): of a stack, stack * 16 + channel; of the L2,
2^16 + die * 32 + slice; of the core SRAM, 2^17 + core. -/
def State.counterOf (s : State) (line : Nat) (src : BitVec 2) (core : Nat) : Nat :=
  let pa := 128 * line
  if src = 2 then 2 ^ 17 + core
  else if src = 1 then 2 ^ 16 + pa / (4 * stackBytes) * 32 + sliceOf pa
  else pa / stackBytes * 16 + channelOf (s.pkg.chan.getD (pa / stackBytes) 0) (pa % stackBytes)
/-- A corrected error is counted. -/
def State.countError (s : State) (u : Nat) : State :=
  let n := ((s.pkg.corrected.find? (fun p => p.1 = u)).map (·.2)).getD 0
  { s with pkg := { s.pkg with corrected := (u, n + 1) :: s.pkg.corrected.filter (fun p => p.1 != u) } }

/-- SCRUB (R318, R319): a line of a stack is read in the background; and an error that a stack, an L2 slice or a core's SRAM has
corrected in place is counted. -/
def execScrub (line : Nat) (found : ScrubFound) (s : State) : Res :=
  .next (match found with
    | .clean => if s.inStack (128 * line) && s.badLine line then s.detectBy line 0xFFFF else s
    | .corrected src core =>
      if src = 3 ∨ 256 ≤ core ∨ (src ≠ 2 ∧ s.inStack (128 * line) = false) then s else s.countError (s.counterOf line src core)
    | .uncorrectable => if s.inStack (128 * line) then (s.poison line 0).detectBy line 0xFFFF else s)

/-! ### The log and the registers -/

/-- LOG_MOVE (R365): a write to LOGN or LOGBASE. -/
def execLogMove (n : Bool) (v : Word) (s : State) : Res := .next (s.regWrite (if n then .logN else .logBase) v)

/-- REGISTER_WRITE (R6): a write of 8 bytes in the register space. -/
def execRegisterWrite (offset : Nat) (v : Word) (s : State) : Res :=
  .next (if offset % 8 = 0 ∧ offset < regEnd - regBase then (s.regAccess (.write v.toNat) offset 8).2 else s)

/-! ### Copies, tiles, watermarks -/

/-- COPY_COMPLETE (R263): an engine finishes what it can of a copy. -/
def execCopyComplete (plot ctx ticket : Nat) (s : State) : Res := .next (copyStep s (plot * 2 ^ 32 + ctx) ticket)

/-- The answer for linear index l of a launch's grid (R271). -/
def tileAnswer (d : Desc) (l : Nat) : Nat :=
  if l < d.gx * d.gy then l + 2 ^ 32 * (l % d.gx) + 2 ^ 48 * (l / d.gx) else 2 ^ 64 - 1

/-- The distributor takes the next index for a CT's oldest query and writes the answer. -/
def State.answerQuery (s : State) (ctid : BitVec 10) : State :=
  match s.ctOf ctid with
  | none => s
  | some c =>
    match c.wdq, s.launchOf c.launch with
    | a :: rest, some l =>
      let t := s.onCt ctid fun c => { c with wdq := rest }
      let t := t.setLaunch { l with tile := if l.tile < l.d.gx * l.d.gy then l.tile + 1 else l.tile }
      (match t.resolve c.via a 8 .store with
        | .ok p => (t.poke c.via p 8 (tileAnswer l.d l.tile)).stored c.via p none
        | .error _ => t)
    | _, _ => s
/-- Whether a copy claims the line of an answer of a CT (R261). -/
def State.answerHeld (s : State) (ctid : BitVec 10) : Bool :=
  match s.ctOf ctid with
  | none => false
  | some c => c.wdq.any fun a => s.walkHeld c.via a || match s.resolve c.via a 8 .store with
    | .ok p => s.claimed c.via p 8 .store
    | .error _ => false
/-- A ctid put in its place. -/
def insertId (a : BitVec 10) : List (BitVec 10) → List (BitVec 10)
  | [] => [a]
  | b :: rest => if a.toNat ≤ b.toNat then a :: b :: rest else b :: insertId a rest
/-- WDQRY_ANSWER (R271, R297): the queries that reach the counter in one cycle are answered in increasing order of ctid; the
writes wait for a copy's claim. -/
def execWdqryAnswer (ctids : List (BitVec 10)) (s : State) : Res :=
  .next (if ctids.any s.answerHeld then s
    else (ctids.foldr insertId []).foldl (fun (t : State) id => t.answerQuery id) s)

/-- A slot takes a published value, where it is larger than the one it has. -/
def State.raiseMark (s : State) (p : Pub) : State :=
  let old := ((s.pkg.wm.find? (fun q => q.1 = p.slot)).map (·.2)).getD 0
  { s with pkg := { s.pkg with
    wmPend := s.pkg.wmPend.erase p,
    wm := (p.slot, if old < p.val then p.val else old) :: s.pkg.wm.filter (fun q => q.1 != p.slot) } }
/-- WATERMARK_VISIBLE (R272, R273, R324): the oldest publication to a slot becomes visible, once the stores of its CT that come
before it are performed; while one of them is held back it does not. -/
def execWatermarkVisible (slot : Nat) (s : State) : Res :=
  .next (match s.pkg.wmPend.find? (fun p => p.slot = slot) with
    | none => s
    | some p =>
      match s.ofKey p.key with
      | none => s.raiseMark p
      | some c =>
        if s.canFlush c (SbEnt.before p.upto) then (s.withKey p.key fun t => t.flush (SbEnt.before p.upto)).raiseMark p else s)

/-! ### Gangs -/

/-- GANG_COMMIT (R285). -/
def execGangCommit (launch gang : Nat) (s : State) : Res := .next (s.commit launch gang)

/-- Whether every slot that a gang keeps while it is live is free of other gangs in a cluster, those of members that have halted
among them (R242). -/
def State.ringFree (s : State) (c : Ct) (cl : Nat) : Bool :=
  (List.range c.size).all fun q =>
    !s.slotKept (ctidOf (cl * 8 + (coreOf c.id + 8 - c.rank % 8 + q) % 8) (slotOf c.id)) (some (c.launch, c.gang))

/-- A member that stood stopped by a fault when its gang was parked stands stopped again, its record still to be posted or its resume
still to come (R215, R282). -/
def State.stayStopped (s : State) (c : Ct) : State :=
  if c.frec.isSome then s.onKey c.key fun d => { d with
    status := .stopped, frec := c.frec, posted := c.posted, next := c.next, ex := { d.ex with pc := c.ex.pc }, ac := { d.ac with pc := c.ac.pc } }
  else s
/-- A parked gang that has become firm goes back into slots that keep its core and slot numbers (R242, R283); none where they
do not fit. -/
def State.unpark (s : State) (l : Launch) (g cl c0 slot : Nat) : Option State :=
  let cs := s.gang l.id g
  let fits := cs.all fun c =>
    let core := gangCore cl c0 c.rank
    decide (core % 8 = coreOf c.id % 8 ∧ slot = slotOf c.id) && s.ringFree c cl && s.slotFits core slot c.scratch &&
      decide ((s.coreCfg core).lg = c.lg)
  let inPlot := match s.plotOf l.plot with
    | some p => decide (cl < 32) && p.clusters.getLsbD cl
    | none => false
  if fits && inPlot then
    let t := cs.foldl (fun t c => (t.resumeCt c (ctidOf (gangCore cl c0 c.rank) slot)).stayStopped c) s
    some (t.setLaunch { l with spec := l.spec.map (fun p => { p with parked := p.parked.filter (· != g) }) })
  else none

/-- The first parked gang of a launch that has become firm. -/
def Launch.toUnpark (l : Launch) : Option Nat :=
  match l.spec with
  | none => none
  | some p => p.parked.find? (fun g => !l.isProv g)

/-- Every gang of a resident launch, or the next gang of another, in the places named (R270); none where they do not fit. -/
def State.placeAll (s : State) (id : Nat) : List (Nat × Nat × Nat) → Option State
  | [] => some s
  | p :: rest =>
    match s.placeNext id p.1 p.2.1 p.2.2 with
    | some t => State.placeAll t id rest
    | none => none

/-- AGE_PROMOTION (R270): 10 ms without a gang placed. -/
def execAgePromotion (launch : Nat) (s : State) : Res :=
  .next (match s.launchOf launch with
    | none => s
    | some l =>
      if l.waits ∧ l.cls < 3 ∧ 10000000 ≤ (s.time - l.last).toNat then
        s.setLaunch { l with age := l.age + 1, last := s.time }
      else s)

/-! ### The chain caches -/

/-- A core drops its entries of some plots, and has acknowledged what it owed for them. -/
def State.invalidate (s : State) (core : Nat) (plots : List Nat) (owed : Nat × Nat × Nat → Bool) : State :=
  { s with pkg := { s.pkg with
    chain := s.pkg.chain.filter (fun e => !(e.core = core && plots.contains e.plot)),
    acks := s.pkg.acks.filter (fun x => !(x.1 = core && owed x)) } }

/-- CHAIN_CACHE_INVALIDATION_ACK (R307, R316): a core has dropped its entries of the plot that published a node, and says so. -/
def execChainCacheInvalidationAck (core node : Nat) (s : State) : Res :=
  .next (s.invalidate core ((s.pkg.acks.filter (fun x => x.1 = core && x.2.2 = node)).map (·.2.1)) (fun x => x.2.2 = node))

/-- RETENTION_SLEEP (R317): the core carries out the invalidations that it has received, its entries keep the sequence numbers as
their stamps, and it receives no invalidation from here on. -/
def execRetentionSleep (core : Nat) (s : State) : Res :=
  .next (if s.pkg.asleep.any (fun x => x.1 = core) then s
    else
      let t := s.invalidate core ((s.pkg.acks.filter (fun x => x.1 = core)).map (·.2.1)) (fun _ => true)
      { t with pkg := { t.pkg with asleep := (core, t.stamps) :: t.pkg.asleep } })

/-- RETENTION_WAKE (R317): the core discards the entries of every plot whose sequence number differs from their stamp. -/
def execRetentionWake (core : Nat) (s : State) : Res :=
  .next (match s.pkg.asleep.find? (fun x => x.1 = core) with
    | none => s
    | some x =>
      let same := fun (p : Nat) => (s.plotOf p).any (fun q => x.2.contains (p, q.seq))
      { s with pkg := { s.pkg with
        asleep := s.pkg.asleep.filter (fun y => y.1 != core),
        chain := s.pkg.chain.filter (fun e => !(e.core = core && !same e.plot)) } })

end Sys2Proof.Machine
end

