-- ==== Sys2Proof/Machine/Graph.lean ====
section
/-! DEFINITION. Graph packages, their runs, and the end of a launch (spec chapters 14 and 22: R269, R270, R355 to R358, R391, R392). -/
namespace Sys2Proof.Machine

/-! ### Accesses by the units of the package in an address space -/

/-- What bytes of several lines come to, line by line: a fault, a wait for answers from beyond main memory, or the bytes. -/
def State.readSpans (s : State) (v : Via) (key : Nat) : List (Word × Nat) → MRes (Nat × State)
  | [] => .ok (0, s)
  | sp :: rest =>
    match s.unitRead v key sp.1 sp.2 with
    | .flt c t => .flt c t
    | .stall t => (match State.readSpans t v (key + 2 ^ 40) rest with
      | .ok r => .stall r.2
      | .flt c u => .flt c u
      | .stall u => .stall u)
    | .ok r => match State.readSpans r.2 v (key + 2 ^ 40) rest with
      | .ok q => .ok (r.1 + 2 ^ (8 * sp.2) * q.1, q.2)
      | e => e
/-- n bytes read through an address space, under the request numbers that begin with `key`. -/
def State.readRange (s : State) (v : Via) (key : Nat) (a : Word) (n : Nat) : MRes (Nat × State) :=
  match s.readSpans v key (spans a n) with
  | .ok r => .ok (r.1, r.2.forget key)
  | .flt c t => .flt c (t.forget key)
  | .stall t => .stall t

/-- For whom a host queue acts. -/
def viaOf (plot aspace : Nat) : Via := ⟨plot, aspace, 0, 0, 0, false, false, none⟩
/-- The request numbers of a run. -/
def runPort (id : Nat) : Nat := 2 ^ 39 + 2 ^ 38 + 4 * id
/-- The request numbers of a queue: its ring, its WAIT and SIGNAL, its error record. -/
def queuePort (q k : Nat) : Nat := 2 ^ 38 + 64 + 4 * q + k

/-! ### The package (R355, R357) -/

/-- A section: kind, whether mandatory, offset, size. -/
structure Section where
  kind : Nat
  must : Bool
  off : Nat
  size : Nat
  deriving DecidableEq, Repr

/-- The section table. -/
def sectionsOf (v : Nat) : List Section :=
  (List.range (recBytes v 0x08 4)).map fun i =>
    let e := 64 + 16 * i
    ⟨recBytes v e 2 % 2 ^ 15, decide (2 ^ 15 ≤ recBytes v e 2), recBytes v (e + 4) 4, recBytes v (e + 8) 8⟩

/-- A note: type, offset of its bytes, length. -/
structure Note where
  type : Nat
  off : Nat
  len : Nat
  deriving DecidableEq, Repr

/-- The notes from an offset to the end of a section; none where one lies beyond it. -/
def notesFrom (v : Nat) : Nat → Nat → Nat → Option (List Note)
  | 0, _, _ => some []
  | fuel + 1, o, e =>
    if o = e then some []
    else if e < o + 4 then none
    else
      let n := recBytes v (o + 2) 2
      let next := o + 4 + (n + 3) / 4 * 4
      if e < next then none
      else (notesFrom v fuel next e).map (⟨recBytes v o 2, o + 4, n⟩ :: ·)
def Section.notes (x : Section) (v : Nat) : Option (List Note) := notesFrom v (x.size / 4 + 1) x.off (x.off + x.size)

/-- A region of the memory plan: offset, size, access bits. -/
structure Region where
  off : Nat
  size : Nat
  access : Nat
  deriving DecidableEq, Repr

def Section.regions (x : Section) (v : Nat) : List Region :=
  (List.range (recBytes v x.off 4)).map fun i =>
    let e := x.off + 64 + 32 * i
    ⟨recBytes v e 8, recBytes v (e + 8) 8, recBytes v (e + 16) 4⟩
/-- A memory plan's layout. -/
def Section.planOk (x : Section) (v : Nat) : Bool :=
  decide (recBytes v x.off 4 ≤ 4096 ∧ recBytes v (x.off + 4) 60 = 0 ∧ 64 + 32 * recBytes v x.off 4 ≤ x.size) &&
    (List.range (recBytes v x.off 4)).all fun i =>
      let e := x.off + 64 + 32 * i
      decide (recBytes v e 8 % pageSize = 0 ∧ recBytes v (e + 8) 8 % pageSize = 0 ∧ recBytes v (e + 8) 8 ≠ 0 ∧
        recBytes v (e + 16) 4 < 4 ∧ recBytes v (e + 20) 12 = 0)

/-- A launch entry, its offsets resolved at the load base (R357). -/
def entryOf (v : Nat) (base : Word) (aspace : Nat) : Desc :=
  let d := descOf v
  let at_ := fun (x : Word) => if x = 0 then 0 else x + base
  { d with exec := at_ d.exec, acc := at_ d.acc, argsAt := at_ d.argsAt, done := at_ d.done, shape := at_ d.shape, aspace := aspace }
/-- An entry passes R267 and R274, its ASPACE 0. -/
def entryOk (p : Plot) (v : Nat) : Bool :=
  descOk v && decide ((descOf v).aspace = 0) && (if (descOf v).shape = 0 then plainOk v else specOk p v)

/-- The launch entries and dependences of a launch-graph section; none where R357 refuses it. -/
def Section.graph (x : Section) (v : Nat) (p : Plot) (base : Word) (aspace : Nat) : Option (List Desc × List (Nat × Nat)) :=
  let nl := recBytes v x.off 4
  let nd := recBytes v (x.off + 4) 4
  let entry := fun (i : Nat) => recBytes v (x.off + 0x40 + 128 * i) 128
  let dep := fun (j : Nat) =>
    let o := x.off + 0x40 + 128 * nl + 8 * j
    (recBytes v o 4, recBytes v (o + 4) 4)
  if 1 ≤ nl ∧ nl ≤ 65536 ∧ nd ≤ 2 ^ 20 ∧ recBytes v (x.off + 8) 56 = 0 ∧ x.size = 64 + 128 * nl + 8 * nd ∧
      ((List.range nl).all (fun i => entryOk p (entry i)) &&
        (List.range nd).all (fun j => decide ((dep j).1 < (dep j).2 ∧ (dep j).2 < nl))) = true then
    some ((List.range nl).map (fun i => entryOf (entry i) base aspace), (List.range nd).map dep)
  else none

/-- Whether some pair of ranges (start, size) shares a byte. -/
def clash : List (Nat × Nat) → Bool
  | [] => false
  | r :: rest => rest.any (fun q => decide (0 < r.2 ∧ 0 < q.2 ∧ r.1 < q.1 + q.2 ∧ q.1 < r.1 + r.2)) || clash rest

/-- A section's image: code and data are mapped where they stand in the package, from the load base on (R392). -/
def Section.image (x : Section) : Bool := x.kind = 1 || x.kind = 4
/-- The pages of an image or a region: first page and count. -/
def pagesOf (off size : Nat) : Nat × Nat := (off / pageSize, (off + size + pageSize - 1) / pageSize - off / pageSize)

/-- The extent: (page, leaf bits) of code, data and regions (R357, R392). -/
def extentOf (secs : List Section) (regs : List Region) : List (Nat × Nat) :=
  let pages := fun (off size bits : Nat) =>
    let r := pagesOf off size
    (List.range r.2).map fun i => (r.1 + i, bits)
  ((secs.filter Section.image).flatMap (fun x => pages x.off x.size (if x.kind = 1 then leafBits false false true else leafBits true true false)) ++
    regs.flatMap (fun r => pages r.off r.size (leafBits (r.access % 2 = 1) (2 ≤ r.access) false))).eraseDups
/-- The bytes from the load base to the end of the extent. -/
def extentEnd (pages : List (Nat × Nat)) : Nat := (pages.map (fun p => (p.1 + 1) * pageSize)).foldl max 0

/-- A package that has passed the checks: its launches and dependences, its extent, its image sections, its relocated
words, the digest. -/
structure Loaded where
  launches : List Desc
  deps : List (Nat × Nat)
  pages : List (Nat × Nat)
  images : List Section
  /-- the relocated words: image offset, and the symbol's image offset with the addend -/
  relocs : List (Nat × Word)
  digest : Nat
  deriving DecidableEq, Repr

/-- The sections and the regions that a package names. -/
def packageExtent (v : Nat) : List (Nat × Nat) :=
  let secs := sectionsOf v
  extentOf secs ((secs.filter (fun x => x.kind = 3)).flatMap (fun x => x.regions v))

/-- The header and the section table (R355): nothing overlaps or lies beyond the signature block's offset. -/
def layoutOk (v sig : Nat) : Bool :=
  let n := recBytes v 0x08 4
  let secs := sectionsOf v
  decide (1 ≤ n ∧ n ≤ 4096 ∧ recBytes v 0x10 48 = 0 ∧ 64 + 16 * n ≤ sig) &&
    secs.all (fun x => decide (x.off % 64 = 0 ∧ x.off + x.size ≤ sig)) &&
    (List.range n).all (fun i => decide (recBytes v (64 + 16 * i + 2) 2 = 0)) &&
    !clash ((0, 64 + 16 * n) :: secs.map (fun x => (x.off, x.size)))

/-- The kinds and note types that the loader must know and does not (R356), as their TYPE fields have them. -/
def unknownTypes (secs : List Section) (notes : List Note) : List Nat :=
  (secs.filter (fun x => x.must && !(decide (1 ≤ x.kind ∧ x.kind ≤ 5)))).map (fun x => 2 ^ 15 + x.kind) ++
    (notes.filter (fun n => decide (2 ^ 15 ≤ n.type) && !(decide (1 ≤ n.type % 2 ^ 15 ∧ n.type % 2 ^ 15 ≤ 3)))).map (·.type)

/-- A relocation note (R391): its word's image offset, kind 1, the symbol's image offset, the addend. -/
def Note.isReloc (n : Note) : Bool := decide (n.type % 2 ^ 15 = 2)
/-- A relocation note holds its four fields and a kind that R391 gives (assumption 43). -/
def Note.relocOk (n : Note) (v : Nat) : Bool := !n.isReloc || decide (n.len = 26 ∧ recBytes v (n.off + 8) 2 = 1)
/-- The word that it relocates, and the symbol's image offset with the addend. -/
def Note.reloc (n : Note) (v : Nat) : Nat × Word :=
  (recBytes v n.off 8, BitVec.ofNat 64 (recBytes v (n.off + 10) 8) + BitVec.ofNat 64 (recBytes v (n.off + 18) 8))

/-- The checks of R356, in their order: the package, or the refusal code, with the type where the code is 4. -/
def checkPackage (s : State) (p : Plot) (v size : Nat) (base : Word) (aspace : Nat) : Except (Nat × Option Nat) Loaded :=
  let sig := recBytes v 0x0C 4
  let digest := Config.sha384 sig (v % 2 ^ (8 * sig))
  let secs := sectionsOf v
  let notes := (secs.filter (fun x => x.kind = 5)).map (fun x => x.notes v)
  let graphs := secs.filter (fun x => x.kind = 2)
  let plans := secs.filter (fun x => x.kind = 3)
  let g := match graphs with
    | [] => some ([], [])
    | x :: _ => x.graph v p base aspace
  let regs := plans.flatMap (fun x => x.regions v)
  let imgs := secs.filter Section.image
  let pages := extentOf secs regs
  let flat := (notes.filterMap id).flatten
  let unknown := unknownTypes secs flat
  if recBytes v 0 4 ≠ 0x4B504759 ∨ recBytes v 4 2 ≠ 1 then .error (1, none)
  else if size < sig + 3373 ∨ !Config.ed25519 s.pkg.boot.pkgKeys.1 digest (recBytes v sig 64) ∨
      !Config.mldsa65 s.pkg.boot.pkgKeys.2 digest (recBytes v (sig + 64) 3309) then .error (2, none)
  else if !(layoutOk v sig && notes.all (·.isSome) && flat.all (·.relocOk v) && decide (graphs.length ≤ 1 ∧ plans.length ≤ 1) && g.isSome &&
      plans.all (fun x => x.planOk v) &&
      !clash (imgs.map (fun x => (x.off, x.size)) ++ regs.map (fun r => (r.off, r.size))) &&
      decide (pages.map Prod.fst).Nodup) then .error (3, none)
  else if !unknown.isEmpty then .error (4, unknown.head?)
  else if p.rframes - p.used.length < pages.length then .error (5, none)
  else
    let gg := g.getD ([], [])
    let relocs := (flat.filter Note.isReloc).map (·.reloc v)
    .ok ⟨gg.1, gg.2, pages, imgs, relocs, digest.toNat⟩

/-- Maps the pages of an extent with zeroed frames; none where the reserve runs out. -/
def State.mapExtent (s : State) (plot aspace : Nat) (base : Word) : List (Nat × Nat) → Option (State × List (Word × Nat))
  | [] => some (s, [])
  | pg :: rest =>
    let va := base + BitVec.ofNat 64 (pg.1 * pageSize)
    match s.takeFrame plot with
    | none => none
    | some (t, f) =>
      match t.mapPage plot aspace (va55 va) f pg.2 with
      | none => none
      | some u =>
        match State.mapExtent u plot aspace base rest with
        | none => none
        | some (w, l) => some (w, (va, f) :: l)

/-- The bytes of the extent's frames written at an offset from the load base. -/
def State.fillAt (s : State) (pages : List (Word × Nat)) (a : Word) (n x : Nat) : State :=
  ((spans a n).foldl (fun (acc : State × Nat) sp =>
    let rest := acc.2 / 2 ^ (8 * sp.2)
    match pages.find? (fun pg => va55 pg.1 / pageSize = va55 sp.1 / pageSize) with
    | none => (acc.1, rest)
    | some pg => (acc.1.unitStore (acc.1.home (pg.2 + va55 sp.1 % pageSize)) sp.2 (acc.2 % 2 ^ (8 * sp.2)), rest)) (s, x)).1
/-- The eight bytes at an offset, as the frames hold them. -/
def State.wordAt (s : State) (pages : List (Word × Nat)) (a : Word) : Nat :=
  ((List.range 8).foldr (fun i acc =>
    let b := a + BitVec.ofNat 64 i
    (match pages.find? (fun pg => va55 pg.1 / pageSize = va55 b / pageSize) with
      | none => 0
      | some pg => (s.mem.read (s.home (pg.2 + va55 b % pageSize))).toNat) + 256 * acc) 0)

/-- The images copied, and every relocated word made its symbol's address: the object holds zero there, and B, the symbol's image
offset and the addend are added to it (R390, R391, R392, assumption 43). -/
def State.fillExtent (s : State) (x : Loaded) (v : Nat) (base : Word) (pages : List (Word × Nat)) : State :=
  let t := x.images.foldl (fun (t : State) i => t.fillAt pages (base + BitVec.ofNat 64 i.off) i.size (recBytes v i.off i.size)) s
  x.relocs.foldl (fun (t : State) o =>
    let a := base + BitVec.ofNat 64 o.1
    t.fillAt pages a 8 ((t.wordAt pages a + (base + o.2).toNat) % 2 ^ 64)) t

/-- The first handle that no graph of the plot has. -/
def freeHandle (used : List Nat) : Nat → Option Nat
  | 0 => none
  | k + 1 => let h := used.length + 1 - k; if 65535 < h then none else if used.contains h then freeHandle used k else some h

/-- A refused load: STATUS, and the field HANDLE of its result record. It holds the type where the code is 4 (assumption 84), else
a free value: R353 gives it a meaning after a successful load alone. -/
def State.refuseLoad (s : State) (e : Nat × Option Nat) : Nat × Nat × State :=
  match e.2 with
  | some t => (e.1, t, s)
  | none => (e.1, (Config.freeValue s.draws).toNat % 2 ^ 32, { s with draws := s.draws + 1 })

/-- GRAPH_LOAD's work (R356, R357), the package's bytes read: STATUS, the handle, the state. -/
def State.loadBytes (s : State) (plot aspace v size : Nat) (base : Word) : Nat × Nat × State :=
  match s.plotOf plot with
  | none => s.refuseLoad (3, none)
  | some p =>
    match checkPackage s p v size base aspace with
    | .error e => s.refuseLoad e
    | .ok x =>
      let used := (s.pkg.graphs.filter (fun g => g.plot = plot)).map (·.handle)
      match s.mapExtent plot aspace base x.pages, freeHandle used (used.length + 1) with
      | some (t, pages), some h =>
        let t := t.fillExtent x v base pages
        (0, h, { t with pkg := { t.pkg with graphs := t.pkg.graphs ++ [⟨h, plot, aspace, x.launches, x.deps, pages, x.digest⟩] } })
      | _, _ => s.refuseLoad (5, none)

/-- GRAPH_UNLOAD's work (R358). -/
def State.unloadGraph (s : State) (plot h : Nat) : Nat × State :=
  match s.pkg.graphs.find? (fun g => g.plot = plot && g.handle = h) with
  | none => (7, s)
  | some g =>
    if s.pkg.runs.any (fun r => r.plot = plot && r.handle = h) then (6, s)
    else
      let t := g.pages.foldl (fun (t : State) pg => t.unmapPage plot g.aspace ⟨pg.1, pg.2, none⟩) s
      (0, { t with pkg := { t.pkg with graphs := t.pkg.graphs.filter (fun x => !(x.plot = plot && x.handle = h)) } })

/-! ### Runs (R358) -/

/-- The shape record of a launch that runs as LSPEC does: its place, COUNT and STATE; none where LSPEC would refuse it. -/
def State.shapeOf (s : State) (v : Via) (key : Nat) (a : Word) : MRes (Option (Nat × Nat × Nat) × State) :=
  match s.globalPlace v a 16 .load with
  | .ok (.phys pa _) =>
    (match s.unitRead v key a 16 with
      | .ok r =>
        let state := r.1 / 2 ^ 64 % 2 ^ 32
        .ok (if 1 < state ∨ 2 ^ 24 < r.1 % 2 ^ 64 then none else some (pa, r.1 % 2 ^ 64, state), r.2.forget key)
      | .flt c t => .flt c (t.forget key)
      | .stall t => .stall t)
  | _ => .flt 3 s

/-- The argument block of a launch, or ten zeros. -/
def State.argBytes (s : State) (v : Via) (key : Nat) (d : Desc) : MRes (Nat × State) :=
  if d.argsAt = 0 then .ok (0, s) else s.readRange v key d.argsAt 80

/-- Issues a launch as LAUNCH or LSPEC would (R268, R278, R358): a fault where it would be refused, a wait for bytes from beyond
main memory. -/
def State.issueDesc (s : State) (key plot queue : Nat) (d : Desc) (run : Option (Nat × Nat)) : MRes (State × Nat) :=
  let v := viaOf plot d.aspace
  match s.plotOf plot with
  | none => .flt 1 s
  | some p =>
    if !s.residentOk p d ∨ s.rootOf p d.aspace = 0 then .flt 1 s
    else match s.argBytes v key d with
      | .flt c t => .flt c t
      | .stall t => .stall t
      | .ok w =>
        if d.shape = 0 then .ok (w.2.enqueue plot queue d (argsOf w.1) none d.ngang run)
        else match w.2.shapeOf v key d.shape with
          | .ok (some (pa, count, state), t) => .ok (t.enqueueSpec plot queue d (argsOf w.1) pa count state run)
          | .ok (none, t) => .flt 1 t
          | .flt c t => .flt c t
          | .stall t => .stall t

/-- Where launch i of a run stands in the light of what it depends on: it waits, it may start, it is abandoned. -/
def depState (deps : List (Nat × Nat)) (sts : List RunSt) (i : Nat) : Option Bool :=
  let froms := (deps.filter (fun d => d.2 = i)).map (fun d => sts.getD d.1 .waiting)
  if froms.any (fun r => match r with | .ended n => decide (n ≠ 0) | _ => false) then some false
  else if froms.all (fun r => r = .ended 0) then some true
  else none

/-- Issues the launches of a run that are ready, in increasing index. A full queue holds them back, and so does one whose arguments
have still to come. -/
def State.advanceFrom (s : State) (r : Run) (g : Graph) (cls : Nat) : List Nat → State × Run
  | [] => (s, r)
  | i :: rest =>
    if r.sts.getD i .waiting ≠ .waiting then State.advanceFrom s r g cls rest
    else match depState g.deps r.sts i, g.launches[i]? with
      | some false, _ => State.advanceFrom s { r with sts := r.sts.set i (.ended 1) } g cls rest
      | some true, some d =>
        if 256 ≤ s.queued r.queue then State.advanceFrom s r g cls rest
        else match s.issueDesc (runPort r.id) r.plot r.queue { d with cls := cls } (some (r.id, i)) with
          | .ok (t, id) => State.advanceFrom t { r with sts := r.sts.set i (.issued id) } g cls rest
          | .flt _ t => State.advanceFrom t { r with sts := r.sts.set i (.ended 1) } g cls rest
          | .stall t => (t, r)
      | _, _ => State.advanceFrom s r g cls rest
def State.advanceRun (s : State) (r : Run) (g : Graph) (cls : Nat) : State × Run :=
  s.advanceFrom r g cls (List.range g.launches.length)

/-- The status of an ended launch. -/
def RunSt.status : RunSt → Option Nat
  | .ended n => some n
  | _ => none

/-- A run whose launches have all ended writes its record (R358), or waits while the write does. -/
def State.endRun (s : State) (r : Run) : State :=
  let st := r.sts.filterMap RunSt.status
  let img := recordImage s.time (st.foldl max 0) (st.filter (· = 0)).length
  let ended := fun (t : State) => { t with pkg := { t.pkg with runs := t.pkg.runs.filter (fun x => x.id != r.id) } }
  match s.unitWrite (viaOf r.plot r.aspace) (runPort r.id) r.done 16 img with
  | .ok t => ended t
  | .flt _ t => (ended t).logEnd r.die (2 ^ 63 + r.handle)
  | .stall t => t

/-- One run goes on as far as it can. -/
def State.stepRun (s : State) (r : Run) : State :=
  match s.pkg.graphs.find? (fun g => g.plot = r.plot && g.handle = r.handle) with
  | none => s
  | some g =>
    let cls := ((s.pkg.queues.find? (fun q => 8 + q.q = r.queue)).map (·.cls)).getD 0
    let (t, r') := s.advanceRun r g cls
    let t := { t with pkg := { t.pkg with runs := t.pkg.runs.map (fun x => if x.id = r.id then r' else x) } }
    if r'.sts.all (fun x => x.status.isSome) then t.endRun r' else t
/-- Every run goes on. -/
def State.progress (s : State) : State := s.pkg.runs.foldl (fun (t : State) r => t.stepRun r) s

/-- A launch has ended: the run that issued it goes on. -/
def State.launchEnded (s : State) (l : Launch) : State :=
  match l.run with
  | none => s
  | some (id, i) =>
    { s with pkg := { s.pkg with runs := s.pkg.runs.map (fun (r : Run) =>
      if r.id = id then { r with sts := r.sts.set i (.ended l.status), die := l.die } else r) } }.progress
/-- What follows a launch's end, where it has ended. -/
def State.afterEnd (s : State) (id : Nat) : State :=
  match s.launchOf id with
  | some k => if k.fin = 0 then s else s.launchEnded k
  | none => s

/-- LAUNCH_COMPLETE (R269, R289); a run whose record waits to be written goes on as well. -/
def execLaunchComplete (launch : Nat) (s : State) : Res :=
  .next (match s.launchOf launch with
    | none => s.progress
    | some l => if s.ready l then (s.finish l).afterEnd launch else s.progress)

/-- GANG_PLACE (R241, R268, R270, R283, R347): while a leader keeps the queues, the distributor places the next gang of a head
launch whole, where no launch of a higher class can be and its queue has its turn; a resident launch all at once. An attempt for
which no slots are left makes the coordinator pre-empt stalled provisional gangs. -/
def execGangPlace (launch : Nat) (places : List (Nat × Nat × Nat)) (s : State) : Res :=
  .next (match s.launchOf launch with
    | none => s
    | some l =>
      if l.fin ≠ 0 then s
      else match l.toUnpark, places with
        | some g, p :: _ => (s.unpark l g p.1 p.2.1 p.2.2).getD s
        | some _, [] => s
        | none, _ =>
          if !s.led || !s.isHead l || s.outranked l || s.outturned l then s
          else if places.length ≠ l.need then s.relieve launch s.cts.length
          else match s.placeAll launch places with
            | some t => (t.served l).progress
            | none => s.relieve launch s.cts.length)

end Sys2Proof.Machine
end

