-- ==== Sys2Proof/Machine/HostQ.lean ====
section
/-! DEFINITION. Host command queues: kicks, the fetcher, validation, the packets (spec chapter 22, R350 to R354, R358). -/
namespace Sys2Proof.Machine

def State.hostQ (s : State) (q : Nat) : Option HostQ := s.pkg.queues.find? (fun h => h.q = q)
def State.setQ (s : State) (h : HostQ) : State :=
  { s with pkg := { s.pkg with queues := s.pkg.queues.map (fun x => if x.q = h.q then h else x) } }

/-- The kick register that a BAR0 offset names. -/
def kickAt (offset : Nat) : Option Nat :=
  if 0x1000 ≤ offset ∧ offset < 0x1200 ∧ offset % 8 = 0 then some ((offset - 0x1000) / 8) else none
/-- A host access to BAR0 (R350, R366). A write of a kick register announces packets, a read of one returns it; every other offset
reads 0 and ignores writes. -/
def State.bar0 (s : State) (offset : Nat) (write : Option Word) : State :=
  match write, kickAt offset with
  | some k, some q => s.regWrite (.kick q) k
  | some _, none => s
  | none, some q => { s with pkg := { s.pkg with hostOut := .val (s.regRead (.kick q)).toNat } }
  | none, none => { s with pkg := { s.pkg with hostOut := .val 0 } }
/-- QUEUE_KICK (R350, R366, R367): a host access to BAR0. Where earlier accesses of the host wait, it waits behind them: a kick is seen
after the packets that it announces. -/
def execQueueKick (offset : Nat) (write : Option Word) (s : State) : Res :=
  .next (if s.pkg.inbound.any (·.src.isNone) then
      (let o := if (kickAt offset).isSome then offset else 0
       let op : ReqOp := match write with | some k => .write k.toNat | none => .read
       { s with pkg := { s.pkg with inbound := s.pkg.inbound ++ [⟨none, regBase + o, 8, op⟩] } })
    else s.bar0 offset write)

/-- A store of n bytes at a physical address by the fetcher, within main memory or beyond it. -/
def State.physStore (s : State) (key pa n x : Nat) : MRes State :=
  let a := s.home pa
  if s.lineClaimed (lineOf a) .store then .stall s
  else if a < mainEnd then .ok (s.unitStore a n x)
  else match s.dev ⟨key, .write x⟩ a n with
    | .ok r => .ok r.2
    | .flt c t => .flt c t
    | .stall t => .stall t

/-- The packet has issued. -/
def State.issued (s : State) (h : HostQ) : State := s.setQ { h with next := h.next + 1, first := none, pend := none }
/-- A queue writes the record that it has still to write: a packet's, after which the packet has issued, or that of its stop.
A record that cannot be written is given up. -/
def State.writePend (s : State) (h : HostQ) : State :=
  match h.pend with
  | none => s
  | some (.result a n x) => (match s.unitWrite (viaOf h.plot h.aspace) (queuePort h.q 1) a n x with
    | .ok t => t.issued h
    | .flt _ t => t.issued h
    | .stall t => t.setQ h)
  | some (.error a n x) => (match s.physStore (queuePort h.q 2) a n x with
    | .ok t => t.setQ { h with pend := none }
    | .flt _ t => t.setQ { h with pend := none }
    | .stall t => t.setQ h)

/-- The fetcher reads the next packet that the kick covers (R354): `f` gets it. -/
def withPacket (s : State) (q : Nat) (f : HostQ → Nat → State → State) : State :=
  match s.hostQ q with
  | none => s
  | some h =>
    if h.pend.isSome then s.writePend h
    else if h.running && decide (h.next < (s.pkg.kick.toList.getD q 0).toNat) then
      let pa := s.home (h.base + 64 * (h.next % 2 ^ h.logn))
      if s.lineClaimed (lineOf pa) .load then s
      else if s.poisoned pa then s.meets (lineOf pa)
      else if pa < mainEnd then f h (s.mem.readN pa 64) s
      else match s.dev ⟨queuePort q 0, .read⟩ pa 64 with
        | .ok r => f h r.1 r.2
        | .flt _ t => t
        | .stall t => t
    else s

/-- A packet has arrived when its stamp is that of its index (R352). -/
def arrived (h : HostQ) (p : Nat) : Bool := decide (recBytes p 2 2 = (h.next + 1) % 2 ^ 16)
/-- A read that finds another stamp: the time of the first one counts. -/
def State.early (s : State) (h : HostQ) : State := s.setQ { h with first := some (h.first.getD s.time) }

/-- The queue stops (R354): its error record, the log, the interrupt. -/
def State.stopQueue (s : State) (h : HostQ) (p code reason : Nat) : State :=
  let img := s.time.toNat + 2 ^ 64 * code + 2 ^ 72 * reason + 2 ^ 80 * h.q + 2 ^ 96 * (h.next % 2 ^ 32) + 2 ^ 128 * (p % 2 ^ 128)
  let t := s.writePend { h with running := false, first := none, pend := some (.error h.err.toNat 32 img) }
  (t.logKind 3 code 1 h.q h.next 0).interrupt 1

/-- PACKET_STAMP_RETRY (R354). -/
def execPacketStampRetry (q : BitVec 6) (s : State) : Res :=
  .next (withPacket s q.toNat fun h p s => if arrived h p then s else s.early h)

/-- QUEUE_STALE (R354): a stamp still wrong 1 ms after the first read. -/
def execQueueStale (q : BitVec 6) (s : State) : Res :=
  .next (withPacket s q.toNat fun h p s =>
    if arrived h p then s
    else match h.first with
      | none => s.early h
      | some t => if 1000000 ≤ (s.time - t).toNat then s.stopQueue h p 0x0F 0 else s)

/-! ### Validation (R351, R354) -/

/-- Whether an object lies in one window that the queue selects, with the access it needs. -/
def State.objectOk (s : State) (h : HostQ) (a : Word) (n : Nat) (w : Bool) : Bool :=
  s.pkg.wins.any fun x =>
    x.plot = h.plot && h.ranges.contains x.idx && x.aspace = h.aspace && (if w then x.access / 2 % 2 = 1 else x.access % 2 = 1) &&
      decide (x.base ≤ a.toNat ∧ a.toNat + n ≤ x.base + x.size * pageSize)

/-- The bytes that R353 leaves unassigned are zero. -/
def reservedOk (p : Nat) : Bool :=
  decide (recBytes p 4 4 = 0) &&
  (match recBytes p 0 1 with
    | 1 => decide (recBytes p 0x10 48 = 0)
    | 2 => decide (recBytes p 0x28 24 = 0)
    | 3 => decide (recBytes p 0x0C 4 = 0 ∧ recBytes p 0x18 40 = 0)
    | 4 => decide (recBytes p 0x0C 4 = 0 ∧ recBytes p 0x18 40 = 0)
    | _ => decide (recBytes p 0x18 40 = 0))

/-- The first failing check among opcode, version, reserved bytes; 0 where all pass. -/
def headReason (h : HostQ) (p : Nat) : Nat :=
  let op := recBytes p 0 1
  if op = 0 ∨ 6 < op ∨ h.opmask.testBit op = false then 1
  else if recBytes p 1 1 ≠ h.ver then 2
  else if !reservedOk p then 3
  else 0

def field (p off : Nat) : Word := BitVec.ofNat 64 (recBytes p off 8)

/-- A packet that has arrived and whose opcode an event handles: a failing check stops the queue, otherwise the ranges are
checked and `f` acts. -/
def packet (q : BitVec 6) (mine : Nat → Bool) (ranges : HostQ → Nat → State → Bool) (f : HostQ → Nat → State → State) (s : State) : Res :=
  .next (withPacket s q.toNat fun h p s =>
    if !arrived h p then s.early h
    else if !mine (recBytes p 0 1) then s
    else
      let r := headReason h p
      if r ≠ 0 then s.stopQueue h p 0x10 r
      else if !ranges h p s then s.stopQueue h p 0x10 4
      else f h p s)

/-- LAUNCH_PACKET (R224, R267, R268, R351, R354); it also meets the packets of no opcode. -/
def execLaunchPacket (q : BitVec 6) (s : State) : Res :=
  packet q (fun op => decide (op < 2 ∨ 6 < op)) (fun h p s => s.objectOk h (field p 8) 128 false) (fun h p s =>
    let v := viaOf h.plot h.aspace
    let a := field p 8
    match s.plotOf h.plot, s.readRange v (queuePort h.q 1) a 128 with
    | some pl, .ok (x, s) =>
      let d := descOf x
      if !(d.argsAt = 0 || s.objectOk h d.argsAt 80 false) || !(d.done = 0 || s.objectOk h d.done 16 true) then
        s.stopQueue h p 0x10 4
      else if s.lineClaimed (s.rootLine pl h.aspace) .load then s
      else if !(aligned a 128 && descOk x && plainOk x && s.residentOk pl d && (d.aspace = 0 || d.aspace = h.aspace) &&
          decide (s.rootOf pl h.aspace ≠ 0)) then (s.meets (s.rootLine pl h.aspace)).stopQueue h p 0x10 5
      else if 256 ≤ s.queued (8 + h.q) then s
      else match s.issueDesc (queuePort h.q 1) h.plot (8 + h.q) { d with aspace := h.aspace, cls := h.cls } none with
        | .ok (t, _) => t.issued h
        | .flt _ t => t.stopQueue h p 0x10 5
        | .stall t => t
    | some _, .stall t => t
    | _, _ => s.stopQueue h p 0x10 5) s

/-- A result record (R353). -/
def resultImage (time : Word) (status handle : Nat) : Nat := time.toNat + 2 ^ 64 * status + 2 ^ 96 * handle
/-- The queue writes a packet's record, with which the packet has issued. -/
def State.result (s : State) (h : HostQ) (a : Word) (n x : Nat) : State := s.writePend { h with pend := some (.result a n x) }

/-- The objects of a GRAPH_LOAD: the package and the result record; and the extent, once the package's bytes are there. -/
def loadRanges (h : HostQ) (p : Nat) (s : State) : Bool :=
  s.objectOk h (field p 8) (recBytes p 0x10 8) false && decide ((field p 0x18).toNat % pageSize = 0) && aligned (field p 0x20) 16 &&
    s.objectOk h (field p 0x20) 16 true
def State.extentOk (s : State) (h : HostQ) (p v : Nat) : Bool :=
  let n := extentEnd (packageExtent v)
  n = 0 || s.objectOk h (field p 0x18) n true

/-- GRAPH_LOAD (R356, R358). -/
def execGraphLoad (q : BitVec 6) (s : State) : Res :=
  packet q (fun op => op = 2) loadRanges (fun h p s =>
    let size := recBytes p 0x10 8
    let done := fun (r : Nat × Nat × State) => r.2.2.result h (field p 0x20) 16 (resultImage s.time r.1 r.2.1)
    match s.readRange (viaOf h.plot h.aspace) (queuePort h.q 1) (field p 8) size with
    | .ok (v, t) => if !t.extentOk h p v then t.stopQueue h p 0x10 4 else done (t.loadBytes h.plot h.aspace v size (field p 0x18))
    | .flt _ t => done (t.refuseLoad (3, none))
    | .stall t => t) s

/-- GRAPH_UNLOAD (R358). -/
def execGraphUnload (q : BitVec 6) (s : State) : Res :=
  packet q (fun op => op = 3) (fun h p s => aligned (field p 0x10) 16 && s.objectOk h (field p 0x10) 16 true) (fun h p s =>
    let g := recBytes p 8 4
    let r := s.unloadGraph h.plot g
    r.2.result h (field p 0x10) 16 (resultImage s.time r.1 g)) s

/-- GRAPH_RUN (R358): a graph that is not loaded, or has no launches to run, has STATUS 7. -/
def execGraphRun (q : BitVec 6) (s : State) : Res :=
  packet q (fun op => op = 4) (fun h p s => aligned (field p 0x10) 16 && s.objectOk h (field p 0x10) 16 true) (fun h p s =>
    match s.pkg.graphs.find? (fun g => g.plot = h.plot && g.handle = recBytes p 8 4 && !g.launches.isEmpty) with
    | none => s.result h (field p 0x10) 16 (recordImage s.time 7 0)
    | some g =>
      let r : Run := ⟨s.pkg.nextRun, g.handle, h.plot, 8 + h.q, h.aspace, field p 0x10, g.launches.map fun _ => .waiting, none⟩
      ({ s with pkg := { s.pkg with runs := s.pkg.runs ++ [r], nextRun := r.id + 1 } }.stepRun r).issued h) s

/-! ### WAIT and SIGNAL -/

/-- A place that a packet names, in main memory or beyond it. -/
def State.queuePlace (s : State) (h : HostQ) (a : Word) (k : Kind) : Option Nat :=
  match s.globalPlace (viaOf h.plot h.aspace) a 8 k with
  | .ok (.phys pa _) => some pa
  | _ => none
/-- The walk for it waits for a copy's claim. -/
def State.queueHeld (s : State) (h : HostQ) (a : Word) : Bool := s.walkHeld (viaOf h.plot h.aspace) a

/-- WAIT_PACKET (R352): the queue stands until the 8 bytes are at least the value. -/
def execWaitPacket (q : BitVec 6) (s : State) : Res :=
  packet q (fun op => op = 5) (fun h p s => aligned (field p 8) 8 && s.objectOk h (field p 8) 8 false) (fun h p s =>
    let go := fun (x : Nat) (t : State) => if (field p 0x10).toNat ≤ x then t.issued h else t
    if s.queueHeld h (field p 8) then s else
    match s.queuePlace h (field p 8) .load with
    | none => s
    | some pa =>
      if s.lineClaimed (lineOf pa) .load then s
      else if s.poisoned pa then s.meets (lineOf pa)
      else if pa < mainEnd then go (s.mem.readN pa 8) s
      else match s.dev ⟨queuePort h.q 1, .read⟩ pa 8 with
        | .ok r => go r.1 r.2
        | .flt _ t => t
        | .stall t => t) s

/-- SIGNAL (R352): the value is written once every launch and run of the queue has completed. A place that cannot be
written leaves the packet without effect. -/
def execSignal (q : BitVec 6) (s : State) : Res :=
  packet q (fun op => op = 6) (fun h p s => aligned (field p 8) 8 && s.objectOk h (field p 8) 8 true) (fun h p s =>
    if s.pkg.launches.any (fun l => l.queue = 8 + h.q && decide (l.fin = 0)) || s.pkg.runs.any (fun r => r.queue = 8 + h.q) then s
    else
      let x := recBytes p 0x10 8
      if s.queueHeld h (field p 8) then s else
      match s.queuePlace h (field p 8) .store with
      | none => s.issued h
      | some pa =>
        if s.lineClaimed (lineOf pa) .store then s
        else if pa < mainEnd then (s.unitStore pa 8 x).issued h
        else match s.dev ⟨queuePort h.q 1, .write x⟩ pa 8 with
          | .ok r => r.2.issued h
          | .flt _ t => t.issued h
          | .stall t => t) s

end Sys2Proof.Machine
end

