-- ==== Sys2Proof/Machine/Coord.lean ====
section
/-! DEFINITION. The package coordinator and its commands, but for COLLECT (spec chapters 11, 13, 18, 22 and 23: R148, R221, R222,
R228, R238, R242, R260, R265, R303, R313, R319, R345, R346, R350, R351, R368, R377, R395). -/
namespace Sys2Proof.Machine

/-! ### Commands (R345) -/

/-- n bytes at an offset of the ring entry that the coordinator performs next. -/
def State.cmdBytes (s : State) (off n : Nat) : Nat := s.mem.readN (ringAt s.pkg.ring + off) n
/-- Argument i: the 8-byte field at 0x08 + 8i. -/
def State.arg (s : State) (i : Nat) : Nat := s.cmdBytes (8 + 8 * i) 8
/-- A migration holds the ring until its last line is copied. -/
def State.migrating (s : State) : Bool := s.pkg.migr.any (fun m => m.entry.isSome)

/-- A command: acts when the next entry has its code and no other is in progress; bytes from offset `from_` on that are not
zero make STATUS 2. `f` gives the STATUS and the state. -/
def command (code from_ : Nat) (f : State → Nat × State) (s : State) : Res :=
  .next (if s.migrating || decide (s.cmdBytes 0 1 ≠ code) then s
    else if s.cmdBytes from_ (64 - from_) ≠ 0 then s.complete 2
    else
      let r := f s
      r.2.complete r.1)

/-- A command whose operands lie in memory waits while a copy claims their lines (R261). -/
def unlessBusy (busy : State → Bool) (f : State → Res) (s : State) : Res := if busy s then .next s else f s
/-- Whether a copy claims the line of a physical address for an access. -/
def State.paBusy (s : State) (a : Nat) (k : Kind) : Bool := s.lineClaimed (lineOf (s.home a)) k
/-- A physical address as software writes it: this module's own number names it (R375). -/
def State.ownPa (s : State) (a : Nat) : Nat := if a / 2 ^ 47 = s.pkg.fid then a % 2 ^ 47 else a

/-- The same for a command whose effects may still wait, which then is tried again: `f` gives no STATUS. -/
def commandMay (code from_ : Nat) (f : State → Option Nat × State) (s : State) : Res :=
  .next (if s.migrating || decide (s.cmdBytes 0 1 ≠ code) then s
    else if s.cmdBytes from_ (64 - from_) ≠ 0 then s.complete 2
    else
      let r := f s
      match r.1 with
      | some x => r.2.complete x
      | none => r.2)

/-- The same for a command that acts on a plot: one that is not made is a bad argument. -/
def plotCommand (code from_ : Nat) (f : Plot → State → Nat × State) (s : State) : Res :=
  command code from_ (fun s => match s.plotOf (s.cmdBytes 1 1) with
    | none => (2, s)
    | some p => f p s) s

/-- COORDINATOR_BAD_CODE: a code that names no command. -/
def execCoordinatorBadCode (s : State) : Res :=
  .next (if s.migrating || decide (1 ≤ s.cmdBytes 0 1 ∧ s.cmdBytes 0 1 ≤ 0x10) then s else s.complete 2)

/-! ### PLOT_MAKE and PLOT_FREE (R303, R346) -/

def unitBytes : Nat := 24 * 2 ^ 30

/-- Whether n bytes at a lie in main memory that a set of units covers, within the stacks' capacities. -/
def State.inUnits (s : State) (units : BitVec 32) (a n : Nat) : Bool :=
  n = 0 || (decide (a + n ≤ mainEnd) && (List.range 32).all (fun u =>
    let lo := max a (u * unitBytes)
    let hi := min (a + n) ((u + 1) * unitBytes)
    decide (hi ≤ lo) || (units.getLsbD u && s.inStack (hi - 1))))

/-- A plot as its record gives it (R346); `own` resolves this module's number in its physical addresses (R375). -/
def plotOfRecord (own : Nat → Nat) (id v : Nat) (tva : Word) : Plot where
  id := id
  clusters := BitVec.ofNat 32 (recBytes v 0x00 4)
  ways := BitVec.ofNat 16 (recBytes v 0x04 2)
  memory := BitVec.ofNat 32 (recBytes v 0x08 4)
  engines := BitVec.ofNat 48 (recBytes v 0x10 6)
  wmFirst := recBytes v 0x18 2
  wmCount := recBytes v 0x1A 2
  predFirst := recBytes v 0x1C 2
  predCount := recBytes v 0x1E 2
  trellis := own (recBytes v 0x20 8)
  tsz := recBytes v 0x28 1
  trellisVa := tva
  reserve := own (recBytes v 0x30 8)
  rframes := recBytes v 0x38 4
  supq := own (recBytes v 0x40 8)
  roots := own (recBytes v 0x48 8)
  ctxBase := own (recBytes v 0x50 8)
  ctxCount := recBytes v 0x58 4
  used := []
  areas := []
  seq := 0

/-- The fields of a plot record lie in their ranges, no set is empty. -/
def recordOk (v : Nat) : Bool :=
  let z := fun (o n : Nat) => decide (recBytes v o n = 0)
  let p := plotOfRecord id 0 v 0
  z 0x06 2 && z 0x0C 4 && z 0x16 2 && z 0x29 7 && z 0x3C 4 && z 0x5C 36 &&
    decide (p.clusters ≠ 0 ∧ p.ways ≠ 0 ∧ p.memory ≠ 0 ∧ p.engines ≠ 0 ∧ p.wmFirst + p.wmCount ≤ 4096 ∧
      p.predFirst + p.predCount ≤ 1024 ∧ p.trellis % pageSize = 0 ∧ p.tsz ≤ 24 ∧ p.reserve % pageSize = 0 ∧
      p.ctxBase % pageSize = 0 ∧ 1 ≤ p.ctxCount)

/-- Whether two ranges (first, count) share a number. -/
def rangesShare (a m b n : Nat) : Bool := decide (0 < m ∧ 0 < n ∧ a < b + n ∧ b < a + m)
/-- Whether two plots would share a resource (R303). -/
def Plot.shares (p q : Plot) : Bool :=
  decide (p.clusters &&& q.clusters ≠ 0 ∨ p.ways &&& q.ways ≠ 0 ∨ p.memory &&& q.memory ≠ 0 ∨ p.engines &&& q.engines ≠ 0) ||
    rangesShare p.wmFirst p.wmCount q.wmFirst q.wmCount || rangesShare p.predFirst p.predCount q.predFirst q.predCount

/-- Whether every cluster and memory unit of a plot is there (R363). -/
def State.present (s : State) (p : Plot) : Bool :=
  (List.range 32).all (fun c => !p.clusters.getLsbD c || (List.range 8).any (fun k => decide ((s.coreCfg (8 * c + k)).lg ≠ 0))) &&
    (List.range 32).all (fun u => !p.memory.getLsbD u || s.inStack (u * unitBytes))

/-- Whether the ranges that a record names lie in the plot's own memory (R346). -/
def State.rangesIn (s : State) (p : Plot) : Bool :=
  let own := s.inUnits p.memory
  own p.trellis (64 * 2 ^ p.tsz) && own p.reserve (pageSize * p.rframes) && own p.supq 64 &&
    own (s.ownPa (s.readHome p.supq 8)) (64 * 2 ^ s.readHome (p.supq + 8) 4) && own p.roots 2048 &&
    (List.range 255).all (fun i =>
      let r := s.ownPa (s.readHome (p.roots + 8 * (i + 1)) 8)
      r = 0 || own r pageSize) &&
    own p.ctxBase (0x320000 * p.ctxCount)

/-- The plot stands: its trellis is all zero, its watermark slots read 0, its predictor entries have no history (R272, R275,
R305). -/
def State.addPlot (s : State) (p : Plot) : State :=
  let t := (s.clearHome p.trellis (64 * 2 ^ p.tsz)).clearLines [(p.trellis, 64 * 2 ^ p.tsz)]
  { t with pkg := { t.pkg with
    plots := t.pkg.plots ++ [p],
    wm := t.pkg.wm.filter (fun w => !decide (p.wmFirst ≤ w.1 ∧ w.1 < p.wmFirst + p.wmCount)),
    wmPend := t.pkg.wmPend.filter (fun w => !decide (p.wmFirst ≤ w.slot ∧ w.slot < p.wmFirst + p.wmCount)),
    pred := t.pkg.pred.filter (fun w => !decide (p.predFirst ≤ w.1 ∧ w.1 < p.predFirst + p.predCount)) } }

/-- PLOT_MAKE; the virtual address of the trellis is given beside the record. -/
def execPlotMake (tva : Word) (s : State) : Res :=
  unlessBusy (fun s => s.paBusy (s.arg 0) .load) (command 0x01 16 fun s =>
    let id := s.cmdBytes 1 1
    let a := s.ownPa (s.arg 0)
    if 7 < id ∨ a % 128 ≠ 0 ∨ s.inStack a = false then (2, s)
    else if s.poisoned (s.home a) then (2, s.meets (lineOf (s.home a)))
    else
      let v := s.mem.readN (s.home a) 128
      let p := plotOfRecord s.ownPa id v (tva &&& ~~~63)
      if !recordOk v then (2, s)
      else if (s.plotOf id).isSome then (4, s)
      else if s.pkg.plots.any (fun q => q.shares p) ∨ !s.present p ∨ !s.rangesIn p then (3, s)
      else (1, s.addPlot p)) s

/-- PLOT_FREE: what the plot held goes with it. -/
def execPlotFree (s : State) : Res :=
  plotCommand 0x02 8 (fun p s =>
    if s.cts.any (fun c => c.plot = p.id && c.status != .ended) || s.pkg.launches.any (fun l => l.plot = p.id && decide (l.fin = 0)) then
      (4, s)
    else
      (1, { s with pkg := { s.pkg with
        plots := s.pkg.plots.filter (fun q => q.id != p.id),
        wmPend := s.pkg.wmPend.filter (fun w => !decide (p.wmFirst ≤ w.slot ∧ w.slot < p.wmFirst + p.wmCount)),
        launches := s.pkg.launches.filter (fun l => l.plot != p.id),
        pools := s.pkg.pools.filter (fun q => q.plot != p.id),
        tlb := s.pkg.tlb.filter (fun q => q.plot != p.id),
        acks := s.pkg.acks.filter (fun q => q.2.1 != p.id), oldNodes := s.pkg.oldNodes.filter (fun q => q.plot != p.id),
        asleep := s.pkg.asleep.map (fun x => (x.1, x.2.filter (fun q => q.1 != p.id))),
        chain := s.pkg.chain.filter (fun q => q.plot != p.id),
        lastQueue := s.pkg.lastQueue.filter (fun q => q.1 != p.id),
        lastDie := s.pkg.lastDie.filter (fun q => q.1 != p.id),
        wins := s.pkg.wins.filter (fun q => q.plot != p.id),
        graphs := s.pkg.graphs.filter (fun q => q.plot != p.id) } })) s

/-! ### Cores and CTs -/

/-- CORECFG (R148): the scratch bytes of a core in steps of 256 KiB, and slot 0's part of them in steps of 128 KiB. -/
def execCorecfg (s : State) : Res :=
  plotCommand 0x03 32 (fun p s =>
    let core := s.arg 0
    let size := s.arg 1
    let split := s.arg 2
    if 256 ≤ core ∨ size % 0x40000 ≠ 0 ∨ scratchSize < size ∨ split % 0x20000 ≠ 0 ∨ size < split then (2, s)
    else if !p.clusters.getLsbD (core / 8) ∨ (s.coreCfg core).lg = 0 then (3, s)
    else if s.cts.any (fun c => c.inSlot && coreOf c.id = core) then (4, s)
    else
      let cfg : CoreCfg := ⟨(s.coreCfg core).lg, split, size - split⟩
      (1, { s with pkg := { s.pkg with cores := (core, cfg) :: s.pkg.cores.filter (fun q => q.1 != core) } })) s

/-- Whether a CT can be resumed in a slot: one with room that no other gang keeps (R242, R395). -/
def State.resumable (s : State) (p : Plot) (c : Ct) (id : BitVec 10) : Bool :=
  p.clusters.getLsbD (clusterOf id) && decide ((s.coreCfg (coreOf id)).lg ≠ 0 ∧ c.scratch ≤ s.ssOf (coreOf id) (slotOf id)) &&
    !s.slotKept id (some (c.launch, c.gang))
/-- Whether the width there is that of its image. -/
def State.sameWidth (s : State) (c : Ct) (id : BitVec 10) : Bool := (s.coreCfg (coreOf id)).lg = c.lg

/-- A resume in a slot; a CT that leaves the slot it still holds is saved first (R232). -/
def State.resumeIn (s : State) (c : Ct) (id : BitVec 10) : State :=
  if c.inSlot && decide (c.id ≠ id) then
    let t := s.park c
    t.resumeCt { c with status := .saved } id
  else s.resumeCt c id

/-- Where a single CT is resumed: the named core, or any (R395). -/
def State.resumePlace (s : State) (p : Plot) (c : Ct) (core : Nat) : Option (BitVec 10) :=
  if core < 256 then ([ctidOf core 0, ctidOf core 1]).find? (fun id => s.resumable p c id)
  else
    (c.id :: (List.range 256).flatMap (fun k => [ctidOf k 0, ctidOf k 1])).find? (fun id => s.resumable p c id && s.sameWidth c id)

/-- The slot of a member of a gang in a cluster: its own core and slot numbers. -/
def Ct.slotIn (c : Ct) (cl : Nat) : BitVec 10 := ctidOf (cl * 8 + coreOf c.id % 8) (slotOf c.id)
/-- Whether members of a gang can be resumed in a cluster: a member that still holds its slot, whose gang is live there, in its
own cluster alone (R241, R242). -/
def State.gangFits (s : State) (p : Plot) (cs : List Ct) (cl : Nat) : Bool :=
  cs.all fun c => s.resumable p c (c.slotIn cl) && s.sameWidth c (c.slotIn cl) && s.ringFree c cl &&
    (!c.inSlot || decide (clusterOf c.id = cl))
/-- The cluster in which a gang, or a stopped member of one, is resumed (R395). -/
def State.gangPlace (s : State) (p : Plot) (cs : List Ct) (core : Nat) : Option Nat :=
  if core < 256 then (if s.gangFits p cs (core / 8) then some (core / 8) else none)
  else (((cs.map (fun c => clusterOf c.id)).take 1) ++ List.range 32).find? (s.gangFits p cs)

/-- Whether system software may resume a CT now: it stands stopped or saved, its record has been posted, the coordinator has
not parked its gang (R219, R283). -/
def State.mayResume (s : State) (c : Ct) : Bool :=
  (c.status = .stopped || c.status = .saved) && (c.frec.isNone || c.posted) &&
    !(match (s.launchOf c.launch).bind (·.spec) with
      | some sp => sp.parked.contains c.gang
      | none => false)

/-- RESUME (R221, R232, R238, R242, R395). -/
def execResume (s : State) : Res :=
  plotCommand 0x04 24 (fun p s =>
    let area := s.arg 0
    let core := s.arg 1
    if 256 ≤ core ∧ core ≠ 2 ^ 64 - 1 then (2, s)
    else if core < 256 ∧ !p.clusters.getLsbD (core / 8) then (3, s)
    else match s.cts.find? (fun c => c.plot = p.id && c.ctx = area && c.status != .ended) with
      | none => (2, s)
      | some c =>
        let cs := if c.status = .saved then s.gang c.launch c.gang else [c]
        if !cs.all s.mayResume then (4, s)
        else if 1 < c.size then
          (match s.gangPlace p cs core with
            | none => (4, s)
            | some cl => (1, cs.foldl (fun (t : State) d => t.resumeIn d (d.slotIn cl)) s))
        else match s.resumePlace p c core with
          | none => (4, s)
          | some id =>
            if s.sameWidth c id || (c.mark.isSome && !c.dual) then (1, s.resumeIn c id) else (4, s)) s

/-- PREEMPT (R222, R242): every member that holds a slot is saved, at a point at which its delayed stores can be performed; the
entry names their context areas by rank. -/
def execPreempt (s : State) : Res :=
  unlessBusy (fun s => match s.ctOf (BitVec.ofNat 10 (s.arg 0)) with
    | some c => !((s.gang c.launch c.gang).filter Ct.inSlot).all s.settled
    | none => false) (plotCommand 0x05 16 fun p s =>
    let id := s.arg 0
    if 1024 ≤ id then (2, s)
    else if !p.clusters.getLsbD (id / 32) then (3, s)
    else match s.ctOf (BitVec.ofNat 10 id) with
      | none => (4, s)
      | some c =>
        let cs := (s.gang c.launch c.gang).filter Ct.inSlot
        (1, cs.foldl (fun (t : State) d =>
          (t.park d).unitStore (ringAt s.pkg.ring + 0x10 + 4 * d.rank) 4 d.ctx) s)) s

/-- ABANDON (R255, R289, R345): a launch, or one gang of it, which the second argument numbers from 1. A launch of which a gang is
abandoned ends as an abandoned one, its GANGS those that had halted by then. While the completion record of a launch waits, so does the
command. -/
def execAbandon (s : State) : Res :=
  commandMay 0x06 24 (fun s => match s.plotOf (s.cmdBytes 1 1) with
    | none => (some 2, s)
    | some p =>
    let g := s.arg 1
    match s.launchOf (s.arg 0) with
    | none => (some 2, s)
    | some l =>
      if l.plot ≠ p.id then (some 3, s)
      else if l.fin ≠ 0 then (some 4, s)
      else if g = 0 then
        (let t := s.abandon l
         if (t.launchOf l.id).any (fun k => decide (k.fin = 0)) then (none, t) else (some 1, t.afterEnd l.id))
      else if max l.count l.d.floor < g then (some 2, s)
      else if l.halted.contains (g - 1) then (some 4, s)
      else
        let rest := fun (gs : List Nat) => gs.filter (· != g - 1)
        let unrec := l.unrec.filter (fun x => x.1 != g - 1)
        let ended := (l.halted ++ unrec.map (·.1)).filter (fun h => !l.isProv h)
        (some 1, (s.prune l.id (g - 1)).setLaunch { l with
          aband := true, counted := some (l.counted.getD ended.length), todo := rest l.todo, graft := rest l.graft, unrec := unrec,
          spec := l.spec.map (fun sp => { sp with toCommit := rest sp.toCommit, parked := rest sp.parked }) })) s

/-- CANCEL (R265): the claims of a failed copy are released, its lines stay unwritten. -/
def execCancel (s : State) : Res :=
  plotCommand 0x0A 24 (fun p s =>
    let id := s.arg 0
    if 1024 ≤ id then (2, s)
    else if !p.clusters.getLsbD (id / 32) then (3, s)
    else match s.ctOf (BitVec.ofNat 10 id) with
      | none => (4, s)
      | some c =>
        match c.copies.find? (fun y => y.ticket = s.arg 1) with
        | none => (2, s)
        | some y =>
          if y.err.isNone then (4, s)
          else
            let t := s.dropReqs c (fun r => decide (r.key % 4 = 3 ∧ r.key / 2 ^ 80 = y.ticket))
            (1, (t.releaseFar c.plot y.far).onKey c.key (fun d => d.setCopy
              { y with done := true, err := none, pages := [], todo := [], held := [], claims := [], far := [] }))) s

/-! ### Memory -/

/-- Pages lo to hi of an address space have come to map a page that a migration made. -/
def State.mapsTo (s : State) (p : Plot) (aspace lo hi : Nat) (new : Nat) : Bool :=
  (natRange lo hi).any (fun pg => match s.walk (.plot (some p)) (s.rootOf p aspace) (pg * pageSize) with
    | .ok e => s.ownPa (entryPa e) = new
    | .error _ => false)

/-- Whether a request was made through an address space of a plot: by a CT, a copy, a launch, a run or a queue. -/
def State.reqIn (s : State) (plot aspace : Nat) (r : Req) : Bool :=
  let k := r.key % 2 ^ 40
  s.cts.any (fun c => c.plot = plot && c.aspace = aspace && decide (k / 4 = c.key)) ||
    s.pkg.launches.any (fun l => l.plot = plot && l.d.aspace = aspace && decide (k = Launch.port l.id 0)) ||
    s.pkg.runs.any (fun r => r.plot = plot && r.aspace = aspace && decide (k = runPort r.id)) ||
    s.pkg.queues.any (fun q => q.plot = plot && q.aspace = aspace && decide (k / 4 = queuePort q.q 0 / 4))
/-- Whether an access made under the old entries of an address space is still incomplete: a request without an answer, a delayed
store that a claim holds back (R228). -/
def State.oldAccess (s : State) (plot aspace : Nat) : Bool :=
  s.pkg.reqs.any (fun r => r.ans.isNone && s.reqIn plot aspace r) || !s.usersFree plot aspace
/-- Every access made under the old entries is complete: the delayed stores are performed, what was read is read again. -/
def State.renewed (s : State) (plot aspace : Nat) : State :=
  let t := s.flushUsers plot aspace
  { t with pkg := { t.pkg with reqs := t.pkg.reqs.filter (fun r => !(r.op == ReqOp.read && t.reqIn plot aspace r)) } }.reclaim

/-- INVAL (R228, R260): a start and an end address, and the address space. It is done when every access made under the old entries
is complete. A migration whose new page the range now maps is over: its old page is free. -/
def execInval (s : State) : Res :=
  unlessBusy (fun s => s.oldAccess (s.cmdBytes 1 1) (s.arg 2)) (plotCommand 0x07 32 fun p s =>
    let a := BitVec.ofNat 64 (s.arg 0)
    let b := BitVec.ofNat 64 (s.arg 1)
    let asp := s.arg 2
    if !canonical a ∨ !canonical b ∨ va55 b < va55 a ∨ asp = 0 ∨ 255 < asp then (2, s)
    else
      let lo := va55 a / pageSize
      let hi := (va55 b + pageSize - 1) / pageSize
      let t := (s.inval p.id asp lo hi).renewed p.id asp
      (1, { t with pkg := { t.pkg with migr := t.pkg.migr.filter (fun m =>
        !(m.plot = p.id && m.entry.isNone && t.mapsTo p asp lo hi m.new)) } })) s

/-- MIGRATE (R260): the command is done when the last line has been copied. -/
def execMigrate (s : State) : Res :=
  .next (if s.migrating || decide (s.cmdBytes 0 1 ≠ 0x08) then s
    else
      let old := s.ownPa (s.arg 0)
      let new := s.ownPa (s.arg 1)
      if s.cmdBytes 24 40 ≠ 0 ∨ old % pageSize ≠ 0 ∨ new % pageSize ≠ 0 ∨ old = new then s.complete 2
      else match s.plotOf (s.cmdBytes 1 1) with
        | none => s.complete 2
        | some p =>
          if !s.inUnits p.memory old pageSize ∨ !s.inUnits p.memory new pageSize then s.complete 3
          else if s.pkg.migr.any (fun m => m.old = old || m.old = new || m.new = old || m.new = new) then s.complete 4
          else { s with pkg := { s.pkg with migr := ⟨p.id, old, new, 0, some s.pkg.ring⟩ :: s.pkg.migr } })

/-- Whether a copy claims the line of the slot that a command names. -/
def State.slotBusy (s : State) : Bool :=
  match s.plotOf (s.cmdBytes 1 1) with
  | some p => s.nodesBusy p (s.arg 0)
  | none => false
/-- SWEEP (R313, R319). -/
def execSweep (s : State) : Res := unlessBusy State.slotBusy (plotCommand 0x09 16 fun p s => s.sweepSlot p (s.arg 0)) s

/-- TRELLIS_REPAIR (R319). -/
def execTrellisRepair (s : State) : Res :=
  unlessBusy (fun s => s.slotBusy || s.paBusy (s.arg 1) .load) (plotCommand 0x0E 24 fun p s =>
    let i := s.arg 0
    let a := s.ownPa (s.arg 1)
    if a % 128 ≠ 0 then (2, s)
    else if 2 ^ p.tsz ≤ i / 2 * 2 + 1 ∨ !s.inUnits p.memory a 128 then (3, s)
    else if s.poisoned (s.home a) then (4, s.meets (lineOf (s.home a)))
    else (1, s.repairLine p i (s.mem.readN (s.home a) 128))) s

/-! ### The tables -/

/-- A range of 64 KiB units from a multiple of 64 KiB. -/
def unitsOk (base size : Nat) : Bool := decide (base % pageSize = 0 ∧ 1 ≤ size)

/-- GRANT (R377). -/
def execGrant (s : State) : Res :=
  plotCommand 0x0D 24 (fun p s =>
    let i := s.cmdBytes 0x08 1
    let acc := s.cmdBytes 0x0B 1
    let g : Grant := ⟨i, s.cmdBytes 0x09 1, s.cmdBytes 0x0A 1, p.id, acc, s.cmdBytes 0x0C 4, s.cmdBytes 0x10 8⟩
    let rest := s.pkg.grants.filter (fun x => x.idx != i)
    if 63 < i ∨ 3 < acc then (2, s)
    else if acc = 0 then (1, { s with pkg := { s.pkg with grants := rest } })
    else if !decide (1 ≤ g.srcFid ∧ g.srcFid ≤ 31 ∧ g.srcPlot ≤ 7) ∨ !unitsOk g.base g.size ∨ 2 ^ 47 ≤ g.base then (2, s)
    else if !s.inUnits p.memory g.base (g.size * pageSize) then (3, s)
    else (1, { s with pkg := { s.pkg with grants := g :: rest } })) s

/-- HOSTWIN (R368). -/
def execHostwin (s : State) : Res :=
  plotCommand 0x0F 32 (fun p s =>
    let i := s.cmdBytes 0x08 1
    let acc := s.cmdBytes 0x09 1
    let w : HostWin := ⟨i, acc, s.cmdBytes 0x0C 4, s.cmdBytes 0x10 8, s.ownPa (s.cmdBytes 0x18 8)⟩
    let rest := s.pkg.hostWins.filter (fun x => x.idx != i)
    if 15 < i ∨ 3 < acc ∨ s.cmdBytes 0x0A 2 ≠ 0 then (2, s)
    else if acc = 0 then (1, { s with pkg := { s.pkg with hostWins := rest } })
    else if !unitsOk w.off w.size ∨ w.pa % pageSize ≠ 0 ∨ 64 * 2 ^ 30 < w.off + w.size * pageSize ∨
        rest.any (fun x => rangesShare x.off (x.size * pageSize) w.off (w.size * pageSize)) then (2, s)
    else if !s.inUnits p.memory w.pa (w.size * pageSize) then (3, s)
    else (1, { s with pkg := { s.pkg with hostWins := w :: rest } })) s

/-- ADDRWIN (R351). -/
def execAddrwin (s : State) : Res :=
  plotCommand 0x10 24 (fun p s =>
    let i := s.cmdBytes 0x08 1
    let acc := s.cmdBytes 0x09 1
    let w : AddrWin := ⟨p.id, i, acc, s.cmdBytes 0x0A 2, s.cmdBytes 0x0C 4, s.cmdBytes 0x10 8⟩
    let rest := s.pkg.wins.filter (fun x => !(x.plot = p.id && x.idx = i))
    if 63 < i ∨ 3 < acc then (2, s)
    else if acc = 0 then (1, { s with pkg := { s.pkg with wins := rest } })
    else if w.aspace = 0 ∨ 255 < w.aspace ∨ !unitsOk w.base w.size then (2, s)
    else (1, { s with pkg := { s.pkg with wins := w :: rest } })) s

/-- A queue as its descriptor gives it (R350). -/
def queueOf (q v next : Nat) : HostQ where
  q := q
  base := recBytes v 0x00 8
  logn := recBytes v 0x08 4
  plot := recBytes v 0x0C 1
  cls := recBytes v 0x0D 1
  ver := recBytes v 0x0E 2
  opmask := recBytes v 0x10 4
  aspace := recBytes v 0x14 2
  err := BitVec.ofNat 64 (recBytes v 0x18 8)
  ranges := (List.range 8).map fun i => recBytes v (0x20 + 4 * i) 4
  next := next
  first := none
  running := true
  pend := none
/-- Its fields lie in their ranges. -/
def queueOk (v : Nat) : Bool :=
  let h := queueOf 0 v 0
  decide (h.base % 64 = 0 ∧ h.logn ≤ 15 ∧ h.cls ≤ 3 ∧ h.ver = 1 ∧ 1 ≤ h.aspace ∧ h.aspace ≤ 255 ∧ recBytes v 0x16 2 = 0) &&
    h.ranges.all (fun r => decide (r < 64 ∨ r = 0xFFFFFFFF))

/-- QUEUE (R345, R350, R354): announces a queue and starts it at an index, restarts it, or stops it. -/
def execQueue (s : State) : Res :=
  unlessBusy (fun s => s.paBusy (s.arg 1) .load) (command 0x0B 32 fun s =>
    let q := s.arg 0
    let a := s.ownPa (s.arg 1)
    if 63 < q then (2, s)
    else if a = 0 then
      (1, { s with pkg := { s.pkg with queues := s.pkg.queues.map (fun h => if h.q = q then { h with running := false } else h) } })
    else if a % 64 ≠ 0 ∨ s.inStack a = false then (2, s)
    else if s.poisoned (s.home a) then (2, s.meets (lineOf (s.home a)))
    else
      let v := s.mem.readN (s.home a) 64
      let h := queueOf q v (s.arg 2)
      if !queueOk v ∨ (s.plotOf h.plot).isNone then (2, s)
      else
        let mine := fun (r : Req) => decide (r.key % 2 ^ 40 / 4 = queuePort q 0 / 4)
        (1, { s with pkg := { s.pkg with
          queues := h :: s.pkg.queues.filter (fun x => x.q != q), reqs := s.pkg.reqs.filter (fun r => !mine r) } })) s

end Sys2Proof.Machine
end

