-- ==== Sys2Proof/Machine/Firmware.lean ====
section
/-! DEFINITION. System-core interrupts, boot, the lease and the heartbeats of the firmware cores, sensors and clocks, attestation (spec
chapter 22, R342, R343, R347 to R349, R359 to R362). -/
namespace Sys2Proof.Machine

/-! ### Interrupts (R342, R343) -/

/-- Whether source 0x80 + n is pending on a system core. -/
def SysCore.has (c : SysCore) (n : Nat) (now : Word) : Bool :=
  if n = 5 then decide (c.xtimecmp ≤ now) else decide (n < 5) && c.irq.getLsbD n
/-- IE at the level that would take the interrupt. -/
def SysCore.takes (c : SysCore) : Bool := if c.pl = 2 then c.fs.ie else c.xs.ie

/-- INTERRUPT: a pending source is taken between words. A core that waits in HALT goes on after it on the return. -/
def execInterrupt (core : BitVec 4) (src : BitVec 3) (s : State) : Res :=
  let n := core.toNat
  let c := s.sysCore n
  .next (if c.st.halted || c.st.wait.isSome || !c.takes || !c.has src.toNat s.time then s
    else
      let d := { c with waiting := false, irq := if src.toNat < 5 then c.irq &&& ~~~(1#5 <<< src.toNat) else c.irq }
      let t := sysTrap d (if c.waiting then c.st.pc + 4 else c.st.pc) (2 ^ 63 + 0x80 + BitVec.ofNat 64 src.toNat)
        (Config.freeValue s.draws)
      { s.setSys n t with draws := s.draws + 1 })

/-- TIMER_INTERRUPT: device time reaches xtimecmp; from then on the timer's source is pending. -/
def execTimerInterrupt (core : BitVec 4) (s : State) : Res :=
  let d := (s.sysCore core.toNat).xtimecmp
  .next { s with time := if s.time ≤ d then d else s.time }

/-! ### Boot (R359, R360) -/

def copySize : Nat := 512 * 2 ^ 20

/-- A manifest entry. -/
structure MEntry where
  type : Nat
  secver : Nat
  flash : Nat
  size : Nat
  load : Nat
  entry : Nat
  pad : Nat
  digest : Nat
  deriving DecidableEq, Repr

/-- n bytes of the flash. -/
def State.flashN (s : State) (a n : Nat) : Nat := Memory.readN s.pkg.flash a n
/-- The entries of the copy at an offset. -/
def State.entries (s : State) (o : Nat) : List MEntry :=
  (List.range (s.flashN (o + 6) 2)).map fun i =>
    let e := o + 64 + 96 * i
    let f := fun (k n : Nat) => s.flashN (e + k) n
    ⟨f 0 4, f 4 4, f 8 8, f 0x10 8, f 0x18 8, f 0x20 8, f 0x28 8, f 0x30 48⟩

/-- How many entries have a type. -/
def typeCount (es : List MEntry) (t : Nat) : Nat := (es.filter (fun e => e.type = t)).length

/-- An entry passes; an image's security version, its place in the copy, its digest. The firmware region has no image. -/
def State.imageOk (s : State) (o : Nat) (e : MEntry) : Bool :=
  decide (1 ≤ e.type ∧ e.type ≤ 5 ∧ e.pad = 0) &&
    (if e.type = 5 then decide (e.flash = 0 ∧ e.digest = 0 ∧ e.entry = 0)
    else decide (s.pkg.boot.fuse ≤ e.secver ∧ e.flash + e.size ≤ copySize ∧
        (Config.sha384 e.size (s.flashN (o + e.flash) e.size)).toNat = e.digest) &&
      (e.type ≠ 4 || e.entry = 0))

/-- Offsets of the key block and of the signature block. -/
def keyOff (count : Nat) : Nat := (64 + 96 * count + 63) / 64 * 64
def sigOff (count : Nat) : Nat := keyOff count + 3968

/-- The checks of step 2 on the manifest of the copy at an offset, before its images. -/
def State.manifestOk (s : State) (o : Nat) : Bool :=
  let f := fun (k n : Nat) => s.flashN (o + k) n
  let n := f 6 2
  let k := keyOff n
  let sig := sigOff n
  let es := s.entries o
  let digest := Config.sha384 sig (f 0 sig)
  decide (f 0 4 = 0x4E4D4759 ∧ f 4 2 = 1 ∧ 1 ≤ n ∧ n ≤ 64 ∧ f 0x0C 4 = k ∧ f 0x10 4 = sig ∧ f 0x14 44 = 0 ∧ sig + 3373 ≤ copySize) &&
    decide ((Config.sha384 32 (f k 32)).toNat = s.pkg.boot.keyDigests.1 ∧
      (Config.sha384 1952 (f (k + 32) 1952)).toNat = s.pkg.boot.keyDigests.2) &&
    Config.ed25519 (f k 32) digest (f sig 64) && Config.mldsa65 (f (k + 32) 1952) digest (f (sig + 64) 3309) &&
    decide (typeCount es 1 = 1 ∧ typeCount es 2 = 1 ∧ typeCount es 3 = 1 ∧ typeCount es 5 ≤ 1) &&
    es.all (fun e => decide (e.secver ≤ f 8 4))
/-- The checks of step 2 on the copy at an offset. -/
def State.copyOk (s : State) (o : Nat) : Bool := s.manifestOk o && (s.entries o).all (s.imageOk o)
/-- The image at which a copy fails, by its entry: the first that does not pass; 64, which no entry has, where the manifest itself
does not. -/
def State.failAt (s : State) (o : Nat) : Nat :=
  if s.manifestOk o then (s.entries o).findIdx (fun e => !s.imageOk o e) else 64

/-- Steps 4 and 5 from a good copy: images loaded, firmware cores running, system core 0 at the supervisor's entry point. -/
def State.start (s : State) (o : Nat) : State :=
  let es := s.entries o
  let k := o + keyOff (s.flashN (o + 6) 2)
  let entry := ((es.find? (fun e => e.type = 3)).map (·.entry)).getD 0
  let region := ((es.find? (fun e => e.type = 5)).map (fun e => (e.load, e.size))).getD (0, 0)
  let mem := (es.filter (fun e => e.type ≠ 5)).foldl (fun (m : Memory) e => m.copyFrom s.pkg.flash (o + e.flash) e.load e.size) s.mem
  let boot := { s.pkg.boot with
    booted := true, secver := s.flashN (o + 8) 4, digests := (es.filter (fun e => e.type ≠ 5)).map (·.digest),
    pkgKeys := (s.flashN (k + 1984) 32, s.flashN (k + 2016) 1952), region := region }
  let c := s.sysCore 0
  let t := { s with mem := mem, pkg := { s.pkg with boot := boot } }
  t.setSys 0 { c with st := { c.st with pc := asPc (BitVec.ofNat 64 entry), halted := false } }

/-- The supervisor asks at firmware level for the fuse counter to rise to a number, at most the security version of the running
manifest. -/
def State.raiseFuse (s : State) (n : Nat) : State :=
  let b := s.pkg.boot
  if b.fuse < n ∧ n ≤ b.secver ∧ s.sys.any (fun c => c.pl = 2 && !c.st.halted) then
    { s with pkg := { s.pkg with boot := { b with fuse := n } } }
  else s

/-- BOOT: copy A, else copy B; if both fail the module stays in reset and the status register holds the copy, the step and the
image that failed, in a layout that the spec does not give. On a module that has booted, the supervisor's next request for the fuse counter is met. -/
def execBoot (s : State) : Res :=
  .next (if s.pkg.boot.booted then (match s.pkg.boot.raises with
      | [] => s
      | n :: rest => State.raiseFuse { s with pkg := { s.pkg with boot := { s.pkg.boot with raises := rest } } } n)
    else if s.copyOk 0 then s.start 0
    else if s.copyOk copySize then s.start copySize
    else
      let boot := { s.pkg.boot with status := Config.bootCode 1 2 (s.failAt copySize) }
      { s with pkg := { s.pkg with boot := boot } })

/-! ### The lease (R347, R348) -/

def beatAddr (d : Nat) : Nat := regBase + 8 + 8 * d
def State.setFw (s : State) (d : Nat) (c : FwCore) : State := { s with pkg := { s.pkg with fw := s.pkg.fw.setIfInBounds d c } }
/-- The lease word: EXPIRY, HOLDER. -/
def State.lease (s : State) : Word := BitVec.ofNat 64 (s.mem.readN leaseAddr 8)
/-- A lease that die d takes or renews now. -/
def State.newLease (s : State) (d : Nat) : Word := ((s.time + 5000000) &&& ~~~7) ||| BitVec.ofNat 64 d
/-- The die's core holds the lease with a new word. -/
def State.hold (s : State) (d : Nat) : State :=
  let w := s.newLease d
  (s.unitStore leaseAddr 8 w.toNat).setFw d { s.fwCore d with leader := true, seen := w }


/-- LEASE_RENEW: the compare-and-swap of the leader; one that fails ends its leadership. -/
def execLeaseRenew (die : BitVec 3) (s : State) : Res :=
  let d := die.toNat
  let c := s.fwCore d
  .next (if !s.fwRuns d || !c.leader then s
    else if s.lease = c.seen then s.hold d else s.setFw d { c with leader := false })

/-- The gangs of a launch that have been dispensed and not recorded complete (R349). -/
def State.dispensed (s : State) (l : Launch) : List Nat :=
  (((s.cts.filter (fun c => c.launch = l.id && c.status != .ended)).map (·.gang)) ++ l.unrec.map (·.1)).eraseDups.filter
    (fun g => !l.halted.contains g)

/-- The rebuild for one launch: such gangs are abandoned, its end will be INDETERMINATE, and that is logged. -/
def State.rebuild (s : State) (d : Nat) (l : Launch) : State :=
  let gs := s.dispensed l
  if l.fin ≠ 0 ∨ gs = [] then s
  else
    let t := gs.foldl (fun (t : State) g => t.prune l.id g) s
    let spec := l.spec.map (fun p => { p with
      toCommit := p.toCommit.filter (fun g => !gs.contains g), parked := p.parked.filter (fun g => !gs.contains g) })
    (t.setLaunch { l with indet := true, unrec := [], spec := spec }).logKind 4 d 3 0 0 l.id

/-- LEASE_POLL: a follower takes an expired lease; where the former holder stands halted it rebuilds the tables. -/
def execLeasePoll (die : BitVec 3) (s : State) : Res :=
  let d := die.toNat
  let w := s.lease
  .next (if !s.fwRuns d || (s.fwCore d).leader || decide (s.time < expiry w) then s
    else
      let t := (s.hold d).logKind 4 d 2 0 0 0
      if (s.fwCore (w.toNat % 8)).halted && decide (w.toNat % 8 ≠ d) then
        (s.pkg.launches.foldl (fun (t : State) l => t.rebuild d l) t).tables
      else t)

/-- HEARTBEAT_WRITE (R349). -/
def execHeartbeatWrite (die : BitVec 3) (s : State) : Res :=
  .next (if s.fwRuns die.toNat then s.unitStore (beatAddr die.toNat) 8 s.time.toNat else s)

/-- The completions that a halted distributor has not recorded are recorded by the core that now serves the die. -/
def Launch.record (l : Launch) (dies : List Nat) : Launch :=
  { l with
    halted := l.halted ++ (l.unrec.filter (fun x => dies.contains x.2)).map (·.1),
    unrec := l.unrec.filter (fun x => !dies.contains x.2) }

/-- HEARTBEAT_CHECK (R347, R348): the leader, while it may act, takes over the distributors of a core whose heartbeat is older
than 5 ms. -/
def execHeartbeatCheck (leader die : BitVec 3) (s : State) : Res :=
  let k := leader.toNat
  let d := die.toNat
  let beat := BitVec.ofNat 64 (s.mem.readN (beatAddr d) 8)
  .next (if !s.leads k || decide (k = d ∨ 4 < d) || decide ((s.time - beat).toNat ≤ 5000000) then s
    else
      let dies := (List.range 4).filter (fun x => s.pkg.dist.toList.getD x 0 = d)
      State.tables { s with pkg := { s.pkg with
        dist := s.pkg.dist.map (fun x => if x = d then k else x),
        launches := s.pkg.launches.map (fun l => l.record dies) } })

/-- FIRMWARE_ECC_HALT (R348). -/
def execFirmwareEccHalt (die : BitVec 3) (s : State) : Res :=
  let d := die.toNat
  .next (if !s.fwRuns d then s
    else (s.setFw d { s.fwCore d with halted := true, leader := false }).logKind 4 d 1 0 0 0)

/-! ### Health (R362) -/

/-- A signed value as 4 bytes. -/
def signed4 (x : Int) : Nat := (x % 2 ^ 32).toNat
def State.dieClock (s : State) (d : Nat) : Nat := s.pkg.clock.toList.getD d 0
/-- The clock that throttling never exceeds: the shipped part's. -/
def fullClock (d : Nat) : Nat := if d = 4 then 3000 else 1200

/-- SENSOR_READ: a reading; a shutdown is logged and takes the module's power. -/
def execSensorRead (die : BitVec 3) (reading : Reading) (s : State) : Res :=
  let d := die.toNat
  .next (if 4 < d then s
    else match reading with
      | .temp sensor x =>
        let k := d * 16 + sensor.toNat
        let t := { s with pkg := { s.pkg with temps := (k, x) :: s.pkg.temps.filter (fun p => p.1 != k) } }
        if 12000 ≤ x then { t.logKind 2 d 3 sensor.toNat (signed4 x) (s.dieClock d) with powered := false } else t
      | .rail n mv nominal =>
        if 20 * mv < 19 * nominal ∨ 21 * nominal < 20 * mv then
          { s.logKind 2 d 4 n mv (s.dieClock d) with powered := false }
        else s)

/-- A clock step and its log entry; where several sensors of the die may be named, the one named is free. -/
def State.stepClock (s : State) (d ev clk : Nat) (cand : List (Nat × Int)) : State :=
  let p := (cand[(Config.freeValue s.draws).toNat % cand.length]?).getD (0, 0)
  let t := { s with pkg := { s.pkg with clock := s.pkg.clock.setIfInBounds d clk }, draws := s.draws + 1 }
  t.logKind 2 d ev (p.1 % 16) (signed4 p.2) clk

/-- CLOCK_STEP: a die with a sensor at or above 105 °C slows down by 100 MHz, to 400 MHz at least; one whose sensors are all
below 100 °C speeds up. -/
def execClockStep (die : BitVec 3) (s : State) : Res :=
  let d := die.toNat
  let mine := s.pkg.temps.filter (fun p => p.1 / 16 = d)
  let hot := mine.filter (fun p => decide (10500 ≤ p.2))
  let clk := s.dieClock d
  .next (if 4 < d then s
    else if hot ≠ [] ∧ 400 < clk then s.stepClock d 1 (max 400 (clk - 100)) hot
    else if (mine.all (fun p => decide (p.2 < 10000))) = true ∧ clk < fullClock d then s.stepClock d 2 (min (fullClock d) (clk + 100)) mine
    else s)

/-! ### Attestation (R361) -/

/-- A message whose response DMTF's SPDM gives: its contents are a free value. -/
def State.spdm (s : State) (msg : Nat) : State :=
  if s.pkg.boot.booted then { s with pkg := { s.pkg with doe := .other msg (Config.freeValue s.draws) }, draws := s.draws + 1 } else s

def execGetVersion (s : State) : Res := .next (s.spdm 0)
def execGetCapabilities (s : State) : Res := .next (s.spdm 1)
def execNegotiateAlgorithms (s : State) : Res := .next (s.spdm 2)
def execGetDigests (s : State) : Res := .next (s.spdm 3)
def execGetCertificate (s : State) : Res := .next (s.spdm 4)
def execChallenge (s : State) : Res := .next (s.spdm 5)

/-- The bytes of the G1 report before its signatures: nonce, TIME, the 4-byte fuse counter, the digests. -/
def reportBytes (nonce time fuse : Nat) (ds : List Nat) : Nat × Nat :=
  (44 + 48 * ds.length, nonce + 2 ^ 256 * time + 2 ^ 320 * (fuse % 2 ^ 32) + 2 ^ 352 * ds.foldr (fun x acc => x + 2 ^ 384 * acc) 0)

/-- GET_MEASUREMENTS: index 0xF0 is the G1 report. -/
def execGetMeasurements (index : BitVec 8) (nonce : BitVec 256) (s : State) : Res :=
  .next (if index ≠ 0xF0 || !s.pkg.boot.booted then s.spdm 6
    else
      let ds := s.pkg.boot.digests ++ s.pkg.graphs.map (·.digest)
      let b := reportBytes nonce.toNat s.time.toNat s.pkg.boot.fuse ds
      let h := Config.sha384 b.1 b.2
      { s with pkg := { s.pkg with
        doe := .report nonce.toNat s.time s.pkg.boot.fuse ds (Config.edSign h) (Config.mlSign h) } })

end Sys2Proof.Machine
end

