-- ==== Sys2Proof/Machine/Fabric.lean ====
section
/-! DEFINITION. The fabric and the host: flits and ports, requests of other modules and answers to this one's, host accesses,
collectives, time (spec chapter 23, R366 to R382). -/
namespace Sys2Proof.Machine

/-! ### Flits (R369) -/

def Flit.seq (f : Flit) : BitVec 16 := f.extractLsb' 0 16
def Flit.ack (f : Flit) : BitVec 16 := f.extractLsb' 16 16
def Flit.vc (f : Flit) : Nat := (f.extractLsb' 32 3).toNat
def Flit.type (f : Flit) : Nat := (f.extractLsb' 36 4).toNat
def Flit.dest (f : Flit) : Nat := (f.extractLsb' 40 5).toNat
def Flit.src (f : Flit) : Nat := (f.extractLsb' 48 5).toNat
def Flit.payload (f : Flit) : BitVec 1920 := f.extractLsb' 64 1920
def Flit.crc (f : Flit) : BitVec 64 := f.extractLsb' 1984 64

def State.portAt (s : State) (p : Nat) : Port := s.pkg.ports.toList.getD p .zero
def State.setPort (s : State) (p : Nat) (q : Port) : State := { s with pkg := { s.pkg with ports := s.pkg.ports.setIfInBounds p q } }

/-- The flits that an ACK covers leave the retry buffer (R370). -/
def Port.acked (q : Port) (a : BitVec 16) : Port := { q with retry := q.retry.filter (fun x => decide (32768 ≤ (a - x.seq).toNat)) }
/-- The receiver asks for the SEQ that it expects. -/
def Port.reject (q : Port) (fid : Nat) : Port := { q with nak := some q.rx, out := [] }.control 1 fid (q.rx.setWidth 1920)
/-- A replay from a SEQ, in order (R370). -/
def Port.replayFrom (q : Port) (n : BitVec 16) : Port :=
  { q with replay := some n, out := (q.retry.dropWhile (fun x => x.seq != n)).map (·.flit) }
/-- The capability flit that this end sends at training (R373): version 1.0, FID, the lane mask. -/
def Port.offer (q : Port) (fid : Nat) : Port := q.control 5 fid (BitVec.ofNat 1920 (1 + 2 ^ 32 * fid + 2 ^ 40 * q.lanes.toNat))

/-- A flit arrives at a port as one of a type: one with a bad CRC, whatever its TYPE says, or with another SEQ than the next is
rejected; a good one of the type counts, with its ACK, then `f` acts. -/
def receive (port : BitVec 4) (flit : Flit) (type : Nat) (f : Port → State → State) (s : State) : Res :=
  let p := port.toNat
  let q := s.portAt p
  .next (if 12 ≤ p ∨ (!q.up && decide (type ≠ 5)) then s
    else if flit.crcOf ≠ flit.crc then s.setPort p (q.reject s.pkg.fid)
    else if flit.type ≠ type then s
    else if flit.seq ≠ q.rx then s.setPort p (q.reject s.pkg.fid)
    else f ({ q with rx := q.rx + 1, nak := none }.acked flit.ack) s)

/-- DATA_FLIT (R370): the flit whose turn it is, is delivered, where it is meant for this module. -/
def execDataFlit (port : BitVec 4) (flit : BitVec 2048) (s : State) : Res :=
  receive port flit 0 (fun q s => s.setPort port.toNat
    (if Flit.dest flit = s.pkg.fid then { q with inbox := q.inbox ++ [(Flit.vc flit, Flit.src flit, Flit.payload flit)] } else q)) s

/-- NAK_FLIT (R370): the sender replays from the SEQ that the payload begins with. -/
def execNakFlit (port : BitVec 4) (flit : BitVec 2048) (s : State) : Res :=
  receive port flit 1 (fun q s => s.setPort port.toNat (q.replayFrom ((Flit.payload flit).extractLsb' 0 16))) s

/-- The virtual channels that may be paused: 0 and 2 (R371). -/
def pausable (vc : Nat) : Bool := vc = 0 || vc = 2
def vcBit (vc : Nat) : BitVec 8 := 1#8 <<< vc

/-- PAUSE_FLIT and RESUME_FLIT (R371). -/
def execPauseFlit (port : BitVec 4) (flit : BitVec 2048) (s : State) : Res :=
  receive port flit 2 (fun q s => s.setPort port.toNat
    (if pausable (Flit.vc flit) then { q with paused := q.paused ||| vcBit (Flit.vc flit) } else q)) s
def execResumeFlit (port : BitVec 4) (flit : BitVec 2048) (s : State) : Res :=
  receive port flit 3 (fun q s => s.setPort port.toNat { q with paused := q.paused &&& ~~~(vcBit (Flit.vc flit)) }) s

/-- IDLE_FLIT (R369): the acknowledgement alone. -/
def execIdleFlit (port : BitVec 4) (flit : BitVec 2048) (s : State) : Res :=
  receive port flit 4 (fun q s => s.setPort port.toNat q) s

/-- A log entry of KIND 5: EVENT, the usable lanes, the partner's version (R365). -/
def State.logLink (s : State) (p ev ver : Nat) : State := s.logKind 5 p ev (laneCount (s.portAt p).lanes) ver 0
/-- A port's usable lanes become those of a mask; a change is logged (R372). -/
def State.setLanes (s : State) (p : Nat) (q : Port) (m : BitVec 8) : State :=
  let t := s.setPort p { q with lanes := m }
  if m = q.lanes then t else t.logLink p 3 0

/-- CAPABILITY_FLIT (R373): with MAJOR 1 the port is up, at the lower MINOR, on the lanes that both ends have; otherwise it
stays down. A port that was down has offered its own. -/
def execCapabilityFlit (port : BitVec 4) (flit : BitVec 2048) (s : State) : Res :=
  receive port flit 5 (fun q s =>
    let major := ((Flit.payload flit).extractLsb' 0 16).toNat
    let minor := ((Flit.payload flit).extractLsb' 16 16).toNat
    let mask := (Flit.payload flit).extractLsb' 40 8
    let q := { q with partner := ((Flit.payload flit).extractLsb' 32 5).toNat }
    let q := if q.up then q else { q with out := [] }.offer s.pkg.fid
    if major ≠ 1 then (s.setPort port.toNat { q with up := false }).logLink port.toNat 4 (major * 65536 + minor)
    else s.setLanes port.toNat { q with up := true, minor := min 0 minor } (q.lanes &&& mask)) s

/-- LINK_RETRAIN (R370, R372, R373): lanes that fail are removed, the retry buffer is replayed, the capability flit goes out; three
failures within 10 ms take the port down. -/
def execLinkRetrain (port : BitVec 4) (ok : Bool) (bad : BitVec 8) (s : State) : Res :=
  let p := port.toNat
  let q := s.portAt p
  .next (if 12 ≤ p then s
    else
      let t := s.logLink p 1 0
      if ok then
        let q := match q.retry with
          | [] => { q with replay := none, out := [] }
          | x :: _ => q.replayFrom x.seq
        let u := t.setLanes p q (q.lanes &&& ~~~bad)
        u.setPort p ((u.portAt p).offer s.pkg.fid)
      else
        let fails := s.time :: q.fails.filter (fun x => decide ((s.time - x).toNat ≤ 10000000))
        if 3 ≤ fails.length ∧ q.up then (t.setPort p { q with fails := fails, up := false }).logLink p 2 0
        else t.setPort p { q with fails := fails })

/-! ### Requests from outside (R367, R375 to R379) -/

/-- The lines of n bytes at a physical address, where they stand now (R260). -/
def State.homeLines (s : State) (pa n : Nat) : List Nat :=
  (natRange (pa / 128) ((pa + max n 1 - 1) / 128 + 1)).map fun k => lineOf (s.home (128 * k))

/-- What an access of another agent in main memory comes to: it meets poison, or is performed. -/
inductive HomeRes where
  | poison (line : Nat)
  | done (x : Nat) (s : State)

/-- Whether what is asked writes, reads. -/
def ReqOp.writes : ReqOp → Bool
  | .write _ => true
  | .amo _ _ _ => true
  | .merge _ _ => true
  | _ => false
def ReqOp.reads : ReqOp → Bool
  | .read => true
  | .amo _ _ _ => true
  | .merge _ _ => true
  | _ => false

/-- Whether a copy's claim holds back a request: one of this module, or of another than the asker's (R261, R379). -/
def State.inboundHeld (s : State) (x : Inbound) : Bool :=
  let k := if x.op.writes then Kind.store else .load
  (s.homeLines x.pa x.n).any fun l =>
    s.cts.any (fun c => c.copies.any (fun y => y.claims.any (fun z => z.1 = l && (z.2 || k != .load)))) ||
      s.pkg.farClaims.any (fun f => f.holds l k && decide (some f.src ≠ x.src))

/-- A request performed at its home as one event. -/
def State.atHome (s : State) (x : Inbound) : HomeRes :=
  let ls := s.homeLines x.pa x.n
  match (if x.op.reads then ls.find? s.badLine else none) with
  | some l => .poison l
  | none =>
    let old := s.readHome x.pa x.n
    let src := x.src.getD 0
    match x.op with
    | .claim d => .done 0 { s with pkg := { s.pkg with farClaims := s.pkg.farClaims ++ ls.map fun l => ⟨src, l, d⟩ } }
    | .release => .done 0 { s with pkg := { s.pkg with
        farClaims := s.pkg.farClaims.filter fun f => !(f.src = src && ls.contains f.line) } }
    | op => match op.apply x.n old with
      | some v =>
        let t := (s.writeHome x.pa x.n v).clearLines ((List.range x.n).map fun i => (s.home (x.pa + i), 1))
        .done old (ls.foldl (fun (t : State) l => t.wakeLine l none) t)
      | none => .done old s

/-- The answer to the host or to a module: a response flit leaves on VC 1 (R371). -/
def State.hostAnswer (s : State) (o : Out) : State := { s with pkg := { s.pkg with hostOut := o } }
def State.answerTo (s : State) (src : Option Nat) (o : Out) (what : List Nat) : State :=
  match src with
  | none => s.hostAnswer o
  | some d => { s.sendTo d 1 0 what with pkg := { (s.sendTo d 1 0 what).pkg with remoteOut := o } }
/-- A request is performed and answered; none where it waits for a copy's claim, or its answer for the port. A poisoned line that
it meets is found (R319). A host access to BAR0 has its own effect. -/
def State.serve (s : State) (x : Inbound) : Option State :=
  if x.src.isNone && decide (regBase ≤ x.pa ∧ x.pa < regEnd) then
    some (s.bar0 (x.pa - regBase) (match x.op with | .write v => some (BitVec.ofNat 64 v) | _ => none))
  else if s.inboundHeld x || x.src.any (fun d => !s.canSendTo d 1) then none
  else match s.atHome x with
    | .poison l => some ((s.detectEngine l).answerTo x.src .poison [1])
    | .done v t => some (t.answerTo x.src (.val v) [0, v])
/-- A request arrives: those of one asker are performed in the order of their arrival (R367, R374). -/
def State.arrive (s : State) (x : Inbound) : State :=
  let waits := { s with pkg := { s.pkg with inbound := s.pkg.inbound ++ [x] } }
  if s.pkg.inbound.any (fun y => y.src = x.src) then waits else (s.serve x).getD waits
/-- The requests that wait are tried again. -/
def State.retryInbound (s : State) : State :=
  match s.pkg.inbound with
  | [] => s
  | l => l.foldl State.arrive { s with pkg := { s.pkg with inbound := [] } }

/-- The atomic operation of an OP number (R244). -/
def amoOfOp (op : BitVec 4) : Option AmoOp :=
  match op.toNat with
  | 0 => some .add | 1 => some .swap | 2 => some .and | 3 => some .or | 4 => some .xor
  | 5 => some .min | 6 => some .max | 7 => some .minu | 8 => some .maxu | 9 => some .cas
  | _ => none

/-- Whether a grant admits an access (R376). -/
def Grant.admits (g : Grant) (src plot pa n : Nat) (rd w : Bool) : Bool :=
  g.srcFid = src && g.srcPlot = plot && decide (g.base ≤ pa ∧ pa + n ≤ g.base + g.size * pageSize) &&
    (!rd || g.access % 2 = 1) && (!w || g.access / 2 % 2 = 1)
/-- Whether a range has a byte in the firmware region, which firmware level alone reaches (R349). -/
def State.meetsRegion (s : State) (pa n : Nat) : Bool :=
  (List.range n).any fun i => s.inRegion (s.home (pa + i))
/-- Whether an entry admits a request. -/
def State.admitted (s : State) (src plot pa n : Nat) (rd w : Bool) : Bool :=
  s.pkg.grants.any (fun g => g.admits src plot pa n rd w) && !s.meetsRegion pa n

/-- REMOTE_REQUEST (R376, R378, R379): a request that an entry admits is performed at its home, every other is refused. -/
def execRemoteRequest (src : BitVec 5) (plot : BitVec 3) (pa n : Nat) (op : RemoteOp) (s : State) : Res :=
  let ok := s.admitted src.toNat plot.toNat pa n
  let refuse := s.answerTo (some src.toNat) .refused [2]
  let go := fun (o : ReqOp) => s.arrive ⟨some src.toNat, pa, n, o⟩
  .next (match op with
    | .read => if ok true false then go .read else refuse
    | .write x => if ok false true then go (.write x) else refuse
    | .amo k b d =>
      match amoOfOp k with
      | some o => if ok true true then go (.amo o b d) else refuse
      | none => refuse
    | .claim d => if ok (!d) d then go (.claim d) else refuse
    | .release => go .release)

/-- The answer of a request. -/
def State.answer (s : State) (key : Nat) (a : Ans) : State :=
  { s with pkg := { s.pkg with reqs := s.pkg.reqs.map (fun r => if r.key = key ∧ r.ans = none then { r with ans := some a } else r) } }

/-- REMOTE_RESPONSE (R376, R378): the target, or the host, answers a request that waits. -/
def execRemoteResponse (key : Nat) (ok : Bool) (x : Nat) (s : State) : Res :=
  .next (s.answer key (if ok then .val x else .refused))

/-- REMOTE_TIMEOUT (R376): no response within 2 ms. -/
def execRemoteTimeout (key : Nat) (s : State) : Res :=
  .next (match s.pkg.reqs.find? (fun r => r.key = key && r.ans.isNone && decide (r.pa / 2 ^ 47 ≠ 0)) with
    | none => s
    | some r => (s.answer key .failed).logRemote r.pa)

/-! ### Host accesses (R367, R368) -/

/-- Where the host window table puts an access, outside the firmware region (R349). -/
def State.hostPlace (s : State) (o n : Nat) (w : Bool) : Option Nat :=
  ((s.pkg.hostWins.find? (fun x => decide (x.off ≤ o ∧ o + n ≤ x.off + x.size * pageSize) &&
    (if w then x.access / 2 % 2 = 1 else x.access % 2 = 1))).map (fun x => x.pa + (o - x.off))).filter fun pa => !s.meetsRegion pa n

/-- A refused access: its answer and its log entry. -/
def State.hostRefused (s : State) (code o : Nat) (out : Out) : State := (s.hostAnswer out).logKind 3 code 2 0 0 o
/-- A host access at a host-visible offset. -/
def State.hostAsks (s : State) (code o n : Nat) (op : ReqOp) (out : Out) : State :=
  match s.hostPlace o n op.writes with
  | some pa => s.arrive ⟨none, pa, n, op⟩
  | none => s.hostRefused code o out

/-- HOST_BAR2_ACCESS: a refused one is an Unsupported Request. -/
def execHostBar2Access (offset n : Nat) (write : Option Nat) (s : State) : Res :=
  .next (match write with
    | none => s.hostAsks 0 offset n .read .unsupported
    | some x => s.hostAsks 0 offset n (.write x) .unsupported)
/-- CXL_MEM_READ: a refused one returns poison. -/
def execCxlMemRead (offset n : Nat) (s : State) : Res := .next (s.hostAsks 1 offset n .read .poison)
/-- CXL_MEM_WRITE: a refused one is discarded. -/
def execCxlMemWrite (offset n x : Nat) (s : State) : Res := .next (s.hostAsks 2 offset n (.write x) .dropped)

/-! ### Collectives (R380, R381) -/

/-- A collective descriptor. -/
structure Coll where
  src : Nat
  dst : Nat
  count : Nat
  group : Nat
  tag : Nat
  op : Nat
  ty : Nat
  deriving DecidableEq, Repr
def collOf (v : Nat) : Coll :=
  ⟨recBytes v 0 8, recBytes v 8 8, recBytes v 0x10 8, recBytes v 0x18 4, recBytes v 0x1C 4, recBytes v 0x20 1, recBytes v 0x21 1⟩

/-- Members: the bits of GROUP. -/
def Coll.members (c : Coll) : List Nat := (List.range 32).filter (fun i => c.group.testBit i)
/-- The bytes of an element. -/
def Coll.width (c : Coll) : Nat := if c.ty = 15 then 4 else 8
/-- The fields lie in their ranges. -/
def Coll.ok (c : Coll) (v fid : Nat) : Bool :=
  decide (c.count < 2 ^ 32 ∧ c.group % 2 = 0 ∧ c.group.testBit fid = true ∧ 2 ≤ c.members.length ∧ c.op ≤ 2 ∧ recBytes v 0x22 30 = 0) &&
    (c.ty = 9 || c.ty = 10 || c.ty = 15 || c.ty = 16)
/-- Whether another member's part names the same collective. -/
def Coll.same (c : Coll) (p : CollectPart) : Bool :=
  decide (p.group = c.group ∧ p.tag = c.tag ∧ p.op = c.op ∧ p.ty = c.ty ∧ p.count = c.count)

/-- One combination of two elements. -/
def Coll.combine (c : Coll) (r x : Nat) : Nat :=
  let w := 8 * c.width
  let int : ITag := ⟨64, decide (c.ty = 9)⟩
  let f := if c.ty = 15 then fmtF32 else fmtF64
  if c.ty < 15 then
    (match c.op with
      | 0 => (r + x) % 2 ^ w
      | 1 => wrapInt 64 (max (intOf int r) (intOf int x))
      | _ => wrapInt 64 (min (intOf int r) (intOf int x)))
  else match c.op with
    | 0 => (fpAdd f .rne 0 (decodeVal f r) (decodeVal f x)).1
    | 1 => (fpMinMax true f .rne 0 (decodeVal f r) (decodeVal f x)).1
    | _ => (fpMinMax false f .rne 0 (decodeVal f r) (decodeVal f x)).1

/-- Element e of a member's contribution. -/
def State.contrib (s : State) (c : Coll) (parts : List CollectPart) (m e : Nat) : Nat :=
  if m = s.pkg.fid then s.readHome (c.src + e * c.width) c.width
  else ((parts.find? (fun p => p.fid = m)).bind (fun p => p.vals[e]?)).getD 0 % 2 ^ (8 * c.width)
/-- Element e of the result: the members in increasing fabric id. -/
def State.reduced (s : State) (c : Coll) (parts : List CollectPart) (e : Nat) : Nat :=
  match c.members.map (fun m => s.contrib c parts m e) with
  | [] => 0
  | x :: rest => rest.foldl c.combine x

/-- The descriptor of a COLLECT, where it passes: STATUS otherwise. A descriptor or a contribution in a poisoned line is a bad
argument (assumption 85). -/
def State.collect (s : State) (p : Plot) : Except Nat Coll :=
  let a := s.ownPa (s.arg 0)
  if s.inStack a = false ∨ a % 64 ≠ 0 ∨ s.poisoned (s.home a) = true then .error 2
  else
    let v := s.mem.readN (s.home a) 64
    let d := collOf v
    let c := { d with src := s.ownPa d.src, dst := s.ownPa d.dst }
    let n := c.count * c.width
    if !c.ok v s.pkg.fid then .error 2
    else if !s.inUnits p.memory c.src n ∨ !s.inUnits p.memory c.dst n then .error 3
    else if n ≠ 0 ∧ (s.homeLines c.src n).any s.badLine then .error 2
    else .ok c
/-- A collective waits for copies' claims, and while its data cannot leave on VC 2 (R261, R371). -/
def State.collectHeld (s : State) (c : Coll) : Bool :=
  let n := c.count * c.width
  (s.homeLines c.src n).any (fun l => s.lineClaimed l .load) || (s.homeLines c.dst n).any (fun l => s.lineClaimed l .store) ||
    c.members.any (fun m => decide (m ≠ s.pkg.fid) && !s.canSendTo m 2)
/-- This module's contribution leaves for the other members on VC 2 (R371). -/
def State.contribute (s : State) (c : Coll) : State :=
  let xs := (List.range c.count).map fun e => s.readHome (c.src + e * c.width) c.width
  (c.members.filter (· != s.pkg.fid)).foldl (fun (t : State) m => t.sendTo m 2 0 ([6, c.group, c.tag, c.op, c.ty, c.count] ++ xs)) s
/-- n bytes of the result. -/
def State.collected (s : State) (c : Coll) (e x : Nat) : State :=
  let a := c.dst + e * c.width
  (s.homeLines a c.width).foldl (fun (t : State) l => t.wakeLine l none) (s.writeHome a c.width x)

/-- The poisoned lines that a refused COLLECT has met: its descriptor's, or those of its contribution (R319). -/
def State.collectMet (s : State) : State :=
  let a := s.ownPa (s.arg 0)
  if s.inStack a && s.poisoned (s.home a) then s.meets (lineOf (s.home a))
  else
    let d := collOf (s.mem.readN (s.home a) 64)
    match (s.homeLines (s.ownPa d.src) (d.count * d.width)).find? s.badLine with
    | some l => s.meets l
    | none => s

/-- A COLLECT that heads the ring and passes: `f` acts on it. -/
def withCollect (s : State) (f : Coll → State → State) : Res :=
  .next (if s.migrating || decide (s.cmdBytes 0 1 ≠ 0x0C) || s.paBusy (s.arg 0) .load then s
    else if s.cmdBytes 16 48 ≠ 0 then s.complete 2
    else match s.plotOf (s.cmdBytes 1 1) with
      | none => s.complete 2
      | some p =>
        match s.collect p with
        | .error e => (if e = 2 then s.collectMet else s).complete e
        | .ok c => if s.collectHeld c then s else f c s)

/-- COLLECT: once every member's part is there, DST receives the reduction; parts that differ make STATUS 2. -/
def execCollect (parts : List CollectPart) (s : State) : Res :=
  withCollect s fun c s =>
    let others := c.members.filter (· != s.pkg.fid)
    if !others.all (fun m => parts.any (fun q => q.fid = m)) then s
    else if !(parts.filter (fun q => others.contains q.fid)).all c.same then (s.contribute c).complete 2
    else (((List.range c.count).foldl (fun (t : State) e => t.collected c e (s.reduced c parts e)) (s.contribute c)).wroteHome
      [(c.dst, c.count * c.width)]).complete 1

/-- COLLECT_MEMBER_TIMEOUT: STATUS 5, DST unspecified. -/
def execCollectMemberTimeout (s : State) : Res :=
  withCollect s fun c s =>
    (((List.range c.count).foldl (fun (t : State) e =>
      { t.collected c e (Config.freeValue t.draws).toNat with draws := t.draws + 1 }) (s.contribute c)).wroteHome
      [(c.dst, c.count * c.width)]).complete 5

/-! ### Time (R382) -/

/-- TIME_SYNC_EXCHANGE: an exchange between the master and a module, over VC 3; each sends its timestamps. The module learns by how
much its time is to move forward, or to fall back, as it passes; at the first lock it moves forward at once. The other module's fabric
id is in no register: a free value. -/
def execTimeSyncExchange (t1 t2 t3 t4 : Word) (hops : Nat) (s : State) : Res :=
  let y := s.pkg.sync
  let off := (((t2.toInt - t1.toInt) - (t4.toInt - t3.toInt)) / 2 : Int)
  let send := fun (what : List Nat) => { s with draws := s.draws + 1 }.sendTo ((Config.freeValue s.draws).toNat % 31 + 1) 3 0 what
  .next (if s.pkg.fid = 0 then s
    else if s.pkg.tmaster then send [8, t1.toNat, t2.toNat, t3.toNat]
    else
      let within : Bool := off.natAbs ≤ 40 * hops
      let since := if within then some (y.since.getD s.time) else none
      let lock : Bool := match since with
        | some t => 10000000000 ≤ (s.time - t).toNat
        | none => false
      let step := if lock && !y.once && decide (s.time.toNat + off.toNat < 2 ^ 64) then off.toNat else 0
      let t := send [7, t1.toNat, t4.toNat]
      { t with time := s.time + BitVec.ofNat 64 step, pkg := { t.pkg with
        sync := ⟨lock, y.once || lock, since, if lock then BitVec.ofNat 32 (40 * hops) else 0xFFFFFFFF, off.toNat - step, (-off).toNat⟩ } })

end Sys2Proof.Machine
end

