-- ==== Sys2Proof/Machine/VecBlock.lean ====
section
/-! DEFINITION. VP blocks: VFETCH, VPBR, VPJOIN and VPEND, the ring of groups and its turns (spec chapter 06, R114 to R122). -/
namespace Sys2Proof.Machine

/-- The first of n groups from place i on, around the ring, that does not wait; otherwise `dflt` (R117). -/
def turnFrom (ring : List Group) (dflt : Nat) : Nat → Nat → Nat
  | _, 0 => dflt
  | i, n + 1 =>
    match ring[i % ring.length]? with
    | some g => if g.wait = .run then i % ring.length else turnFrom ring dflt (i + 1) n
    | none => dflt
/-- The block with its next turn: the search starts at place i (R117). -/
def Block.turn (b : Block) (i : Nat) : Block := { b with cur := turnFrom b.ring b.cur i b.ring.length }

/-- A list with a group put in directly after place i. -/
def insertAfter (l : List Group) (i : Nat) (g : Group) : List Group := l.take (i + 1) ++ g :: l.drop (i + 1)

def State.setBlk (s : State) (b : Option Block) : State := { s with ct := { s.ct with blk := b } }

/-- The checks that every VPCTL word makes before it acts: `outside` runs it, with the convoy counts it leaves; `inside` does with the
block and the running group. `c` is the bit that counts: VPBR, VPJOIN and VPEND, whose C is ignored (R114), count as words with
C = 0, so that outside a block directly after a Solo word they raise CONVOY before PLACE, whatever their C (assumption 82). -/
def vpctl (s : State) (c : Bool) (outside : State → Convoy → State) (inside : State → Block → Group → State) : Res :=
  .next (match s.who with
    | .exec =>
      if s.ct.viq.any Ventry.fixes then (runHead s).1
      else
        let s := takeVector s
        match countConvoy s.conv c .free with
        | none => raise s (trapIll 7)
        | some v =>
          match s.ct.blk, s.group with
          | some b, some g => inside s b g
          | _, _ => outside s v
    | _ => raise s (trapIll 9))

/-- The members of a block's first group: the positions below vl (R114). -/
def firstMembers (vl : Nat) : PReg := BitVec.ofNat predBits (2 ^ vl - 1)

/-- VFETCH (R114, R121). -/
def execVfetch (o : BitVec 16) (s : State) : Res :=
  vpctl s true
    (fun s v =>
      let s := s.setConv v
      if s.ct.vl = 0 then s.advance
      else s.setBlk (some ⟨[⟨target s.pc o, firstMembers s.ct.vl, 0, [], .run, .clear⟩], 0, [(0, s.pc)], 1⟩))
    (fun s b g =>
      if 4 ≤ b.levels.length ∨ 16 ≤ b.ring.length then raise s (trapIll 9)
      else
        let n : Group := ⟨target s.pc o, g.members, b.nextId, [], .run, .clear⟩
        let ring := b.ring.set b.cur { g with wait := .fetch b.nextId, conv := ⟨true, 0, 0, 0, false⟩ }
        s.setBlk (some (Block.turn ⟨insertAfter ring b.cur n, b.cur, b.levels ++ [(b.nextId, s.pc)], b.nextId + 1⟩
          (b.cur + 1))))

/-- VPBR (R116): pa is read after every earlier word. -/
def execVpbr (c : Bool) (a : PRegNo) (o : BitVec 16) (s : State) : Res :=
  let _ := c
  vpctl s false (fun s _ => raise s (trapIll 9)) fun s b g =>
    afterViq s fun s =>
      let pa : PReg := if a = 0 then -1 else s.ct.p[a.toNat]
      let m := pa &&& g.members
      if m = g.members then
        s.setBlk (some (Block.turn { b with ring := b.ring.set b.cur { g with pc := target s.pc o, conv := .clear } } (b.cur + 1)))
      else if m = 0 then
        s.setBlk (some (Block.turn { b with ring := b.ring.set b.cur { g with pc := s.pc + 4, conv := .clear } } (b.cur + 1)))
      else if 16 ≤ b.ring.length then raise s (trapIll 9)
      else
        let path := b.nextId :: g.path
        let kept := { g with members := g.members &&& ~~~m, pc := s.pc + 4, path := path, conv := .clear }
        let t : Group := ⟨target s.pc o, m, g.level, path, .run, .clear⟩
        s.setBlk (some (Block.turn { b with ring := insertAfter (b.ring.set b.cur kept) b.cur t, nextId := b.nextId + 1 }
          (b.cur + 1)))

/-- The place of the reunited sibling of a group, where it is one group (R119). -/
def Block.sibling (b : Block) (g : Group) : Option Nat :=
  match g.path with
  | [] => none
  | _ :: _ => (List.range b.ring.length).find? fun i =>
      i != b.cur && (match b.ring[i]? with | some h => h.path == g.path && h.level == g.level | none => false)
/-- Whether a group descends from the other side of g's innermost split. -/
def Block.hasSibling (b : Block) (g : Group) : Bool :=
  match g.path with
  | [] => false
  | k :: _ => (List.range b.ring.length).any fun i =>
      i != b.cur && (match b.ring[i]? with | some h => h.path.contains k | none => false)

/-- The siblings at places i and j become one group in the earlier place, which continues at a (R119). The next turn
is looked for after the place of the group that joined last. -/
def Block.merge (b : Block) (g : Group) (j : Nat) (h : Group) (a : Word) : Block :=
  let lo := min b.cur j
  let hi := max b.cur j
  let m : Group := { g with members := g.members ||| h.members, path := g.path.drop 1, pc := a, wait := .run, conv := .clear }
  let ring := (b.ring.set lo m).eraseIdx hi
  Block.turn { b with ring := ring, cur := lo } (if b.cur = hi then hi else lo + 1)

/-- VPJOIN (R119). -/
def execVpjoin (c : Bool) (s : State) : Res :=
  let _ := c
  vpctl s false (fun s _ => raise s (trapIll 9)) fun s b g =>
    let go := fun (h : Group) => s.setBlk (some (Block.turn { b with ring := b.ring.set b.cur h } (b.cur + 1)))
    if !b.hasSibling g then go { g with pc := s.pc + 4, conv := .clear }
    else
      let waitHere := go { g with wait := .join s.pc, conv := .clear }
      match b.sibling g with
      | none => waitHere
      | some j =>
        match b.ring[j]? with
        | none => waitHere
        | some h =>
          match h.wait with
          | .join a => if a = s.pc then s.setBlk (some (b.merge g j h (s.pc + 4))) else raise s (trapIll 9)
          | .end_ _ => raise s (trapIll 9)
          | .run => waitHere
          | .fetch _ => waitHere

def GWait.isEnd : GWait → Bool
  | .end_ _ => true
  | _ => false

/-- The end of a level (R120, R121): its groups leave the ring; the stream, or the group that fetched, continues. The PCs of the
groups govern a CT that stopped inside a block: an EPC that system software has changed is overwritten here (assumption 83). -/
def levelEnd (s : State) (b : Block) (lv : Nat) : State :=
  let fpc := ((b.levels.find? (fun l => l.1 = lv)).map (·.2)).getD 0
  let ring := b.ring.filter (fun g => g.level ≠ lv)
  let s := { s with ct := { s.ct with conv := .clear } }
  match (List.range ring.length).find? (fun i => match ring[i]? with | some g => g.wait == .fetch lv | none => false) with
  | some i =>
    match ring[i]? with
    | some g => s.setBlk (some { b with ring := ring.set i { g with wait := .run, pc := fpc + 4, conv := .clear },
                                        cur := i, levels := b.levels.filter (fun l => l.1 ≠ lv) })
    | none => s
  | none => { s with ct := { s.ct with blk := none, ex := { s.ct.ex with pc := fpc + 4 } } }

/-- VPEND (R120). -/
def execVpend (c : Bool) (s : State) : Res :=
  let _ := c
  vpctl s false (fun s _ => raise s (trapIll 9)) fun s b g =>
    let joined : Bool := match b.sibling g with
      | some j => (match b.ring[j]? with
        | some h => (match h.wait with | .join _ => true | _ => false)
        | none => false)
      | none => false
    if joined then raise s (trapIll 9)
    else
      let ring := b.ring.set b.cur { g with wait := .end_ s.pc, conv := .clear }
      if ring.all (fun h => h.level != g.level || h.wait.isEnd) then levelEnd s { b with ring := ring } g.level
      else s.setBlk (some (Block.turn { b with ring := ring } (b.cur + 1)))

end Sys2Proof.Machine
end

