-- ==== Sys2Proof/Machine/VecElem.lean ====
section
/-! DEFINITION. The VCFG words, the elementwise words (VOP, VWIDE, VSFU, VCMP) and the PRED words: what each decodes to and posts
(spec chapters 02, 04, 05 and 06). -/
namespace Sys2Proof.Machine

/-! ### VCFG (R70 to R72) -/

def clampVl (c : Ct) : Ct := { c with vl := min c.vl c.vlmax }

def execVsetl (c : Bool) (d a : SReg) (s : State) : Res :=
  vword s c .free false (fun _ => true) fun _ => some fun s =>
    let vl := min (s.rd a).toNat s.ct.vlmax
    { s with ct := { s.ct with vl := vl, vstart := 0 } }.wr d (BitVec.ofNat 64 vl)

def execVsett (c : Bool) (v n t : BitVec 5) (f : BitVec 3) (s : State) : Res :=
  vword s c .free false (fun _ => true) fun _ => some fun s =>
    let ct := s.ct.tag v.toNat (n.toNat + 1) (t ++ f)
    { s with ct := clampVl { ct with vsw := if t = 0 then ct.vsw else tagWidth t.toNat } }

def execVsetg (c : Bool) (g : BitVec 2) (s : State) : Res :=
  vword s c .free false (fun _ => true) fun _ => some fun s => { s with ct := clampVl { s.ct with g := g.toNat } }

/-! ### Two-source elementwise words (R73 to R80, R95) -/

/-- The operations that admit integer tags only (R75). -/
def BinOp.intOnly : BinOp → Bool
  | .mulh | .rem | .and | .or | .xor | .andn | .shl | .shr | .sha | .addSat | .subSat | .nshr => true
  | .add | .sub | .mul | .div | .min | .max | .fma | .fms | .fnma | .clamp => false

/-- The result kind of framed operands (R95). -/
def framedResult (op : BinOp) (ta tb : Ty) : Option Ty :=
  match op, ta, tb with
  | .add, .fpos, .fdisp => some .fpos
  | .add, .fdisp, .fpos => some .fpos
  | .add, .fdisp, .fdisp => some .fdisp
  | .sub, .fpos, .fpos => some .fdisp
  | .sub, .fpos, .fdisp => some .fpos
  | .sub, .fdisp, .fdisp => some .fdisp
  | .mul, .fdisp, .fp _ _ _ => if tb.code = 15 then some .fdisp else none
  | .mul, .fp _ _ _, .fdisp => if ta.code = 15 then some .fdisp else none
  | _, _, _ => none

/-- A second source's type beside va's: the scalar of a framed VMUL is an f32, and no other framed VX form stands
(R68, R95). -/
def binTy (s : State) (op : BinOp) (b : BOp) (ta : Ty) : Option Ty :=
  match b with
  | .v r => s.opT r.toNat 1
  | .x _ => if ta.isFramed then (if op = .mul then some (.fp 0x78 fmtF32 32) else none) else some ta

/-- What a two-source elementwise word posts. -/
def planBin (op : BinOp) (d a : VRegNo) (b : BOp) (p : PGov) (s : State) : Option (State → State) :=
  match s.opT a.toNat 1 with
  | none => none
  | some ta =>
    match binTy s op b ta with
    | none => none
    | some tb =>
      if ta.isFramed || tb.isFramed then
        match framedResult op ta tb with
        | none => none
        | some rt =>
          if s.fits 128 1 then some (postTag d rt.byte (.fbin op d.toNat a.toNat ta (s.bSrc b tb.w) tb) (some p)) else none
      else if op.intOnly && !(ta.isInt && tb.isInt) then none
      else if op.threeOp then
        match s.opT d.toNat 1 with
        | some td =>
          if sameTag td.byte ta.byte && sameTag tb.byte ta.byte then
            some (postOnly (.bin op false d.toNat td a.toNat ta (s.bSrc b tb.w) tb) (some p)) else none
        | none => none
      else
        match promote ta tb with
        | none => none
        | some rt =>
          if s.fits rt.w 1 then
            some (postTag d rt.byte (.bin op false d.toNat rt a.toNat ta (s.bSrc b tb.w) tb) (some p)) else none

/-- A VOP word of two sources. -/
def vbin (op : BinOp) (c : Bool) (d a : VRegNo) (b : BOp) (p : PGov) (s : State) : Res :=
  vword s c .free true (fun s => s.grp d && s.grp a && s.grpB b) (planBin op d a b p)

def execVaddVv (c : Bool) (d a b : VRegNo) (p : PGov) (s : State) : Res := vbin .add c d a (.v b) p s
def execVaddVx (c : Bool) (d a : VRegNo) (b : SReg) (p : PGov) (s : State) : Res := vbin .add c d a (.x b) p s
def execVsubVv (c : Bool) (d a b : VRegNo) (p : PGov) (s : State) : Res := vbin .sub c d a (.v b) p s
def execVsubVx (c : Bool) (d a : VRegNo) (b : SReg) (p : PGov) (s : State) : Res := vbin .sub c d a (.x b) p s
def execVmulVv (c : Bool) (d a b : VRegNo) (p : PGov) (s : State) : Res := vbin .mul c d a (.v b) p s
def execVmulVx (c : Bool) (d a : VRegNo) (b : SReg) (p : PGov) (s : State) : Res := vbin .mul c d a (.x b) p s
def execVmulhVv (c : Bool) (d a b : VRegNo) (p : PGov) (s : State) : Res := vbin .mulh c d a (.v b) p s
def execVmulhVx (c : Bool) (d a : VRegNo) (b : SReg) (p : PGov) (s : State) : Res := vbin .mulh c d a (.x b) p s
def execVdivVv (c : Bool) (d a b : VRegNo) (p : PGov) (s : State) : Res := vbin .div c d a (.v b) p s
def execVdivVx (c : Bool) (d a : VRegNo) (b : SReg) (p : PGov) (s : State) : Res := vbin .div c d a (.x b) p s
def execVremVv (c : Bool) (d a b : VRegNo) (p : PGov) (s : State) : Res := vbin .rem c d a (.v b) p s
def execVremVx (c : Bool) (d a : VRegNo) (b : SReg) (p : PGov) (s : State) : Res := vbin .rem c d a (.x b) p s
def execVminVv (c : Bool) (d a b : VRegNo) (p : PGov) (s : State) : Res := vbin .min c d a (.v b) p s
def execVminVx (c : Bool) (d a : VRegNo) (b : SReg) (p : PGov) (s : State) : Res := vbin .min c d a (.x b) p s
def execVmaxVv (c : Bool) (d a b : VRegNo) (p : PGov) (s : State) : Res := vbin .max c d a (.v b) p s
def execVmaxVx (c : Bool) (d a : VRegNo) (b : SReg) (p : PGov) (s : State) : Res := vbin .max c d a (.x b) p s
def execVandVv (c : Bool) (d a b : VRegNo) (p : PGov) (s : State) : Res := vbin .and c d a (.v b) p s
def execVandVx (c : Bool) (d a : VRegNo) (b : SReg) (p : PGov) (s : State) : Res := vbin .and c d a (.x b) p s
def execVorVv (c : Bool) (d a b : VRegNo) (p : PGov) (s : State) : Res := vbin .or c d a (.v b) p s
def execVorVx (c : Bool) (d a : VRegNo) (b : SReg) (p : PGov) (s : State) : Res := vbin .or c d a (.x b) p s
def execVxorVv (c : Bool) (d a b : VRegNo) (p : PGov) (s : State) : Res := vbin .xor c d a (.v b) p s
def execVxorVx (c : Bool) (d a : VRegNo) (b : SReg) (p : PGov) (s : State) : Res := vbin .xor c d a (.x b) p s
def execVandnVv (c : Bool) (d a b : VRegNo) (p : PGov) (s : State) : Res := vbin .andn c d a (.v b) p s
def execVandnVx (c : Bool) (d a : VRegNo) (b : SReg) (p : PGov) (s : State) : Res := vbin .andn c d a (.x b) p s
def execVshlVv (c : Bool) (d a b : VRegNo) (p : PGov) (s : State) : Res := vbin .shl c d a (.v b) p s
def execVshlVx (c : Bool) (d a : VRegNo) (b : SReg) (p : PGov) (s : State) : Res := vbin .shl c d a (.x b) p s
def execVshrVv (c : Bool) (d a b : VRegNo) (p : PGov) (s : State) : Res := vbin .shr c d a (.v b) p s
def execVshrVx (c : Bool) (d a : VRegNo) (b : SReg) (p : PGov) (s : State) : Res := vbin .shr c d a (.x b) p s
def execVshaVv (c : Bool) (d a b : VRegNo) (p : PGov) (s : State) : Res := vbin .sha c d a (.v b) p s
def execVshaVx (c : Bool) (d a : VRegNo) (b : SReg) (p : PGov) (s : State) : Res := vbin .sha c d a (.x b) p s
def execVfmaVv (c : Bool) (d a b : VRegNo) (p : PGov) (s : State) : Res := vbin .fma c d a (.v b) p s
def execVfmaVx (c : Bool) (d a : VRegNo) (b : SReg) (p : PGov) (s : State) : Res := vbin .fma c d a (.x b) p s
def execVfmsVv (c : Bool) (d a b : VRegNo) (p : PGov) (s : State) : Res := vbin .fms c d a (.v b) p s
def execVfmsVx (c : Bool) (d a : VRegNo) (b : SReg) (p : PGov) (s : State) : Res := vbin .fms c d a (.x b) p s
def execVfnmaVv (c : Bool) (d a b : VRegNo) (p : PGov) (s : State) : Res := vbin .fnma c d a (.v b) p s
def execVfnmaVx (c : Bool) (d a : VRegNo) (b : SReg) (p : PGov) (s : State) : Res := vbin .fnma c d a (.x b) p s
def execVclampVv (c : Bool) (d a b : VRegNo) (p : PGov) (s : State) : Res := vbin .clamp c d a (.v b) p s
def execVclampVx (c : Bool) (d a : VRegNo) (b : SReg) (p : PGov) (s : State) : Res := vbin .clamp c d a (.x b) p s
def execVaddSatVv (c : Bool) (d a b : VRegNo) (p : PGov) (s : State) : Res := vbin .addSat c d a (.v b) p s
def execVaddSatVx (c : Bool) (d a : VRegNo) (b : SReg) (p : PGov) (s : State) : Res := vbin .addSat c d a (.x b) p s
def execVsubSatVv (c : Bool) (d a b : VRegNo) (p : PGov) (s : State) : Res := vbin .subSat c d a (.v b) p s
def execVsubSatVx (c : Bool) (d a : VRegNo) (b : SReg) (p : PGov) (s : State) : Res := vbin .subSat c d a (.x b) p s

/-- VSEL (R73, R82): operands of one tag byte; the scalar form up to 64 bits. -/
def planSel (d a : VRegNo) (b : BOp) (p : PGov) (s : State) : Option (State → State) :=
  match s.opT a.toNat 1 with
  | none => none
  | some ta =>
    match s.bTy b ta with
    | none => none
    | some tb =>
      if sameTag ta.byte tb.byte && (!b.isX || decide (ta.w ≤ 64)) then
        some (postTag d ta.byte (.sel d.toNat a.toNat (s.bSrc b ta.w) ta.w p.toNat) none)
      else none
def execVselVv (c : Bool) (d a b : VRegNo) (p : PGov) (s : State) : Res :=
  vword s c .free true (fun s => s.grp d && s.grp a && s.grp b) (planSel d a (.v b) p)
def execVselVx (c : Bool) (d a : VRegNo) (b : SReg) (p : PGov) (s : State) : Res :=
  vword s c .free true (fun s => s.grp d && s.grp a) (planSel d a (.x b) p)

/-! ### One-source words (R81 to R85, R87) -/

/-- A word of one source whose result takes va's tag, for the types that `ok` admits. -/
def vun (c : Bool) (d a : VRegNo) (s : State) (ok : Ty → Bool) (p : PGov) (op : Ty → Vop) : Res :=
  vword s c .free true (fun s => s.grp d && s.grp a) fun s =>
    match s.opT a.toNat 1 with
    | some ta => if ok ta then some (postTag d ta.byte (op ta) (some p)) else none
    | none => none

def execVabs (c : Bool) (d a : VRegNo) (p : PGov) (s : State) : Res :=
  vun c d a s (fun t => !t.isFramed) p fun t => .un .abs d.toNat t a.toNat t
def execVneg (c : Bool) (d a : VRegNo) (p : PGov) (s : State) : Res :=
  vun c d a s (fun t => t != .fpos) p fun t =>
    if t.isFramed then .fneg d.toNat a.toNat else .un .neg d.toNat t a.toNat t
def execVmov (c : Bool) (d a : VRegNo) (p : PGov) (s : State) : Res :=
  vun c d a s (fun _ => true) p fun t => .bits d.toNat a.toNat t.w

/-- VCVT and VCVT.SAT: to vd's own tag (R85). -/
def vcvtTo (op : UnOp) (c : Bool) (d a : VRegNo) (p : PGov) (s : State) : Res :=
  vword s c .free true (fun s => s.grp d && s.grp a) fun s =>
    match s.opT a.toNat 1, s.opT d.toNat 1 with
    | some ta, some td =>
      if ta.isFramed || td.isFramed then none else some (postOnly (.un op d.toNat td a.toNat ta) (some p))
    | _, _ => none
def execVcvt (c : Bool) (d a : VRegNo) (p : PGov) (s : State) : Res := vcvtTo .cvt c d a p s
def execVcvtSat (c : Bool) (d a : VRegNo) (p : PGov) (s : State) : Res := vcvtTo .cvtSat c d a p s

def execVsplat (c : Bool) (d : VRegNo) (b : SReg) (p : PGov) (s : State) : Res :=
  vword s c .free true (fun s => s.grp d) fun s =>
    match s.opT d.toNat 1 with
    | some td =>
      if td.w ≤ 64 then some (postOnly (.splat d.toNat td.w ((s.rd b).toNat % 2 ^ td.w)) (some p)) else none
    | none => none

def execVext (c : Bool) (a : VRegNo) (b : SReg) (s : State) : Res :=
  vword s c .free false (fun s => s.grp a) fun s =>
    match s.opT a.toNat 1 with
    | some ta => if ta.w ≤ 64 then some (postOnly (.ext b a.toNat ta (s.rd b)) none) else none
    | none => none

def execViota (c : Bool) (d : VRegNo) (p : PGov) (i : BitVec 9) (j : BitVec 8) (s : State) : Res :=
  vword s c .free true (fun s => s.grp d) fun s =>
    match s.opT d.toNat 1 with
    | some td => if td.isFramed then none else some (postOnly (.iota d.toNat td i.toInt j.toInt) (some p))
    | none => none

/-- The tags of the special functions: every floating one but f64 (R87). -/
def sfuOk (t : Ty) : Bool := t.isFp && decide (t.code ≠ 16)
def execVsqrt (c : Bool) (d a : VRegNo) (p : PGov) (s : State) : Res :=
  vun c d a s sfuOk p fun t => .un .sqrt d.toNat t a.toNat t
def execVrcp (c : Bool) (d a : VRegNo) (p : PGov) (s : State) : Res :=
  vun c d a s sfuOk p fun t => .un .rcp d.toNat t a.toNat t
def execVrsq (c : Bool) (d a : VRegNo) (p : PGov) (s : State) : Res :=
  vun c d a s sfuOk p fun t => .un .rsq d.toNat t a.toNat t
def execVexp2 (c : Bool) (d a : VRegNo) (p : PGov) (s : State) : Res :=
  vun c d a s sfuOk p fun t => .un .exp2 d.toNat t a.toNat t
def execVlog2 (c : Bool) (d a : VRegNo) (p : PGov) (s : State) : Res :=
  vun c d a s sfuOk p fun t => .un .log2 d.toNat t a.toNat t

/-! ### Widening and narrowing (R86) -/

/-- The pairs of a narrow tag code and its wide partner. -/
def widenOk (n w : Nat) : Bool :=
  decide ((n, w) ∈ [(1, 2), (2, 3), (3, 5), (4, 6), (5, 7), (6, 8), (7, 9), (8, 10), (12, 11), (11, 13), (11, 14), (13, 15),
    (14, 15), (15, 16)])
/-- The pairs of a narrow target and its wide source. -/
def narrowOk (n w : Nat) : Bool :=
  decide ((n, w) ∈ [(1, 2), (2, 3), (2, 4), (3, 5), (3, 6), (4, 5), (4, 6), (5, 7), (5, 8), (6, 7), (6, 8), (7, 9), (7, 10),
    (8, 9), (8, 10)])

/-- VWADD to VWMAC. -/
def vwiden (op : BinOp) (c : Bool) (d a : VRegNo) (b : BOp) (p : PGov) (s : State) : Res :=
  vword s c .free true (fun s => s.grp2 d && s.grp a && s.grpB b) fun s =>
    match s.opT a.toNat 1, s.opT d.toNat 2 with
    | some ta, some td =>
      match s.bTy b ta with
      | some tb =>
        if sameTag ta.byte tb.byte && widenOk ta.code td.code then
          some (postOnly (.bin op true d.toNat td a.toNat ta (s.bSrc b tb.w) tb) (some p)) else none
      | none => none
    | _, _ => none

def execVwaddVx (c : Bool) (d a : VRegNo) (b : SReg) (p : PGov) (s : State) : Res := vwiden .add c d a (.x b) p s
def execVwaddVv (c : Bool) (d a b : VRegNo) (p : PGov) (s : State) : Res := vwiden .add c d a (.v b) p s
def execVwsubVx (c : Bool) (d a : VRegNo) (b : SReg) (p : PGov) (s : State) : Res := vwiden .sub c d a (.x b) p s
def execVwsubVv (c : Bool) (d a b : VRegNo) (p : PGov) (s : State) : Res := vwiden .sub c d a (.v b) p s
def execVwmulVx (c : Bool) (d a : VRegNo) (b : SReg) (p : PGov) (s : State) : Res := vwiden .mul c d a (.x b) p s
def execVwmulVv (c : Bool) (d a b : VRegNo) (p : PGov) (s : State) : Res := vwiden .mul c d a (.v b) p s
def execVwmacVx (c : Bool) (d a : VRegNo) (b : SReg) (p : PGov) (s : State) : Res := vwiden .fma c d a (.x b) p s
def execVwmacVv (c : Bool) (d a b : VRegNo) (p : PGov) (s : State) : Res := vwiden .fma c d a (.v b) p s

/-- VNSHR: a shift vector of any integer tag of vd's width; the scalar at vd's tag (R68, R86). -/
def vnarrow (c : Bool) (d a : VRegNo) (b : BOp) (p : PGov) (s : State) : Res :=
  vword s c .free true (fun s => s.grp d && s.grp2 a && s.grpB b) fun s =>
    match s.opT a.toNat 2, s.opT d.toNat 1 with
    | some ta, some td =>
      match s.bTy b td with
      | some tb =>
        if narrowOk td.code ta.code ∧ tb.isInt ∧ tb.w = td.w then
          some (postOnly (.bin .nshr false d.toNat td a.toNat ta (s.bSrc b tb.w) tb) (some p)) else none
      | none => none
    | _, _ => none
def execVnshrVx (c : Bool) (d a : VRegNo) (b : SReg) (p : PGov) (s : State) : Res := vnarrow c d a (.x b) p s
def execVnshrVv (c : Bool) (d a b : VRegNo) (p : PGov) (s : State) : Res := vnarrow c d a (.v b) p s
def execVncvt (c : Bool) (d a : VRegNo) (p : PGov) (s : State) : Res :=
  vword s c .free true (fun s => s.grp d && s.grp2 a) fun s =>
    match s.opT a.toNat 2, s.opT d.toNat 1 with
    | some ta, some td =>
      if narrowOk td.code ta.code then some (postOnly (.un .ncvt d.toNat td a.toNat ta) (some p)) else none
    | _, _ => none

/-! ### Comparisons (R88, R89, R95) -/

def vcmp (k : CmpOp) (c : Bool) (d : PRegNo) (a b : VRegNo) (p : PGov) (s : State) : Res :=
  vword s c .free true (fun s => s.grp a && s.grp b) fun s =>
    match s.opT a.toNat 1, s.opT b.toNat 1 with
    | some ta, some tb =>
      let ok : Bool :=
        if ta.isFramed || tb.isFramed then ta == tb && (k == .eq || k == .ne)
        else (promote ta tb).isSome && !(k == .un && ta.isInt)
      if ok then some (postOnly (.cmp k d.toNat a.toNat ta b.toNat tb) (some p)) else none
    | _, _ => none
def execVcmpEq (c : Bool) (d : PRegNo) (a b : VRegNo) (p : PGov) (s : State) : Res := vcmp .eq c d a b p s
def execVcmpNe (c : Bool) (d : PRegNo) (a b : VRegNo) (p : PGov) (s : State) : Res := vcmp .ne c d a b p s
def execVcmpLt (c : Bool) (d : PRegNo) (a b : VRegNo) (p : PGov) (s : State) : Res := vcmp .lt c d a b p s
def execVcmpLe (c : Bool) (d : PRegNo) (a b : VRegNo) (p : PGov) (s : State) : Res := vcmp .le c d a b p s
def execVcmpGt (c : Bool) (d : PRegNo) (a b : VRegNo) (p : PGov) (s : State) : Res := vcmp .gt c d a b p s
def execVcmpGe (c : Bool) (d : PRegNo) (a b : VRegNo) (p : PGov) (s : State) : Res := vcmp .ge c d a b p s
def execVcmpUn (c : Bool) (d : PRegNo) (a b : VRegNo) (p : PGov) (s : State) : Res := vcmp .un c d a b p s

def execVclass (c : Bool) (d : PRegNo) (a : VRegNo) (k : BitVec 5) (p : PGov) (s : State) : Res :=
  vword s c .free true (fun s => s.grp a) fun s =>
    match s.opT a.toNat 1 with
    | some ta => if ta.isFp then some (postOnly (.cls k.toNat d.toNat a.toNat ta) (some p)) else none
    | none => none

/-! ### PRED words (R110 to R113) -/

/-- A PRED word: no convoy bit, no governing predicate, no operand tag (R26). -/
def vpred (s : State) (k : Cls) (blk : Bool) (op : State → Vop) : Res :=
  vword s false k blk (fun _ => true) fun s => some (postOnly (op s) none)

def execPand (d a b : PRegNo) (s : State) : Res := vpred s .free true fun _ => .pred .and d.toNat a.toNat b.toNat
def execPor (d a b : PRegNo) (s : State) : Res := vpred s .free true fun _ => .pred .or d.toNat a.toNat b.toNat
def execPxor (d a b : PRegNo) (s : State) : Res := vpred s .free true fun _ => .pred .xor d.toNat a.toNat b.toNat
def execPandn (d a b : PRegNo) (s : State) : Res := vpred s .free true fun _ => .pred .andn d.toNat a.toNat b.toNat
def execPnot (d a : PRegNo) (s : State) : Res := vpred s .free true fun _ => .pred .not d.toNat a.toNat 0
def execPmov (d a : PRegNo) (s : State) : Res := vpred s .free true fun _ => .pred .mov d.toNat a.toNat 0
def execPset (d : PRegNo) (v : BitVec 7) (s : State) : Res := vpred s .free true fun _ => .pset d.toNat (v.getLsbD 0)
def execPcnt (d : SReg) (a : PRegNo) (s : State) : Res := vpred s .free false fun _ => .pscal .cnt d a.toNat
def execPfirst (d : SReg) (a : PRegNo) (s : State) : Res := vpred s .free false fun _ => .pscal .first d a.toNat
def execPlast (d : SReg) (a : PRegNo) (s : State) : Res := vpred s .free false fun _ => .pscal .last d a.toNat
def execPbrk (d a : PRegNo) (s : State) : Res := vpred s .free true fun _ => .pred .brk d.toNat a.toNat 0
def execPld (d : PRegNo) (a : SReg) (s : State) : Res := vpred s { mem := true } true fun s => .pld d.toNat (s.rd a)
def execPst (a : SReg) (b : PRegNo) (s : State) : Res := vpred s { mem := true } true fun s => .pst b.toNat (s.rd a)

end Sys2Proof.Machine
end

