-- ==== Sys2Proof/Machine/VecLane.lean ====
section
/-! DEFINITION. The lane-ring words, reductions, scans, bins and strips, the FEED words of both streams, and the FRAME words: what each
decodes to and posts (spec chapters 05, 08 and 09). -/
namespace Sys2Proof.Machine

def clsRing : Cls := { ring := true }

/-! ### VLANE (R175 to R178) -/

/-- A lane-ring word: va's tag, whichever it is, goes to vd. -/
def vlane (c : Bool) (d a : VRegNo) (s : State) (p : Option PGov) (op : State → Nat → Vop) : Res :=
  vword s c clsRing false (fun s => s.grp d && s.grp a) fun s =>
    match s.opT a.toNat 1 with
    | some ta => some (postTag d ta.byte (op s ta.w) p)
    | none => none

def execVpermVv (c : Bool) (d a b : VRegNo) (p : PGov) (s : State) : Res :=
  vword s c clsRing false (fun s => s.grp d && s.grp a && s.grp b) fun s =>
    match s.opT a.toNat 1, s.opT b.toNat 1 with
    | some ta, some tb =>
      if tb.isInt then some (postTag d ta.byte (.perm d.toNat a.toNat ta.w (.vec b.toNat) tb.w) (some p)) else none
    | _, _ => none
def execVpermVx (c : Bool) (d a : VRegNo) (b : SReg) (p : PGov) (s : State) : Res :=
  vlane c d a s (some p) fun s w => .perm d.toNat a.toNat w (.sc (s.rd b).toNat) 64
def execVslup (c : Bool) (d a : VRegNo) (b : SReg) (p : PGov) (s : State) : Res :=
  vlane c d a s (some p) fun s w => .slide true d.toNat a.toNat w (s.rd b)
def execVsldn (c : Bool) (d a : VRegNo) (b : SReg) (p : PGov) (s : State) : Res :=
  vlane c d a s (some p) fun s w => .slide false d.toNat a.toNat w (s.rd b)
def execVcompr (c : Bool) (d a : VRegNo) (p : PGov) (s : State) : Res :=
  vlane c d a s none fun _ w => .compr d.toNat a.toNat w p.toNat
def execVexpnd (c : Bool) (d a : VRegNo) (p : PGov) (s : State) : Res :=
  vlane c d a s none fun _ w => .expnd d.toNat a.toNat w p.toNat

/-! ### VRED (R179 to R189) -/

def vred (op : RedOp) (c : Bool) (a : VRegNo) (b : SReg) (p : PGov) (s : State) : Res :=
  vword s c clsRing false (fun s => s.grp a) fun s =>
    match s.opT a.toNat 1 with
    | some ta => if ta.isFramed then none else some (postOnly (.red op b a.toNat ta) (some p))
    | none => none
def execVredsum (c : Bool) (a : VRegNo) (b : SReg) (p : PGov) (s : State) : Res := vred .sum c a b p s
def execVredmax (c : Bool) (a : VRegNo) (b : SReg) (p : PGov) (s : State) : Res := vred .max c a b p s
def execVredmin (c : Bool) (a : VRegNo) (b : SReg) (p : PGov) (s : State) : Res := vred .min c a b p s

def execVscan (c : Bool) (d a : VRegNo) (b : SReg) (p : PGov) (s : State) : Res :=
  vword s c clsRing false (fun s => s.grp d && s.grp a) fun s =>
    match s.opT a.toNat 1 with
    | some ta =>
      if ta.isFramed then none
      else some (postTag d ta.byte (.scan d.toNat a.toNat ta b ((s.rd b).toNat % 2 ^ ta.w)) (some p))
    | none => none

/-- VSOFTMAX (R183). R74 lists no exception for it: f32 is written as the result tag of vd's whole group (assumption 81). -/
def execVsoftmax (c : Bool) (d a : VRegNo) (b : SReg) (p : PGov) (s : State) : Res :=
  vword s c clsRing false (fun s => s.grp d && s.grp a) fun s =>
    match s.opT a.toNat 1, s.opT d.toNat 1 with
    | some ta, some td =>
      if ta.code = 15 ∧ td.code = 15 then
        some (postTag d td.byte (.softmax d.toNat a.toNat b ((s.rd b).toNat % 2 ^ 32) ((s.rd (b + 1)).toNat % 2 ^ 32)) (some p))
      else none
    | _, _ => none

/-- The type of a bin as decode tracks it (R184). -/
def Ct.binTy (c : Ct) (n : Nat) : Nat := match c.bins[n]? with | some b => b.ty | none => 0

def execBinz (c : Bool) (n t : BitVec 5) (s : State) : Res :=
  vword s c .free false yesB fun _ => some fun s =>
    vpost { s with ct := s.ct.setBin n.toNat fun b => { b with ty := t.toNat } } (.binz n.toNat) none
where yesB (_ : State) : Bool := true

/-- Which source types a bin type admits (R186). -/
def binOk (bt : Nat) (t : Ty) : Bool :=
  match bt with
  | 9 => t.isInt
  | 10 => t.isInt
  | 15 => t.isFp && decide (t.code ≠ 16)
  | 16 => t.isFp
  | _ => false

def execVbinacc (c : Bool) (n : BitVec 5) (a : VRegNo) (p : PGov) (s : State) : Res :=
  vword s c clsRing false (fun s => s.grp a) fun s =>
    match s.opT a.toNat 1 with
    | some ta =>
      let bt := s.ct.binTy n.toNat
      if binOk bt ta then some (postOnly (.binacc n.toNat bt a.toNat ta) (some p)) else none
    | none => none

def vbinmac (c : Bool) (n : BitVec 5) (a : VRegNo) (b : BOp) (p : PGov) (s : State) : Res :=
  vword s c clsRing false (fun s => s.grp a && s.grpB b) fun s =>
    match s.opT a.toNat 1 with
    | some ta =>
      match s.bTy b ta with
      | some tb =>
        let bt := s.ct.binTy n.toNat
        if binOk bt ta && sameTag ta.byte tb.byte then
          some (postOnly (.binmac n.toNat bt a.toNat (s.bSrc b ta.w) ta) (some p)) else none
      | none => none
    | none => none
def execVbinmacVx (c : Bool) (n : BitVec 5) (a : VRegNo) (b : SReg) (p : PGov) (s : State) : Res := vbinmac c n a (.x b) p s
def execVbinmacVv (c : Bool) (n : BitVec 5) (a b : VRegNo) (p : PGov) (s : State) : Res := vbinmac c n a (.v b) p s

def execBinfold (c : Bool) (n : BitVec 5) (b : SReg) (s : State) : Res :=
  vword s c clsRing false (fun _ => true) fun s =>
    let bt := s.ct.binTy n.toNat
    if bt = 0 then none else some (postOnly (.binfold n.toNat bt b) none)

/-- VMARK (R189): a misaligned restart address raises ALIGN, and the word changes nothing. -/
def execVmark (c : Bool) (b : SReg) (s : State) : Res :=
  if s.who = .exec ∧ s.group = none ∧ (countConvoy s.conv c .free).isSome ∧ s.ct.viq.any Ventry.fixes = false ∧
      (s.rd b).toNat % 4 ≠ 0 then .next (raise s (trapAlign (s.rd b)))
  else vword s c .free false (fun _ => true) fun s => some (postOnly (.mark (s.rd b)) none)

/-- VSTRIP (R188). -/
def execVstrip (c : Bool) (s : State) : Res :=
  vword s c .free false (fun _ => true) fun _ => some fun s =>
    { s with ct := { s.ct with a := { s.ct.a with sbase := s.ct.a.sbase + BitVec.ofNat 64 s.ct.vl } } }

/-! ### FEED (R32, R164 to R173) -/

/-- The rounding registers as they stand. -/
def SysA.rnd (a : SysA) : Rnd := ⟨rmOf a.frm, a.vseed, a.vsrn.toNat, a.sbase⟩
/-- The type that CONVERT's parameter names (R166): none for an 8-bit flex target under a format register that holds no format wide
enough; what R166 then does is open, and the word is refused with CHAIN (assumption 77). -/
def parTy (s : State) (op : BitVec 5) (par : Word) : Option Ty :=
  if op = 1 then tyOf s.ct.a.fmt (BitVec.ofNat 8 par.toNat) else none

/-- A FEED word: posted by the execute stream; in the access stream it acts at once and must carry C = 0 (R32). Its vd names one
feed register, and no multiple of the group's size is asked of it in either stream (assumption 101). -/
def vfeed (c : Bool) (s : State) (op : State → Vop) (now : State → EngRes) : Res :=
  match s.who with
  | .access =>
    .next (if c then raise s (trapIll 5)
      else match now s with
        | .ok t => t.advance
        | .trap t r => raise t r
        | .wait t => t)
  | _ => vword s c .free false (fun _ => true) fun s => some (postOnly (op s) none)

def execFbind (c : Bool) (d : VRegNo) (b : SReg) (s : State) : Res :=
  vfeed c s (fun s => .fbind d.toNat (s.rd b) s.ct.a.fmt[0]) fun s => feedBind s d.toNat (s.rd b) s.ct.a.fmt[0] s.ct.wmb
def execFchain (c : Bool) (d : VRegNo) (o : BitVec 5) (b : SReg) (s : State) : Res :=
  vfeed c s (fun s => .fchain d.toNat o.toNat (s.rd b) (parTy s o (s.rd b)) s.ct.a.rnd)
    fun s => feedChain s d.toNat o.toNat (s.rd b) (parTy s o (s.rd b)) s.ct.a.rnd
def execFunbind (c : Bool) (d : VRegNo) (s : State) : Res :=
  vfeed c s (fun _ => .funbind d.toNat) fun s => .ok (s.bindFeed d.toNat none)
def execFstat (c : Bool) (d : VRegNo) (l : BitVec 5) (b : SReg) (s : State) : Res :=
  vfeed c s (fun _ => .fstat d.toNat l.toNat b) fun s => .ok (s.wr b (feedStat s.ct d.toNat l.toNat))

/-- FEED_FETCH (R169, R215): the stream engine of a bound register of a running CT works ahead of the pops, until n elements stand
ready. -/
def execFeedFetch (reg : BitVec 4) (n : Nat) (s : State) : Res :=
  let r := 16 + reg.toNat
  .next (match s.ct.feed r with
    | none => s
    | some f =>
      if !f.patternOk || decide (s.ct.status ≠ .running) then s
      else match feedFill s r f n (n + 1) with
        | .more t g => { t with ct := t.ct.setFeed r (some g) }
        | .wait t g => { t with ct := t.ct.setFeed r (some g) })

/-! ### FRAME (R103 to R107) -/

/-- A FRAME word: a framed va, whose result carries the byte that `out` gives. -/
def vframe (c : Bool) (d a : VRegNo) (s : State) (field : State → Bool) (ok : State → Ty → Bool) (out : Ty → BitVec 8)
    (w : Nat) (p : PGov) (op : State → Ty → Vop) : Res :=
  vword s c .free true (fun s => s.grp d && s.grp a && field s) fun s =>
    match s.opT a.toNat 1 with
    | some ta => if ta.isFramed && ok s ta && s.fits w 1 then some (postTag d (out ta) (op s ta) (some p)) else none
    | none => none

def execFpcvt (c : Bool) (d a : VRegNo) (b : SReg) (p : PGov) (s : State) : Res :=
  vframe c d a s (fun _ => true) (fun _ _ => true) (·.byte) 128 p
    fun s t => .fpcvt d.toNat a.toNat (isPos t) (BitVec.ofNat 32 (s.rd b).toNat)
def execFplen2 (c : Bool) (d a : VRegNo) (p : PGov) (s : State) : Res :=
  vframe c d a s (fun _ => true) (fun _ t => !isPos t) (fun _ => 0x78) 32 p fun _ _ => .fplen2 d.toNat a.toNat
def execFpgtag (c : Bool) (d a : VRegNo) (p : PGov) (s : State) : Res :=
  vframe c d a s (fun _ => true) (fun _ _ => true) (fun _ => 0x40) 32 p fun _ _ => .fpgtag d.toNat a.toNat
def execFpstagVx (c : Bool) (d a : VRegNo) (b : SReg) (p : PGov) (s : State) : Res :=
  vframe c d a s (fun _ => true) (fun _ _ => true) (·.byte) 128 p
    fun s _ => .fpstag d.toNat a.toNat (.sc ((s.rd b).toNat % 2 ^ 32))
def execFpstagVv (c : Bool) (d a b : VRegNo) (p : PGov) (s : State) : Res :=
  vframe c d a s (fun s => s.grp b)
    (fun s _ => match s.opT b.toNat 1 with | some t => decide (t.code = 8) | none => false) (·.byte) 128 p
    fun _ _ => .fpstag d.toNat a.toNat (.vec b.toNat)

end Sys2Proof.Machine
end

