-- ==== Sys2Proof/Machine/VecMem.lean ====
section
/-! DEFINITION. The vector memory words and the vector atomics: what each decodes to and posts (spec chapters 08 and 13, R154 to
R162, R251). -/
namespace Sys2Proof.Machine

def clsMem : Cls := { mem := true }

/-- An index vector: an integer tag of 8 bits or more that holds vl elements (R155). -/
def idxTy (s : State) (r : VRegNo) : Option ITag :=
  match s.opT r.toNat 1 with
  | some (.int _ t) => if 8 ≤ t.w then some t else none
  | _ => none

/-- A load or store through vd's own tag (R155): `sub` admits sub-byte tags. -/
def vmem (c : Bool) (d : VRegNo) (s : State) (sub : Bool) (field : State → Bool) (mode : State → Option VMode)
    (more : State → Bool) (p : PGov) (op : Nat → VMode → Word → Vop) (a : SReg) : Res :=
  vword s c clsMem true (fun s => s.grp d && field s) fun s =>
    match s.opT d.toNat 1, mode s with
    | some td, some m =>
      if (sub || decide (8 ≤ td.w)) && more s then some (postOnly (op td.w m (s.rd a)) (some p)) else none
    | _, _ => none

def yes (_ : State) : Bool := true
def unitMode (_ : State) : Option VMode := some .unit
def strideMode (x : SReg) (s : State) : Option VMode := some (.strided (s.rd x))
def idxMode (i : VRegNo) (s : State) : Option VMode := (idxTy s i).map fun t => .indexed i.toNat t

/-- The f groups of a segment word end at or below v31, and carry vd's tag byte (R155). -/
def segFits (d : VRegNo) (f : Nat) (s : State) : Bool := decide (d.toNat + f * 2 ^ s.ct.g ≤ 32)
def segTags (d : VRegNo) (f : Nat) (s : State) : Bool :=
  (List.range f).all fun i => (s.ct.vtype[d.toNat + i * 2 ^ s.ct.g]?) == (s.ct.vtype[d.toNat]?)

/-- The fields of a segment mode: f = mode5 - 2 (R154). -/
def segF (f : BitVec 5) : Nat := f.toNat - 2

def execVld (c : Bool) (d : VRegNo) (a : SReg) (p : PGov) (s : State) : Res :=
  vmem c d s true yes unitMode yes p (fun w m b => .load d.toNat w m b false) a
def execVldS (c : Bool) (d : VRegNo) (a x : SReg) (p : PGov) (s : State) : Res :=
  vmem c d s false yes (strideMode x) yes p (fun w m b => .load d.toNat w m b false) a
def execVldX (c : Bool) (d : VRegNo) (a : SReg) (i : VRegNo) (p : PGov) (s : State) : Res :=
  vmem c d s false (fun s => s.grp i) (idxMode i) yes p (fun w m b => .load d.toNat w m b false) a
def execVldff (c : Bool) (d : VRegNo) (a : SReg) (p : PGov) (s : State) : Res :=
  vmem c d s true yes unitMode yes p (fun w m b => .load d.toNat w m b true) a
def execVldseg (c : Bool) (d : VRegNo) (a : SReg) (p : PGov) (f : BitVec 5) (s : State) : Res :=
  vmem c d s false (segFits d (segF f)) (fun _ => some (.seg (segF f))) (segTags d (segF f)) p
    (fun w m b => .load d.toNat w m b false) a
def execVst (c : Bool) (d : VRegNo) (a : SReg) (p : PGov) (s : State) : Res :=
  vmem c d s true yes unitMode yes p (fun w m b => .store d.toNat w m b false) a
def execVstS (c : Bool) (d : VRegNo) (a x : SReg) (p : PGov) (s : State) : Res :=
  vmem c d s false yes (strideMode x) yes p (fun w m b => .store d.toNat w m b false) a
def execVstX (c : Bool) (d : VRegNo) (a : SReg) (i : VRegNo) (p : PGov) (s : State) : Res :=
  vmem c d s false (fun s => s.grp i) (idxMode i) yes p (fun w m b => .store d.toNat w m b false) a
def execVsto (c : Bool) (d : VRegNo) (a : SReg) (p : PGov) (s : State) : Res :=
  vmem c d s false yes unitMode yes p (fun w m b => .store d.toNat w m b true) a
def execVstseg (c : Bool) (d : VRegNo) (a : SReg) (p : PGov) (f : BitVec 5) (s : State) : Res :=
  vmem c d s false (segFits d (segF f)) (fun _ => some (.seg (segF f))) (segTags d (segF f)) p
    (fun w m b => .store d.toNat w m b false) a
def execVstoStrided (c : Bool) (d : VRegNo) (a x : SReg) (p : PGov) (s : State) : Res :=
  vmem c d s false yes (strideMode x) yes p (fun w m b => .store d.toNat w m b true) a

/-- VAMO (R251): vd tagged i32, u32, i64 or u64. -/
def vamo (op : AmoOp) (c : Bool) (d : VRegNo) (a : SReg) (i : VRegNo) (p : PGov) (s : State) : Res :=
  vword s c clsMem true (fun s => s.grp d && s.grp i) fun s =>
    match s.opT d.toNat 1, idxTy s i with
    | some (.int _ t), some it =>
      if 32 ≤ t.w then some (postOnly (.vamo op d.toNat t i.toNat it (s.rd a)) (some p)) else none
    | _, _ => none
def execVamoAdd (c : Bool) (d : VRegNo) (a : SReg) (i : VRegNo) (p : PGov) (s : State) : Res := vamo .add c d a i p s
def execVamoSwap (c : Bool) (d : VRegNo) (a : SReg) (i : VRegNo) (p : PGov) (s : State) : Res := vamo .swap c d a i p s
def execVamoAnd (c : Bool) (d : VRegNo) (a : SReg) (i : VRegNo) (p : PGov) (s : State) : Res := vamo .and c d a i p s
def execVamoOr (c : Bool) (d : VRegNo) (a : SReg) (i : VRegNo) (p : PGov) (s : State) : Res := vamo .or c d a i p s
def execVamoXor (c : Bool) (d : VRegNo) (a : SReg) (i : VRegNo) (p : PGov) (s : State) : Res := vamo .xor c d a i p s
def execVamoMin (c : Bool) (d : VRegNo) (a : SReg) (i : VRegNo) (p : PGov) (s : State) : Res := vamo .min c d a i p s
def execVamoMax (c : Bool) (d : VRegNo) (a : SReg) (i : VRegNo) (p : PGov) (s : State) : Res := vamo .max c d a i p s

end Sys2Proof.Machine
end

