-- ==== Sys2Proof/Machine/VecMatrix.lean ====
section
/-! DEFINITION. The matrix words, the VCTX words and the barrier words: what each decodes to and posts (spec chapters 10, 11 and 13:
R193 to R214, R234 to R237, R252 to R255). -/
namespace Sys2Proof.Machine

def clsMat : Cls := { mat := true }
def clsMatMem : Cls := { mat := true, mem := true }
def clsSolo : Cls := { solo := true }

/-- A matrix word: not admitted in a block; the core's matrix state becomes the CT's before it decodes (R193, R231). -/
def vmatrix (c : Bool) (s : State) (k : Cls) (field : State → Bool) (plan : State → Option (State → State)) : Res :=
  match s.who with
  | .exec => vword (takeMatrix s) c k false field plan
  | _ => vword s c k false field plan

/-- The grants as a word captures them for rows, columns and depth; zero throughout where any is zero (R195). -/
def grants (s : State) : Nat × Nat × Nat :=
  if s.ct.grantM = 0 ∨ s.ct.grantN = 0 ∨ s.ct.grantK = 0 then (0, 0, 0) else (s.ct.grantM, s.ct.grantN, s.ct.grantK)

/-- A type register: its tag byte alone, among the tag codes admitted (R194, R196). -/
def typeReg (s : State) (v : VRegNo) (ok : List Nat) : Option Ty :=
  match s.ty v.toNat with
  | some t => if t.code ∈ ok then some t else none
  | none => none

/-- MSTL (R195): three requests from y, three results from x; neither when it starts at s0. -/
def execMstl (c : Bool) (x y : SReg) (s : State) : Res :=
  vmatrix c s .free (fun _ => true) fun _ => some fun s =>
    let q := fun (i : SReg) => if y = 0 then 0 else min (s.rd (y + i)).toNat 128
    let (m, n, k) := (q 0, q 1, q 2)
    let t := { s with ct := { s.ct with grantM := m, grantN := n, grantK := k } }
    if x = 0 then t
    else ((t.wr x (BitVec.ofNat 64 m)).wr (x + 1) (BitVec.ofNat 64 n)).wr (x + 2) (BitVec.ofNat 64 k)

/-- The shadow plane's tag, set at decode with the format captured (R196). -/
def setShadowTag (s : State) (t : Ty) : State :=
  { s with ct := { s.ct with mx := { s.ct.mx with shaTag := ⟨t.byte, s.ct.a.fmt.toList.getD (t.byte.toNat % 8) 0⟩ } } }

def mldsTags : List Nat := [13, 14, 11, 3, 4, 12, 2]
def sowTags : List Nat := [13, 14, 11, 12]
def macinTags : List Nat := [13, 14, 15, 11, 12]
def macstTags : List Nat := [15, 13, 14, 11]
def scanTags : List Nat := [13, 14, 15, 11, 12, 3, 2]

def execMlds (c : Bool) (v : VRegNo) (x y : SReg) (s : State) : Res :=
  vmatrix c s clsMatMem (fun s => s.grp v) fun s =>
    match typeReg s v mldsTags with
    | some t =>
      let (_, n, k) := grants s
      some fun s => setShadowTag (vpost s (.mlds t (s.rd x) (s.rd y) n k) none) t
    | none => none

/-- The format of a floating type. -/
def Ty.fmtOf : Ty → Fmt
  | .fp _ f _ => f
  | _ => fmtF32

def execMsow (c : Bool) (v : VRegNo) (x : SReg) (s : State) : Res :=
  vmatrix c s clsMatMem (fun s => s.grp v) fun s =>
    match typeReg s v sowTags with
    | some t => some fun s => setShadowTag (vpost s (.msow t.byte t.fmtOf (s.rd x)) none) t
    | none => none

def execMswap (c : Bool) (s : State) : Res :=
  vmatrix c s clsMat (fun _ => true) fun _ => some fun s =>
    let t := vpost s .mswap none
    { t with ct := { t.ct with mx := { t.ct.mx with actTag := t.ct.mx.shaTag, shaTag := t.ct.mx.actTag } } }

/-- The type that a plane's tag and captured format name (R196). -/
def planeTy (t : PlaneTag) : Option Ty := tyOf (Vector.replicate 8 t.fmt) t.code

/-- The pairs that a multiply admits (R196). -/
def mmacOk (a p : Nat) : Bool :=
  (decide (a = 13 ∨ a = 14) && decide (p = 13 ∨ p = 14)) || (decide (a = 11) && decide (p = 11)) ||
    (decide (a = 3 ∨ a = 4) && decide (p = 3 ∨ p = 4)) || (decide (a = 12) && decide (p = 12)) ||
    (decide (a = 2) && decide (p = 2))

def vmmac (c : Bool) (k : BitVec 4) (v : VRegNo) (x : SReg) (rows : Option PGov) (s : State) : Res :=
  vmatrix c s clsMat (fun s => s.grp v) fun s =>
    match s.opT v.toNat 1, planeTy s.ct.mx.actTag with
    | some ta, some tp =>
      if mmacOk ta.code tp.code then
        let (m, n, kk) := grants s
        some (postOnly (.mmac k.toNat v.toNat ta tp (s.rd x) (rows.map (·.toNat)) m n kk) none)
      else none
    | _, _ => none
def execMmac (c : Bool) (k : BitVec 4) (v : VRegNo) (x : SReg) (s : State) : Res := vmmac c k v x none s
def execMmacM (c : Bool) (k : BitVec 4) (v : VRegNo) (x : SReg) (p : PGov) (s : State) : Res := vmmac c k v x (some p) s

def execMacz (c : Bool) (k : BitVec 4) (s : State) : Res :=
  vmatrix c s clsMat (fun _ => true) fun _ => some (postOnly (.macz k.toNat) none)

def execMacld (c : Bool) (k : BitVec 4) (v : VRegNo) (x y : SReg) (s : State) : Res :=
  vmatrix c s clsMatMem (fun s => s.grp v) fun s =>
    match typeReg s v macinTags with
    | some t => let (m, n, _) := grants s; some (postOnly (.macld k.toNat t (s.rd x) (s.rd y) m n) none)
    | none => none
def execMacst (c : Bool) (k : BitVec 4) (v : VRegNo) (x y : SReg) (s : State) : Res :=
  vmatrix c s clsMatMem (fun s => s.grp v) fun s =>
    match typeReg s v macstTags with
    | some t => let (m, n, _) := grants s; some (postOnly (.macst k.toNat t (s.rd x) (s.rd y) m n) none)
    | none => none
def execMacin (c : Bool) (k : BitVec 4) (v : VRegNo) (x : SReg) (s : State) : Res :=
  vmatrix c s clsMat (fun s => s.grp v) fun s =>
    match s.opT v.toNat 1 with
    | some t =>
      if t.code ∈ macinTags then
        let (m, n, _) := grants s
        some (postOnly (.macin k.toNat v.toNat t (s.rd x) m n) none)
      else none
    | none => none
def execMseedgen (c : Bool) (v : VRegNo) (x y : SReg) (s : State) : Res :=
  vmatrix c s clsMatMem (fun s => s.grp v) fun s =>
    match typeReg s v sowTags with
    | some t => some (postOnly (.mseedgen t.byte t.fmtOf t.w (s.rd x) (s.rd y)) none)
    | none => none

/-- MSEEDSCAN (R212): three inputs from x, all zero when it starts at s0. -/
def execMseedscan (c : Bool) (v : VRegNo) (x y : SReg) (s : State) : Res :=
  vmatrix c s clsMatMem (fun s => s.grp v) fun s =>
    match typeReg s v scanTags with
    | some t =>
      let q := fun (i : SReg) => if x = 0 then 0 else s.rd (x + i)
      some (postOnly (.mseedscan y t (q 0) (q 1) (q 2)) none)
    | none => none

/-! ### VCTX (R234 to R237) -/

def execVsave (c : Bool) (a : SReg) (s : State) : Res :=
  vword s c clsSolo false (fun _ => true) fun s =>
    some (postOnly (.vsave (s.rd a) s.ct.vtype.toList (s.ct.bins.toList.map (·.ty)) s.ct.vsw s.ct.grantM s.ct.grantN s.ct.grantK) none)
def execVrestore (c : Bool) (a : SReg) (s : State) : Res :=
  vword s c clsSolo false (fun _ => true) fun s => some (postOnly (.vrestore (s.rd a)) none)
def execMsave (c : Bool) (a : SReg) (s : State) : Res :=
  vmatrix c s clsSolo (fun _ => true) fun s =>
    some (postOnly (.msave (s.rd a) s.ct.grantM s.ct.grantN s.ct.grantK (s.ct.mx.actTag.code, s.ct.mx.actTag.fmt)
      (s.ct.mx.shaTag.code, s.ct.mx.shaTag.fmt)) none)
def execMrestore (c : Bool) (a : SReg) (s : State) : Res :=
  vmatrix c s clsSolo (fun _ => true) fun s => some (postOnly (.mrestore (s.rd a)) none)

/-! ### Gang barriers (R252 to R255) -/

/-- The counts of barrier n of a CT. -/
def Ct.barOf (c : Ct) (n : Nat) : Barrier := c.bar[n]?.getD ⟨0, 0, 0, none⟩
def Ct.setBar (c : Ct) (n : Nat) (b : Barrier) : Ct := { c with bar := c.bar.setIfInBounds n b }

/-- Phase k of barrier n of the gang in focus is complete: the k-th marker of every member has fired; a member that has
halted counts as arrived (R253, R255). -/
def phaseDone (s : State) (n k : Nat) : Bool :=
  s.cts.all fun c =>
    !(c.launch = s.ct.launch && c.gang = s.ct.gang && c.plot = s.ct.plot) || c.status = .ended || decide (k ≤ (c.barOf n).fired)

/-- A barrier word's place: the execute stream outside a block, in step with its counts; CONVOY comes first (R35). -/
def barPlace (s : State) (c : Bool) (ok : Bool) : Bool :=
  decide (s.who = .exec) && s.group.isNone && (countConvoy s.conv c .free).isSome && !ok

def execBarg (c : Bool) (n : BitVec 5) (s : State) : Res :=
  let b := s.ct.barOf n.toNat
  if s.who = .exec && s.ct.viq.any Ventry.fixes then .next (runHead s).1
  else if barPlace s c (decide (b.a = b.w)) then .next (raise s (trapIll 9))
  else vword s c .free false (fun _ => true) fun _ => some fun s =>
    vpost { s with ct := s.ct.setBar n.toNat { b with a := b.a + 1 } } (.barMark n.toNat s.ct.sbn) none

/-- BARW (R253, R334, R394): it completes when its phase is complete, consuming vstart; until then the stream waits, and the
member's own marker fires as soon as it can. Later accesses of the stream come after it. -/
def execBarw (c : Bool) (n : BitVec 5) (s : State) : Res :=
  let b := s.ct.barOf n.toNat
  if s.who = .exec && s.ct.viq.any Ventry.fixes then .next (runHead s).1
  else if barPlace s c (decide (b.a = b.w + 1)) then .next (raise s (trapIll 9))
  else if barPlace s c (phaseDone s n.toNat b.a) then
    .next (let t := s.tryFire n.toNat; if t.ct.viq.isEmpty then t else (runHead t).1)
  else vword s c .free false (fun _ => true) fun _ => some fun s =>
    { s with ct := { s.ct.setBar n.toNat { b with w := b.w + 1 } with vstart := 0 } }.acquire

end Sys2Proof.Machine
end

