-- ==== Sys2Proof/Machine/Dispatch.lean ====
section
/-! DEFINITION. The dispatch: one arm per constructor of Instr. -/
namespace Sys2Proof.Machine

def exec (i : Instr) (s : State) : Host.Outcome State Fault Refusal :=
  match i with
  | .add d a b => Sys2Proof.Machine.execAdd d a b s
  | .sub d a b => Sys2Proof.Machine.execSub d a b s
  | .mul d a b => Sys2Proof.Machine.execMul d a b s
  | .mulh d a b => Sys2Proof.Machine.execMulh d a b s
  | .mulhu d a b => Sys2Proof.Machine.execMulhu d a b s
  | .div d a b => Sys2Proof.Machine.execDiv d a b s
  | .divu d a b => Sys2Proof.Machine.execDivu d a b s
  | .rem d a b => Sys2Proof.Machine.execRem d a b s
  | .remu d a b => Sys2Proof.Machine.execRemu d a b s
  | .and d a b => Sys2Proof.Machine.execAnd d a b s
  | .or d a b => Sys2Proof.Machine.execOr d a b s
  | .xor d a b => Sys2Proof.Machine.execXor d a b s
  | .andn d a b => Sys2Proof.Machine.execAndn d a b s
  | .shl d a b => Sys2Proof.Machine.execShl d a b s
  | .shr d a b => Sys2Proof.Machine.execShr d a b s
  | .sha d a b => Sys2Proof.Machine.execSha d a b s
  | .rot d a b => Sys2Proof.Machine.execRot d a b s
  | .slt d a b => Sys2Proof.Machine.execSlt d a b s
  | .sltu d a b => Sys2Proof.Machine.execSltu d a b s
  | .min d a b => Sys2Proof.Machine.execMin d a b s
  | .max d a b => Sys2Proof.Machine.execMax d a b s
  | .minu d a b => Sys2Proof.Machine.execMinu d a b s
  | .maxu d a b => Sys2Proof.Machine.execMaxu d a b s
  | .clz d a => Sys2Proof.Machine.execClz d a s
  | .ctz d a => Sys2Proof.Machine.execCtz d a s
  | .popc d a => Sys2Proof.Machine.execPopc d a s
  | .addi d a im => Sys2Proof.Machine.execAddi d a im s
  | .andi d a im => Sys2Proof.Machine.execAndi d a im s
  | .ori d a im => Sys2Proof.Machine.execOri d a im s
  | .xori d a im => Sys2Proof.Machine.execXori d a im s
  | .slti d a im => Sys2Proof.Machine.execSlti d a im s
  | .shli d a n => Sys2Proof.Machine.execShli d a n s
  | .shri d a n => Sys2Proof.Machine.execShri d a n s
  | .shai d a n => Sys2Proof.Machine.execShai d a n s
  | .ldi d im => Sys2Proof.Machine.execLdi d im s
  | .adpc d o => Sys2Proof.Machine.execAdpc d o s
  | .ld d a w c im => Sys2Proof.Machine.execLd d a w c im s
  | .ldu d a w c im => Sys2Proof.Machine.execLdu d a w c im s
  | .st d a w c im => Sys2Proof.Machine.execSt d a w c im s
  | .amoadd d a b w sc => Sys2Proof.Machine.execAmoadd d a b w sc s
  | .amoswap d a b w sc => Sys2Proof.Machine.execAmoswap d a b w sc s
  | .amoand d a b w sc => Sys2Proof.Machine.execAmoand d a b w sc s
  | .amoor d a b w sc => Sys2Proof.Machine.execAmoor d a b w sc s
  | .amoxor d a b w sc => Sys2Proof.Machine.execAmoxor d a b w sc s
  | .amomin d a b w sc => Sys2Proof.Machine.execAmomin d a b w sc s
  | .amomax d a b w sc => Sys2Proof.Machine.execAmomax d a b w sc s
  | .amominu d a b w sc => Sys2Proof.Machine.execAmominu d a b w sc s
  | .amomaxu d a b w sc => Sys2Proof.Machine.execAmomaxu d a b w sc s
  | .amocas d a b w sc => Sys2Proof.Machine.execAmocas d a b w sc s
  | .lda d a w sc => Sys2Proof.Machine.execLda d a w sc s
  | .stl a b w sc => Sys2Proof.Machine.execStl a b w sc s
  | .fence k sc => Sys2Proof.Machine.execFence k sc s
  | .beq a b o => Sys2Proof.Machine.execBeq a b o s
  | .bne a b o => Sys2Proof.Machine.execBne a b o s
  | .blt a b o => Sys2Proof.Machine.execBlt a b o s
  | .bge a b o => Sys2Proof.Machine.execBge a b o s
  | .bltu a b o => Sys2Proof.Machine.execBltu a b o s
  | .bgeu a b o => Sys2Proof.Machine.execBgeu a b o s
  | .jmp d o => Sys2Proof.Machine.execJmp d o s
  | .jmpr d a im => Sys2Proof.Machine.execJmpr d a im s
  | .fadd d a b f => Sys2Proof.Machine.execFadd d a b f s
  | .fsub d a b f => Sys2Proof.Machine.execFsub d a b f s
  | .fmul d a b f => Sys2Proof.Machine.execFmul d a b f s
  | .fdiv d a b f => Sys2Proof.Machine.execFdiv d a b f s
  | .fsqrt d a f => Sys2Proof.Machine.execFsqrt d a f s
  | .fma d a b f => Sys2Proof.Machine.execFma d a b f s
  | .fmin d a b f => Sys2Proof.Machine.execFmin d a b f s
  | .fmax d a b f => Sys2Proof.Machine.execFmax d a b f s
  | .fcmp d a b f c => Sys2Proof.Machine.execFcmp d a b f c s
  | .fcvtDS d a f sc => Sys2Proof.Machine.execFcvtDS d a f sc s
  | .fmv d a f => Sys2Proof.Machine.execFmv d a f s
  | .fmvNeg d a f => Sys2Proof.Machine.execFmvNeg d a f s
  | .fmvAbs d a f => Sys2Proof.Machine.execFmvAbs d a f s
  | .fcvtFK d a f k => Sys2Proof.Machine.execFcvtFK d a f k s
  | .fcvtKF d a f k => Sys2Proof.Machine.execFcvtKF d a f k s
  | .fcvtRtz d a f k => Sys2Proof.Machine.execFcvtRtz d a f k s
  | .qsend a q => Sys2Proof.Machine.execQsend a q s
  | .qrecv d q => Sys2Proof.Machine.execQrecv d q s
  | .qbsend a => Sys2Proof.Machine.execQbsend a s
  | .bq o => Sys2Proof.Machine.execBq o s
  | .sysr d c => Sys2Proof.Machine.execSysr d c s
  | .sysw a c => Sys2Proof.Machine.execSysw a c s
  | .sysset a c => Sys2Proof.Machine.execSysset a c s
  | .sysclr a c => Sys2Proof.Machine.execSysclr a c s
  | .trap a => Sys2Proof.Machine.execTrap a s
  | .tret => Sys2Proof.Machine.execTret s
  | .wait d a b => Sys2Proof.Machine.execWait d a b s
  | .yield => Sys2Proof.Machine.execYield s
  | .halt => Sys2Proof.Machine.execHalt s
  | .time d => Sys2Proof.Machine.execTime d s
  | .hint im => Sys2Proof.Machine.execHint im s
  | .illegalWord w sub => Sys2Proof.Machine.execIllegalWord w sub s
  | .vsetl c d a => Sys2Proof.Machine.execVsetl c d a s
  | .vsett c v n t sc => Sys2Proof.Machine.execVsett c v n t sc s
  | .vsetg c g => Sys2Proof.Machine.execVsetg c g s
  | .vaddVv c d a b p => Sys2Proof.Machine.execVaddVv c d a b p s
  | .vaddVx c d a sc p => Sys2Proof.Machine.execVaddVx c d a sc p s
  | .vsubVv c d a b p => Sys2Proof.Machine.execVsubVv c d a b p s
  | .vsubVx c d a sc p => Sys2Proof.Machine.execVsubVx c d a sc p s
  | .vmulVv c d a b p => Sys2Proof.Machine.execVmulVv c d a b p s
  | .vmulVx c d a sc p => Sys2Proof.Machine.execVmulVx c d a sc p s
  | .vmulhVv c d a b p => Sys2Proof.Machine.execVmulhVv c d a b p s
  | .vmulhVx c d a sc p => Sys2Proof.Machine.execVmulhVx c d a sc p s
  | .vdivVv c d a b p => Sys2Proof.Machine.execVdivVv c d a b p s
  | .vdivVx c d a sc p => Sys2Proof.Machine.execVdivVx c d a sc p s
  | .vremVv c d a b p => Sys2Proof.Machine.execVremVv c d a b p s
  | .vremVx c d a sc p => Sys2Proof.Machine.execVremVx c d a sc p s
  | .vminVv c d a b p => Sys2Proof.Machine.execVminVv c d a b p s
  | .vminVx c d a sc p => Sys2Proof.Machine.execVminVx c d a sc p s
  | .vmaxVv c d a b p => Sys2Proof.Machine.execVmaxVv c d a b p s
  | .vmaxVx c d a sc p => Sys2Proof.Machine.execVmaxVx c d a sc p s
  | .vandVv c d a b p => Sys2Proof.Machine.execVandVv c d a b p s
  | .vandVx c d a sc p => Sys2Proof.Machine.execVandVx c d a sc p s
  | .vorVv c d a b p => Sys2Proof.Machine.execVorVv c d a b p s
  | .vorVx c d a sc p => Sys2Proof.Machine.execVorVx c d a sc p s
  | .vxorVv c d a b p => Sys2Proof.Machine.execVxorVv c d a b p s
  | .vxorVx c d a sc p => Sys2Proof.Machine.execVxorVx c d a sc p s
  | .vandnVv c d a b p => Sys2Proof.Machine.execVandnVv c d a b p s
  | .vandnVx c d a sc p => Sys2Proof.Machine.execVandnVx c d a sc p s
  | .vshlVv c d a b p => Sys2Proof.Machine.execVshlVv c d a b p s
  | .vshlVx c d a sc p => Sys2Proof.Machine.execVshlVx c d a sc p s
  | .vshrVv c d a b p => Sys2Proof.Machine.execVshrVv c d a b p s
  | .vshrVx c d a sc p => Sys2Proof.Machine.execVshrVx c d a sc p s
  | .vshaVv c d a b p => Sys2Proof.Machine.execVshaVv c d a b p s
  | .vshaVx c d a sc p => Sys2Proof.Machine.execVshaVx c d a sc p s
  | .vfmaVv c d a b p => Sys2Proof.Machine.execVfmaVv c d a b p s
  | .vfmaVx c d a sc p => Sys2Proof.Machine.execVfmaVx c d a sc p s
  | .vfmsVv c d a b p => Sys2Proof.Machine.execVfmsVv c d a b p s
  | .vfmsVx c d a sc p => Sys2Proof.Machine.execVfmsVx c d a sc p s
  | .vfnmaVv c d a b p => Sys2Proof.Machine.execVfnmaVv c d a b p s
  | .vfnmaVx c d a sc p => Sys2Proof.Machine.execVfnmaVx c d a sc p s
  | .vclampVv c d a b p => Sys2Proof.Machine.execVclampVv c d a b p s
  | .vclampVx c d a sc p => Sys2Proof.Machine.execVclampVx c d a sc p s
  | .vselVv c d a b p => Sys2Proof.Machine.execVselVv c d a b p s
  | .vselVx c d a sc p => Sys2Proof.Machine.execVselVx c d a sc p s
  | .vaddSatVv c d a b p => Sys2Proof.Machine.execVaddSatVv c d a b p s
  | .vaddSatVx c d a sc p => Sys2Proof.Machine.execVaddSatVx c d a sc p s
  | .vsubSatVv c d a b p => Sys2Proof.Machine.execVsubSatVv c d a b p s
  | .vsubSatVx c d a sc p => Sys2Proof.Machine.execVsubSatVx c d a sc p s
  | .vabs c d a p => Sys2Proof.Machine.execVabs c d a p s
  | .vneg c d a p => Sys2Proof.Machine.execVneg c d a p s
  | .vmov c d a p => Sys2Proof.Machine.execVmov c d a p s
  | .vcvt c d a p => Sys2Proof.Machine.execVcvt c d a p s
  | .vcvtSat c d a p => Sys2Proof.Machine.execVcvtSat c d a p s
  | .vsplat c d sc p => Sys2Proof.Machine.execVsplat c d sc p s
  | .vext c a sc => Sys2Proof.Machine.execVext c a sc s
  | .viota c d p im j => Sys2Proof.Machine.execViota c d p im j s
  | .vwaddVx c d a sc p => Sys2Proof.Machine.execVwaddVx c d a sc p s
  | .vwaddVv c d a b p => Sys2Proof.Machine.execVwaddVv c d a b p s
  | .vwsubVx c d a sc p => Sys2Proof.Machine.execVwsubVx c d a sc p s
  | .vwsubVv c d a b p => Sys2Proof.Machine.execVwsubVv c d a b p s
  | .vwmulVx c d a sc p => Sys2Proof.Machine.execVwmulVx c d a sc p s
  | .vwmulVv c d a b p => Sys2Proof.Machine.execVwmulVv c d a b p s
  | .vwmacVx c d a sc p => Sys2Proof.Machine.execVwmacVx c d a sc p s
  | .vwmacVv c d a b p => Sys2Proof.Machine.execVwmacVv c d a b p s
  | .vnshrVx c d a sc p => Sys2Proof.Machine.execVnshrVx c d a sc p s
  | .vnshrVv c d a b p => Sys2Proof.Machine.execVnshrVv c d a b p s
  | .vncvt c d a p => Sys2Proof.Machine.execVncvt c d a p s
  | .vsqrt c d a p => Sys2Proof.Machine.execVsqrt c d a p s
  | .vrcp c d a p => Sys2Proof.Machine.execVrcp c d a p s
  | .vrsq c d a p => Sys2Proof.Machine.execVrsq c d a p s
  | .vexp2 c d a p => Sys2Proof.Machine.execVexp2 c d a p s
  | .vlog2 c d a p => Sys2Proof.Machine.execVlog2 c d a p s
  | .vcmpEq c d a b p => Sys2Proof.Machine.execVcmpEq c d a b p s
  | .vcmpNe c d a b p => Sys2Proof.Machine.execVcmpNe c d a b p s
  | .vcmpLt c d a b p => Sys2Proof.Machine.execVcmpLt c d a b p s
  | .vcmpLe c d a b p => Sys2Proof.Machine.execVcmpLe c d a b p s
  | .vcmpGt c d a b p => Sys2Proof.Machine.execVcmpGt c d a b p s
  | .vcmpGe c d a b p => Sys2Proof.Machine.execVcmpGe c d a b p s
  | .vcmpUn c d a b p => Sys2Proof.Machine.execVcmpUn c d a b p s
  | .vclass c d a k p => Sys2Proof.Machine.execVclass c d a k p s
  | .pand d a b => Sys2Proof.Machine.execPand d a b s
  | .por d a b => Sys2Proof.Machine.execPor d a b s
  | .pxor d a b => Sys2Proof.Machine.execPxor d a b s
  | .pandn d a b => Sys2Proof.Machine.execPandn d a b s
  | .pnot d a => Sys2Proof.Machine.execPnot d a s
  | .pmov d a => Sys2Proof.Machine.execPmov d a s
  | .pset d v => Sys2Proof.Machine.execPset d v s
  | .pcnt d a => Sys2Proof.Machine.execPcnt d a s
  | .pfirst d a => Sys2Proof.Machine.execPfirst d a s
  | .plast d a => Sys2Proof.Machine.execPlast d a s
  | .pbrk d a => Sys2Proof.Machine.execPbrk d a s
  | .pld d sc => Sys2Proof.Machine.execPld d sc s
  | .pst sc a => Sys2Proof.Machine.execPst sc a s
  | .vfetch o => Sys2Proof.Machine.execVfetch o s
  | .vpbr c a o => Sys2Proof.Machine.execVpbr c a o s
  | .vpjoin c => Sys2Proof.Machine.execVpjoin c s
  | .vpend c => Sys2Proof.Machine.execVpend c s
  | .vld c d a p => Sys2Proof.Machine.execVld c d a p s
  | .vldS c d a x p => Sys2Proof.Machine.execVldS c d a x p s
  | .vldX c d a im p => Sys2Proof.Machine.execVldX c d a im p s
  | .vldff c d a p => Sys2Proof.Machine.execVldff c d a p s
  | .vldseg c d a p f => Sys2Proof.Machine.execVldseg c d a p f s
  | .vst c d a p => Sys2Proof.Machine.execVst c d a p s
  | .vstS c d a x p => Sys2Proof.Machine.execVstS c d a x p s
  | .vstX c d a im p => Sys2Proof.Machine.execVstX c d a im p s
  | .vsto c d a p => Sys2Proof.Machine.execVsto c d a p s
  | .vstseg c d a p f => Sys2Proof.Machine.execVstseg c d a p f s
  | .vstoStrided c d a x p => Sys2Proof.Machine.execVstoStrided c d a x p s
  | .vamoAdd c d a im p => Sys2Proof.Machine.execVamoAdd c d a im p s
  | .vamoSwap c d a im p => Sys2Proof.Machine.execVamoSwap c d a im p s
  | .vamoAnd c d a im p => Sys2Proof.Machine.execVamoAnd c d a im p s
  | .vamoOr c d a im p => Sys2Proof.Machine.execVamoOr c d a im p s
  | .vamoXor c d a im p => Sys2Proof.Machine.execVamoXor c d a im p s
  | .vamoMin c d a im p => Sys2Proof.Machine.execVamoMin c d a im p s
  | .vamoMax c d a im p => Sys2Proof.Machine.execVamoMax c d a im p s
  | .vpermVv c d a b p => Sys2Proof.Machine.execVpermVv c d a b p s
  | .vpermVx c d a sc p => Sys2Proof.Machine.execVpermVx c d a sc p s
  | .vslup c d a sc p => Sys2Proof.Machine.execVslup c d a sc p s
  | .vsldn c d a sc p => Sys2Proof.Machine.execVsldn c d a sc p s
  | .vcompr c d a p => Sys2Proof.Machine.execVcompr c d a p s
  | .vexpnd c d a p => Sys2Proof.Machine.execVexpnd c d a p s
  | .vredsum c a sc p => Sys2Proof.Machine.execVredsum c a sc p s
  | .vredmax c a sc p => Sys2Proof.Machine.execVredmax c a sc p s
  | .vredmin c a sc p => Sys2Proof.Machine.execVredmin c a sc p s
  | .vscan c d a sc p => Sys2Proof.Machine.execVscan c d a sc p s
  | .vsoftmax c d a sc p => Sys2Proof.Machine.execVsoftmax c d a sc p s
  | .binz c n t => Sys2Proof.Machine.execBinz c n t s
  | .vbinacc c n a p => Sys2Proof.Machine.execVbinacc c n a p s
  | .vbinmacVx c n a sc p => Sys2Proof.Machine.execVbinmacVx c n a sc p s
  | .vbinmacVv c n a b p => Sys2Proof.Machine.execVbinmacVv c n a b p s
  | .binfold c n sc => Sys2Proof.Machine.execBinfold c n sc s
  | .vmark c sc => Sys2Proof.Machine.execVmark c sc s
  | .vstrip c => Sys2Proof.Machine.execVstrip c s
  | .fbind c d sc => Sys2Proof.Machine.execFbind c d sc s
  | .fchain c d o sc => Sys2Proof.Machine.execFchain c d o sc s
  | .funbind c d => Sys2Proof.Machine.execFunbind c d s
  | .fstat c d l sc => Sys2Proof.Machine.execFstat c d l sc s
  | .feedFetch reg n => Sys2Proof.Machine.execFeedFetch reg n s
  | .fpcvt c d a sc p => Sys2Proof.Machine.execFpcvt c d a sc p s
  | .fplen2 c d a p => Sys2Proof.Machine.execFplen2 c d a p s
  | .fpgtag c d a p => Sys2Proof.Machine.execFpgtag c d a p s
  | .fpstagVx c d a sc p => Sys2Proof.Machine.execFpstagVx c d a sc p s
  | .fpstagVv c d a b p => Sys2Proof.Machine.execFpstagVv c d a b p s
  | .frset d a b => Sys2Proof.Machine.execFrset d a b s
  | .frdel d a b => Sys2Proof.Machine.execFrdel d a b s
  | .frfence => Sys2Proof.Machine.execFrfence s
  | .frlook d a b => Sys2Proof.Machine.execFrlook d a b s
  | .chainCacheInvalidationAck core node => Sys2Proof.Machine.execChainCacheInvalidationAck core node s
  | .retentionWake core => Sys2Proof.Machine.execRetentionWake core s
  | .mstl c x y => Sys2Proof.Machine.execMstl c x y s
  | .mlds c v x y => Sys2Proof.Machine.execMlds c v x y s
  | .msow c v x => Sys2Proof.Machine.execMsow c v x s
  | .mswap c => Sys2Proof.Machine.execMswap c s
  | .mmac c k v x => Sys2Proof.Machine.execMmac c k v x s
  | .mmacM c k v x p => Sys2Proof.Machine.execMmacM c k v x p s
  | .macz c k => Sys2Proof.Machine.execMacz c k s
  | .macld c k v x y => Sys2Proof.Machine.execMacld c k v x y s
  | .macst c k v x y => Sys2Proof.Machine.execMacst c k v x y s
  | .macin c k v x => Sys2Proof.Machine.execMacin c k v x s
  | .mseedgen c v x y => Sys2Proof.Machine.execMseedgen c v x y s
  | .mseedscan c v x y => Sys2Proof.Machine.execMseedscan c v x y s
  | .cpy d a b p sc => Sys2Proof.Machine.execCpy d a b p sc s
  | .cpyq d a sc => Sys2Proof.Machine.execCpyq d a sc s
  | .cpyw d a => Sys2Proof.Machine.execCpyw d a s
  | .cpywP d a => Sys2Proof.Machine.execCpywP d a s
  | .wdqry a => Sys2Proof.Machine.execWdqry a s
  | .wmbind a b k => Sys2Proof.Machine.execWmbind a b k s
  | .wmpub a b => Sys2Proof.Machine.execWmpub a b s
  | .copyComplete plot ctx ticket => Sys2Proof.Machine.execCopyComplete plot ctx ticket s
  | .wdqryAnswer ctids => Sys2Proof.Machine.execWdqryAnswer ctids s
  | .watermarkVisible slot => Sys2Proof.Machine.execWatermarkVisible slot s
  | .launch d a => Sys2Proof.Machine.execLaunch d a s
  | .lspec d a => Sys2Proof.Machine.execLspec d a s
  | .shpub a b => Sys2Proof.Machine.execShpub a b s
  | .allocr d a b => Sys2Proof.Machine.execAllocr d a b s
  | .retract a b => Sys2Proof.Machine.execRetract a b s
  | .lstat d a l => Sys2Proof.Machine.execLstat d a l s
  | .gangCommit launch gang => Sys2Proof.Machine.execGangCommit launch gang s
  | .gangPlace launch places => Sys2Proof.Machine.execGangPlace launch places s
  | .agePromotion launch => Sys2Proof.Machine.execAgePromotion launch s
  | .launchComplete launch => Sys2Proof.Machine.execLaunchComplete launch s
  | .barg c n => Sys2Proof.Machine.execBarg c n s
  | .barw c n => Sys2Proof.Machine.execBarw c n s
  | .barrierMarkerFire ctid n => Sys2Proof.Machine.execBarrierMarkerFire ctid n s
  | .vsave c a => Sys2Proof.Machine.execVsave c a s
  | .vrestore c a => Sys2Proof.Machine.execVrestore c a s
  | .msave c a => Sys2Proof.Machine.execMsave c a s
  | .mrestore c a => Sys2Proof.Machine.execMrestore c a s
  | .uopIssue ctid busy => Sys2Proof.Machine.execUopIssue ctid busy s
  | .uopComplete ctid => Sys2Proof.Machine.execUopComplete ctid s
  | .pageWalk plot aspace va => Sys2Proof.Machine.execPageWalk plot aspace va s
  | .ownershipTrap ctid matrix => Sys2Proof.Machine.execOwnershipTrap ctid matrix s
  | .faultRecordPost ctid => Sys2Proof.Machine.execFaultRecordPost ctid s
  | .waitLineWrite line => Sys2Proof.Machine.execWaitLineWrite line s
  | .waitDeadline ctid acc => Sys2Proof.Machine.execWaitDeadline ctid acc s
  | .directoryRead agent line => Sys2Proof.Machine.execDirectoryRead agent line s
  | .directoryWrite agent line => Sys2Proof.Machine.execDirectoryWrite agent line s
  | .directoryEviction agent line => Sys2Proof.Machine.execDirectoryEviction agent line s
  | .directoryAtomic line => Sys2Proof.Machine.execDirectoryAtomic line s
  | .migrationLineCopy => Sys2Proof.Machine.execMigrationLineCopy s
  | .eccPoison line src => Sys2Proof.Machine.execEccPoison line src s
  | .scrub line found => Sys2Proof.Machine.execScrub line found s
  | .logMove n v => Sys2Proof.Machine.execLogMove n v s
  | .registerWrite offset v => Sys2Proof.Machine.execRegisterWrite offset v s
  | .plotMake tva => Sys2Proof.Machine.execPlotMake tva s
  | .plotFree => Sys2Proof.Machine.execPlotFree s
  | .corecfg => Sys2Proof.Machine.execCorecfg s
  | .resume => Sys2Proof.Machine.execResume s
  | .preempt => Sys2Proof.Machine.execPreempt s
  | .abandon => Sys2Proof.Machine.execAbandon s
  | .inval => Sys2Proof.Machine.execInval s
  | .migrate => Sys2Proof.Machine.execMigrate s
  | .sweep => Sys2Proof.Machine.execSweep s
  | .cancel => Sys2Proof.Machine.execCancel s
  | .queue => Sys2Proof.Machine.execQueue s
  | .collect parts => Sys2Proof.Machine.execCollect parts s
  | .collectMemberTimeout => Sys2Proof.Machine.execCollectMemberTimeout s
  | .grant => Sys2Proof.Machine.execGrant s
  | .trellisRepair => Sys2Proof.Machine.execTrellisRepair s
  | .hostwin => Sys2Proof.Machine.execHostwin s
  | .addrwin => Sys2Proof.Machine.execAddrwin s
  | .coordinatorBadCode => Sys2Proof.Machine.execCoordinatorBadCode s
  | .queueKick o w => Sys2Proof.Machine.execQueueKick o w s
  | .launchPacket q => Sys2Proof.Machine.execLaunchPacket q s
  | .graphLoad q => Sys2Proof.Machine.execGraphLoad q s
  | .graphUnload q => Sys2Proof.Machine.execGraphUnload q s
  | .graphRun q => Sys2Proof.Machine.execGraphRun q s
  | .waitPacket q => Sys2Proof.Machine.execWaitPacket q s
  | .signal q => Sys2Proof.Machine.execSignal q s
  | .packetStampRetry q => Sys2Proof.Machine.execPacketStampRetry q s
  | .queueStale q => Sys2Proof.Machine.execQueueStale q s
  | .interrupt core src => Sys2Proof.Machine.execInterrupt core src s
  | .timerInterrupt core => Sys2Proof.Machine.execTimerInterrupt core s
  | .boot => Sys2Proof.Machine.execBoot s
  | .leaseRenew die => Sys2Proof.Machine.execLeaseRenew die s
  | .leasePoll die => Sys2Proof.Machine.execLeasePoll die s
  | .heartbeatWrite die => Sys2Proof.Machine.execHeartbeatWrite die s
  | .heartbeatCheck leader die => Sys2Proof.Machine.execHeartbeatCheck leader die s
  | .firmwareEccHalt die => Sys2Proof.Machine.execFirmwareEccHalt die s
  | .sensorRead die reading => Sys2Proof.Machine.execSensorRead die reading s
  | .clockStep die => Sys2Proof.Machine.execClockStep die s
  | .getVersion => Sys2Proof.Machine.execGetVersion s
  | .getCapabilities => Sys2Proof.Machine.execGetCapabilities s
  | .negotiateAlgorithms => Sys2Proof.Machine.execNegotiateAlgorithms s
  | .getDigests => Sys2Proof.Machine.execGetDigests s
  | .getCertificate => Sys2Proof.Machine.execGetCertificate s
  | .challenge => Sys2Proof.Machine.execChallenge s
  | .getMeasurements index nonce => Sys2Proof.Machine.execGetMeasurements index nonce s
  | .hostBar2Access offset n write => Sys2Proof.Machine.execHostBar2Access offset n write s
  | .cxlMemRead offset n => Sys2Proof.Machine.execCxlMemRead offset n s
  | .cxlMemWrite offset n x => Sys2Proof.Machine.execCxlMemWrite offset n x s
  | .dataFlit port flit => Sys2Proof.Machine.execDataFlit port flit s
  | .nakFlit port flit => Sys2Proof.Machine.execNakFlit port flit s
  | .pauseFlit port flit => Sys2Proof.Machine.execPauseFlit port flit s
  | .resumeFlit port flit => Sys2Proof.Machine.execResumeFlit port flit s
  | .idleFlit port flit => Sys2Proof.Machine.execIdleFlit port flit s
  | .capabilityFlit port flit => Sys2Proof.Machine.execCapabilityFlit port flit s
  | .linkRetrain port ok bad => Sys2Proof.Machine.execLinkRetrain port ok bad s
  | .remoteRequest src plot pa n op => Sys2Proof.Machine.execRemoteRequest src plot pa n op s
  | .remoteResponse key ok x => Sys2Proof.Machine.execRemoteResponse key ok x s
  | .remoteTimeout key => Sys2Proof.Machine.execRemoteTimeout key s
  | .timeSyncExchange t1 t2 t3 t4 hops => Sys2Proof.Machine.execTimeSyncExchange t1 t2 t3 t4 hops s
  | .retentionSleep core => Sys2Proof.Machine.execRetentionSleep core s

end Sys2Proof.Machine
end

