-- ==== Sys2Proof/Machine/Scalars.lean ====
section
/-! DEFINITION. The scalar registers that each instruction names, read or written: a word that names one which a posted word has
still to write waits for it (spec chapters 04, 06, 08 and 09: R83, R112, R164, R180, R183, R212). -/
namespace Sys2Proof.Machine

/-- A run of n registers, taken literally (R12). -/
def runOf (n : Nat) (r : BitVec 6) : List (BitVec 6) := (List.range n).map fun i => r + BitVec.ofNat 6 i
/-- A run of MSTL or MSEEDSCAN: one that starts at s0 names no register (R12, R195, R212). -/
def runOr0 (n : Nat) (r : BitVec 6) : List (BitVec 6) := if r = 0 then [] else runOf n r

/-- The scalar registers that an instruction names. -/
def scalarsOf (i : Instr) : List (BitVec 6) :=
  match i with
  | .add d a b => [d, a, b]
  | .sub d a b => [d, a, b]
  | .mul d a b => [d, a, b]
  | .mulh d a b => [d, a, b]
  | .mulhu d a b => [d, a, b]
  | .div d a b => [d, a, b]
  | .divu d a b => [d, a, b]
  | .rem d a b => [d, a, b]
  | .remu d a b => [d, a, b]
  | .and d a b => [d, a, b]
  | .or d a b => [d, a, b]
  | .xor d a b => [d, a, b]
  | .andn d a b => [d, a, b]
  | .shl d a b => [d, a, b]
  | .shr d a b => [d, a, b]
  | .sha d a b => [d, a, b]
  | .rot d a b => [d, a, b]
  | .slt d a b => [d, a, b]
  | .sltu d a b => [d, a, b]
  | .min d a b => [d, a, b]
  | .max d a b => [d, a, b]
  | .minu d a b => [d, a, b]
  | .maxu d a b => [d, a, b]
  | .clz d a => [d, a]
  | .ctz d a => [d, a]
  | .popc d a => [d, a]
  | .addi d a _ => [d, a]
  | .andi d a _ => [d, a]
  | .ori d a _ => [d, a]
  | .xori d a _ => [d, a]
  | .slti d a _ => [d, a]
  | .shli d a _ => [d, a]
  | .shri d a _ => [d, a]
  | .shai d a _ => [d, a]
  | .ldi d _ => [d]
  | .adpc d _ => [d]
  | .ld d a _ _ _ => [d, a]
  | .ldu d a _ _ _ => [d, a]
  | .st d a _ _ _ => [d, a]
  | .amoadd d a b _ _ => [d, a, b]
  | .amoswap d a b _ _ => [d, a, b]
  | .amoand d a b _ _ => [d, a, b]
  | .amoor d a b _ _ => [d, a, b]
  | .amoxor d a b _ _ => [d, a, b]
  | .amomin d a b _ _ => [d, a, b]
  | .amomax d a b _ _ => [d, a, b]
  | .amominu d a b _ _ => [d, a, b]
  | .amomaxu d a b _ _ => [d, a, b]
  | .amocas d a b _ _ => [d, a, b]
  | .lda d a _ _ => [d, a]
  | .stl a b _ _ => [a, b]
  | .fence _ _ => []
  | .beq a b _ => [a, b]
  | .bne a b _ => [a, b]
  | .blt a b _ => [a, b]
  | .bge a b _ => [a, b]
  | .bltu a b _ => [a, b]
  | .bgeu a b _ => [a, b]
  | .jmp d _ => [d]
  | .jmpr d a _ => [d, a]
  | .fadd d a b _ => [d, a, b]
  | .fsub d a b _ => [d, a, b]
  | .fmul d a b _ => [d, a, b]
  | .fdiv d a b _ => [d, a, b]
  | .fsqrt d a _ => [d, a]
  | .fma d a b _ => [d, a, b]
  | .fmin d a b _ => [d, a, b]
  | .fmax d a b _ => [d, a, b]
  | .fcmp d a b _ _ => [d, a, b]
  | .fcvtDS d a _ _ => [d, a]
  | .fmv d a _ => [d, a]
  | .fmvNeg d a _ => [d, a]
  | .fmvAbs d a _ => [d, a]
  | .fcvtFK d a _ _ => [d, a]
  | .fcvtKF d a _ _ => [d, a]
  | .fcvtRtz d a _ _ => [d, a]
  | .qsend a _ => [a]
  | .qrecv d _ => [d]
  | .qbsend a => [a]
  | .bq _ => []
  | .sysr d _ => [d]
  | .sysw a _ => [a]
  | .sysset a _ => [a]
  | .sysclr a _ => [a]
  | .trap a => [a]
  | .tret => []
  | .wait d a b => [d, a, b]
  | .yield => []
  | .halt => []
  | .time d => [d]
  | .hint _ => []
  | .illegalWord _ _ => []
  | .vsetl _ d a => [d, a]
  | .vsett _ _ _ _ _ => []
  | .vsetg _ _ => []
  | .vaddVv _ _ _ _ _ => []
  | .vaddVx _ _ _ s _ => [s]
  | .vsubVv _ _ _ _ _ => []
  | .vsubVx _ _ _ s _ => [s]
  | .vmulVv _ _ _ _ _ => []
  | .vmulVx _ _ _ s _ => [s]
  | .vmulhVv _ _ _ _ _ => []
  | .vmulhVx _ _ _ s _ => [s]
  | .vdivVv _ _ _ _ _ => []
  | .vdivVx _ _ _ s _ => [s]
  | .vremVv _ _ _ _ _ => []
  | .vremVx _ _ _ s _ => [s]
  | .vminVv _ _ _ _ _ => []
  | .vminVx _ _ _ s _ => [s]
  | .vmaxVv _ _ _ _ _ => []
  | .vmaxVx _ _ _ s _ => [s]
  | .vandVv _ _ _ _ _ => []
  | .vandVx _ _ _ s _ => [s]
  | .vorVv _ _ _ _ _ => []
  | .vorVx _ _ _ s _ => [s]
  | .vxorVv _ _ _ _ _ => []
  | .vxorVx _ _ _ s _ => [s]
  | .vandnVv _ _ _ _ _ => []
  | .vandnVx _ _ _ s _ => [s]
  | .vshlVv _ _ _ _ _ => []
  | .vshlVx _ _ _ s _ => [s]
  | .vshrVv _ _ _ _ _ => []
  | .vshrVx _ _ _ s _ => [s]
  | .vshaVv _ _ _ _ _ => []
  | .vshaVx _ _ _ s _ => [s]
  | .vfmaVv _ _ _ _ _ => []
  | .vfmaVx _ _ _ s _ => [s]
  | .vfmsVv _ _ _ _ _ => []
  | .vfmsVx _ _ _ s _ => [s]
  | .vfnmaVv _ _ _ _ _ => []
  | .vfnmaVx _ _ _ s _ => [s]
  | .vclampVv _ _ _ _ _ => []
  | .vclampVx _ _ _ s _ => [s]
  | .vselVv _ _ _ _ _ => []
  | .vselVx _ _ _ s _ => [s]
  | .vaddSatVv _ _ _ _ _ => []
  | .vaddSatVx _ _ _ s _ => [s]
  | .vsubSatVv _ _ _ _ _ => []
  | .vsubSatVx _ _ _ s _ => [s]
  | .vabs _ _ _ _ => []
  | .vneg _ _ _ _ => []
  | .vmov _ _ _ _ => []
  | .vcvt _ _ _ _ => []
  | .vcvtSat _ _ _ _ => []
  | .vsplat _ _ s _ => [s]
  | .vext _ _ s => [s]
  | .viota _ _ _ _ _ => []
  | .vwaddVx _ _ _ s _ => [s]
  | .vwaddVv _ _ _ _ _ => []
  | .vwsubVx _ _ _ s _ => [s]
  | .vwsubVv _ _ _ _ _ => []
  | .vwmulVx _ _ _ s _ => [s]
  | .vwmulVv _ _ _ _ _ => []
  | .vwmacVx _ _ _ s _ => [s]
  | .vwmacVv _ _ _ _ _ => []
  | .vnshrVx _ _ _ s _ => [s]
  | .vnshrVv _ _ _ _ _ => []
  | .vncvt _ _ _ _ => []
  | .vsqrt _ _ _ _ => []
  | .vrcp _ _ _ _ => []
  | .vrsq _ _ _ _ => []
  | .vexp2 _ _ _ _ => []
  | .vlog2 _ _ _ _ => []
  | .vcmpEq _ _ _ _ _ => []
  | .vcmpNe _ _ _ _ _ => []
  | .vcmpLt _ _ _ _ _ => []
  | .vcmpLe _ _ _ _ _ => []
  | .vcmpGt _ _ _ _ _ => []
  | .vcmpGe _ _ _ _ _ => []
  | .vcmpUn _ _ _ _ _ => []
  | .vclass _ _ _ _ _ => []
  | .pand _ _ _ => []
  | .por _ _ _ => []
  | .pxor _ _ _ => []
  | .pandn _ _ _ => []
  | .pnot _ _ => []
  | .pmov _ _ => []
  | .pset _ _ => []
  | .pcnt d _ => [d]
  | .pfirst d _ => [d]
  | .plast d _ => [d]
  | .pbrk _ _ => []
  | .pld _ s => [s]
  | .pst s _ => [s]
  | .vfetch _ => []
  | .vpbr _ _ _ => []
  | .vpjoin _ => []
  | .vpend _ => []
  | .vld _ _ a _ => [a]
  | .vldS _ _ a x _ => [a, x]
  | .vldX _ _ a _ _ => [a]
  | .vldff _ _ a _ => [a]
  | .vldseg _ _ a _ _ => [a]
  | .vst _ _ a _ => [a]
  | .vstS _ _ a x _ => [a, x]
  | .vstX _ _ a _ _ => [a]
  | .vsto _ _ a _ => [a]
  | .vstseg _ _ a _ _ => [a]
  | .vstoStrided _ _ a x _ => [a, x]
  | .vamoAdd _ _ a _ _ => [a]
  | .vamoSwap _ _ a _ _ => [a]
  | .vamoAnd _ _ a _ _ => [a]
  | .vamoOr _ _ a _ _ => [a]
  | .vamoXor _ _ a _ _ => [a]
  | .vamoMin _ _ a _ _ => [a]
  | .vamoMax _ _ a _ _ => [a]
  | .vpermVv _ _ _ _ _ => []
  | .vpermVx _ _ _ s _ => [s]
  | .vslup _ _ _ s _ => [s]
  | .vsldn _ _ _ s _ => [s]
  | .vcompr _ _ _ _ => []
  | .vexpnd _ _ _ _ => []
  | .vredsum _ _ s _ => [s]
  | .vredmax _ _ s _ => [s]
  | .vredmin _ _ s _ => [s]
  | .vscan _ _ _ s _ => [s]
  | .vsoftmax _ _ _ s _ => runOf 3 s
  | .binz _ _ _ => []
  | .vbinacc _ _ _ _ => []
  | .vbinmacVx _ _ _ s _ => [s]
  | .vbinmacVv _ _ _ _ _ => []
  | .binfold _ _ s => [s]
  | .vmark _ s => [s]
  | .vstrip _ => []
  | .fbind _ _ s => [s]
  | .fchain _ _ _ s => [s]
  | .funbind _ _ => []
  | .fstat _ _ _ s => [s]
  | .feedFetch _ _ => []
  | .fpcvt _ _ _ s _ => [s]
  | .fplen2 _ _ _ _ => []
  | .fpgtag _ _ _ _ => []
  | .fpstagVx _ _ _ s _ => [s]
  | .fpstagVv _ _ _ _ _ => []
  | .frset d a b => [d, a, b]
  | .frdel d a b => [d, a, b]
  | .frfence => []
  | .frlook d a b => [d, a, b]
  | .chainCacheInvalidationAck _ _ => []
  | .retentionWake _ => []
  | .mstl _ x y => runOr0 3 x ++ runOr0 3 y
  | .mlds _ _ x y => [x, y]
  | .msow _ _ x => [x]
  | .mswap _ => []
  | .mmac _ _ _ x => [x]
  | .mmacM _ _ _ x _ => [x]
  | .macz _ _ => []
  | .macld _ _ _ x y => [x, y]
  | .macst _ _ _ x y => [x, y]
  | .macin _ _ _ x => [x]
  | .mseedgen _ _ x y => [x, y]
  | .mseedscan _ _ x y => runOr0 3 x ++ runOr0 2 y
  | .cpy d a b _ _ => d :: b :: runOf 2 a
  | .cpyq d a _ => [d, a]
  | .cpyw d a => [d, a]
  | .cpywP d a => [d, a]
  | .wdqry a => [a]
  | .wmbind a b _ => b :: runOf 3 a
  | .wmpub a b => [a, b]
  | .copyComplete _ _ _ => []
  | .wdqryAnswer _ => []
  | .watermarkVisible _ => []
  | .launch d a => [d, a]
  | .lspec d a => [d, a]
  | .shpub a b => [a, b]
  | .allocr d a b => [d, a, b]
  | .retract a b => [a, b]
  | .lstat d a _ => [d, a]
  | .gangCommit _ _ => []
  | .gangPlace _ _ => []
  | .agePromotion _ => []
  | .launchComplete _ => []
  | .barg _ _ => []
  | .barw _ _ => []
  | .barrierMarkerFire _ _ => []
  | .vsave _ a => [a]
  | .vrestore _ a => [a]
  | .msave _ a => [a]
  | .mrestore _ a => [a]
  | .uopIssue _ _ => []
  | .uopComplete _ => []
  | .pageWalk _ _ _ => []
  | .ownershipTrap _ _ => []
  | .faultRecordPost _ => []
  | .waitLineWrite _ => []
  | .waitDeadline _ _ => []
  | .directoryRead _ _ => []
  | .directoryWrite _ _ => []
  | .directoryEviction _ _ => []
  | .directoryAtomic _ => []
  | .migrationLineCopy => []
  | .eccPoison _ _ => []
  | .scrub _ _ => []
  | .logMove _ _ => []
  | .registerWrite _ _ => []
  | .plotMake _ => []
  | .plotFree => []
  | .corecfg => []
  | .resume => []
  | .preempt => []
  | .abandon => []
  | .inval => []
  | .migrate => []
  | .sweep => []
  | .cancel => []
  | .queue => []
  | .collect _ => []
  | .collectMemberTimeout => []
  | .grant => []
  | .trellisRepair => []
  | .hostwin => []
  | .addrwin => []
  | .coordinatorBadCode => []
  | .queueKick _ _ => []
  | .launchPacket _ => []
  | .graphLoad _ => []
  | .graphUnload _ => []
  | .graphRun _ => []
  | .waitPacket _ => []
  | .signal _ => []
  | .packetStampRetry _ => []
  | .queueStale _ => []
  | .interrupt _ _ => []
  | .timerInterrupt _ => []
  | .boot => []
  | .leaseRenew _ => []
  | .leasePoll _ => []
  | .heartbeatWrite _ => []
  | .heartbeatCheck _ _ => []
  | .firmwareEccHalt _ => []
  | .sensorRead _ _ => []
  | .clockStep _ => []
  | .getVersion => []
  | .getCapabilities => []
  | .negotiateAlgorithms => []
  | .getDigests => []
  | .getCertificate => []
  | .challenge => []
  | .getMeasurements _ _ => []
  | .hostBar2Access _ _ _ => []
  | .cxlMemRead _ _ => []
  | .cxlMemWrite _ _ _ => []
  | .dataFlit _ _ => []
  | .nakFlit _ _ => []
  | .pauseFlit _ _ => []
  | .resumeFlit _ _ => []
  | .idleFlit _ _ => []
  | .capabilityFlit _ _ => []
  | .linkRetrain _ _ _ => []
  | .remoteRequest _ _ _ _ _ => []
  | .remoteResponse _ _ _ => []
  | .remoteTimeout _ => []
  | .timeSyncExchange _ _ _ _ _ => []
  | .retentionSleep _ => []


end Sys2Proof.Machine
end

