-- ==== Sys2Proof/Machine/Run.lean ====
section
/-! DEFINITION. One turn of an agent: an event that has arrived, a WAIT, the vector side, or the fetch, decode and run of a word
(R8, R69, R122, R130, R146, R285, R343). -/
namespace Sys2Proof.Machine

/-- A word that could not be fetched: WORD of the fault record is a free value. -/
def State.noWord (s : State) : State :=
  { s with ir := (Config.freeValue s.draws).setWidth 32, draws := s.draws + 1 }

/-- Whether a word of the execute stream names a scalar register that a posted word has still to write: it waits until that
has been written, and no other word is held back (R83, R112, R164, R180, R212). -/
def State.waitsScalar (s : State) (i : Instr) : Bool :=
  decide (s.who = .exec) && s.ct.viq.any fun x => x.op.sregs.any fun r => (scalarsOf i).contains r

/-- Fetches the word at the pc of the agent in focus, decodes it and runs it: an address that is no multiple of 4 is ALIGN,
a failing access the memory fault (R8, R226). -/
noncomputable def runWord (s : State) : Res :=
  if s.pc.toNat % 4 ≠ 0 then .next (raise s.noWord (trapAlign s.pc))
  else match s.memLoad s.pc 4 .fetch with
    | .flt c t => .next (raise t.noWord (trapMem c s.pc))
    | .stall t => .next t
    | .ok (v, t) =>
      let i := decode (BitVec.ofNat 32 v)
      if t.waitsScalar i then .next (runHead t).1 else exec i { t with ir := BitVec.ofNat 32 v }

/-- The execute stream's turn: a posted word that runs at once, a group that waits, or its next word. -/
noncomputable def execTurn (s : State) : Res :=
  let s := holdVector s
  if !s.ct.hold && !s.ct.viq.isEmpty then
    match runHead s with
    | (t, true) => .next t
    | (t, false) => if t.ct.status = .running then runWord t else .next t
  else match s.group with
    | some g => if g.wait = .run then runWord s else .next s
    | none => runWord s

/-- The turn of a CT's stream: nothing while the CT does not run, the stream has ended, or the CT waits for its gang's
commit (R285). -/
noncomputable def ctTurn (s : State) : Res :=
  if decide (s.ct.status ≠ .running) || s.cur.halted || s.pausing then .next s
  else match s.cur.wait with
    | some w => .next (waitTurn s w)
    | none =>
      let t := { s with ct := { s.ct with stalled := false } }
      if s.who = .exec then execTurn t else runWord t

/-- The turn of a system core: it stands before its start, waits in HALT or WAIT, or runs its next word. -/
noncomputable def sysTurn (s : State) (n : Nat) : Res :=
  let c := s.sysCore n
  if c.st.halted then .next s
  else match c.st.wait with
    | some w => .next (waitTurn s w)
    | none =>
      if c.waiting then
        .next (if c.pending s.time then (s.setSys n { c with waiting := false }).advance else s)
      else runWord s

/-- The turn of the agent in focus. -/
noncomputable def agentTurn (s : State) : Res :=
  match s.who with
  | .sys n => sysTurn s n
  | _ => ctTurn s

/-- From here on the stores of the CT in focus are delayed, or no longer so: what can be performed then is (R323). -/
def State.setLag (s : State) (on : Bool) : State :=
  if on then { s with ct := { s.ct with lag := true } }
  else s.afterStores s.ct.ready fun s => { s with ct := { s.ct with lag := false } }
/-- The k-th delayed store of the CT in focus is performed, after those that it may not overtake, and the markers that it held back
fire (R253, R323). -/
def State.performOne (s : State) (k : Nat) : State :=
  match s.ct.sbuf[k]? with
  | none => s
  | some e => s.afterStores (fun f => f.id == e.id) fun s =>
    (List.range 4).foldl (fun t n => if t.ct.ripe n then t.tryFire n else t) s
/-- The core of the CT in focus takes the chain of a tag into its chain cache, unless it sleeps; the cache holds 2,048 entries, and
the model lets the oldest go (R316, R317). -/
def State.fillChain (s : State) (tag : Nat) : State :=
  let core := coreOf s.ct.id
  match s.plotOf s.ct.plot, s.chainNow 64 tag with
  | some p, some l =>
    if s.pkg.asleep.any (fun x => x.1 = core) then s
    else
      let full := decide (2048 ≤ (s.pkg.chain.filter (fun e => e.core = core)).length)
      let kept := if full then s.pkg.chain.eraseP (fun e => e.core = core) else s.pkg.chain
      { s with pkg := { s.pkg with chain := kept ++ [⟨core, p.id, l, p.seq⟩] } }
  | _, _ => s

/-- The agent that moves next comes into focus; a CT that has ended goes. -/
def State.focus (s : State) (t : Turn) : State :=
  let bring := fun (id : BitVec 10) (w : Who) =>
    match s.ctOf id with
    | none => s
    | some c =>
      if s.ct.inSlot && s.ct.id = id then { s with who := w }
      else
        let rest := s.others.filter (fun d => !(d.inSlot && d.id = id))
        { s with who := w, ct := c, others := if s.ct.status = .ended then rest else s.ct :: rest }
  match t with
  | .exec id => bring id .exec
  | .access id => bring id .access
  | .sys n => if n < 16 then { s with who := .sys n } else s
  | .lag id on => s.onFocus id fun t => t.setLag on
  | .perform id k => s.onFocus id fun t => t.performOne k
  | .look id d => s.onFocus id fun t => t.takeLook d
  | .early id l => s.onFocus id fun t => { t with ct := { t.ct with early := l } }
  | .fill id tag => s.onFocus id fun t => t.fillChain tag

/-- Time passes (R7, R132); that of a module behind or ahead of the time master moves forward or falls back by 100 ppm at most
(R382). -/
def State.tick (s : State) : State :=
  let e := (Config.elapsed s.ticks).toNat
  let k := min s.pkg.sync.back (e / 10000)
  let g := min s.pkg.sync.fwd (e / 10000)
  { s with
    time := s.time + BitVec.ofNat 64 (e - k + g), ticks := s.ticks + 1,
    pkg := { s.pkg with sync := { s.pkg.sync with fwd := s.pkg.sync.fwd - g, back := s.pkg.sync.back - k } } }
/-- The SHPUB writes that nothing holds back any more are performed, and decide (R284). -/
def State.publishAll (s : State) : State :=
  ((s.cts.filter fun c => c.status != .ended && c.sbuf.any (·.ship.isSome)).foldl (fun t c => t.withKey c.key State.shipDue) s).decides
/-- Whether a turn brings an agent into focus. -/
def Turn.moves : Turn → Bool
  | .exec _ => true
  | .access _ => true
  | .sys _ => true
  | _ => false
/-- The turns of the plan up to the first that brings an agent into focus. -/
def State.turns (s : State) : List Turn → State
  | [] => { s with plan := [] }
  | x :: rest => if x.moves then { s with plan := rest }.focus x else State.turns (s.focus x) rest
/-- Between two steps: time passes, requests from outside that wait are tried again, what SHPUBs have written decides, the next turns
of the plan come. -/
def State.pass (s : State) : State :=
  let t := s.tick.retryInbound.retryUnsent.publishAll
  t.turns t.plan

/-- What follows a meaning. -/
def after (r : Res) : Res :=
  match r with
  | .next s => .next s.pass
  | .fault f => .fault f
  | .refused f => .refused f

/-- The first event that has arrived, or the turn of the agent in focus. -/
noncomputable def move (s : State) : Res :=
  match s.events with
  | e :: rest => exec e { s with events := rest }
  | [] => agentTurn s

/-- Where withFetchWord puts a word: the physical and the virtual address. -/
def wordPlace : Nat := 0x10000
/-- The translation that leads there: normal-cached, readable, writable, executable. -/
def wordLeaf : TlbEnt := ⟨0, ownerGroup 8 wordPlace, 0, 1, 1, 0x1003B⟩

/-- A CT in focus whose execute stream is about to fetch the word: it runs in slot 0 of core 0, in address space 1 of plot
0, with nothing posted. -/
def Ct.fetching (c : Ct) : Ct :=
  { c with
    id := 0, status := .running, plot := 0, aspace := 1, prov := false, viq := [], hold := false, blk := none, copies := [],
    wmb := Vector.replicate 4 none, ex := { c.ex with pc := BitVec.ofNat 64 wordPlace, halted := false, wait := none } }

/-- The word placed (log 20): its bytes, the CT, the translation; nothing else stands in the fetch's way. -/
def State.placeWord (s : State) (w : IWord) : State :=
  { s with
    who := .exec, ct := s.ct.fetching, others := [], mem := s.mem.writeN wordPlace 4 w.toNat, events := [], powered := true,
    pkg := { s.pkg with
      chan := List.replicate 16 0xFFFF, plots := [], launches := [], poison := [], pools := [], migr := [], fid := 0, cores := [],
      boot := { s.pkg.boot with region := (0, 0) }, farClaims := [], tlb := [wordLeaf] } }

end Sys2Proof.Machine
end

