-- ==== Sys2Proof/Machine/Step.lean ====
section
/-! DEFINITION. The step: an event that has arrived, or the turn of the agent in focus; and how a word is placed where the
next step fetches it. -/
namespace Sys2Proof.Machine

noncomputable def step (s : State) : Host.Outcome State Fault Refusal :=
  if s.powered then after (move s) else .fault .powerOff

/-- Every instruction is one word of 32 bits; the bits above nbits are zero. -/
def State.withFetchWord (s : State) (nbits w : Nat) : State := s.placeWord (BitVec.ofNat 32 (w % 2 ^ nbits))

end Sys2Proof.Machine
end

