-- ==== Sys2Proof/Safety.lean ====
section
/-! DEFINITION. What counts as a safe run, and the invariants that the statements speak of. -/
namespace Sys2Proof.Machine

/-- A run of k steps that meets no fault and no refusal. -/
def Safe : Nat → State → Prop
  | 0, _ => True
  | k + 1, s => ∃ t, step s = .next t ∧ Safe k t

/-- Both byte memories are in their canonical form. -/
def State.memOk (s : State) : Prop := s.mem.wf = true ∧ s.sram.wf = true

/-- The trap state of a system core is legal (R342): levels 0 to 2, handler addresses with bits 1:0 clear. -/
def SysCore.legal (c : SysCore) : Prop :=
  c.pl ≤ 2 ∧ c.xs.ppl ≤ 2 ∧ c.fs.ppl ≤ 2 ∧ c.xs.vec &&& 3 = 0 ∧ c.fs.vec &&& 3 = 0

end Sys2Proof.Machine
end

