-- ==== Sys2Proof/Certificates/Slice0/Obligations.lean ====
section
/-! DEFINITION. The statements for the provers, and the words they are stated in. -/
namespace Sys2Proof.Stmt
open Sys2Proof Sys2Proof.Machine

/-! ### The stream in focus -/

/-- The stream in focus with a register written (s0 discards, R124) and its pc past the word. Everything else stands. -/
def result (s : State) (d : SReg) (v : Word) : State :=
  s.setCur { s.cur with x := if d = 0 then s.cur.x else s.cur.x.set d.toNat v, pc := s.cur.pc + 4 }
/-- The stream in focus at another address; everything else stands. -/
def goto (s : State) (a : Word) : State := s.setCur { s.cur with pc := a }
/-- Past the word; everything else stands. -/
def past (s : State) : State := goto s (s.cur.pc + 4)
/-- Sign extension of an immediate, counted in words of 4 bytes (R10). -/
def wordsOff {n : Nat} (o : BitVec n) : Word := o.signExtend 64 * 4

/-- R134: the destination, the sources, and what the destination receives. A unary form names s0 as its second source. -/
def aluOf : Instr → Option (SReg × SReg × SReg × (Word → Word → Word))
  | .add d a b => some (d, a, b, fun x y => x + y)
  | .sub d a b => some (d, a, b, fun x y => x - y)
  | .mul d a b => some (d, a, b, fun x y => x * y)
  | .mulh d a b => some (d, a, b, fun x y => BitVec.ofInt 64 (x.toInt * y.toInt / 2 ^ 64))
  | .mulhu d a b => some (d, a, b, fun x y => BitVec.ofNat 64 (x.toNat * y.toNat / 2 ^ 64))
  | .div d a b => some (d, a, b, fun x y => if y = 0 then BitVec.allOnes 64 else x.sdiv y)
  | .divu d a b => some (d, a, b, fun x y => if y = 0 then BitVec.allOnes 64 else x.udiv y)
  | .rem d a b => some (d, a, b, fun x y => if y = 0 then x else x.srem y)
  | .remu d a b => some (d, a, b, fun x y => if y = 0 then x else x.umod y)
  | .and d a b => some (d, a, b, fun x y => x &&& y)
  | .or d a b => some (d, a, b, fun x y => x ||| y)
  | .xor d a b => some (d, a, b, fun x y => x ^^^ y)
  | .andn d a b => some (d, a, b, fun x y => x &&& ~~~y)
  | .shl d a b => some (d, a, b, fun x y => x <<< (y.toNat % 64))
  | .shr d a b => some (d, a, b, fun x y => x >>> (y.toNat % 64))
  | .sha d a b => some (d, a, b, fun x y => x.sshiftRight (y.toNat % 64))
  | .rot d a b => some (d, a, b, fun x y => x.rotateLeft (y.toNat % 64))
  | .slt d a b => some (d, a, b, fun x y => if x.toInt < y.toInt then 1 else 0)
  | .sltu d a b => some (d, a, b, fun x y => if x.toNat < y.toNat then 1 else 0)
  | .min d a b => some (d, a, b, fun x y => if x.toInt ≤ y.toInt then x else y)
  | .max d a b => some (d, a, b, fun x y => if x.toInt ≤ y.toInt then y else x)
  | .minu d a b => some (d, a, b, fun x y => if x.toNat ≤ y.toNat then x else y)
  | .maxu d a b => some (d, a, b, fun x y => if x.toNat ≤ y.toNat then y else x)
  | .clz d a => some (d, a, 0, fun x _ => BitVec.ofNat 64 (((List.range 64).find? fun k => x.getLsbD (63 - k)).getD 64))
  | .ctz d a => some (d, a, 0, fun x _ => BitVec.ofNat 64 (((List.range 64).find? fun k => x.getLsbD k).getD 64))
  | .popc d a => some (d, a, 0, fun x _ => BitVec.ofNat 64 ((List.range 64).filter fun k => x.getLsbD k).length)
  | _ => none

/-- R135: the destination, the source, and what the destination receives from the word's address and the source. -/
def immOf : Instr → Option (SReg × SReg × (Word → Word → Word))
  | .addi d a i => some (d, a, fun _ x => x + i.signExtend 64)
  | .andi d a i => some (d, a, fun _ x => x &&& i.zeroExtend 64)
  | .ori d a i => some (d, a, fun _ x => x ||| i.zeroExtend 64)
  | .xori d a i => some (d, a, fun _ x => x ^^^ i.zeroExtend 64)
  | .slti d a i => some (d, a, fun _ x => if x.toInt < i.toInt then 1 else 0)
  | .shli d a n => some (d, a, fun _ x => x <<< n.toNat)
  | .shri d a n => some (d, a, fun _ x => x >>> n.toNat)
  | .shai d a n => some (d, a, fun _ x => x.sshiftRight n.toNat)
  | .ldi d i => some (d, 0, fun _ _ => i.signExtend 64)
  | .adpc d o => some (d, 0, fun pc _ => pc + o.signExtend 64)
  | _ => none

/-- R136: the sources, the offset and the condition. -/
def branchOf : Instr → Option (SReg × SReg × BitVec 14 × (Word → Word → Bool))
  | .beq a b o => some (a, b, o, fun x y => decide (x = y))
  | .bne a b o => some (a, b, o, fun x y => decide (x ≠ y))
  | .blt a b o => some (a, b, o, fun x y => decide (x.toInt < y.toInt))
  | .bge a b o => some (a, b, o, fun x y => decide (y.toInt ≤ x.toInt))
  | .bltu a b o => some (a, b, o, fun x y => decide (x.toNat < y.toNat))
  | .bgeu a b o => some (a, b, o, fun x y => decide (y.toNat ≤ x.toNat))
  | _ => none

/-! ### Memory -/

/-- An access of n bytes at a that the agent in focus performs at once, in main memory or a scratch window: it resolves to l,
and nothing it would wait for stands in its way (R261, R273, R281); a read meets no poison (R318). -/
structure Ready (s : State) (a : Word) (n : Nat) (k : Kind) (l : Loc) : Prop where
  walk : s.walkHeldNow a = false
  place : s.place a n k = .ok l
  main : s.beyond s.via l n k = none
  free : s.claimed s.via l n k = false
  prov : provStalls s s.via a l k = false
  mark : k = .load → wmWaitsN s a n = false
  clean : k ≠ .store → s.readsBad s.via l n = false

/-- A store of the low n bytes of x at a place is performed: the bytes, and the WAITs on the line of the agents that see it
(R146, R280). -/
def performed (s : State) (l : Loc) (n x : Nat) : State := (s.poke s.via l n x).stored s.via l (some s.who)
/-- The entry of a scalar store among those still to be performed (the model's form of R323, log 86). -/
def entry (s : State) (d : Side) (rel : Bool) (l : Loc) (n x : Nat) : SbEnt := ⟨d, s.ct.sbn, rel, none, l, n, none, x⟩
/-- Nothing holds back the older delayed stores that a store of the agent in focus may not overtake (R247, R261, R323). -/
def storeGoes (s : State) (rel : Bool) (l : Loc) (n : Nat) : Bool :=
  match s.side with
  | some d => s.storeFree d rel l n
  | none => true
/-- What a scalar load of the agent in focus reads at its place (R323, R331): now where a watermark binding covers it, else now or at
an earlier moment; the moment; the state. -/
def readOf (s : State) (a : Word) (l : Loc) (n : Nat) : Nat × Nat × State :=
  if wmBound s.ct.wmb a n then s.readNow l n else s.readEarly l n
/-- A load that acquires (R247). -/
def acquires : Instr → Bool
  | .lda _ _ _ _ => true
  | _ => false
/-- A store that releases (R247). -/
def releases : Instr → Bool
  | .stl _ _ _ _ => true
  | _ => false

/-- The bytes that a place names: of main memory, or of core scratch. -/
def Loc.at_ : Loc → Option (Bool × Nat)
  | .phys pa _ => some (true, pa)
  | .sram a => some (false, a)
  | .hole => none
  | .image pa _ => some (true, pa)

/-- The address of an SM word (R138). -/
def smAt (s : State) (a : SReg) (w : BitVec 2) (i : BitVec 10) : Word := s.rd a + i.signExtend 64 * BitVec.ofNat 64 (2 ^ w.toNat)

/-- A scalar memory word: its address, size, and kind of access. -/
def accessOf (s : State) : Instr → Option (Word × Nat × Kind)
  | .ld _ a w _ i => some (smAt s a w i, 2 ^ w.toNat, .load)
  | .ldu _ a w _ i => some (smAt s a w i, 2 ^ w.toNat, .load)
  | .st _ a w _ i => some (smAt s a w i, 2 ^ w.toNat, .store)
  | .lda _ a w _ => some (s.rd a, 4 + 4 * w.toNat, .load)
  | .stl a _ w _ => some (s.rd a, 4 + 4 * w.toNat, .store)
  | .amoadd _ a _ w _ => some (s.rd a, 4 + 4 * w.toNat, .atomic)
  | .amoswap _ a _ w _ => some (s.rd a, 4 + 4 * w.toNat, .atomic)
  | .amoand _ a _ w _ => some (s.rd a, 4 + 4 * w.toNat, .atomic)
  | .amoor _ a _ w _ => some (s.rd a, 4 + 4 * w.toNat, .atomic)
  | .amoxor _ a _ w _ => some (s.rd a, 4 + 4 * w.toNat, .atomic)
  | .amomin _ a _ w _ => some (s.rd a, 4 + 4 * w.toNat, .atomic)
  | .amomax _ a _ w _ => some (s.rd a, 4 + 4 * w.toNat, .atomic)
  | .amominu _ a _ w _ => some (s.rd a, 4 + 4 * w.toNat, .atomic)
  | .amomaxu _ a _ w _ => some (s.rd a, 4 + 4 * w.toNat, .atomic)
  | .amocas _ a _ w _ => some (s.rd a, 4 + 4 * w.toNat, .atomic)
  | _ => none

/-- A load: its destination, and the register value of the n bytes read (R138, R245). -/
def loadOf : Instr → Option (SReg × (Nat → Word))
  | .ld d _ w _ _ => some (d, fun v => (BitVec.ofNat (8 * 2 ^ w.toNat) v).signExtend 64)
  | .ldu d _ w _ _ => some (d, fun v => (BitVec.ofNat (8 * 2 ^ w.toNat) v).zeroExtend 64)
  | .lda d _ w _ => some (d, fun v => (BitVec.ofNat (8 * (4 + 4 * w.toNat)) v).signExtend 64)
  | _ => none
/-- A store: the register stored. -/
def storeOf : Instr → Option SReg
  | .st d _ _ _ _ => some d
  | .stl _ b _ _ => some b
  | _ => none

/-- A scalar atomic (R245): destination, operand, size in bits, and the new value from the old one, sb and sd; none where
nothing is written. -/
def amoOf : Instr → Option (SReg × SReg × Nat × (Nat → Nat → Nat → Option Nat))
  | .amoadd d _ b w _ => some (d, b, 32 + 32 * w.toNat, fun o y _ => some (o + y))
  | .amoswap d _ b w _ => some (d, b, 32 + 32 * w.toNat, fun _ y _ => some y)
  | .amoand d _ b w _ => some (d, b, 32 + 32 * w.toNat, fun o y _ => some (o &&& y))
  | .amoor d _ b w _ => some (d, b, 32 + 32 * w.toNat, fun o y _ => some (o ||| y))
  | .amoxor d _ b w _ => some (d, b, 32 + 32 * w.toNat, fun o y _ => some (o ^^^ y))
  | .amomin d _ b w _ => some (d, b, 32 + 32 * w.toNat, fun o y _ =>
      some (if (BitVec.ofNat (32 + 32 * w.toNat) o).toInt ≤ (BitVec.ofNat (32 + 32 * w.toNat) y).toInt then o else y))
  | .amomax d _ b w _ => some (d, b, 32 + 32 * w.toNat, fun o y _ =>
      some (if (BitVec.ofNat (32 + 32 * w.toNat) o).toInt ≤ (BitVec.ofNat (32 + 32 * w.toNat) y).toInt then y else o))
  | .amominu d _ b w _ => some (d, b, 32 + 32 * w.toNat, fun o y _ => some (if o ≤ y then o else y))
  | .amomaxu d _ b w _ => some (d, b, 32 + 32 * w.toNat, fun o y _ => some (if o ≤ y then y else o))
  | .amocas d _ b w _ => some (d, b, 32 + 32 * w.toNat, fun o y z => if o = z then some y else none)
  | _ => none

/-! ### Numbers -/

/-- g stands for the exact positive magnitude x: the floor of its logarithm, and the floor of x / 2^k for every k, with whether
anything was cut off. -/
structure MagIs (g : Mag) (x : ℝ) : Prop where
  low : (2 : ℝ) ^ g.ilog ≤ x
  high : x < (2 : ℝ) ^ (g.ilog + 1)
  floor : ∀ k, (g.fl k).1 = ⌊x / (2 : ℝ) ^ k⌋₊
  cut : ∀ k, (g.fl k).2 = true ↔ (⌊x / (2 : ℝ) ^ k⌋₊ : ℝ) ≠ x / (2 : ℝ) ^ k

/-- Whether a magnitude of t units in the last place is rounded up to the next one (R46 step 1, R47). -/
def GoesUp (rm : Rm) (neg : Bool) (r : Nat) (t : ℝ) : Prop :=
  match rm with
  | .rne => 1 / 2 < Int.fract t ∨ (Int.fract t = 1 / 2 ∧ ⌊t⌋₊ % 2 = 1)
  | .rmm => 1 / 2 ≤ Int.fract t
  | .rtz => False
  | .rdn => neg = true ∧ Int.fract t ≠ 0
  | .rup => neg = false ∧ Int.fract t ≠ 0
  | .sr => 2 ^ 32 ≤ ⌊Int.fract t * 2 ^ 32⌋₊ + r
open Classical in
/-- A magnitude rounded to a whole number of units 2^k. -/
noncomputable def unitsOf (rm : Rm) (neg : Bool) (r : Nat) (x : ℝ) (k : ℤ) : ℕ :=
  ⌊x / (2 : ℝ) ^ k⌋₊ + if GoesUp rm neg r (x / (2 : ℝ) ^ k) then 1 else 0
/-- The magnitude of an encoding whose exponent and fraction fields hold the number c, as R44's first two rows give it. -/
noncomputable def magOf (f : Fmt) (c : ℕ) : ℝ :=
  if c < 2 ^ f.m then c * (2 : ℝ) ^ (1 - (f.bias : ℤ) - f.m)
  else (2 ^ f.m + c % 2 ^ f.m : ℕ) * (2 : ℝ) ^ ((c / 2 ^ f.m : ℕ) - (f.bias : ℤ) - f.m)
/-- The real that a finite value is. -/
noncomputable def realOf : FVal → ℝ
  | .fin n m e => (if n then -1 else 1) * m * (2 : ℝ) ^ e
  | _ => 0
/-- A sign bit in place; a format without one has none. -/
def signAt (f : Fmt) (neg : Bool) : Nat := if neg = true ∧ f.s = 1 then 2 ^ (f.e + f.m) else 0
/-- canonical_nan(f), or 0 with NV where f has no NaN (R41, R78). -/
def nanAs (f : Fmt) (nv : Bool) : Nat × Fl := if f.hasNan then (f.nanBits, { nv := nv }) else (0, { nv := true })
/-- An infinite result, or what stands for it where f has none (R44, R78). -/
def infAs (f : Fmt) (neg : Bool) : Nat × Fl :=
  if neg = true ∧ f.s = 0 then (0, { nv := true })
  else if f.pol = .ieee then (signAt f neg + (2 ^ f.e - 1) * 2 ^ f.m, {})
  else (signAt f neg + f.maxCode, { ofl := true })
/-- out is x rounded once into f (R46); where x is 0, the zero of sign z. -/
def Rounds (f : Fmt) (rm : Rm) (r : Nat) (x : ℝ) (z : Bool) (out : Nat × Fl) : Prop :=
  (x = 0 → out = (signAt f z, {})) ∧
  (∀ n, n = true ∧ x < 0 ∨ n = false ∧ 0 < x → ∃ g, MagIs g |x| ∧ out = roundMag f rm r n g)
/-- The sign of a zero sum of two finite values (R46 step 4). -/
def zeroSign (rm : Rm) (a b : FVal) : Bool := if a.isZero = true ∧ b.isZero = true ∧ a.neg = b.neg then a.neg else decide (rm = .rdn)
/-- A value that is no NaN and no infinity. -/
def IsNumber (a : FVal) : Prop := a.isNan = false ∧ a.isInf = false

/-! ### Scalar floating point -/

/-- A scalar floating word (R141, R142): its destination, and the result with its flags. -/
def fpOf (s : State) : Instr → Option (SReg × (Nat × Fl))
  | .fadd d a b f => some (d, fpAdd (sfmt f) (sysRm s.sysA) (sysRand s.sysA) (fopd s f a) (fopd s f b))
  | .fsub d a b f => some (d, fpSub (sfmt f) (sysRm s.sysA) (sysRand s.sysA) (fopd s f a) (fopd s f b))
  | .fmul d a b f => some (d, fpMul (sfmt f) (sysRm s.sysA) (sysRand s.sysA) (fopd s f a) (fopd s f b))
  | .fdiv d a b f => some (d, fpDiv (sfmt f) (sysRm s.sysA) (sysRand s.sysA) (fopd s f a) (fopd s f b))
  | .fsqrt d a f => some (d, fpSqrt (sfmt f) (sysRm s.sysA) (sysRand s.sysA) (fopd s f a))
  | .fma d a b f => some (d, fpFma (sfmt f) (sysRm s.sysA) (sysRand s.sysA) (fopd s f a) (fopd s f b) (fopd s f d))
  | .fmin d a b f => some (d, fpMinMax false (sfmt f) (sysRm s.sysA) (sysRand s.sysA) (fopd s f a) (fopd s f b))
  | .fmax d a b f => some (d, fpMinMax true (sfmt f) (sysRm s.sysA) (sysRand s.sysA) (fopd s f a) (fopd s f b))
  | .fcmp d a b f c => some (d, match fpCmp (fcond c) (fopd s f a) (fopd s f b) with | (r, fl) => (if r then 1 else 0, fl))
  | .fcvtDS d a f c => some (d, convertValue false (sty c) (sty f) (sysRm s.sysA) (sysRand s.sysA)
      ((s.rd a).toNat % 2 ^ (sfmt c).width))
  | .fmv d a f => some (d, ((s.rd a).toNat % 2 ^ (sfmt f).width, {}))
  | .fmvNeg d a f => some (d, fpSign true (sfmt f) ((s.rd a).toNat % 2 ^ (sfmt f).width))
  | .fmvAbs d a f => some (d, fpSign false (sfmt f) ((s.rd a).toNat % 2 ^ (sfmt f).width))
  | .fcvtFK d a f k => some (d, convertValue false (kty k) (sty f) (sysRm s.sysA) (sysRand s.sysA) (s.rd a).toNat)
  | _ => none
/-- A float to integer conversion (R142): destination, source, format, integer kind, rounding mode. -/
def fpToInt (s : State) : Instr → Option (SReg × SReg × BitVec 2 × BitVec 2 × Rm)
  | .fcvtKF d a f k => some (d, a, f, k, sysRm s.sysA)
  | .fcvtRtz d a f k => some (d, a, f, k, .rtz)
  | _ => none

/-- Flags are ORed into the registers of the agent in focus (R52). -/
def flagged (s : State) (fl : Fl) : State := s.setSysA (s.sysA.flag fl)

/-! ### System registers -/

/-- The csr number of a SYS word, the register it reads or writes, and the value written from the old one and the register;
none for SYSR. -/
def sysOf : Instr → Option (BitVec 12 × SReg × Option (Word → Word → Word))
  | .sysr d c => some (c, d, none)
  | .sysw a c => some (c, a, some fun _ x => x)
  | .sysset a c => some (c, a, some fun o x => o ||| x)
  | .sysclr a c => some (c, a, some fun o x => o &&& ~~~x)
  | _ => none

/-- A SYS word that is admitted and waits for nothing (R131, R133, R342). -/
structure SysReady (s : State) (c : Nat) (write : Bool) (g : CsrGroup) : Prop where
  group : s.group = none
  known : s.csr c = some g
  place : write = true → s.who = .access → g ≠ .v ∧ g ≠ .a
  level : g = .p → csrLevel c ≤ s.level
  result : csrResult c = true → s.isSys = false → s.ct.viq = []
  fixed : g = .v → s.ct.viq.any Ventry.fixes = false

/-- What a write leaves in a register with RW fields, from the written value and the old one (R42, R45, R50, R99, R132,
R342); none for a register without RW fields. -/
def csrField (old : Word) (c : Nat) (v : Word) : Option Word :=
  if c = 0x003 then some (v &&& 0xFFFFFFFF)
  else if c = 0x010 then some (if (v &&& 7).toNat < 6 then v &&& 7 else old)
  else if c = 0x011 then some (v &&& 3)
  else if c = 0x012 then some (v &&& 31)
  else if c = 0x013 ∨ c = 0x014 then some (v &&& 1)
  else if c = 0x015 ∨ c = 0x017 then some v
  else if c = 0x016 then some (v &&& 0xFF)
  else if 0x018 ≤ c ∧ c ≤ 0x01F then some (v &&& 0x03FF0FF1)
  else if c = 0x100 ∨ c = 0x108 then
    some ((v &&& 0x30) ||| (if v &&& 12 = 12 then old &&& 12 else v &&& 12) ||| (old &&& 3))
  else if c = 0x101 ∨ c = 0x109 then some (v &&& ~~~3)
  else if c = 0x102 ∨ (0x104 ≤ c ∧ c ≤ 0x107) ∨ c = 0x10A ∨ c = 0x10C then some v
  else none

/-- The trap state of the system cores is legal: a level below 3 everywhere. -/
def levelsOk (s : State) : Prop := ∀ n, n < 16 → (s.sysCore n).legal

end Sys2Proof.Stmt

open Sys2Proof Sys2Proof.Machine Sys2Proof.Stmt

/-! ### The machine as a whole -/

/-- What the spec gives for reset: R342 (level 2, statuses 0), R42 (format registers), R365, R374, R132 (time 0). The other
values of the clause on system cores and all memory are the model's choice (log 1, log 2). -/
def Obligations.ResetValues : Prop :=
  (∀ n, n < 16 → (State.reset.sysCore n).pl = 2 ∧ (State.reset.sysCore n).csr 0x100 = 2 ∧ (State.reset.sysCore n).csr 0x108 = 2 ∧
    (State.reset.sysCore n).csr 0x103 = 0 ∧ (State.reset.sysCore n).csr 0x10B = 0 ∧ (State.reset.sysCore n).st.halted = true) ∧
  State.reset.time = 0 ∧ State.reset.pkg.log = ⟨0, 6, 0, 0, 0⟩ ∧
  State.reset.regRead .logN = 6 ∧ State.reset.regRead .fabric = 0 ∧ State.reset.regRead .syncErr = 0xFFFFFFFF ∧
  (∀ d, d < 32 → State.reset.regRead (.route d) = 0xF) ∧
  Ct.fresh.a.fmt.toList = [0x01070341, 0x000F0251, 0x02010121, 0, 0, 0, 0, 0] ∧
  Ct.fresh.vl = 0 ∧ Ct.fresh.vsw = 8 ∧ Ct.fresh.vlmax = 2048 ∧ (∀ p, 0 < p → p < 128 → ∀ e, Ct.fresh.pbit p e = false) ∧
  (∀ e, Ct.fresh.pbit 0 e = true) ∧ State.reset.mem = [] ∧ State.reset.sram = []

/-- At reset both memories are in canonical form and every system core's trap state is legal. -/
def Obligations.ResetInvariant : Prop := State.reset.memOk ∧ levelsOk State.reset

/-- Every step keeps both byte memories in their canonical form. -/
def Obligations.StepKeepsMemoryForm : Prop := ∀ s t, State.memOk s → step s = .next t → State.memOk t

/-- Every step keeps the trap state of every system core legal (R342: 3 never occurs; handler addresses are word addresses). -/
def Obligations.StepKeepsTrapStateLegal : Prop := ∀ s t, levelsOk s → step s = .next t → levelsOk t

/-- Words written out from the spec's encodings decode to the instructions they stand for (R9 and the minor maps). -/
def Obligations.SampleWordsDecode : Prop :=
  decodeWord 0x28413001#32 = .ok (.ld 4 4 3 0 1) ∧ decodeWord 0x64014000#32 = .ok (.qsend 5 0) ∧
  decodeWord 0x64012000#32 = .ok (.qbsend 4) ∧ decodeWord 0x64701000#32 = .ok (.qrecv 7 0) ∧
  decodeWord 0x04618700#32 = .ok (.add 6 6 7) ∧ decodeWord 0x640033FE#32 = .ok (.bq 0x3FE) ∧
  decodeWord 0x6C000004#32 = .ok .halt ∧ decodeWord 0x20B01048#32 = .ok (.ldi 11 0x1048) ∧
  decodeWord 0x1CB2C012#32 = .ok (.shli 11 11 18) ∧ decodeWord 0x68000045#32 = .ok (.sysw 0 0x011) ∧
  decodeWord 0x68500048#32 = .ok (.sysr 5 0x012) ∧ decodeWord 0x60920091#32 = .ok (.fcvtDS 9 8 0 1) ∧
  decodeWord 0x6C000001#32 = .ok .tret ∧ decodeWord 0#32 = .error 1 ∧ decodeWord 0xFFFFFFFF#32 = .error 2

/-- The decoder gives back every well-formed instruction word that the encoder writes, with every operand. -/
def Obligations.DecodeEncodeRoundTrip : Prop := ∀ i : Instr, i.wf = true → decodeWord (encode i) = .ok i

namespace Sys2Proof.Stmt
open Sys2Proof Sys2Proof.Machine

/-- A word of no major that R9 assigns. -/
def noMajor (w : IWord) : Prop :=
  let m := (fld w 26 6).toNat
  m = 0 ∨ m = 0x0F ∨ (0x1D ≤ m ∧ m ≤ 0x1F) ∨ 0x36 ≤ m
/-- The function fields of a word by its major: first bit, bits, the values that the minor maps assign (R35's RESFN row). -/
def fnFields (w : IWord) : List (Nat × Nat × List Nat) :=
  let up := List.range
  match (fld w 26 6).toNat with
  | 0x01 => [(0, 8, up 9 ++ [16, 17, 18, 19, 24, 25, 26, 27, 32, 33, 34, 35, 36, 37, 40, 41, 42])]
  | 0x07 => [(12, 2, up 3)]
  | 0x0D => [(4, 4, up 12), (0, 3, up 5)]
  | 0x0E => [(3, 3, up 5)]
  | 0x18 => let fn := (fld w 4 4).toNat
    [(4, 4, up 14), (0, 2, if fn < 8 then [0] else if fn = 10 then up 3 else up 4)]
  | 0x1B => [(0, 8, up 6)]
  | 0x20 => [(22, 3, up 3)]
  | 0x21 => [(0, 7, up 22 ++ [32, 33, 34, 35, 36])]
  | 0x22 => [(0, 6, up 22 ++ [32, 33])]
  | 0x24 => [(0, 6, up 6 ++ [32, 33, 34, 35, 36, 37])]
  | 0x25 => [(0, 7, up 5)]
  | 0x26 => [(0, 5, up 7 ++ [16])]
  | 0x27 => [(0, 5, up 13)]
  | 0x29 => [(0, 5, up 11)]
  | 0x2A => [(0, 5, up 12)]
  | 0x2B => [(0, 5, up 7)]
  | 0x2C => [(0, 6, up 5 ++ [32])]
  | 0x2D => [(0, 6, up 11 ++ [39])]
  | 0x2E => [(0, 6, up 4)]
  | 0x2F => [(0, 6, up 5)]
  | 0x30 => [(0, 8, up 4)]
  | 0x31 => [(21, 4, up 12)]
  | 0x32 => let fn := (fld w 23 3).toNat
    (23, 3, up 6) :: (if fn = 0 then [(3, 2, up 3), (0, 3, up 5)] else if fn = 1 then [(0, 3, up 5)]
      else if fn = 2 then [(0, 5, up 2)] else [])
  | 0x33 => (23, 3, up 6) :: (if (fld w 23 3).toNat = 5 then [(0, 5, up 6)] else [])
  | 0x34 => [(0, 6, up 2)]
  | 0x35 => [(0, 5, up 4)]
  | _ => []
/-- Every function field of a word holds an assigned value. -/
def fnAssigned (w : IWord) : Prop := ∀ f ∈ fnFields w, (fld w f.1 f.2.1).toNat ∈ f.2.2

end Sys2Proof.Stmt

open Sys2Proof Sys2Proof.Machine Sys2Proof.Stmt

/-- What the decoder does with a word it refuses: ILL with the subcode of R35; ZERO, ONES and the unassigned majors by name; RESFN
exactly where a function field holds no assigned value, FIELD for every other word that it refuses. -/
def Obligations.UnassignedWordsRefused : Prop :=
  decode 0#32 = .illegalWord 0#32 1 ∧ decode 0xFFFFFFFF#32 = .illegalWord 0xFFFFFFFF#32 2 ∧
  (∀ w : IWord, w ≠ 0#32 → w ≠ 0xFFFFFFFF#32 →
    (noMajor w → decode w = .illegalWord w 3) ∧
    (¬ noMajor w →
      (¬ fnAssigned w → decode w = .illegalWord w 4) ∧
      (fnAssigned w → (decode w).wf = true ∨ decode w = .illegalWord w 5))) ∧
  (∀ w : IWord, ∃ i, decode w = i ∧ (i.wf = true ∨ ∃ sub, i = .illegalWord w sub ∧ 1 ≤ sub ∧ sub ≤ 5)) ∧
  (∀ w sub s, exec (.illegalWord w sub) s = .next (raise { s with ir := w } (trapIll sub)))

/-- When no event has arrived and the agent in focus is about to fetch, the step loads the word at its pc, runs the meaning of
what it decodes to, then lets time pass and the next agent come into focus. -/
def Obligations.StepRunsDecodedWord : Prop :=
  ∀ (s t : State) (v : Nat),
    s.powered = true → s.events = [] →
    (∀ n, s.who = .sys n → (s.sysCore n).waiting = false) →
    ((∀ n, s.who ≠ .sys n) → s.ct.status = .running ∧ s.pausing = false ∧ s.ct.stalled = false) →
    s.cur.halted = false → s.cur.wait = none →
    (s.who = .exec → s.ct.viq = [] ∧ ∀ g, s.group = some g → g.wait = .run) →
    s.pc.toNat % 4 = 0 → s.memLoad s.pc 4 .fetch = .ok (v, t) →
    step s = match exec (decode (BitVec.ofNat 32 v)) { t with ir := BitVec.ofNat 32 v } with
      | .next u => .next u.pass
      | .fault f => .fault f
      | .refused r => .refused r

/-! ### Scalar words -/

/-- SALU (R134, R76): every operation's value, written to sd; the word moves on and changes nothing else.
The immediate words (R135). -/
def Obligations.AluWords : Prop :=
  (∀ i d a b f (s : State), aluOf i = some (d, a, b, f) → s.group = none → exec i s = .next (result s d (f (s.rd a) (s.rd b)))) ∧
  (∀ i d a f (s : State), immOf i = some (d, a, f) → s.group = none → exec i s = .next (result s d (f s.cur.pc (s.rd a))))

/-- The branches (R136): the target where the condition holds, else the next word; nothing else changes.
JMP and JMPR (R137, R8): the link, the target; JMPR reads sa first; a misaligned target raises ALIGN and writes no link. -/
def Obligations.BranchesAndJumps : Prop :=
  (∀ i a b o f (s : State), branchOf i = some (a, b, o, f) → s.group = none →
    exec i s = .next (if f (s.rd a) (s.rd b) then goto s (s.cur.pc + wordsOff o) else past s)) ∧
  (∀ (s : State), s.group = none →
    (∀ d o, exec (.jmp d o) s = .next (goto (result s d (s.cur.pc + 4)) (s.cur.pc + wordsOff o))) ∧
    (∀ d a i, let t := s.rd a + BitVec.signExtend 64 i
      exec (.jmpr d a i) s = .next (if t &&& 3 = 0 then goto (result s d (s.cur.pc + 4)) t else raise s (trapAlign t))))

/-- HINT (R34): every word of major 0x1C decodes to it; in any stream and in a block it only moves on. -/
def Obligations.HintIsNoOperation : Prop :=
  (∀ w : IWord, fld w 26 6 = 0x1C#6 → decodeWord w = .ok (.hint (fld w 0 26))) ∧
  (∀ im (s : State), exec (.hint im) s = .next s.advance) ∧
  (∀ (s : State), s.group = none → s.advance = past s) ∧
  (∀ (s : State) b g, s.who = .exec → s.ct.blk = some b → b.ring[b.cur]? = some g →
    s.advance = { s with ct := { s.ct with blk := some { b with ring := b.ring.set b.cur { g with pc := g.pc + 4 } } } })

/-- s0 reads zero and discards writes; another register reads what was last written; no other register, and nothing but the
stream in focus, changes (R124). -/
def Obligations.RegisterFileLaws : Prop :=
  ∀ (s : State) (d : SReg) (v : Word), (∀ n, s.who = .sys n → n < 16) →
    (result s d v).rd 0 = 0 ∧ (d ≠ 0 → (result s d v).rd d = v) ∧ (∀ r, r ≠ d → (result s d v).rd r = s.rd r) ∧
    (result s d v).cur.pc = s.cur.pc + 4 ∧ (result s d v).cur.halted = s.cur.halted ∧ (result s d v).cur.wait = s.cur.wait ∧
    (result s d v).setCur s.cur = s

/-- Loads (R138, R245): the bytes at the place, extended, go to sd; LDA also acquires (R247); nothing else changes, memory included.
A load waits while a copy holds back an older store of its stream to its bytes (R139, R261).
What a read gives: the bytes as they stand; the stream's own delayed store where there is one (R139); or, where the next load takes an
earlier moment (the model's form of R323, log 86), the bytes of that moment, which is no older than the last acquire and than the last
access of those bytes.
The bytes that stand at a place (R5): of main memory or scratch, little-endian; those of a provisional gang where it has stored
(R280). -/
def Obligations.LoadsReadTheirBytes : Prop :=
  (∀ i d f a n (s : State) l, loadOf i = some (d, f) → accessOf s i = some (a, n, .load) → s.group = none →
    a.toNat % n = 0 → Ready s a n .load l →
    (∀ x y w sc, i = .lda x y w sc → (s.isSys = true ∨ s.ct.prov = false) ∧ ∀ pa ty, l = .phys pa ty → ty ≤ 1) →
    let r := readOf s a l n
    (s.canFlush s.ct (s.own l n) = true →
      exec i s = .next (result (if acquires i then r.2.2.acquireAt r.2.1 else r.2.2) d (f r.1))) ∧
    (s.canFlush s.ct (s.own l n) = false → exec i s = .next s)) ∧
  (∀ (s : State) a l n, (∀ e ∈ s.ct.sbuf, s.own l n e = false) → s.ct.early = [] →
    let r := readOf s a l n
    r.1 = s.peek s.via l n ∧ r.2.1 = s.moment ∧ r.2.2.mem = s.mem ∧ r.2.2.sram = s.sram ∧ r.2.2.pkg = s.pkg ∧
    (s.ct.looks = [] → r.2.2 = s)) ∧
  (∀ (s : State) a l n es d x, s.side = some d → s.ct.sbuf = es ++ [entry s d false l n x] → l ≠ .hole → s.via.prov = false →
    (readOf s a l n).1 = x % 2 ^ (8 * n) ∨ ∃ i rest, s.ct.early = i :: rest ∧ i ≠ none) ∧
  (∀ (s : State) a l n d i rest k, s.side = some d → (∀ e ∈ s.ct.sbuf, s.own l n e = false) → wmBound s.ct.wmb a n = false →
    s.ct.early = some i :: rest → s.ct.looks[i]? = some k → k.side = d →
    (s.ct.floors.get d ≤ k.time → k.open l n = true → (readOf s a l n).2.1 = k.time ∧
      (readOf s a l n).1 = ({ s with mem := k.mem, sram := k.sram, pkg := { s.pkg with prov := k.prov } } : State).peek s.via l n) ∧
    (k.time < s.ct.floors.get d ∨ k.open l n = false → (readOf s a l n).1 = s.peek s.via l n)) ∧
  (∀ (s : State) v a b ty n,
    (v.prov = false → s.peek v (.phys a ty) n = s.mem.readN a n) ∧ s.peek v (.image a b) n = s.mem.readN a n ∧
    s.peek v (.sram a) n = s.sram.readN a n ∧ s.peek v .hole n = 0 ∧
    (v.prov = true → s.peek v (.phys a ty) (n + 1) = (s.physByte v a).toNat + 256 * s.peek v (.phys (a + 1) ty) n) ∧
    (∀ p c, v.prov = true → s.pkg.prov.find? (fun p => p.launch = v.launch ∧ p.gang = v.gang) = some p →
      (p.cells.find? (fun c => c.1 = a) = some c → s.physByte v a = c.2) ∧
      (p.cells.find? (fun c => c.1 = a) = none → s.physByte v a = s.mem.read a))) ∧
  (∀ (m : Memory) a n, m.readN a 0 = 0 ∧ m.readN a (n + 1) = (m.read a).toNat + 256 * m.readN (a + 1) n)

/-- Stores (R138, R245, R247): the low bytes of the register go to the place; the word moves on; its line wakes other agents' WAITs. An STL
performs the stream's scalar stores before it first.
What a store leaves unchanged: every byte of main memory and scratch outside the stored bytes, every register and flag, the
package; and the stored bytes read back (little-endian, R5). A delayed store changes no byte until it is performed, and its own stream
reads it (R139). -/
def Obligations.StoresWriteTheirBytes : Prop :=
  (∀ i r a n (s : State) l, storeOf i = some r → accessOf s i = some (a, n, .store) → s.group = none →
    a.toNat % n = 0 → Ready s a n .store l →
    (releases i = true → (s.isSys = true ∨ s.ct.prov = false) ∧ ∀ pa ty, l = .phys pa ty → ty ≤ 1) →
    (storeGoes s (releases i) l n = true → exec i s = .next (past (s.storeAt l n (s.rd r).toNat (releases i)))) ∧
    (storeGoes s (releases i) l n = false → exec i s = .next s)) ∧
  (∀ (s : State) (l : Loc) (n x : Nat) (rel : Bool), s.via.prov = false →
    let u := performed s l n x
    let t := s.storeAt l n x rel
    -- a system core's, and a CT's that is not delayed: performed, after the older ones that it may not overtake
    (s.isSys = true → t = u) ∧
    (s.isSys = true ∨ s.delays l = false → (∀ pa, Loc.at_ l = some (true, pa) → t.mem.readN pa n = x % 2 ^ (8 * n)) ∧
      (∀ a, Loc.at_ l = some (false, a) → t.sram.readN a n = x % 2 ^ (8 * n))) ∧
    (∀ d, s.side = some d → s.delays l = false →
      (∀ e ∈ t.ct.sbuf, e ∈ s.ct.sbuf ∧ (entry s d rel l n x).follows e = false) ∧
      ((∀ e ∈ s.ct.sbuf, (entry s d rel l n x).follows e = false) →
        { t with ct := { t.ct with looks := s.ct.looks } } = u ∧ (s.ct.looks = [] → t = u))) ∧
    -- a delayed one: it stands last, no byte changes, and its own stream reads it
    (∀ d, s.side = some d → s.delays l = true →
      { t with ct := { t.ct with looks := s.ct.looks } } =
        { s with ct := { s.ct with sbuf := s.ct.sbuf ++ [entry s d rel l n x], sbn := s.ct.sbn + 1 } } ∧
      (l ≠ .hole → (t.readNow l n).1 = x % 2 ^ (8 * n))) ∧
    -- what a performed store leaves
    (∀ b, (∀ pa, Loc.at_ l = some (true, pa) → b < pa ∨ pa + n ≤ b) → u.mem.read b = s.mem.read b) ∧
    (∀ b, (∀ a, Loc.at_ l = some (false, a) → b < a ∨ a + n ≤ b) → u.sram.read b = s.sram.read b) ∧
    (∀ pa, Loc.at_ l = some (true, pa) → u.mem.readN pa n = x % 2 ^ (8 * n)) ∧
    (∀ a, Loc.at_ l = some (false, a) → u.sram.readN a n = x % 2 ^ (8 * n)) ∧
    (u.pkg = s.pkg ∧ u.time = s.time ∧ u.who = s.who ∧ u.ct.v = s.ct.v ∧ u.ct.p = s.ct.p ∧ u.ct.a = s.ct.a ∧
      u.ct.mx = s.ct.mx ∧ u.ct.ex.x = s.ct.ex.x ∧ u.ct.ex.pc = s.ct.ex.pc ∧ u.ct.ac.x = s.ct.ac.x ∧ u.ct.ac.pc = s.ct.ac.pc ∧
      ∀ r, u.rd r = s.rd r)) ∧
  -- no older store that a delayed one may not overtake is left when that is performed
  (∀ (s : State) es fs e, s.ct.sbuf = es ++ e :: fs → (∀ f ∈ s.ct.sbuf, s.free s.ct.via f = true) →
    e ∉ (s.performOne es.length).ct.sbuf ∧ ∀ f ∈ es, e.follows f = true → f ∉ (s.performOne es.length).ct.sbuf)

/-- The scalar atomics (R245, R247): the scalar stores before it are performed, then one read-modify-write; sd receives the old
value, sign-extended; AMOCAS of unequal values writes nothing. Delayed stores are the model's form of R323 (log 86). -/
def Obligations.AtomicsReadModifyWrite : Prop :=
  ∀ i d b k f a n (s : State) l, amoOf i = some (d, b, k, f) → accessOf s i = some (a, n, .atomic) → s.group = none →
    (s.isSys = true ∨ s.ct.prov = false) → a.toNat % n = 0 → Ready s a n .atomic l →
    (∀ pa ty, l = .phys pa ty → ty ≤ 1) →
    let u := s.flush s.mine
    let old := u.peek u.via l n
    let t := match f old ((s.rd b).toNat % 2 ^ k) ((s.rd d).toNat % 2 ^ k) with
      | some v => performed u l n (v % 2 ^ k)
      | none => u
    (s.canFlush s.ct s.mine = true → exec i s = .next (result (t.acquireAt s.moment) d ((BitVec.ofNat k old).signExtend 64))) ∧
    (s.canFlush s.ct s.mine = false → exec i s = .next s)

/-- Where a scalar memory word traps (R138, R226, R227, R247): a misaligned address raises ALIGN with the address in INFO, before any
other cause (the model's reading, log 16); a place that does not resolve raises the code of its cause; nothing else happens, but that
the first detection of a poisoned table line is logged (R319). It waits while a copy is to write a table line that it reads (R261). -/
def Obligations.ScalarAccessFaults : Prop :=
  ∀ i a n k (s : State), accessOf s i = some (a, n, k) → s.group = none → (s.isSys = true ∨ s.ct.prov = false) →
    (a.toNat % n ≠ 0 → exec i s = .next (raise s (trapAlign a))) ∧
    (a.toNat % n = 0 → s.walkHeldNow a = true → exec i s = .next s) ∧
    (∀ c, a.toNat % n = 0 → s.walkHeldNow a = false → s.place a n k = .error c →
      exec i s = .next (raise (if c = 4 then s.detectWalk a 4 else s) (trapMem c a)))

/-- FENCE (R249, R250). VS and ALL of the execute stream run the posted words first, then the vector side's delayed stores, ALL the
stream's own too, and its later accesses take no value from before; they wait while a copy holds such a store back. SV and VV stall
nothing: they stand among the posted words, and at the head of the VIQ perform the stores before them, after which no vector word
reads what stood before. In the access stream and on a system core ALL orders that stream's accesses; another kind raises ILL PLACE in
the access stream. Delayed stores, and loads that take an earlier moment, are the model's form of R323 (log 86). -/
def Obligations.FenceWaitsForPostedWords : Prop :=
  (∀ k sc (s : State), s.group = none → (s.isSys = true ∨ s.ct.prov = false ∨ sc.toNat < 2) →
    (s.who = .access → k ≠ 3 → exec (.fence k sc) s = .next (raise s (trapIll 9))) ∧
    (s.who = .exec → k = 1 ∨ k = 3 → s.ct.viq ≠ [] → exec (.fence k sc) s = .next (runHead s).1) ∧
    (s.who = .exec → k = 1 ∨ k = 3 → s.ct.viq = [] →
      let p := fun (e : SbEnt) => if k = 1 then decide (e.side = .vec) else decide (e.side ≠ .access)
      (s.canFlush s.ct p = true → exec (.fence k sc) s = .next (past (
        let u := s.flush p
        { u with ct := { u.ct with floors := { u.ct.floors with
            ex := max u.ct.floors.ex s.moment, post := if k = 3 then s.moment else u.ct.floors.post } } }))) ∧
      (s.canFlush s.ct p = false → exec (.fence k sc) s = .next s)) ∧
    (s.who = .exec → k = 0 ∨ k = 2 → exec (.fence k sc) s = .next (postMark s (.fence (decide (k = 2)) s.ct.sbn)).advance) ∧
    (s.who ≠ .exec → s.who ≠ .access ∨ k = 3 →
      (s.canFlush s.ct s.mine = true → exec (.fence k sc) s = .next (past ((s.flush s.mine).acquireAt s.moment))) ∧
      (s.canFlush s.ct s.mine = false → exec (.fence k sc) s = .next s))) ∧
  (∀ (s : State) vv upto x, s.ct.hold = true →
    (∃ e, e.op = .fence vv upto ∧ postMark s (.fence vv upto) = { s with ct := { s.ct with viq := s.ct.viq ++ [e] } }) ∧
    (let p := fun (e : SbEnt) => if vv then decide (e.side = .vec) else decide (e.side = .exec ∧ e.id < upto)
     (s.canFlush s.ct p = true → runFence x s vv upto = .done (
        let u := s.flush p
        { u with ct := { u.ct with floors := { u.ct.floors with vec := s.moment } } }) {}) ∧
     (s.canFlush s.ct p = false → runFence x s vv upto = .wait s x)))

/-- round_fp (R44, R46, R47): an exact magnitude is rounded once to the precision of the format, subnormals included, under each mode;
beyond max_finite it overflows, NX says that it is inexact, UF that it is tiny too; and the exact sums, products, quotients and square
roots that it is applied to are exact. In an IEEE-like format with E = 1 the smallest normal magnitude is taken as 2^(1 - BIAS) (the
model's choice, log 73); a negative result in a format without a sign bit is +0 with NV (the model's reading, log 62). -/
def Obligations.RoundingOperation : Prop :=
  (∀ (f : Fmt) rm r (neg : Bool) (g : Mag) (x : ℝ), MagIs g x → f.s ≤ 1 → 1 ≤ f.e → r < 2 ^ 32 →
    (neg = true → f.s = 0 → roundMag f rm r neg g = (0, { nv := true })) ∧
    ((neg = true → f.s = 1) →
    let k0 : ℤ := g.ilog - f.m
    let k : ℤ := max k0 (1 - (f.bias : ℤ) - f.m)
    let y : ℝ := unitsOf rm neg r x k * (2 : ℝ) ^ k
    let unbounded : ℝ := unitsOf rm neg r x k0 * (2 : ℝ) ^ k0
    let out := roundMag f rm r neg g
    (magOf f f.maxCode < y → out =
      ((if f.pol = .ieee ∧ (rm = .rne ∨ rm = .rmm ∨ rm = .sr ∨ (rm = .rdn ∧ neg = true) ∨ (rm = .rup ∧ neg = false))
        then signAt f neg + (2 ^ f.e - 1) * 2 ^ f.m else signAt f neg + f.maxCode), { ofl := true, nx := true })) ∧
    (y ≤ magOf f f.maxCode →
      (∃ m e, decodeVal f out.1 = .fin neg m e ∧ (m : ℝ) * (2 : ℝ) ^ e = y) ∧ out.1 < 2 ^ f.width ∧
      (out.2.nx = true ↔ y ≠ x) ∧ (out.2.uf = true ↔ y ≠ x ∧ unbounded < (2 : ℝ) ^ (1 - (f.bias : ℤ))) ∧
      out.2 = { nx := out.2.nx, uf := out.2.uf }))) ∧
  (∀ m e, m ≠ 0 → MagIs (magDyadic m e) (m * (2 : ℝ) ^ e) ∧ MagIs (magSqrt m e) (Real.sqrt (m * (2 : ℝ) ^ e)) ∧
    MagIs (magRsqrt m e) (1 / Real.sqrt (m * (2 : ℝ) ^ e)) ∧ ∀ d, d ≠ 0 → MagIs (magRat m d e) (m / d * (2 : ℝ) ^ e)) ∧
  (∀ rm a b, IsNumber a → IsNumber b →
    IsNumber (addExact rm a b) ∧ realOf (addExact rm a b) = realOf a + realOf b ∧
    (addExact rm a b).neg = (if realOf a + realOf b = 0 then zeroSign rm a b else decide (realOf a + realOf b < 0)) ∧
    IsNumber (mulExact a b) ∧ realOf (mulExact a b) = realOf a * realOf b ∧ (mulExact a b).neg = (a.neg != b.neg))

/-- Floating arithmetic, comparison and conversion (R41, R53, R54, R58, R78, R79, R81, R85, R87, R88): NaN, infinite, zero and finite
operands, and the flags; a finite result is the exact one rounded once. A negative infinite result in a format without a sign bit is +0
with NV for arithmetic as for conversion (the model's reading, log 62). -/
def Obligations.FloatingArithmeticAndConversions : Prop :=
  (∀ (f : Fmt) rm r, f.s ≤ 1 →
    -- NaN operands and invalid operations
    (∀ a b, a.isNan = true ∨ b.isNan = true → ∀ op, op ∈ [fpAdd, fpSub, fpMul, fpDiv] → op f rm r a b = nanAs f (a.isSnan || b.isSnan)) ∧
    (∀ n, fpAdd f rm r (.inf n) (.inf (!n)) = nanAs f true ∧ fpSub f rm r (.inf n) (.inf n) = nanAs f true ∧
      fpAdd f rm r (.inf n) (.inf n) = infAs f n ∧ fpSub f rm r (.inf n) (.inf (!n)) = infAs f n) ∧
    (∀ n a, IsNumber a → fpAdd f rm r (.inf n) a = infAs f n ∧ fpAdd f rm r a (.inf n) = infAs f n ∧
      fpSub f rm r (.inf n) a = infAs f n ∧ fpSub f rm r a (.inf n) = infAs f (!n) ∧
      (fpMul f rm r (.inf n) a = if a.isZero then nanAs f true else infAs f (n != a.neg)) ∧
      (fpMul f rm r a (.inf n) = if a.isZero then nanAs f true else infAs f (a.neg != n)) ∧
      fpDiv f rm r (.inf n) a = infAs f (n != a.neg) ∧ fpDiv f rm r a (.inf n) = (signAt f (a.neg != n), {})) ∧
    (∀ n m, fpMul f rm r (.inf n) (.inf m) = infAs f (n != m) ∧ fpDiv f rm r (.inf n) (.inf m) = nanAs f true) ∧
    -- finite operands
    (∀ a b, IsNumber a → IsNumber b →
      Rounds f rm r (realOf a + realOf b) (zeroSign rm a b) (fpAdd f rm r a b) ∧
      Rounds f rm r (realOf a - realOf b) (zeroSign rm a b.negate) (fpSub f rm r a b) ∧
      Rounds f rm r (realOf a * realOf b) (a.neg != b.neg) (fpMul f rm r a b) ∧
      (b.isZero = false → Rounds f rm r (realOf a / realOf b) (a.neg != b.neg) (fpDiv f rm r a b)) ∧
      (b.isZero = true → fpDiv f rm r a b = if a.isZero then nanAs f true
        else ((infAs f (a.neg != b.neg)).1, { (infAs f (a.neg != b.neg)).2 with dz := true }))) ∧
    -- one rounding of a product and a sum
    (∀ a b c, badProduct a b = true → fpFma f rm r a b c = nanAs f true) ∧
    (∀ a b c, badProduct a b = false → a.isNan = true ∨ b.isNan = true ∨ c.isNan = true →
      fpFma f rm r a b c = nanAs f (a.isSnan || b.isSnan || c.isSnan)) ∧
    (∀ a b c, IsNumber a → IsNumber b → IsNumber c →
      Rounds f rm r (realOf a * realOf b + realOf c) (zeroSign rm (mulExact a b) c) (fpFma f rm r a b c)) ∧
    (∀ a b c, badProduct a b = false → a.isNan = false → b.isNan = false → a.isInf = true ∨ b.isInf = true →
      (∀ m, fpFma f rm r a b (.inf m) = if (a.neg != b.neg) = m then infAs f m else nanAs f true) ∧
      (IsNumber c → fpFma f rm r a b c = infAs f (a.neg != b.neg))) ∧
    (∀ a b m, IsNumber a → IsNumber b → fpFma f rm r a b (.inf m) = infAs f m) ∧
    -- the smaller and the larger of two values
    (∀ mx a b, a.isNan = true → b.isNan = true → fpMinMax mx f rm r a b = nanAs f (a.isSnan || b.isSnan)) ∧
    (∀ mx s b, b.isNan = false →
      fpMinMax mx f rm r (.nan s) b = ((roundFp f rm r b).1, (roundFp f rm r b).2.or { nv := s }) ∧
      fpMinMax mx f rm r b (.nan s) = ((roundFp f rm r b).1, (roundFp f rm r b).2.or { nv := s })) ∧
    (∀ (mx : Bool) a b, IsNumber a → IsNumber b → Rounds f rm r (if mx then max (realOf a) (realOf b) else min (realOf a) (realOf b))
      (if mx then a.neg && b.neg else a.neg || b.neg) (fpMinMax mx f rm r a b)) ∧
    -- the special functions
    (∀ op, op ∈ [fpSqrt, fpRcp, fpRsq, fpExp2, fpLog2] → ∀ s, op f rm r (.nan s) = nanAs f s) ∧
    (∀ n, fpSqrt f rm r (.inf n) = (if n then nanAs f true else infAs f false) ∧ fpRcp f rm r (.inf n) = (signAt f n, {}) ∧
      fpRsq f rm r (.inf n) = (if n then nanAs f true else (0, {})) ∧ fpExp2 f rm r (.inf n) = (if n then (0, {}) else infAs f false) ∧
      fpLog2 f rm r (.inf n) = (if n then nanAs f true else infAs f false)) ∧
    (∀ a, IsNumber a → a.isZero = true →
      fpSqrt f rm r a = (signAt f a.neg, {}) ∧ fpRcp f rm r a = ((infAs f a.neg).1, { (infAs f a.neg).2 with dz := true }) ∧
      fpRsq f rm r a = ((infAs f a.neg).1, { (infAs f a.neg).2 with dz := true }) ∧ Rounds f rm r 1 false (fpExp2 f rm r a) ∧
      fpLog2 f rm r a = ((infAs f true).1, { (infAs f true).2 with dz := true })) ∧
    (∀ a, IsNumber a → a.isZero = false →
      Rounds f rm r (1 / realOf a) false (fpRcp f rm r a) ∧
      (a.neg = true → fpSqrt f rm r a = nanAs f true ∧ fpRsq f rm r a = nanAs f true ∧ fpLog2 f rm r a = nanAs f true) ∧
      (a.neg = false → Rounds f rm r (Real.sqrt (realOf a)) false (fpSqrt f rm r a) ∧
        Rounds f rm r (1 / Real.sqrt (realOf a)) false (fpRsq f rm r a)) ∧
      (∀ i : ℤ, i.natAbs < 2 ^ 16 → realOf a = i → Rounds f rm r ((2 : ℝ) ^ i) false (fpExp2 f rm r a)) ∧
      (∀ i : ℤ, realOf a = (2 : ℝ) ^ i → Rounds f rm r i false (fpLog2 f rm r a))) ∧
    -- conversion to a floating format
    (∀ sat s, cvtToFp f rm r sat (.nan s) = nanAs f s) ∧
    (∀ sat n, cvtToFp f rm r sat (.inf n) = if n = true ∧ f.s = 0 then (0, { nv := true })
      else if f.pol = .ieee ∧ sat = false then infAs f n else (signAt f n + f.maxCode, { ofl := true })) ∧
    (∀ a, IsNumber a → Rounds f rm r (realOf a) a.neg (cvtToFp f rm r false a) ∧
      (let out := cvtToFp f rm r false a
       cvtToFp f rm r true a = if out.2.ofl then (signAt f a.neg + f.maxCode, out.2) else out))) ∧
  -- conversion to an integer, between integers, and by the words
  (∀ (t : ITag) rm r, t.w = 2 ∨ t.w = 4 ∨ t.w = 8 ∨ t.w = 16 ∨ t.w = 32 ∨ t.w = 64 →
    let lo : ℤ := if t.signed then -2 ^ (t.w - 1) else 0
    let hi : ℤ := if t.signed then 2 ^ (t.w - 1) - 1 else 2 ^ t.w - 1
    (∀ s, cvtToInt t rm r (.nan s) = (0, { nv := true })) ∧
    (∀ n, intOf t (cvtToInt t rm r (.inf n)).1 = (if n then lo else hi) ∧ (cvtToInt t rm r (.inf n)).2 = { nv := true }) ∧
    (∀ a, IsNumber a → r < 2 ^ 32 →
      let i : ℤ := (if a.neg then -1 else 1) * unitsOf rm a.neg r |realOf a| 0
      let out := cvtToInt t rm r a
      out.1 < 2 ^ t.w ∧ intOf t out.1 = max lo (min hi i) ∧ out.2 = { nv := out.2.nv, nx := out.2.nx } ∧
      (out.2.nv = true ↔ i < lo ∨ hi < i) ∧ (out.2.nx = true ↔ lo ≤ i ∧ i ≤ hi ∧ realOf a ≠ i)) ∧
    (∀ v : ℤ, (satInt t v).1 < 2 ^ t.w ∧ intOf t (satInt t v).1 = max lo (min hi v) ∧ ((satInt t v).2 = true ↔ v < lo ∨ hi < v)) ∧
    (∀ (u : ITag) b c x, convertValue true (.int b u) (.int c t) rm r x = ((satInt t (intOf u x)).1, { sat := (satInt t (intOf u x)).2 }) ∧
      let y := (convertValue false (.int b u) (.int c t) rm r x).1
      y < 2 ^ t.w ∧ (2 ^ t.w : ℤ) ∣ intOf t y - intOf u x) ∧
    (∀ b c f w sat x, convertValue sat (.int b t) (.fp c f w) rm r x = cvtToFp f rm r sat (fvalOfInt (intOf t x)) ∧
      convertValue sat (.fp c f w) (.int b t) rm r x = cvtToInt t rm r (decodeVal f x))) ∧
  (∀ f g b c w v sat rm r x, convertValue sat (.fp b f w) (.fp c g v) rm r x = cvtToFp g rm r sat (decodeVal f x) ∧
    -- one tag: the slot counts for the flex tags alone (R73)
    (sameTag b c = true ↔ b.toNat / 8 = c.toNat / 8 ∧ (b.toNat / 8 = 11 ∨ b.toNat / 8 = 12 → b = c)) ∧
    (sameTag b c = false → vcvtElem sat (.fp b f w) (.fp c g v) rm r x = cvtToFp g rm r sat (decodeVal f x)) ∧
    (sameTag b c = true → vcvtElem sat (.fp b f w) (.fp c g v) rm r x =
      (if (decodeVal f x).isSnan then (f.nanBits, { nv := true }) else (x % 2 ^ f.width, {})))) ∧
  -- signs, and comparison
  (∀ (neg : Bool) (f : Fmt) x, f.s ≤ 1 → x < 2 ^ f.width →
    ((decodeVal f x).isNan = true → fpSign neg f x = (f.nanBits, {})) ∧
    ((decodeVal f x).isNan = false → f.s = 1 → (fpSign neg f x).2 = {} ∧
      decodeVal f (fpSign neg f x).1 = if neg then (decodeVal f x).negate else (decodeVal f x).abs) ∧
    ((decodeVal f x).isNan = false → f.s = 0 → fpSign neg f x = if neg = true ∧ x ≠ 0 then (0, { nv := true }) else (x, {}))) ∧
  (∀ a b, IsNumber a → IsNumber b → ∀ k, (fpCmp k a b).2 = {} ∧ ((fpCmp k a b).1 = true ↔ match k with
    | .eq => realOf a = realOf b | .ne => realOf a ≠ realOf b | .lt => realOf a < realOf b | .le => realOf a ≤ realOf b
    | .gt => realOf b < realOf a | .ge => realOf b ≤ realOf a | .un => False)) ∧
  (∀ a b, a.isNan = true ∨ b.isNan = true → ∀ k, fpCmp k a b = (decide (k = .ne ∨ k = .un),
    { nv := if k = .eq ∨ k = .ne ∨ k = .un then a.isSnan || b.isSnan else true })) ∧
  -- the dot product of a matrix word and its accumulation: two roundings to nearest
  (∀ ps : List (FVal × FVal),
    let nan := ps.any fun p => p.1.isNan || p.2.isNan
    let snan := ps.any fun p => p.1.isSnan || p.2.isSnan
    let invalid := ps.any fun p => badProduct p.1 p.2
    let infinite := fun (n : Bool) => ps.any fun p => (p.1.isInf || p.2.isInf) && !p.1.isNan && !p.2.isNan && !badProduct p.1 p.2 &&
      ((p.1.neg != p.2.neg) == n)
    let opposed := infinite true && infinite false
    (nan = true ∨ invalid = true ∨ opposed = true → dotFp ps = (.nan false, snan || invalid || opposed)) ∧
    (nan = false → invalid = false → opposed = false → ∀ n, infinite n = true → dotFp ps = (.inf n, false)) ∧
    ((∀ p ∈ ps, IsNumber p.1 ∧ IsNumber p.2) → (dotFp ps).2 = false ∧ IsNumber (dotFp ps).1 ∧
      realOf (dotFp ps).1 = (ps.map fun p => realOf p.1 * realOf p.2).sum ∧
      (realOf (dotFp ps).1 = 0 → (dotFp ps).1.neg = decide (ps ≠ [] ∧ ∀ p ∈ ps, (mulExact p.1 p.2).isZero = true ∧ (p.1.neg != p.2.neg) = true)))) ∧
  (∀ old d nv, macElem old (d, nv) =
    let a := roundFp fmtF32 .rne 0 d
    let b := fpAdd fmtF32 .rne 0 (decodeVal fmtF32 old) (decodeVal fmtF32 a.1)
    (b.1, (a.2.or b.2).or { nv := nv }))

/-- Scalar floating-point words (R141, R142): the result, zero-extended, goes to sd, the flags are ORed, nothing else changes. -/
def Obligations.ScalarFloatResults : Prop :=
  ∀ i (s : State), s.group = none →
    (∀ d x fl, fpOf s i = some (d, x, fl) → exec i s = .next (result (flagged s fl) d (BitVec.ofNat 64 x))) ∧
    (∀ d a f k rm, fpToInt s i = some (d, a, f, k, rm) →
      let r := convertValue false (sty f) (kty k) rm (sysRand s.sysA) ((s.rd a).toNat % 2 ^ (sfmt f).width)
      exec i s = .next (result (flagged s r.2) d
        (if k = 0 ∨ k = 1 then BitVec.ofNat 64 r.1
         else if k = 2 then (BitVec.ofNat 32 r.1).signExtend 64 else (BitVec.ofNat 32 r.1).zeroExtend 64)))

/-- The queue words (R125, R127, R129, R143): append and pop in order; full and empty queues hold the stream; an ended producer traps.
The pop acquires what was before the send (R128): the access stream's delayed stores before it are performed first, or the pop waits
while a copy holds one back (the model's form, log 86); later accesses of the execute stream take no value from before, nor its
conversions a node from before a FRFENCE that was before the send (R314). -/
def Obligations.QueueWords : Prop :=
  ∀ (s : State), s.group = none →
    (∀ a q, s.who = .access → (s.ct.queue q).length < 16 →
      exec (.qsend a q) s = .next (past { s with ct := { s.ct.setQueue q (s.ct.queue q ++ [s.rd a]) with
        qAt := s.ct.qAt.set q.toNat (s.ct.qAt[q.toNat] ++ [⟨s.ct.sbn, s.ct.frA⟩]) } })) ∧
    (∀ d q v rest, s.who = .exec → s.ct.queue q = v :: rest →
      let k := s.ct.qAt[q.toNat].headD ⟨0, 0⟩
      let p := fun (e : SbEnt) => decide (e.side = .access ∧ e.id < k.upto)
      (s.canFlush s.ct p = true → let u := s.flush p
        exec (.qrecv d q) s = .next (result { u with ct := { u.ct with
          q := s.ct.q.set q.toNat rest, qAt := s.ct.qAt.set q.toNat (s.ct.qAt[q.toNat].drop 1), frE := max s.ct.frE k.frames,
          floors := { s.ct.floors with ex := max s.ct.floors.ex s.moment, post := s.moment } } } d v)) ∧
      (s.canFlush s.ct p = false → exec (.qrecv d q) s = .next s)) ∧
    (∀ a, s.who = .access → s.ct.bq.length < 64 →
      exec (.qbsend a) s = .next (past { s with ct := { s.ct with
        bq := s.ct.bq ++ [decide (s.rd a ≠ 0)], bqAt := s.ct.bqAt ++ [⟨s.ct.sbn, s.ct.frA⟩] } })) ∧
    (∀ o b rest, s.who = .exec → s.ct.bq = b :: rest →
      let k := s.ct.bqAt.headD ⟨0, 0⟩
      let p := fun (e : SbEnt) => decide (e.side = .access ∧ e.id < k.upto)
      (s.canFlush s.ct p = true → let u := s.flush p
        let t := { u with ct := { u.ct with
          bq := rest, bqAt := s.ct.bqAt.drop 1, frE := max s.ct.frE k.frames,
          floors := { s.ct.floors with ex := max s.ct.floors.ex s.moment, post := s.moment } } }
        exec (.bq o) s = .next (if b then goto t (s.cur.pc + wordsOff o) else past t)) ∧
      (s.canFlush s.ct p = false → exec (.bq o) s = .next s)) ∧
    (∀ a q, s.who = .access → 16 ≤ (s.ct.queue q).length → exec (.qsend a q) s = .next s) ∧
    (∀ a, s.who = .access → 64 ≤ s.ct.bq.length → exec (.qbsend a) s = .next s) ∧
    (∀ o, s.who = .exec → s.ct.bq = [] →
      exec (.bq o) s = .next (if s.ct.aend then raise s { code := 7, qtrap := true } else s)) ∧
    (∀ d q, s.who = .exec → s.ct.queue q = [] →
      exec (.qrecv d q) s = .next (if s.ct.aend then raise s { code := 7, qtrap := true } else s)) ∧
    (∀ a q, s.who ≠ .access → exec (.qsend a q) s = .next (raise s (trapIll 9)) ∧ exec (.qbsend a) s = .next (raise s (trapIll 9))) ∧
    (∀ d q o, s.who ≠ .exec → exec (.qrecv d q) s = .next (raise s (trapIll 9)) ∧ exec (.bq o) s = .next (raise s (trapIll 9)))

/-- SYSR, SYSW, SYSSET and SYSCLR of an admitted register (R131, R133): the value read goes to sd; the value written is the register,
or the old value with its bits set or cleared.
Refused SYS words (R131, R133, R342): CSR, then PLACE, then PERM below the register's level; nothing changes but the trap.
What a write leaves in a system register (R42, R45, R50, R99, R132, R342): its RW fields take the value, RO and reserved ones keep
theirs; no other register changes; a register without RW fields keeps its value. That a PPL of 3 leaves PPL as it was (log 22), and that
the registers of groups V, I and Q raise CSR on a system core (log 21), is the model's reading. -/
def Obligations.SystemRegisterWords : Prop :=
  (∀ i c r w g (s : State), sysOf i = some (c, r, w) → SysReady s c.toNat w.isSome g →
    exec i s = .next (match w with
      | none => result s r (s.csrRead c.toNat)
      | some f => past (s.csrWrite c.toNat (f (s.csrRead c.toNat) (s.rd r))))) ∧
  (∀ i c r w (s : State), sysOf i = some (c, r, w) →
    (s.csr c.toNat = none → exec i s = .next (raise s (trapIll 8))) ∧
    (∀ g, s.csr c.toNat = some g → s.group.isSome = true → exec i s = .next (raise s (trapIll 9))) ∧
    (∀ g, s.csr c.toNat = some g → s.group = none → w.isSome = true → s.who = .access → g = .v ∨ g = .a →
      exec i s = .next (raise s (trapIll 9))) ∧
    (∀ g, s.csr c.toNat = some g → s.group = none → g = .p → s.level < csrLevel c.toNat →
      exec i s = .next (raise s trapPerm))) ∧
  (∀ (s : State) (c : Nat) (v : Word) (g : CsrGroup), (∀ n, s.who = .sys n → n < 16) → s.csr c = some g →
    (∀ n, n < 16 → (s.sysCore n).legal) →
    (∀ x, csrField (s.csrRead c) c v = some x → (s.csrWrite c v).csrRead c = x) ∧
    (csrField (s.csrRead c) c v = none → s.csrWrite c v = s) ∧
    (∀ c', c' ≠ c → s.csr c' ≠ none → (s.csrWrite c v).csrRead c' = s.csrRead c'))

/-- Traps and returns of a system core (R343): which register set takes what, the new level and pc; TRAP saves the next word's
address; TRET restores level, IE and pc, whose bits 1:0 are zero (R8); at level 0 it is a PERM trap. -/
def Obligations.SystemCoreTraps : Prop :=
  ∀ (s : State) (n : Nat), s.who = .sys n → n < 16 →
    (∀ t : Trap, t.info ≠ none →
      let c := s.sysCore n
      let u := raise s t
      let back := if t.code = 7 then c.st.pc + 4 else c.st.pc
      (∀ m, m < 16 → m ≠ n → u.sysCore m = s.sysCore m) ∧ u.mem = s.mem ∧ u.sram = s.sram ∧ u.ct = s.ct ∧ u.pkg = s.pkg ∧
      u.sysCore n = (if c.pl = 2 then
        { c with pl := 2, st := { c.st with pc := c.fs.vec },
                 fs := ⟨c.fs.ie, false, c.pl, c.fs.vec, back, BitVec.ofNat 64 t.code, t.info.getD 0⟩ }
      else
        { c with pl := 1, st := { c.st with pc := c.xs.vec },
                 xs := ⟨c.xs.ie, false, c.pl, c.xs.vec, back, BitVec.ofNat 64 t.code, t.info.getD 0⟩ })) ∧
    (∀ a, exec (.trap a) s = .next (raise s { code := 7, info := some (s.rd a), next := true })) ∧
    ((s.sysCore n).pl = 0 → exec .tret s = .next (raise s { code := 5, info := some 0 })) ∧
    ((s.sysCore n).pl = 1 → exec .tret s = .next (s.setSys n { s.sysCore n with
      st := { (s.sysCore n).st with pc := (s.sysCore n).xs.pc &&& ~~~3 }, pl := (s.sysCore n).xs.ppl,
      xs := { (s.sysCore n).xs with ie := (s.sysCore n).xs.pie } })) ∧
    ((s.sysCore n).pl = 2 → exec .tret s = .next (s.setSys n { s.sysCore n with
      st := { (s.sysCore n).st with pc := (s.sysCore n).fs.pc &&& ~~~3 }, pl := (s.sysCore n).fs.ppl,
      fs := { (s.sysCore n).fs with ie := (s.sysCore n).fs.pie } }))

/-- What stops a CT (R215 to R217, R145): the CT stands stopped with its record, every register, flag and byte as it was; the record
names the code, the word and its address; TRAP carries sa and resumes after itself. -/
def Obligations.StopLeavesTheCtAsItWas : Prop :=
  ∀ (s : State) (t : Trap), s.who = .exec ∨ s.who = .access →
    let u := raise s t
    u.ct.status = .stopped ∧ u.ct.posted = false ∧ u.ct.next = t.next ∧
    { u.ct with status := s.ct.status, frec := s.ct.frec, posted := s.ct.posted, next := s.ct.next } = s.ct ∧
    u.mem = s.mem ∧ u.sram = s.sram ∧ u.sys = s.sys ∧ u.others = s.others ∧ u.time = s.time ∧
    (∃ r, u.ct.frec = some r ∧ r.code = t.code ∧ r.sub = t.sub ∧ r.time = s.time ∧ r.pc = s.pc ∧ r.word = s.ir ∧ r.ctid = s.ct.id ∧
      r.ctx = s.ct.ctx ∧ r.next = t.next ∧ r.acc = decide (s.who = .access) ∧ r.vec = false ∧ r.blk = s.group.isSome ∧
      (∀ x, t.info = some x → r.info = x) ∧ r.npg = min 3 t.pages.length ∧ r.pages = t.pages.take 3 ∧
      r.more = decide (3 < t.pages.length)) ∧
    (∀ a, s.group = none → exec (.trap a) s = .next (raise s { code := 7, info := some (s.rd a), next := true })) ∧
    (s.group = none → exec .tret s = .next (raise s trapPerm))

/-- WAIT, YIELD and TIME (R146, R147). HALT (R129, R147, R265, R343): the execute stream's ends the CT once nothing is posted and no
copy is outstanding; the access stream's ends that stream; a system core's waits for a pending interrupt, and traps with PERM at
user level. Delayed stores are the model's form of R323 (log 86). -/
def Obligations.WaitYieldTimeHalt : Prop :=
  (∀ (s : State), s.group = none →
    (∀ d, exec (.time d) s = .next (result s d s.time)) ∧ exec .yield s = .next (past s) ∧
    (s.cur.wait = none →
      (∀ d, exec (.wait d 0 0) s = .next (result s d 0)) ∧
      (∀ d b, b ≠ 0 → exec (.wait d 0 b) s = .next (if s.rd b ≤ s.time then result s d 0
        else s.setCur { s.cur with wait := some ⟨d, none, some (s.rd b), none⟩ })) ∧
      (∀ d a b, a ≠ 0 → s.walkHeldNow (s.rd a) = true → exec (.wait d a b) s = .next s) ∧
      (∀ d a b c, a ≠ 0 → s.walkHeldNow (s.rd a) = false → s.place (s.rd a) 1 .load = .error c →
        exec (.wait d a b) s = .next (raise (if c = 4 then s.detectWalk (s.rd a) 4 else s) (trapMem c (s.rd a)))) ∧
      (∀ d a b pa ty, a ≠ 0 → s.walkHeldNow (s.rd a) = false → s.place (s.rd a) 1 .load = .ok (.phys pa ty) → 2 ≤ ty →
        exec (.wait d a b) s = .next (raise s (trapMem 2 (s.rd a)))) ∧
      (∀ d a b l, a ≠ 0 → s.walkHeldNow (s.rd a) = false → s.place (s.rd a) 1 .load = .ok l → s.readsBad s.via l 1 = false →
        (∀ pa ty, l = .phys pa ty → ty < 2) →
        exec (.wait d a b) s = .next (if b ≠ 0 ∧ s.rd b ≤ s.time then result s d 0
          else s.setCur { s.cur with wait := some ⟨d, l.line, if b = 0 then none else some (s.rd b), none⟩ })))) ∧
  (∀ (s : State), s.group = none →
    (s.who = .exec → s.ct.viq = [] → (∀ y ∈ s.ct.copies, y.done = true ∨ s.ct.ticket < y.ticket) →
      (s.canFlush s.ct (fun _ => true) = true →
        let u := s.flush fun _ => true
        u.ct.sbuf = [] ∧ exec .halt s = .next u.haltCt ∧ u.haltCt.ct.status = .ended) ∧
      (s.canFlush s.ct (fun _ => true) = false → exec .halt s = .next s)) ∧
    (s.who = .access → exec .halt s = .next { s with ct := { s.ct with aend := true, ac := { s.ct.ac with halted := true } } }) ∧
    (∀ n, s.who = .sys n → n < 16 →
      ((s.sysCore n).pl = 0 → exec .halt s = .next (raise s trapPerm)) ∧
      ((s.sysCore n).pl ≠ 0 → (s.sysCore n).pending s.time = true →
        exec .halt s = .next (past (s.setSys n { s.sysCore n with waiting := false }))) ∧
      ((s.sysCore n).pl ≠ 0 → (s.sysCore n).pending s.time = false →
        exec .halt s = .next (s.setSys n { s.sysCore n with waiting := true }))))

namespace Sys2Proof.Stmt
open Sys2Proof Sys2Proof.Machine

/-! ### The vector side -/

/-- Nothing stands in the way of a vector-class word: the execute stream of a running CT outside a block, nothing posted, the
vector side not held back, the vector state its own, no answer from beyond the module under way; a legal vector shape (R64, R65). -/
structure VReady (s : State) : Prop where
  who : s.who = .exec
  run : s.ct.status = .running
  blk : s.ct.blk = none
  viq : s.ct.viq = []
  hold : s.ct.hold = false
  own : s.ct.vown = true
  reqs : s.pkg.reqs = []
  lg : s.ct.lg = 1 ∨ s.ct.lg = 2 ∨ s.ct.lg = 4 ∨ s.ct.lg = 8
  g : s.ct.g ≤ 3
  vl : s.ct.vl ≤ s.ct.vlen / 2
/-- No register is a bound feed (R164). -/
def NoFeeds (s : State) : Prop := ∀ r, s.ct.feed r = none

/-- A vector-class word that has taken its effect at decode: the CT as the word leaves it, its convoy counts, the pc past it. -/
def vconf (s : State) (cv : Convoy) (c : Ct) : State :=
  { s with ct := { c with conv := cv, ex := { c.ex with pc := s.ct.ex.pc + 4 } } }
/-- A posted word that has completed: also vstart consumed (R394) and its flags ORed (R52). -/
def vdone (s : State) (cv : Convoy) (c : Ct) (fl : Fl) : State :=
  vconf s cv { c with vstart := 0, a := c.a.flag fl }

/-- Element e computes under p (R109, R51). -/
def onAt (s : State) (p : PGov) (e : Nat) : Bool := decide (s.ct.vstart ≤ e) && decide (e < s.ct.vl) && s.ct.pbit p.toNat e
/-- The same without a governing predicate. -/
def allAt (s : State) (e : Nat) : Bool := decide (s.ct.vstart ≤ e) && decide (e < s.ct.vl)
/-- The same for a word that treats vstart as 0 (R176, R180). -/
def zeroAt (s : State) (p : PGov) (e : Nat) : Bool := decide (e < s.ct.vl) && s.ct.pbit p.toNat e
/-- The computing elements, rising. -/
def ons (s : State) (on : Nat → Bool) : List Nat := (List.range s.ct.vl).filter on
/-- The OR of the flags of some elements. -/
def flagsOf (es : List Nat) (f : Nat → Fl) : Fl := es.foldl (fun g e => g.or (f e)) {}
/-- The random value of element e under SR (R47). -/
def rndAt (s : State) (e : Nat) : Nat := cmx s.ct.a.vseed (s.ct.a.sbase + BitVec.ofNat 64 e) s.ct.a.vsrn.toNat
/-- The rounding mode. -/
def rmAt (s : State) : Rm := rmOf s.ct.a.frm

/-- Bit i of register r. -/
def vbit (c : Ct) (r i : Nat) : Bool := match c.v[r]? with | some x => x.getLsbD i | none => false

/-- What a word that writes elements of width w into the groups of n registers at ds leaves in the vector registers: the values
where elements compute; every other element of the groups, every other register, and the bits above VLEN as they were. -/
structure Elements (c c' : Ct) (ds : List Nat) (n w : Nat) (on : Nat → Bool) (val : Nat → Nat → Nat) : Prop where
  done : ∀ d ∈ ds, ∀ e, on e = true → c'.vget d w e = val d e % 2 ^ w
  kept : ∀ d ∈ ds, ∀ e, on e = false → e * w < c.vlen * n → c'.vget d w e = c.vget d w e
  regs : ∀ r, (∀ d ∈ ds, r < d ∨ d + n ≤ r) → c'.v[r]? = c.v[r]?
  high : ∀ r i, c.vlen ≤ i → vbit c' r i = vbit c r i
/-- What a word that writes bits of predicate pd leaves in the predicates; p0 discards writes (R108). -/
structure PBits (c c' : Ct) (pd : Nat) (on : Nat → Bool) (val : Nat → Bool) : Prop where
  done : pd ≠ 0 → ∀ e, on e = true → c'.pbit pd e = val e
  kept : ∀ e, on e = false → c'.pbit pd e = c.pbit pd e
  zero : c'.p[0] = c.p[0]
  regs : ∀ r, r ≠ pd → c'.p[r]? = c.p[r]?

/-- The tags with those of n registers from d replaced (R74). -/
def retag (t : Vector (BitVec 8) 32) (d n : Nat) (b : BitVec 8) : Vector (BitVec 8) 32 :=
  Vector.ofFn fun (i : Fin 32) => if d ≤ i.val ∧ i.val < d + n then b else t[i]

/-- The second source's element: of a vector, or the low w bits of the scalar (R68). -/
def src2 (s : State) (b : BOp) (w e : Nat) : Nat :=
  match b with
  | .v r => s.ct.vget r.toNat w e
  | .x r => (s.rd r).toNat % 2 ^ w

/-- Two-source VOP words: operation, C bit, vd, va, second source, governing predicate. -/
def binOf : Instr → Option (BinOp × Bool × VRegNo × VRegNo × BOp × PGov)
  | .vaddVv c d a b p => some (.add, c, d, a, .v b, p)
  | .vaddVx c d a b p => some (.add, c, d, a, .x b, p)
  | .vsubVv c d a b p => some (.sub, c, d, a, .v b, p)
  | .vsubVx c d a b p => some (.sub, c, d, a, .x b, p)
  | .vmulVv c d a b p => some (.mul, c, d, a, .v b, p)
  | .vmulVx c d a b p => some (.mul, c, d, a, .x b, p)
  | .vmulhVv c d a b p => some (.mulh, c, d, a, .v b, p)
  | .vmulhVx c d a b p => some (.mulh, c, d, a, .x b, p)
  | .vdivVv c d a b p => some (.div, c, d, a, .v b, p)
  | .vdivVx c d a b p => some (.div, c, d, a, .x b, p)
  | .vremVv c d a b p => some (.rem, c, d, a, .v b, p)
  | .vremVx c d a b p => some (.rem, c, d, a, .x b, p)
  | .vminVv c d a b p => some (.min, c, d, a, .v b, p)
  | .vminVx c d a b p => some (.min, c, d, a, .x b, p)
  | .vmaxVv c d a b p => some (.max, c, d, a, .v b, p)
  | .vmaxVx c d a b p => some (.max, c, d, a, .x b, p)
  | .vandVv c d a b p => some (.and, c, d, a, .v b, p)
  | .vandVx c d a b p => some (.and, c, d, a, .x b, p)
  | .vorVv c d a b p => some (.or, c, d, a, .v b, p)
  | .vorVx c d a b p => some (.or, c, d, a, .x b, p)
  | .vxorVv c d a b p => some (.xor, c, d, a, .v b, p)
  | .vxorVx c d a b p => some (.xor, c, d, a, .x b, p)
  | .vandnVv c d a b p => some (.andn, c, d, a, .v b, p)
  | .vandnVx c d a b p => some (.andn, c, d, a, .x b, p)
  | .vshlVv c d a b p => some (.shl, c, d, a, .v b, p)
  | .vshlVx c d a b p => some (.shl, c, d, a, .x b, p)
  | .vshrVv c d a b p => some (.shr, c, d, a, .v b, p)
  | .vshrVx c d a b p => some (.shr, c, d, a, .x b, p)
  | .vshaVv c d a b p => some (.sha, c, d, a, .v b, p)
  | .vshaVx c d a b p => some (.sha, c, d, a, .x b, p)
  | .vfmaVv c d a b p => some (.fma, c, d, a, .v b, p)
  | .vfmaVx c d a b p => some (.fma, c, d, a, .x b, p)
  | .vfmsVv c d a b p => some (.fms, c, d, a, .v b, p)
  | .vfmsVx c d a b p => some (.fms, c, d, a, .x b, p)
  | .vfnmaVv c d a b p => some (.fnma, c, d, a, .v b, p)
  | .vfnmaVx c d a b p => some (.fnma, c, d, a, .x b, p)
  | .vclampVv c d a b p => some (.clamp, c, d, a, .v b, p)
  | .vclampVx c d a b p => some (.clamp, c, d, a, .x b, p)
  | .vaddSatVv c d a b p => some (.addSat, c, d, a, .v b, p)
  | .vaddSatVx c d a b p => some (.addSat, c, d, a, .x b, p)
  | .vsubSatVv c d a b p => some (.subSat, c, d, a, .v b, p)
  | .vsubSatVx c d a b p => some (.subSat, c, d, a, .x b, p)
  | _ => none

/-- The widening words (R86). -/
def widenOf : Instr → Option (BinOp × Bool × VRegNo × VRegNo × BOp × PGov)
  | .vwaddVv c d a b p => some (.add, c, d, a, .v b, p)
  | .vwaddVx c d a b p => some (.add, c, d, a, .x b, p)
  | .vwsubVv c d a b p => some (.sub, c, d, a, .v b, p)
  | .vwsubVx c d a b p => some (.sub, c, d, a, .x b, p)
  | .vwmulVv c d a b p => some (.mul, c, d, a, .v b, p)
  | .vwmulVx c d a b p => some (.mul, c, d, a, .x b, p)
  | .vwmacVv c d a b p => some (.fma, c, d, a, .v b, p)
  | .vwmacVx c d a b p => some (.fma, c, d, a, .x b, p)
  | _ => none
/-- The narrowing shifts (R86). -/
def nshrOf : Instr → Option (Bool × VRegNo × VRegNo × BOp × PGov)
  | .vnshrVv c d a b p => some (c, d, a, .v b, p)
  | .vnshrVx c d a b p => some (c, d, a, .x b, p)
  | _ => none

/-- One-source words whose result takes va's tag. -/
def unOf : Instr → Option (UnOp × Bool × VRegNo × VRegNo × PGov)
  | .vabs c d a p => some (.abs, c, d, a, p)
  | .vneg c d a p => some (.neg, c, d, a, p)
  | .vsqrt c d a p => some (.sqrt, c, d, a, p)
  | .vrcp c d a p => some (.rcp, c, d, a, p)
  | .vrsq c d a p => some (.rsq, c, d, a, p)
  | .vexp2 c d a p => some (.exp2, c, d, a, p)
  | .vlog2 c d a p => some (.log2, c, d, a, p)
  | _ => none
/-- The special functions, which every floating tag but f64 admits (R87). -/
def special : UnOp → Bool
  | .sqrt => true | .rcp => true | .rsq => true | .exp2 => true | .log2 => true
  | _ => false
/-- Conversions to vd's own tag (R85, R86). -/
def cvtOf : Instr → Option (UnOp × Bool × VRegNo × VRegNo × PGov)
  | .vcvt c d a p => some (.cvt, c, d, a, p)
  | .vcvtSat c d a p => some (.cvtSat, c, d, a, p)
  | .vncvt c d a p => some (.ncvt, c, d, a, p)
  | _ => none

/-- The comparisons (R88). -/
def cmpOf : Instr → Option (CmpOp × Bool × PRegNo × VRegNo × VRegNo × PGov)
  | .vcmpEq c d a b p => some (.eq, c, d, a, b, p)
  | .vcmpNe c d a b p => some (.ne, c, d, a, b, p)
  | .vcmpLt c d a b p => some (.lt, c, d, a, b, p)
  | .vcmpLe c d a b p => some (.le, c, d, a, b, p)
  | .vcmpGt c d a b p => some (.gt, c, d, a, b, p)
  | .vcmpGe c d a b p => some (.ge, c, d, a, b, p)
  | .vcmpUn c d a b p => some (.un, c, d, a, b, p)
  | _ => none
/-- The predicate words of R111: pd, and the bit of element e. -/
def predOf (s : State) : Instr → Option (PRegNo × (Nat → Bool))
  | .pand d a b => some (d, fun e => s.ct.pbit a.toNat e && s.ct.pbit b.toNat e)
  | .por d a b => some (d, fun e => s.ct.pbit a.toNat e || s.ct.pbit b.toNat e)
  | .pxor d a b => some (d, fun e => s.ct.pbit a.toNat e != s.ct.pbit b.toNat e)
  | .pandn d a b => some (d, fun e => s.ct.pbit a.toNat e && !s.ct.pbit b.toNat e)
  | .pnot d a => some (d, fun e => !s.ct.pbit a.toNat e)
  | .pmov d a => some (d, fun e => s.ct.pbit a.toNat e)
  | .pbrk d a => some (d, fun e => (List.range (e + 1)).all fun j => !(allAt s j && s.ct.pbit a.toNat j))
  | _ => none

/-- The reductions (R181). -/
def redOf : Instr → Option (RedOp × Bool × VRegNo × SReg × PGov)
  | .vredsum c a b p => some (.sum, c, a, b, p)
  | .vredmax c a b p => some (.max, c, a, b, p)
  | .vredmin c a b p => some (.min, c, a, b, p)
  | _ => none
/-- The elements of a group as a reduction presents them (R55). -/
def presented (s : State) (p : PGov) (a w : Nat) : List (Option Nat) :=
  (List.range s.ct.vl).map fun e => if zeroAt s p e then some (s.ct.vget a w e) else none

/-- The CT with a scalar of the execute stream written. -/
def scalarTo (c : Ct) (d : SReg) (v : Word) : Ct := { c with ex := c.ex.wr d v }

/-! ### Vector memory -/

/-- An access of the vector side that is performed at once, in main memory or scratch (R159, R227, R261, R273, R318); `ok` says which
memory types the word admits. -/
def Reaches (s : State) (n : Nat) (k : Kind) (ok : Nat → Bool) (a : Word) (l : Loc) : Prop :=
  s.walkHeld s.ct.via a = false ∧
  s.resolve s.ct.via a n k = .ok l ∧ (∀ pa ty, l = .phys pa ty → ok ty = true ∧ pa < mainEnd) ∧ s.claimed s.ct.via l n k = false ∧
  (k ≠ .store → s.poisonedAt l = false) ∧ (k = .load → wmHolds s s.ct.wmb a n = false)
/-- No store of the vector side is delayed, and no load of the CT is to take an earlier moment (the model's form of R323, log 86). -/
structure Calm (s : State) : Prop where
  sbuf : ∀ e ∈ s.ct.sbuf, e.side ≠ .vec
  early : s.ct.early = []
/-- The CT with the accesses that a word has made noted, for the loads that are still to take an earlier moment. -/
def noted (c c' : Ct) : Prop := c' = { c with looks := c'.looks } ∧ (c.looks = [] → c'.looks = [])

/-- The accesses of element e (R156): (group, address) of each field. -/
def accAt (s : State) (d w : Nat) (m : VMode) (base : Word) (e : Nat) : List (Nat × Word) :=
  match m with
  | .unit => [(d, base + BitVec.ofNat 64 (e * w / 8))]
  | .strided sx => [(d, base + BitVec.ofNat 64 e * sx)]
  | .indexed r t => [(d, base + BitVec.ofInt 64 (intOf t (s.ct.vget r t.w e)))]
  | .seg f => (List.range f).map fun i => (d + i * 2 ^ s.ct.g, base + BitVec.ofNat 64 ((e * f + i) * (w / 8)))
/-- The groups of a mode (R155). -/
def groupsOf (s : State) (d : Nat) : VMode → List Nat
  | .seg f => (List.range f).map fun i => d + i * 2 ^ s.ct.g
  | _ => [d]
/-- Alignment (R157). -/
def vAligned (s : State) (d w : Nat) (m : VMode) (base : Word) (on : Nat → Bool) : Prop :=
  w < 8 ∨ match m with
    | .unit => base.toNat % (w / 8) = 0
    | .strided sx => base.toNat % (w / 8) = 0 ∧ sx.toNat % (w / 8) = 0
    | .indexed _ _ => ∀ e, on e = true → ∀ q ∈ accAt s d w m base e, q.2.toNat % (w / 8) = 0
    | .seg _ => base.toNat % (w / 8) = 0

/-- A vector load or store: whether it loads, C, vd, sa, the predicate, the mode, whether sub-byte tags are admitted, which memory
types are (R154, R155, R159). -/
structure VMem where
  load : Bool
  c : Bool
  d : VRegNo
  a : SReg
  p : PGov
  m : VMode
  sub : Bool
  ok : Nat → Bool
  seq : Bool
def notOrdered (ty : Nat) : Bool := decide (ty ≠ 2)
def vmemOf (s : State) : Instr → Option VMem
  | .vld c d a p => some ⟨true, c, d, a, p, .unit, true, notOrdered, false⟩
  | .vldS c d a x p => some ⟨true, c, d, a, p, .strided (s.rd x), false, notOrdered, false⟩
  | .vldX c d a i p => (idxTy s i).map fun t => ⟨true, c, d, a, p, .indexed i.toNat t, false, notOrdered, false⟩
  | .vldff c d a p => some ⟨true, c, d, a, p, .unit, true, fun ty => decide (ty ≤ 1), false⟩
  | .vldseg c d a p f => some ⟨true, c, d, a, p, .seg (f.toNat - 2), false, notOrdered, false⟩
  | .vst c d a p => some ⟨false, c, d, a, p, .unit, true, notOrdered, false⟩
  | .vstS c d a x p => some ⟨false, c, d, a, p, .strided (s.rd x), false, notOrdered, false⟩
  | .vstX c d a i p => (idxTy s i).map fun t => ⟨false, c, d, a, p, .indexed i.toNat t, false, notOrdered, false⟩
  | .vsto c d a p => some ⟨false, c, d, a, p, .unit, false, fun _ => true, true⟩
  | .vstseg c d a p f => some ⟨false, c, d, a, p, .seg (f.toNat - 2), false, notOrdered, false⟩
  | .vstoStrided c d a x p => some ⟨false, c, d, a, p, .strided (s.rd x), false, fun _ => true, true⟩
  | _ => none
/-- An address whose place no store of the word itself can change: its translation is held, or it lies in a window. -/
def Fixed (s : State) (a : Word) : Prop :=
  clusterBase ≤ va55 a ∨ (s.tlbAt (coreOf s.ct.id) s.ct.plot s.ct.aspace (va55 a)).isSome = true
/-- The decode conditions on the mode's operands (R23, R155). -/
def modeOk (s : State) (d : VRegNo) : VMode → Prop
  | .indexed r _ => r % 2 ^ s.ct.g = 0
  | .seg f => d.toNat + f * 2 ^ s.ct.g ≤ 32 ∧ ∀ i, i < f → s.ct.vtype[d.toNat + i * 2 ^ s.ct.g]? = s.ct.vtype[d.toNat]?
  | _ => True
/-- A vector memory word that decodes (R155, R157) with the type t of vd, in its convoy, on a CT whose gang is firm. -/
structure VMemReady (s : State) (x : VMem) (t : Ty) (cv : Convoy) : Prop where
  conv : countConvoy s.ct.conv x.c { mem := true } = some cv
  group : s.grp x.d = true
  ty : s.opT x.d.toNat 1 = some t
  width : x.sub = true ∨ 8 ≤ t.w
  mode : modeOk s x.d x.m
  aligned : vAligned s x.d.toNat t.w x.m (s.rd x.a) (onAt s x.p)
  firm : s.ct.prov = false

/-- The bytes of main memory and of core scratch. -/
abbrev Bytes := Memory × Memory
def bytesOf (s : State) : Bytes := (s.mem, s.sram)
def Bytes.get (m : Bytes) (l : Loc) (n : Nat) : Nat :=
  match l with
  | .phys pa _ => m.1.readN pa n
  | .sram a => m.2.readN a n
  | .hole => 0
  | .image pa _ => m.1.readN pa n
def Bytes.put (m : Bytes) (l : Loc) (n v : Nat) : Bytes :=
  match l with
  | .phys pa _ => (m.1.writeN pa n v, m.2)
  | .sram a => (m.1, m.2.writeN a n v)
  | .hole => m
  | .image pa _ => (m.1.writeN pa n v, m.2)
/-- One element stored: its bytes, or its bits within their byte (R38). -/
def Bytes.putElem (m : Bytes) (l : Loc) (w e v : Nat) : Bytes :=
  if w < 8 then
    let old := m.get l 1
    let sh := 2 ^ (e * w % 8)
    m.put l 1 (old % sh + v % 2 ^ w * sh + old / (sh * 2 ^ w) * (sh * 2 ^ w))
  else m.put l (w / 8) v
/-- One element read (R38). -/
def Bytes.getElem (m : Bytes) (l : Loc) (w e : Nat) : Nat :=
  if w < 8 then m.get l 1 / 2 ^ (e * w % 8) % 2 ^ w else m.get l (w / 8)

/-- The execute stream's word leaves the registers, the predicates, the flags and the package, but for the poison of lines that it has
stored in full (R318); only WAITs may wake. -/
structure SameRegs (s t : State) (cv : Convoy) : Prop where
  sbuf : t.ct.sbuf = s.ct.sbuf ∧ (s.ct.looks = [] → t.ct.looks = [])
  v : t.ct.v = s.ct.v
  p : t.ct.p = s.ct.p
  a : t.ct.a = s.ct.a
  shape : t.ct.vl = s.ct.vl ∧ t.ct.g = s.ct.g ∧ t.ct.vsw = s.ct.vsw ∧ t.ct.vtype = s.ct.vtype
  masks : t.ct.vstart = 0 ∧ t.ct.fmask = s.ct.fmask ∧ t.ct.conv = cv ∧ t.ct.viq = []
  other : t.ct.bins = s.ct.bins ∧ t.ct.mx = s.ct.mx ∧ t.ct.feeds = s.ct.feeds ∧ t.ct.status = s.ct.status
  x : t.ct.ex.x = s.ct.ex.x ∧ t.ct.ac.x = s.ct.ac.x ∧ t.ct.ac.pc = s.ct.ac.pc
  pc : t.ct.ex.pc = s.ct.ex.pc + 4
  pkg : { t.pkg with poison := s.pkg.poison } = s.pkg ∧ t.time = s.time ∧ t.who = s.who

/-- The vector atomics (R251). -/
def vamoOf : Instr → Option (AmoOp × Bool × VRegNo × SReg × VRegNo × PGov)
  | .vamoAdd c d a i p => some (.add, c, d, a, i, p)
  | .vamoSwap c d a i p => some (.swap, c, d, a, i, p)
  | .vamoAnd c d a i p => some (.and, c, d, a, i, p)
  | .vamoOr c d a i p => some (.or, c, d, a, i, p)
  | .vamoXor c d a i p => some (.xor, c, d, a, i, p)
  | .vamoMin c d a i p => some (.min, c, d, a, i, p)
  | .vamoMax c d a i p => some (.max, c, d, a, i, p)
  | _ => none
/-- The new value of a vector atomic of kind t (R245, R251). -/
def amoVal (op : AmoOp) (t : ITag) (old b : Nat) : Nat :=
  let x := intOf t old
  let y := intOf t b
  match op with
  | .add => old + b
  | .swap => b
  | .and => old &&& b
  | .or => old ||| b
  | .xor => old ^^^ b
  | .min => if y < x then b else old
  | .max => if x < y then b else old
  | _ => old
/-- Atomics on the listed elements in turn: the bytes, and the old values (R251). -/
def amoGo (op : AmoOp) (t : ITag) (b : Nat → Nat) (at_ : Nat → Loc) : List Nat → Bytes → Bytes × List (Nat × Nat)
  | [], m => (m, [])
  | e :: es, m =>
    let old := m.get (at_ e) (t.w / 8)
    let r := amoGo op t b at_ es (m.put (at_ e) (t.w / 8) (amoVal op t old (b e) % 2 ^ t.w))
    (r.1, (e, old) :: r.2)

end Sys2Proof.Stmt

open Sys2Proof Sys2Proof.Machine Sys2Proof.Stmt

/-! ### Vector words -/

/-- The vector file (R38, R64, R108): an element written reads back, no other element, register or bit changes. -/
def Obligations.VectorFileLaws : Prop :=
  ∀ (c : Ct) (w k n : Nat), (c.lg = 1 ∨ c.lg = 2 ∨ c.lg = 4 ∨ c.lg = 8) → w = 2 ^ k → 1 ≤ k → k ≤ 7 →
    (∀ d e x, d + n ≤ 32 → e * w < c.vlen * n →
      Elements c (c.vset d w e x) [d] n w (fun i => decide (i = e)) (fun _ _ => x)) ∧
    (∀ pd e b, pd < 128 → e < predBits → PBits c (c.psetBit pd e b) pd (fun i => decide (i = e)) (fun _ => b)) ∧
    (∀ e, c.pbit 0 e = true)

/-- Integer element results (R76, R77, R79, R80, R86) of the two-source forms, for operands of one kind: exact arithmetic, wrapped or
saturated; division corners; shifts modulo the width; VNSHR's rounding shift (R48).
What an element of each type computes: a two-source, a one-source word, VCMP, VCLASS and VIOTA take the integer operations on integer
tags and the floating operations of R78 to R89 on the floating ones. -/
def Obligations.IntegerElementResults : Prop :=
  (∀ (t : ITag) (a b c : Nat), t.w = 2 ∨ t.w = 4 ∨ t.w = 8 ∨ t.w = 16 ∨ t.w = 32 ∨ t.w = 64 → a < 2 ^ t.w → b < 2 ^ t.w → c < 2 ^ t.w →
    let x := intOf t a
    let y := intOf t b
    let z := intOf t c
    let lo : Int := if t.signed then -2 ^ (t.w - 1) else 0
    let hi : Int := if t.signed then 2 ^ (t.w - 1) - 1 else 2 ^ t.w - 1
    let r := fun op => (intBin op 0 t t t a b c).1
    let wraps := fun op (v : Int) => r op < 2 ^ t.w ∧ (2 ^ t.w : Int) ∣ intOf t (r op) - v ∧ lo ≤ intOf t (r op) ∧ intOf t (r op) ≤ hi
    let sat := fun op (v : Int) => intOf t (r op) = max lo (min hi v) ∧ ((intBin op 0 t t t a b c).2.sat = true ↔ v < lo ∨ hi < v)
    wraps .add (x + y) ∧ wraps .sub (x - y) ∧ wraps .mul (x * y) ∧ wraps .fma (x * y + z) ∧ wraps .fms (x * y - z) ∧
    wraps .fnma (z - x * y) ∧ wraps .mulh (x * y / 2 ^ t.w) ∧
    sat .addSat (x + y) ∧ sat .subSat (x - y) ∧
    (y = 0 → r .div = 2 ^ t.w - 1 ∧ intOf t (r .rem) = x) ∧
    (y ≠ 0 → wraps .div (x.tdiv y) ∧ wraps .rem (x.tmod y)) ∧
    intOf t (r .min) = min x y ∧ intOf t (r .max) = max x y ∧ intOf t (r .clamp) = min (max z x) y ∧
    r .and = a &&& b ∧ r .or = a ||| b ∧ r .xor = a ^^^ b ∧ r .andn = a &&& (2 ^ t.w - 1 - b) ∧
    r .shl = a * 2 ^ (b % t.w) % 2 ^ t.w ∧ r .shr = a / 2 ^ (b % t.w) ∧
    intOf ⟨t.w, true⟩ (r .sha) = intOf ⟨t.w, true⟩ a / 2 ^ (b % t.w)) ∧
  -- the rounding shift, and its saturation
  (∀ (x : ℤ) (d m : Nat), d ≤ 63 → m < 4 →
    let q := x / 2 ^ d
    let h := x % 2 ^ d
    roundFixed m x d = if d = 0 then x else match m with
      | 0 => if 2 ^ d ≤ 2 * h then q + 1 else q
      | 1 => if h ≠ 0 ∧ q % 2 = 0 then q + 1 else q
      | 2 => q
      | _ => if 2 ^ d < 2 * h ∨ (2 * h = 2 ^ d ∧ q % 2 = 1) then q + 1 else q) ∧
  (∀ (t u v : ITag) m a b c, (intBin .nshr m t u v a b c) =
    ((satInt t (roundFixed m (intOf u a) (b % 2 ^ v.w % 64))).1, { sat := (satInt t (roundFixed m (intOf u a) (b % 2 ^ v.w % 64))).2 })) ∧
  -- two-source words
  (∀ op (t u v : ITag) bt bu bv rm m r a b c, elemBin op (.int bt t) (.int bu u) (.int bv v) rm m r a b c = intBin op m t u v a b c) ∧
  (∀ (f fa fb : Fmt) bt ba bb w wa wb rm m r a b c,
    let e := fun op => elemBin op (.fp bt f w) (.fp ba fa wa) (.fp bb fb wb) rm m r a b c
    let x := decodeVal fa a
    let y := decodeVal fb b
    let z := decodeVal f c
    e .add = fpAdd f rm r x y ∧ e .sub = fpSub f rm r x y ∧ e .mul = fpMul f rm r x y ∧ e .div = fpDiv f rm r x y ∧
    e .min = fpMinMax false f rm r x y ∧ e .max = fpMinMax true f rm r x y ∧ e .fma = fpFma f rm r x y z ∧
    e .fms = fpFma f rm r x y z.negate ∧ e .fnma = fpFma f rm r x.negate y z ∧
    -- the smaller of the larger of z and x, and y
    (IsNumber x → IsNumber y → IsNumber z → f.s ≤ 1 →
      Rounds f rm r (min (max (realOf z) (realOf x)) (realOf y)) ((z.neg && x.neg) || y.neg) (e .clamp)) ∧
    (x.isNan = true → z.isNan = false → y.isNan = false →
      e .clamp = ((fpMinMax false f rm r z y).1, (fpMinMax false f rm r z y).2.or { nv := x.isSnan })) ∧
    (z.isNan = true → x.isNan = false → y.isNan = false →
      e .clamp = ((fpMinMax false f rm r x y).1, (fpMinMax false f rm r x y).2.or { nv := z.isSnan })) ∧
    (y.isNan = true → x.isNan = false → z.isNan = false →
      e .clamp = ((fpMinMax true f rm r z x).1, (fpMinMax true f rm r z x).2.or { nv := y.isSnan })) ∧
    (x.isNan = true → y.isNan = true → z.isNan = true → e .clamp = nanAs f (x.isSnan || y.isSnan || z.isSnan))) ∧
  -- one-source words
  (∀ (t u : ITag) bt bu rm r a, a < 2 ^ t.w → t.w = 2 ∨ t.w = 4 ∨ t.w = 8 ∨ t.w = 16 ∨ t.w = 32 ∨ t.w = 64 →
    (elemUn .abs (.int bt t) (.int bt t) rm r a).1 < 2 ^ t.w ∧ (elemUn .abs (.int bt t) (.int bt t) rm r a).2 = {} ∧
    ((2 ^ t.w : ℤ) ∣ intOf t (elemUn .abs (.int bt t) (.int bt t) rm r a).1 - |intOf t a|) ∧
    (elemUn .neg (.int bt t) (.int bt t) rm r a) = ((2 ^ t.w - a) % 2 ^ t.w, {}) ∧
    (elemUn .ncvt (.int bu u) (.int bt t) rm r a) = ((satInt u (intOf t a)).1, { sat := (satInt u (intOf t a)).2 })) ∧
  (∀ (f : Fmt) b w rm r a, let t := Ty.fp b f w
    elemUn .abs t t rm r a = fpSign false f a ∧ elemUn .neg t t rm r a = fpSign true f a ∧
    elemUn .sqrt t t rm r a = fpSqrt f rm r (decodeVal f a) ∧ elemUn .rcp t t rm r a = fpRcp f rm r (decodeVal f a) ∧
    elemUn .rsq t t rm r a = fpRsq f rm r (decodeVal f a) ∧ elemUn .exp2 t t rm r a = fpExp2 f rm r (decodeVal f a) ∧
    elemUn .log2 t t rm r a = fpLog2 f rm r (decodeVal f a)) ∧
  (∀ (td ta : Ty) rm r a, elemUn .cvt td ta rm r a = vcvtElem false ta td rm r a ∧ elemUn .cvtSat td ta rm r a = vcvtElem true ta td rm r a) ∧
  (∀ sat (t : ITag) b td rm r a, vcvtElem sat (.int b t) td rm r a = convertValue sat (.int b t) td rm r a) ∧
  (∀ sat (t : ITag) b c f w rm r a, sameTag c b = false →
    vcvtElem sat (.fp c f w) (.int b t) rm r a = convertValue sat (.fp c f w) (.int b t) rm r a) ∧
  -- comparisons
  (∀ k (t u : ITag) b c x y, (elemCmp k (.int b t) (.int c u) x y).2 = {} ∧ ((elemCmp k (.int b t) (.int c u) x y).1 = true ↔ match k with
    | .eq => intOf t x = intOf u y | .ne => intOf t x ≠ intOf u y | .lt => intOf t x < intOf u y | .le => intOf t x ≤ intOf u y
    | .gt => intOf u y < intOf t x | .ge => intOf u y ≤ intOf t x | .un => False)) ∧
  (∀ k (f g : Fmt) b c w v x y, elemCmp k (.fp b f w) (.fp c g v) x y = fpCmp k (decodeVal f x) (decodeVal g y)) ∧
  -- classes
  (∀ (f : Fmt) x k, 1 ≤ f.e → f.s ≤ 1 → x < 2 ^ f.width → k < 16 →
    let v := decodeVal f x
    let small := |realOf v| < (2 : ℝ) ^ (1 - (f.bias : ℤ))
    let other := IsNumber v ∧ v.isZero = false
    (fpClass k f x = true ↔ match k with
      | 0 => v.isZero = true ∧ v.neg = false
      | 1 => v.isZero = true ∧ v.neg = true
      | 2 => other ∧ small ∧ v.neg = false
      | 3 => other ∧ small ∧ v.neg = true
      | 4 => other ∧ ¬small ∧ v.neg = false
      | 5 => other ∧ ¬small ∧ v.neg = true
      | 6 => v = .inf false
      | 7 => v = .inf true
      | 8 => v = .nan false
      | 9 => v = .nan true
      | 10 => v.isNan = true
      | 11 => v.isInf = true
      | 12 => v.isZero = true
      | 13 => other ∧ small
      | 14 => IsNumber v
      | _ => other)) ∧
  -- indices
  (∀ (t : ITag) b rm r (x : ℤ), (iotaElem (.int b t) rm r x).1 < 2 ^ t.w ∧ (iotaElem (.int b t) rm r x).2 = {} ∧
    (t.w = 2 ∨ t.w = 4 ∨ t.w = 8 ∨ t.w = 16 ∨ t.w = 32 ∨ t.w = 64 → (2 ^ t.w : ℤ) ∣ intOf t (iotaElem (.int b t) rm r x).1 - x)) ∧
  (∀ (f : Fmt) b w rm r (x : ℤ), f.s ≤ 1 → Rounds f rm r (x : ℝ) false (iotaElem (.fp b f w) rm r x))

/-- Two-source elementwise words on unframed operands (R67, R68, R73 to R80, R394): the elements that compute take the operation's
value, the three-operand forms read vd; the other forms write the promoted tag; flags are ORed, vstart becomes 0.
Behind posted words, or while the vector side lags (R24, R52, R68, R69, R394), such a word is posted with what it captures at decode:
vl, group, rounding and seed registers, its scalar, its address; vstart where it is the oldest posted, else 0; and when it comes to run it
computes from what it captured. -/
def Obligations.TwoSourceVectorWords : Prop :=
  (∀ i op c d a b p (s : State) ta tb rt cv, s.who = .exec → s.ct.blk = none → s.ct.hold = true → s.ct.vown = true →
    s.ct.viq.length < 256 → s.ct.viq.any Ventry.fixes = false → binOf i = some (op, c, d, a, b, p) →
    countConvoy s.ct.conv c {} = some cv → s.grp d = true → s.grp a = true → s.grpB b = true →
    s.opT a.toNat 1 = some ta → s.bTy b ta = some tb → ta.isFramed = false → tb.isFramed = false →
    (op.intOnly = true → ta.isInt = true ∧ tb.isInt = true) →
    (op.threeOp = false → promote ta tb = some rt ∧ s.fits rt.w 1 = true) →
    (op.threeOp = true → s.opT d.toNat 1 = some rt ∧ sameTag rt.byte ta.byte = true ∧ sameTag tb.byte ta.byte = true) →
    exec i s = .next (vconf s cv { s.ct with
      viq := s.ct.viq ++ [{
        op := .bin op false d.toNat rt a.toNat ta (match b with | .v r => .vec r.toNat | .x r => .sc ((s.rd r).toNat % 2 ^ tb.w)) tb,
        word := s.ir, pc := s.ct.ex.pc, members := none, vl := s.ct.vl, vstart := if s.ct.idle then s.ct.vstart else 0, g := s.ct.g,
        rm := rmAt s, xrm := s.ct.a.vround, key := s.ct.a.vseed, srn := s.ct.a.vsrn.toNat, sbase := s.ct.a.sbase,
        pg := some p.toNat, masked := false, popped := [], fl := {}, wmb := s.ct.wmb, floor := s.ct.floors.post,
        frames := s.ct.frE, wrote := [] }],
      vstart := if s.ct.idle then 0 else s.ct.vstart,
      vtype := if op.threeOp then s.ct.vtype else retag s.ct.vtype d.toNat (2 ^ s.ct.g) rt.byte })) ∧
  (∀ (s : State) (x : Ventry) rest op d rt a ta b tb p, s.ct.viq = x :: rest → x.op = .bin op false d rt a ta b tb → NoFeeds s →
    (s.ct.lg = 1 ∨ s.ct.lg = 2 ∨ s.ct.lg = 4 ∨ s.ct.lg = 8) → x.vl ≤ s.ct.vlen / 2 → x.vl * rt.w ≤ s.ct.vlen * 2 ^ x.g → x.g ≤ 3 →
    d + 2 ^ x.g ≤ 32 → x.members = none → x.masked = false → x.pg = some p → x.popped = [] → s.pkg.reqs = [] →
    (∃ k, 1 ≤ k ∧ k ≤ 6 ∧ rt.w = 2 ^ k) →
    let on := fun e => decide (x.vstart ≤ e) && decide (e < x.vl) && s.ct.pbit p e
    let val := fun e => elemBin op rt ta tb x.rm x.xrm (cmx x.key (x.sbase + BitVec.ofNat 64 e) x.srn) (s.ct.vget a ta.w e)
      (match b with | .vec r => s.ct.vget r tb.w e | .sc v => v) (s.ct.vget d rt.w e)
    ∃ v, runHead s = ({ s with ct := { s.ct with
        v := v, viq := rest, vstart := 0, a := s.ct.a.flag (x.fl.or (flagsOf ((List.range x.vl).filter on) fun e => (val e).2)) } }, true) ∧
      Elements s.ct { s.ct with v := v } [d] (2 ^ x.g) rt.w on fun _ e => (val e).1) ∧
  ∀ i op c d a b p (s : State) ta tb rt cv, binOf i = some (op, c, d, a, b, p) → VReady s → NoFeeds s →
    countConvoy s.ct.conv c {} = some cv → s.grp d = true → s.grp a = true → s.grpB b = true →
    s.opT a.toNat 1 = some ta → s.bTy b ta = some tb → ta.isFramed = false → tb.isFramed = false →
    (op.intOnly = true → ta.isInt = true ∧ tb.isInt = true) →
    (op.threeOp = false → promote ta tb = some rt ∧ s.fits rt.w 1 = true) →
    (op.threeOp = true → s.opT d.toNat 1 = some rt ∧ sameTag rt.byte ta.byte = true ∧ sameTag tb.byte ta.byte = true) →
    let val := fun e => elemBin op rt ta tb (rmAt s) s.ct.a.vround (rndAt s e) (s.ct.vget a.toNat ta.w e) (src2 s b tb.w e)
      (s.ct.vget d.toNat rt.w e)
    ∃ v, exec i s = .next (vdone s cv { s.ct with
        v := v, vtype := if op.threeOp then s.ct.vtype else retag s.ct.vtype d.toNat (2 ^ s.ct.g) rt.byte }
        (flagsOf (ons s (onAt s p)) fun e => (val e).2)) ∧
      Elements s.ct { s.ct with v := v } [d.toNat] (2 ^ s.ct.g) rt.w (onAt s p) fun _ e => (val e).1

/-- Widening and narrowing words (R86): two groups on the wide side, vd's own tag, no tag written. -/
def Obligations.WideningWords : Prop :=
  (∀ i op c d a b p (s : State) ta tb td cv, widenOf i = some (op, c, d, a, b, p) → VReady s → NoFeeds s →
    countConvoy s.ct.conv c {} = some cv → s.grp2 d = true → s.grp a = true → s.grpB b = true →
    s.opT a.toNat 1 = some ta → s.opT d.toNat 2 = some td → s.bTy b ta = some tb → sameTag ta.byte tb.byte = true →
    widenOk ta.code td.code = true →
    let val := fun e => elemBin op td ta tb (rmAt s) s.ct.a.vround (rndAt s e) (s.ct.vget a.toNat ta.w e) (src2 s b tb.w e)
      (s.ct.vget d.toNat td.w e)
    ∃ v, exec i s = .next (vdone s cv { s.ct with v := v } (flagsOf (ons s (onAt s p)) fun e => (val e).2)) ∧
      Elements s.ct { s.ct with v := v } [d.toNat] (2 ^ (s.ct.g + 1)) td.w (onAt s p) fun _ e => (val e).1) ∧
  (∀ i c d a b p (s : State) ta tb td cv, nshrOf i = some (c, d, a, b, p) → VReady s → NoFeeds s →
    countConvoy s.ct.conv c {} = some cv → s.grp d = true → s.grp2 a = true → s.grpB b = true →
    s.opT a.toNat 2 = some ta → s.opT d.toNat 1 = some td → s.bTy b td = some tb → narrowOk td.code ta.code = true →
    tb.isInt = true → tb.w = td.w →
    let val := fun e => elemBin .nshr td ta tb (rmAt s) s.ct.a.vround (rndAt s e) (s.ct.vget a.toNat ta.w e) (src2 s b tb.w e)
      (s.ct.vget d.toNat td.w e)
    ∃ v, exec i s = .next (vdone s cv { s.ct with v := v } (flagsOf (ons s (onAt s p)) fun e => (val e).2)) ∧
      Elements s.ct { s.ct with v := v } [d.toNat] (2 ^ s.ct.g) td.w (onAt s p) fun _ e => (val e).1)

/-- One-source words and conversions (R81, R85 to R87). -/
def Obligations.OneSourceVectorWords : Prop :=
  (∀ i op c d a p (s : State) ta cv, unOf i = some (op, c, d, a, p) → VReady s → NoFeeds s →
    countConvoy s.ct.conv c {} = some cv → s.grp d = true → s.grp a = true → s.opT a.toNat 1 = some ta → ta.isFramed = false →
    (special op = true → ta.isFp = true ∧ ta.code ≠ 16) →
    let val := fun e => elemUn op ta ta (rmAt s) (rndAt s e) (s.ct.vget a.toNat ta.w e)
    ∃ v, exec i s = .next (vdone s cv { s.ct with v := v, vtype := retag s.ct.vtype d.toNat (2 ^ s.ct.g) ta.byte }
        (flagsOf (ons s (onAt s p)) fun e => (val e).2)) ∧
      Elements s.ct { s.ct with v := v } [d.toNat] (2 ^ s.ct.g) ta.w (onAt s p) fun _ e => (val e).1) ∧
  (∀ i op c d a p (s : State) ta td cv, cvtOf i = some (op, c, d, a, p) → VReady s → NoFeeds s →
    countConvoy s.ct.conv c {} = some cv → s.grp d = true →
    (if op = .ncvt then s.grp2 a = true ∧ s.opT a.toNat 2 = some ta ∧ narrowOk td.code ta.code = true
     else s.grp a = true ∧ s.opT a.toNat 1 = some ta ∧ ta.isFramed = false ∧ td.isFramed = false) →
    s.opT d.toNat 1 = some td →
    let val := fun e => elemUn op td ta (rmAt s) (rndAt s e) (s.ct.vget a.toNat ta.w e)
    ∃ v, exec i s = .next (vdone s cv { s.ct with v := v } (flagsOf (ons s (onAt s p)) fun e => (val e).2)) ∧
      Elements s.ct { s.ct with v := v } [d.toNat] (2 ^ s.ct.g) td.w (onAt s p) fun _ e => (val e).1)

/-- VMOV, VSEL, VSPLAT and VIOTA (R82, R84); framed VNEG (R81). -/
def Obligations.MoveAndSelectWords : Prop :=
  ∀ (s : State) cv (c : Bool) (d : VRegNo) (p : PGov), VReady s → NoFeeds s → countConvoy s.ct.conv c {} = some cv → s.grp d = true →
    (∀ a ta, s.grp a = true → s.opT a.toNat 1 = some ta →
      ∃ v, exec (.vmov c d a p) s = .next (vdone s cv { s.ct with
          v := v, vtype := retag s.ct.vtype d.toNat (2 ^ s.ct.g) ta.byte } {}) ∧
        Elements s.ct { s.ct with v := v } [d.toNat] (2 ^ s.ct.g) ta.w (onAt s p) fun _ e => s.ct.vget a.toNat ta.w e) ∧
    (∀ i a b ta tb, (∃ r, b = .v r ∧ i = .vselVv c d a r p) ∨ (∃ r, b = .x r ∧ i = .vselVx c d a r p ∧ ta.w ≤ 64) →
      s.grp a = true → s.grpB b = true → s.opT a.toNat 1 = some ta → s.bTy b ta = some tb → sameTag ta.byte tb.byte = true →
      ∃ v, exec i s = .next (vdone s cv { s.ct with
          v := v, vtype := retag s.ct.vtype d.toNat (2 ^ s.ct.g) ta.byte } {}) ∧
        Elements s.ct { s.ct with v := v } [d.toNat] (2 ^ s.ct.g) ta.w (allAt s) fun _ e =>
          if s.ct.pbit p.toNat e then s.ct.vget a.toNat ta.w e else src2 s b ta.w e) ∧
    (∀ b td, s.opT d.toNat 1 = some td → td.w ≤ 64 →
      ∃ v, exec (.vsplat c d b p) s = .next (vdone s cv { s.ct with v := v } {}) ∧
        Elements s.ct { s.ct with v := v } [d.toNat] (2 ^ s.ct.g) td.w (onAt s p) fun _ _ => (s.rd b).toNat) ∧
    (∀ im j td, s.opT d.toNat 1 = some td → td.isFramed = false →
      let val := fun e => iotaElem td (rmAt s) (rndAt s e) (im.toInt + j.toInt * (e : Int))
      ∃ v, exec (.viota c d p im j) s = .next (vdone s cv { s.ct with v := v } (flagsOf (ons s (onAt s p)) fun e => (val e).2)) ∧
        Elements s.ct { s.ct with v := v } [d.toNat] (2 ^ s.ct.g) td.w (onAt s p) fun _ e => (val e).1) ∧
    (∀ a, s.grp a = true → s.opT a.toNat 1 = some .fdisp →
      ∃ v, exec (.vneg c d a p) s = .next (vdone s cv { s.ct with
          v := v, vtype := retag s.ct.vtype d.toNat (2 ^ s.ct.g) 0x90 } {}) ∧
        Elements s.ct { s.ct with v := v } [d.toNat] (2 ^ s.ct.g) 128 (onAt s p) fun _ e =>
          mkFramed ((comps (s.ct.vget a.toNat 128 e)).map fun x => (fpSign true fmtF32 x).1) (ftag (s.ct.vget a.toNat 128 e)))

/-- Comparisons, classification and predicate words (R88, R89, R108 to R112): bits where elements compute, p0 discards; PSET writes
every position; PCNT, PFIRST and PLAST return their scalar. -/
def Obligations.ComparisonAndPredicateWords : Prop :=
  ∀ (s : State) cv, VReady s → NoFeeds s →
    (∀ i op c d a b p ta tb, cmpOf i = some (op, c, d, a, b, p) → countConvoy s.ct.conv c {} = some cv → s.grp a = true → s.grp b = true →
      s.opT a.toNat 1 = some ta → s.opT b.toNat 1 = some tb → ta.isFramed = false → tb.isFramed = false →
      (promote ta tb).isSome = true → (op = .un → ta.isInt = false) →
      let val := fun e => elemCmp op ta tb (s.ct.vget a.toNat ta.w e) (s.ct.vget b.toNat tb.w e)
      ∃ q, exec i s = .next (vdone s cv { s.ct with p := q } (flagsOf (ons s (onAt s p)) fun e => (val e).2)) ∧
        PBits s.ct { s.ct with p := q } d.toNat (onAt s p) fun e => (val e).1) ∧
    (∀ c d a k p b f w, countConvoy s.ct.conv c {} = some cv → s.grp a = true → s.opT a.toNat 1 = some (.fp b f w) →
      ∃ q, exec (.vclass c d a k p) s = .next (vdone s cv { s.ct with p := q } {}) ∧
        PBits s.ct { s.ct with p := q } d.toNat (onAt s p) fun e => fpClass k.toNat f (s.ct.vget a.toNat w e)) ∧
    (countConvoy s.ct.conv false {} = some cv →
      (∀ i d f, predOf s i = some (d, f) →
        ∃ q, exec i s = .next (vdone s cv { s.ct with p := q } {}) ∧ PBits s.ct { s.ct with p := q } d.toNat (allAt s) f) ∧
      (∀ d im, ∃ q, exec (.pset d im) s = .next (vdone s cv { s.ct with p := q } {}) ∧
        PBits s.ct { s.ct with p := q } d.toNat (fun _ => true) fun e => decide (e < s.ct.vlen / 2) && im.getLsbD 0) ∧
      (∀ d a, let es := ons s (allAt s) |>.filter (s.ct.pbit a.toNat)
        exec (.pcnt d a) s = .next (vdone s cv (scalarTo s.ct d (BitVec.ofNat 64 es.length)) {}) ∧
        exec (.pfirst d a) s = .next (vdone s cv (scalarTo s.ct d ((es.head?.map (BitVec.ofNat 64)).getD (-1))) {}) ∧
        exec (.plast d a) s = .next (vdone s cv (scalarTo s.ct d ((es.getLast?.map (BitVec.ofNat 64)).getD (-1))) {})))

/-- Words that return a scalar from vectors (R55, R83, R180 to R183): VEXT, the reductions in their tree order, VSCAN, VSOFTMAX. A
VSCAN of no computing element writes its scalar back as it stands (the model's choice, log 71), and VSOFTMAX tags the whole group of
vd (its reading, log 81). -/
def Obligations.ScalarsFromVectors : Prop :=
  ∀ (s : State) cv (c : Bool), VReady s → NoFeeds s →
    (∀ a b ta, countConvoy s.ct.conv c {} = some cv → s.grp a = true → s.opT a.toNat 1 = some ta → ta.w ≤ 64 →
      exec (.vext c a b) s = .next (vdone s cv (scalarTo s.ct b
        (if (s.rd b).toNat < s.ct.vl then extendElem ta (s.ct.vget a.toNat ta.w (s.rd b).toNat) else 0)) {})) ∧
    (countConvoy s.ct.conv c { ring := true } = some cv →
      (∀ i op a b p ta, redOf i = some (op, c, a, b, p) → s.grp a = true → s.opT a.toNat 1 = some ta → ta.isFramed = false →
        -- the tree's value; a NaN that met no partner is written as the canonical one too (R41)
        let r := treeFold (redOp op ta (rmAt s)) (presented s p a.toNat ta.w)
        let y : Nat × Fl := match r.1, ta with
          | some v, .fp _ f _ => if (decodeVal f v).isNan then (f.nanBits, r.2.or { nv := (decodeVal f v).isSnan }) else (v % 2 ^ f.width, r.2)
          | some v, _ => (v, r.2)
          | none, _ => (0, {})
        exec i s = .next (vdone s cv (scalarTo s.ct b (extendElem ta y.1)) y.2)) ∧
      (∀ d a b p ta, s.grp d = true → s.grp a = true → s.opT a.toNat 1 = some ta → ta.isFramed = false →
        -- the running sums, with their flags, in element order
        let sums := (ons s (zeroAt s p)).foldl (fun (l : List (Nat × Nat) × Nat × Fl) e =>
          let r := redOp .sum ta (rmAt s) l.2.1 (s.ct.vget a.toNat ta.w e)
          (l.1 ++ [(e, r.1)], r.1, l.2.2.or r.2)) ([], (s.rd b).toNat % 2 ^ ta.w, {})
        ∃ v, exec (.vscan c d a b p) s = .next (vdone s cv (scalarTo { s.ct with
            v := v, vtype := retag s.ct.vtype d.toNat (2 ^ s.ct.g) ta.byte } b (extendElem ta sums.2.1)) sums.2.2) ∧
          Elements s.ct { s.ct with v := v } [d.toNat] (2 ^ s.ct.g) ta.w (zeroAt s p) fun _ e =>
            ((sums.1.find? fun x => x.1 = e).map (·.2)).getD 0) ∧
      (∀ d a b p ta td, s.grp d = true → s.grp a = true → s.opT a.toNat 1 = some ta → s.opT d.toNat 1 = some td → ta.code = 15 →
        td.code = 15 → ons s (zeroAt s p) = [] →
        exec (.vsoftmax c d a b p) s = .next (vdone s cv (scalarTo { s.ct with
          vtype := retag s.ct.vtype d.toNat (2 ^ s.ct.g) td.byte } (b + 2) 0x3F800000) {})) ∧
      (∀ d a b p ta td, s.grp d = true → s.grp a = true → s.opT a.toNat 1 = some ta → s.opT d.toNat 1 = some td → ta.code = 15 →
        td.code = 15 → ons s (zeroAt s p) ≠ [] →
        let f32 := decodeVal fmtF32
        let m0 := f32 ((s.rd b).toNat % 2 ^ 32)
        ∃ v m k sum fl, exec (.vsoftmax c d a b p) s = .next (vdone s cv
            (scalarTo (scalarTo (scalarTo { s.ct with v := v, vtype := retag s.ct.vtype d.toNat (2 ^ s.ct.g) td.byte } b
              (BitVec.ofNat 64 m)) (b + 1) (BitVec.ofNat 64 sum)) (b + 2) (BitVec.ofNat 64 k)) fl) ∧
          m = (fpMinMax true fmtF32 .rne 0 m0 (f32 ((treeFold (redOp .max ta (rmAt s)) (presented s p a.toNat 32)).1.getD 0))).1 ∧
          k = (if !m0.isNan && !(f32 m).isNan && fvEq m0 (f32 m) then 0x3F800000
            else (fpExp2 fmtF32 .rne 0 (subExact m0 (f32 m)).1).1) ∧
          sum = (fpFma fmtF32 (reductionMode (rmAt s)) 0 (f32 ((s.rd (b + 1)).toNat % 2 ^ 32)) (f32 k)
            (f32 ((treeFold (redOp .sum ta (rmAt s)) ((List.range s.ct.vl).map fun e =>
              if zeroAt s p e then some (Ct.vget { s.ct with v := v } d.toNat 32 e) else none)).1.getD 0))).1 ∧
          Elements s.ct { s.ct with v := v } [d.toNat] (2 ^ s.ct.g) 32 (zeroAt s p) fun _ e =>
            (fpExp2 fmtF32 (reductionMode (rmAt s)) 0 (subExact (f32 (s.ct.vget a.toNat 32 e)) (f32 m)).1).1))

/-- Vector loads (R155 to R157, R230) whose accesses all reach memory: each computing element takes its bytes, sub-byte elements their
bits; nothing else changes.
What a read of the vector side gives (R158): the bytes as they stand; its own delayed store where there is one; or, where the read takes
an earlier moment (the model's form of R323, log 86), the bytes of that moment, which is no older than the word's floor and than the
side's last access of those bytes. -/
def Obligations.VectorLoads : Prop :=
  (∀ i x t (s : State) cv (at_ : Nat → Word → Loc), vmemOf s i = some x → x.load = true → VReady s → Calm s → NoFeeds s →
    VMemReady s x t cv →
    (∀ e, onAt s x.p e = true → ∀ q ∈ accAt s x.d.toNat t.w x.m (s.rd x.a) e,
      Reaches s (max 1 (t.w / 8)) .load x.ok q.2 (at_ q.1 q.2)) →
    ∃ v c, noted { s.ct with v := v } c ∧ exec i s = .next (vdone s cv c {}) ∧
      Elements s.ct { s.ct with v := v } (groupsOf s x.d.toNat x.m) (2 ^ s.ct.g) t.w (onAt s x.p) fun r e =>
        match (accAt s x.d.toNat t.w x.m (s.rd x.a) e).find? (fun q => q.1 = r) with
        | some q => (bytesOf s).getElem (at_ r q.2) t.w e
        | none => 0) ∧
  (∀ (s : State) floor l n key, s.beyond s.ct.via l n .load = none →
    ((∀ e ∈ s.ct.sbuf, onSide .vec l n e = false) → s.ct.early = [] →
      (s.vread floor l n key).1 = s.peek s.ct.via l n ∧ (s.ct.looks = [] → (s.vread floor l n key).2 = s)) ∧
    (∀ es x, s.ct.sbuf = es ++ [entry s .vec false l n x] → l ≠ .hole → s.ct.via.prov = false → s.ct.early = [] →
      (s.vread floor l n key).1 = x % 2 ^ (8 * n)) ∧
    (∀ i rest k, (∀ e ∈ s.ct.sbuf, onSide .vec l n e = false) → s.ct.early = some i :: rest → s.ct.looks[i]? = some k → k.side = .vec →
      (floor ≤ k.time → k.open l n = true → (s.vread floor l n key).1 =
        ({ s with mem := k.mem, sram := k.sram, pkg := { s.pkg with prov := k.prov } } : State).peek s.ct.via l n) ∧
      (k.time < floor ∨ k.open l n = false → (s.vread floor l n key).1 = s.peek s.ct.via l n)))

/-- Vector stores (R155 to R157, R160, R162) whose accesses all reach memory: the elements' bytes in rising order, and nothing else.
Where the CT's stores are delayed (the model's form of R323, log 86) no byte changes, and the elements stand in rising order among those
still to be performed; VSTO's are performed at once (R162).
PLD and PST (R113): bit e of the predicate is bit e modulo 8 of the byte at base + e / 8. -/
def Obligations.VectorStores : Prop :=
  (∀ i x t (s : State) cv (at_ : Nat → Word → Loc), vmemOf s i = some x → x.load = false → x.seq = false → VReady s → NoFeeds s →
    VMemReady s x t cv → 8 ≤ t.w →
    (∀ e, onAt s x.p e = true → ∀ q ∈ accAt s x.d.toNat t.w x.m (s.rd x.a) e,
      Reaches s (t.w / 8) .store x.ok q.2 (at_ q.1 q.2) ∧ s.delays (at_ q.1 q.2) = true) →
    let put := (ons s (onAt s x.p)).flatMap fun e => (accAt s x.d.toNat t.w x.m (s.rd x.a) e).map fun q => (at_ q.1 q.2, s.ct.vget q.1 t.w e)
    ∃ u, exec i s = .next u ∧ SameRegs s { u with ct := { u.ct with sbuf := s.ct.sbuf } } cv ∧ bytesOf u = bytesOf s ∧
      u.ct.sbuf = s.ct.sbuf ++ put.mapIdx fun j y => ⟨.vec, s.ct.sbn + j, false, none, y.1, t.w / 8, none, y.2⟩) ∧
  (∀ i x t (s : State) cv (at_ : Nat → Word → Loc), vmemOf s i = some x → x.load = false → VReady s → Calm s →
    (s.ct.lag = false ∨ x.seq = true) → NoFeeds s → VMemReady s x t cv →
    (∀ e, onAt s x.p e = true → ∀ q ∈ accAt s x.d.toNat t.w x.m (s.rd x.a) e,
      Reaches s (max 1 (t.w / 8)) .store x.ok q.2 (at_ q.1 q.2) ∧ (x.seq = true → Fixed s q.2)) →
    ∃ u, exec i s = .next u ∧ SameRegs s u cv ∧
      bytesOf u = (ons s (onAt s x.p)).foldl (fun m e => (accAt s x.d.toNat t.w x.m (s.rd x.a) e).foldl
        (fun m q => m.putElem (at_ q.1 q.2) t.w e (s.ct.vget q.1 t.w e)) m) (bytesOf s)) ∧
  (∀ (a : SReg) (d : PRegNo) (s : State) cv (at_ : Word → Loc), VReady s → Calm s → NoFeeds s → s.ct.prov = false →
    countConvoy s.ct.conv false { mem := true } = some cv →
    let byte := fun e => s.rd a + BitVec.ofNat 64 (e / 8)
    ((∀ e, allAt s e = true → Reaches s 1 .load notOrdered (byte e) (at_ (byte e))) →
      ∃ q c', noted { s.ct with p := q } c' ∧ exec (.pld d a) s = .next (vdone s cv c' {}) ∧
        PBits s.ct { s.ct with p := q } d.toNat (allAt s) fun e => ((bytesOf s).get (at_ (byte e)) 1).testBit (e % 8)) ∧
    (s.ct.lag = false → (∀ e, allAt s e = true → Reaches s 1 .store notOrdered (byte e) (at_ (byte e))) →
      ∃ u, exec (.pst a d) s = .next u ∧ SameRegs s u cv ∧
        bytesOf u = (ons s (allAt s)).foldl (fun m e => m.putElem (at_ (byte e)) 1 e (if s.ct.pbit d.toNat e then 1 else 0)) (bytesOf s)))

/-- Faults of the vector loads and stores in every mode (R160, R217, R229), ECC faults and what they log left out: every element that
faults sets its fmask bit, every other one is performed, the CT stops at the word with the lowest faulting element's address and cause,
and the word stays posted for reissue under fmask; VLDFF does the same when the first computing element faults.
VLDFF otherwise (R161): vl becomes the index of the lowest faulting element, those below it load, and the CT does not stop.
VSTO (R162): the elements below the lowest faulting one, k, are stored, the CT stops with k as INDEX and in vstart. -/
def Obligations.VectorFaultsMaskAndReissue : Prop :=
  (∀ i x t (s : State) cv (at_ : Nat → Word → Loc) (bad : Word → Option Nat), vmemOf s i = some x → x.seq = false → VReady s → Calm s →
    (x.load = false → s.ct.lag = false) → NoFeeds s → VMemReady s x t cv →
    let k : Kind := if x.load then .load else .store
    let n := max 1 (t.w / 8)
    let accs := fun e => accAt s x.d.toNat t.w x.m (s.rd x.a) e
    let hit := fun e => (accs e).any fun q => (bad q.2).isSome
    (∀ e, onAt s x.p e = true → ∀ q ∈ accs e, s.walkHeld s.ct.via q.2 = false ∧ match bad q.2 with
      | none => Reaches s n k x.ok q.2 (at_ q.1 q.2)
      | some c => s.resolve s.ct.via q.2 n k = .error c ∧ c ≠ 4 ∨
          c = 2 ∧ ∃ pa ty, s.resolve s.ct.via q.2 n k = .ok (.phys pa ty) ∧ x.ok ty = false) →
    (∃ e, onAt s x.p e = true ∧ hit e = true) →
    (∀ c d a p, i = .vldff c d a p → ∃ e, (ons s (onAt s x.p)).head? = some e ∧ hit e = true) →
    ∃ u y, exec i s = .next u ∧ u.ct.status = .stopped ∧ u.ct.viq = [y] ∧ y.masked = true ∧ y.word = s.ir ∧ y.pc = s.ct.ex.pc ∧
      (∀ e, e < predBits → (u.ct.fmask.getLsbD e = true ↔ onAt s x.p e = true ∧ hit e = true)) ∧
      (∃ r e q, u.ct.frec = some r ∧ onAt s x.p e = true ∧ (∀ j, j < e → onAt s x.p j = true → hit j = false) ∧
        (accs e).find? (fun q => (bad q.2).isSome) = some q ∧ some r.code = (bad q.2).map codeOfCause ∧ r.index = BitVec.ofNat 32 e ∧
        r.info = q.2 ∧ r.vec = true ∧ r.pc = s.ct.ex.pc ∧ r.word = s.ir) ∧
      (if x.load then bytesOf u = bytesOf s ∧
          Elements s.ct u.ct (groupsOf s x.d.toNat x.m) (2 ^ s.ct.g) t.w (fun e => onAt s x.p e && !hit e) fun r e =>
            match (accs e).find? (fun q => q.1 = r) with
            | some q => (bytesOf s).getElem (at_ r q.2) t.w e
            | none => 0
        else u.ct.v = s.ct.v ∧ bytesOf u = (ons s (fun e => onAt s x.p e && !hit e)).foldl (fun m e => (accs e).foldl
          (fun m q => m.putElem (at_ q.1 q.2) t.w e (s.ct.vget q.1 t.w e)) m) (bytesOf s)) ∧
      u.ct.ex.x = s.ct.ex.x ∧ u.ct.p = s.ct.p ∧ u.ct.a = s.ct.a) ∧
  (∀ (c : Bool) (d : VRegNo) (a : SReg) (p : PGov) (s : State) t cv (at_ : Nat → Word → Loc) (k j : Nat) (cause : Nat),
    VReady s → Calm s → NoFeeds s → VMemReady s ⟨true, c, d, a, p, .unit, true, fun ty => decide (ty ≤ 1), false⟩ t cv →
    j < k → onAt s p j = true → onAt s p k = true →
    (∀ e, e < k → onAt s p e = true → let q := s.rd a + BitVec.ofNat 64 (e * t.w / 8)
      Reaches s (max 1 (t.w / 8)) .load (fun ty => decide (ty ≤ 1)) q (at_ d.toNat q)) →
    s.walkHeld s.ct.via (s.rd a + BitVec.ofNat 64 (k * t.w / 8)) = false →
    s.resolve s.ct.via (s.rd a + BitVec.ofNat 64 (k * t.w / 8)) (max 1 (t.w / 8)) .load = .error cause → cause ≠ 4 →
    ∃ v c', noted { s.ct with v := v, vl := k } c' ∧ exec (.vldff c d a p) s = .next (vdone s cv c' {}) ∧
      Elements s.ct { s.ct with v := v } [d.toNat] (2 ^ s.ct.g) t.w (fun e => onAt s p e && decide (e < k)) fun _ e =>
        (bytesOf s).getElem (at_ d.toNat (s.rd a + BitVec.ofNat 64 (e * t.w / 8))) t.w e) ∧
  (∀ i x t (s : State) cv (at_ : Nat → Word → Loc) k q cause, vmemOf s i = some x → x.seq = true → VReady s → Calm s → NoFeeds s →
    VMemReady s x t cv → onAt s x.p k = true →
    (∀ e, e < k → onAt s x.p e = true → ∀ q ∈ accAt s x.d.toNat t.w x.m (s.rd x.a) e,
      Reaches s (t.w / 8) .store x.ok q.2 (at_ q.1 q.2) ∧ Fixed s q.2) →
    accAt s x.d.toNat t.w x.m (s.rd x.a) k = [q] → canonical q.2 = false ∨ Fixed s q.2 →
    s.resolve s.ct.via q.2 (t.w / 8) .store = .error cause → cause ≠ 4 →
    ∃ u y, exec i s = .next u ∧ u.ct.status = .stopped ∧ u.ct.viq = [y] ∧ y.masked = false ∧ y.vstart = k ∧ u.ct.vstart = k ∧
      u.ct.fmask = s.ct.fmask ∧ u.ct.v = s.ct.v ∧ u.ct.ex.x = s.ct.ex.x ∧ u.ct.p = s.ct.p ∧ u.ct.a = s.ct.a ∧
      bytesOf u = (ons s (fun e => onAt s x.p e && decide (e < k))).foldl (fun m e =>
        (accAt s x.d.toNat t.w x.m (s.rd x.a) e).foldl (fun m q => m.putElem (at_ q.1 q.2) t.w e (s.ct.vget q.1 t.w e)) m) (bytesOf s) ∧
      ∃ r, u.ct.frec = some r ∧ r.code = codeOfCause cause ∧ r.index = BitVec.ofNat 32 k ∧ r.info = q.2 ∧ r.vec = true ∧
        r.pc = s.ct.ex.pc ∧ r.word = s.ir)

/-- Vector atomics (R251): one read-modify-write per computing element in rising order; vd takes the old values. -/
def Obligations.VectorAtomics : Prop :=
  ∀ i op c d a ix p (s : State) b t b' it cv (at_ : Nat → Loc), vamoOf i = some (op, c, d, a, ix, p) → VReady s → Calm s → NoFeeds s →
    s.ct.prov = false → countConvoy s.ct.conv c { mem := true } = some cv → s.grp d = true → s.grp ix = true →
    s.opT d.toNat 1 = some (.int b t) → 32 ≤ t.w → s.opT ix.toNat 1 = some (.int b' it) → 8 ≤ it.w →
    let ad := fun e => s.rd a + BitVec.ofInt 64 (intOf it (s.ct.vget ix.toNat it.w e))
    (∀ e, onAt s p e = true → (ad e).toNat % (t.w / 8) = 0 ∧ Reaches s (t.w / 8) .atomic (fun ty => decide (ty ≤ 1)) (ad e) (at_ e)) →
    let r := amoGo op t (fun e => s.ct.vget d.toNat t.w e) at_ (ons s (onAt s p)) (bytesOf s)
    ∃ u, exec i s = .next u ∧ bytesOf u = r.1 ∧ SameRegs s { u with ct := { u.ct with v := s.ct.v } } cv ∧
      Elements s.ct u.ct [d.toNat] (2 ^ s.ct.g) t.w (onAt s p) fun _ e => ((r.2.find? fun q => q.1 = e).map (·.2)).getD 0

namespace Sys2Proof.Stmt
open Sys2Proof Sys2Proof.Machine

/-- The matrix state stands in the registers as well (R231), with grants in their range (R195). -/
def MReady (s : State) : Prop :=
  VReady s ∧ NoFeeds s ∧ s.ct.mown = true ∧ s.ct.grantM ≤ 128 ∧ s.ct.grantN ≤ 128 ∧ s.ct.grantK ≤ 128

/-- The adds of a bin word into its working slots, rising (R56, R186): `b` gives the factor of a multiply-add. -/
def binAdds (s : State) (p : PGov) (bt : Nat) (t : Ty) (a : Nat) (b : Option (Nat → Nat)) (w : Vector Word 64) : Vector Word 64 × Fl :=
  (ons s (zeroAt s p)).foldl (fun (acc : Vector Word 64 × Fl) e =>
    let k := (s.ct.a.sbase.toNat + e) % 64
    let r := binAdd bt (rmAt s) t (acc.1.toList.getD k 0) (s.ct.vget a t.w e) (b.map fun f => f e)
    (acc.1.setIfInBounds k r.1, acc.2.or r.2)) (w, {})
/-- The type of a bin (R184). -/
def binT (bt : Nat) : Ty := if bt = 15 then .fp 0x78 fmtF32 32 else if bt = 16 then .fp 0x80 fmtF64 64 else .int 0x48 ⟨64, true⟩

/-- A feed engine's read under some bindings that is performed at once (R171, R273). -/
def FeedReaches (s : State) (w : WmBinds) (n : Nat) (a : Word) (l : Loc) : Prop :=
  s.walkHeld s.ct.via a = false ∧
  s.resolve s.ct.via a n .load = .ok l ∧ (∀ pa ty, l = .phys pa ty → ty < 2 ∧ pa < mainEnd) ∧
  s.claimed s.ct.via l n .load = false ∧ s.poisonedAt l = false ∧ wmHolds s w a n = false ∧ s.ct.prov = false ∧
  ∀ e ∈ s.ct.sbuf, e.side ≠ .exec → e.meets l n = false
/-- A posted word stops the CT with a code and a subcode, and has no other effect but on feeds (R172, R217). -/
structure Stops (s u : State) (code sub : Nat) : Prop where
  status : u.ct.status = .stopped
  rec_ : ∃ r, u.ct.frec = some r ∧ r.code = code ∧ r.sub = sub ∧ r.vec = true ∧ r.pc = s.ct.ex.pc ∧ r.word = s.ir
  regs : u.ct.v = s.ct.v ∧ u.ct.p = s.ct.p ∧ u.ct.a = s.ct.a ∧ u.ct.ex.x = s.ct.ex.x
  bytes : bytesOf u = bytesOf s

/-- A word inside a block: the running group g of block b, nothing posted (R114, R115). -/
structure BReady (s : State) (b : Block) (g : Group) : Prop where
  who : s.who = .exec
  run : s.ct.status = .running
  viq : s.ct.viq = []
  own : s.ct.vown = true
  blk : s.ct.blk = some b
  turn : b.ring[b.cur]? = some g
  ready : g.wait = .run
  conv : (countConvoy g.conv false {}).isSome = true

/-- Row r of a row operand of length len lands in row i0 + r, which takes part (R197). -/
def rowAt (s : State) (len : Nat) (i0 : Word) (m : Nat) (rows : Option PGov) (i r : Nat) : Bool :=
  decide (len ≠ 0 ∧ r < s.ct.vl / len ∧ (i0 + BitVec.ofNat 64 r).toNat = i ∧ s.ct.vstart ≤ r ∧ i < m ∧ i < 128) &&
    (match rows with | some p => s.ct.pbit p.toNat i | none => true)

/-- What a word leaves in a slot: `val i j` where `on i j`, every other element as it was. -/
def SlotWrites (old new : Acc) (on : Nat → Nat → Bool) (val : Nat → Nat → Nat) : Prop :=
  ∀ i j, i < 128 → j < 128 → accElem new i j = if on i j then val i j % 2 ^ 32 else accElem old i j
/-- The same for a plane. -/
def PlaneWrites (old new : Plane) (on : Nat → Nat → Bool) (val : Nat → Nat → Nat) : Prop :=
  ∀ k j, k < 128 → j < 128 → planeCell new k j = if on k j then val k j % 2 ^ 16 else planeCell old k j

/-- The address of element j of row q of a row operand in memory (R200). -/
def rowAddr (base stride : Word) (w q j : Nat) : Word := base + BitVec.ofNat 64 q * stride + BitVec.ofNat 64 (j * w / 8)
/-- The grants that a matrix word works with: none where any is zero (R195). -/
def grantsOf (s : State) : Nat × Nat × Nat :=
  if s.ct.grantM = 0 ∨ s.ct.grantN = 0 ∨ s.ct.grantK = 0 then (0, 0, 0) else (s.ct.grantM, s.ct.grantN, s.ct.grantK)
/-- The rows from vstart below n. -/
def rowsTo (s : State) (n : Nat) : List Nat := (List.range n).filter fun q => decide (s.ct.vstart ≤ q)
/-- Alignment of a matrix word's operands (R200). -/
def mAligned (w : Nat) (as : List Word) : Prop := w < 8 ∨ ∀ a ∈ as, a.toNat % (w / 8) = 0
/-- The rows of a storing matrix word, written in order. -/
def storeRows (w : Nat) (val : Nat → Nat → Nat) (at_ : Nat → Nat → Loc) (rows : List Nat) (cols : Nat) (m : Bytes) : Bytes :=
  rows.foldl (fun m q => (List.range cols).foldl (fun m j => m.putElem (at_ q j) w j (val q j)) m) m

/-- The lines of an image of n bytes at a reach memory (R234). -/
def ImageReaches (s : State) (k : Kind) (a : Word) (n : Nat) (at_ : Nat → Loc) : Prop :=
  a.toNat % 128 = 0 ∧ s.ct.prov = false ∧ s.pkg.poison = [] ∧
  ∀ i, i < n / 128 → Reaches s 128 k (fun ty => decide (ty ≤ 1)) (a + BitVec.ofNat 64 (128 * i)) (at_ i)
/-- An image written line by line. -/
def storeImage (at_ : Nat → Loc) (n img : Nat) (m : Bytes) : Bytes :=
  (List.range (n / 128)).foldl (fun m i => m.put (at_ i) 128 (img / 2 ^ (1024 * i))) m
/-- The image that lines hold. -/
def imageAt (at_ : Nat → Loc) (m : Bytes) : Nat → Nat
  | 0 => 0
  | k + 1 => imageAt at_ m k + 2 ^ (1024 * k) * m.get (at_ k) 128

/-! ### Frames -/

/-- The node at a tag's index stands for the tag: it is read, its slot generation is the tag's, it is valid or a tombstone and not
retired (R97). -/
def NodeOk (s : State) (tag : Nat) (n : Node) : Prop :=
  tag / 256 < 2 ^ s.tsz ∧ s.nodeNow (tag / 256) = .ok n ∧ n.gen = tag % 256 ∧ n.retired = false ∧ (n.valid = true ∨ n.tomb = true)
/-- The walk from a tag, along parent tags, over nodes that are no roots, to another tag. -/
def Walk (s : State) : Nat → List (Nat × Node) → Nat → Prop
  | a, [], b => a = b
  | a, p :: l, b => p.1 = a ∧ NodeOk s a p.2 ∧ p.2.root = false ∧ p.2.parent / 256 ≠ 0 ∧ Walk s p.2.parent l b
/-- The entries of the rotation matrix of a quaternion (R98), in binary64 to nearest. -/
def quatMat (w x y z : FVal) (i j : Nat) : FVal :=
  let twice := fun a => mul64 (.fin false 1 1) a
  let one : FVal := .fin false 1 0
  match i, j with
  | 0, 0 => sub64 one (twice (add64 (mul64 y y) (mul64 z z)))
  | 0, 1 => twice (sub64 (mul64 x y) (mul64 w z))
  | 0, 2 => twice (add64 (mul64 x z) (mul64 w y))
  | 1, 0 => twice (add64 (mul64 x y) (mul64 w z))
  | 1, 1 => sub64 one (twice (add64 (mul64 x x) (mul64 z z)))
  | 1, 2 => twice (sub64 (mul64 y z) (mul64 w x))
  | 2, 0 => twice (sub64 (mul64 x z) (mul64 w y))
  | 2, 1 => twice (add64 (mul64 y z) (mul64 w x))
  | _, _ => sub64 one (twice (add64 (mul64 x x) (mul64 y y)))
/-- The component i of a rotated triple, before it is a transit value again. -/
def rotated (m : Nat → Nat → FVal) (v : List Int) (i : Nat) : FVal :=
  let c := fun k => f64OfTransit (v.getD k 0)
  fma64 (m i 2) (c 2) (fma64 (m i 1) (c 1) (mul64 (m i 0) (c 0)))
/-- Three transit values together; none where one of them is out of range. -/
def three (a b c : Option (Int × Bool)) : Triple :=
  match a, b, c with
  | some x, some y, some z => some ([x.1, y.1, z.1], x.2 || y.2 || z.2)
  | _, _, _ => none
/-- A triple after a rotation that an IDENT node leaves out. -/
def turned (n : Node) (t : List Int) (down : Bool) : Triple :=
  if n.ident then some (t, false)
  else
    let m := quatMat (n.quat 0) (n.quat 1) (n.quat 2) (n.quat 3)
    let r := rotated (if down then fun i j => m j i else m) t
    three (transitOfF64 (r 0)) (transitOfF64 (r 1)) (transitOfF64 (r 2))
/-- A triple moved by a node's translation, counted in 2^-24 m, up (+) or down (-); a displacement is not moved. -/
def moved (pos : Bool) (n : Node) (t : List Int) (down : Bool) : Triple :=
  if pos = false then some (t, false)
  else
    let y := fun k => t.getD k 0 + (if down then -1 else 1) * n.trans k * 2 ^ 40
    if ∀ k, k < 3 → |y k| < 2 ^ 127 then some ([y 0, y 1, y 2], false) else none

end Sys2Proof.Stmt

open Sys2Proof Sys2Proof.Machine Sys2Proof.Stmt

/-- Lane-ring words (R175 to R178): VPERM, the slides, VCOMPR and VEXPND from va's elements, zero beyond vl. -/
def Obligations.LaneWords : Prop :=
  ∀ (s : State) cv (c : Bool) (d a : VRegNo) (p : PGov) ta, VReady s → NoFeeds s → countConvoy s.ct.conv c { ring := true } = some cv →
    s.grp d = true → s.grp a = true → s.opT a.toNat 1 = some ta →
    let elem := fun i => if i < s.ct.vl then s.ct.vget a.toNat ta.w i else 0
    let leaves := fun i (on : Nat → Bool) (val : Nat → Nat) =>
      ∃ v, exec i s = .next (vdone s cv { s.ct with v := v, vtype := retag s.ct.vtype d.toNat (2 ^ s.ct.g) ta.byte } {}) ∧
        Elements s.ct { s.ct with v := v } [d.toNat] (2 ^ s.ct.g) ta.w on fun _ => val
    let sel := (List.range s.ct.vl).filter (s.ct.pbit p.toNat)
    (∀ b t, s.grp b = true → s.opT b.toNat 1 = some t → t.isInt = true →
      leaves (.vpermVv c d a b p) (zeroAt s p) fun e => elem (s.ct.vget b.toNat t.w e)) ∧
    (∀ b, leaves (.vpermVx c d a b p) (zeroAt s p) fun _ => elem (s.rd b).toNat) ∧
    (∀ b, leaves (.vslup c d a b p) (fun e => zeroAt s p e && decide ((s.rd b).toNat ≤ e)) fun e => elem (e - (s.rd b).toNat)) ∧
    (∀ b, leaves (.vsldn c d a b p) (zeroAt s p) fun e => elem (e + (s.rd b).toNat)) ∧
    leaves (.vcompr c d a p) (fun e => decide (e < sel.length)) (fun e => elem (sel.getD e 0)) ∧
    leaves (.vexpnd c d a p) (zeroAt s p) fun e => elem ((sel.filter fun i => decide (i < e)).length)

/-- Bins and strips (R184 to R189): BINZ, VBINACC, VBINMAC, BINFOLD, VMARK (aligned or trapping), VSTRIP. -/
def Obligations.BinAndStripWords : Prop :=
  ∀ (s : State) cv (c : Bool), VReady s → NoFeeds s →
    (countConvoy s.ct.conv c {} = some cv →
      (∀ n t, n.toNat < 8 → exec (.binz c n t) s = .next (vdone s cv (s.ct.setBin n.toNat fun _ =>
        ⟨t.toNat, Vector.replicate 64 0, Vector.replicate 64 0⟩) {})) ∧
      (∀ b, (s.rd b).toNat % 4 = 0 → exec (.vmark c b) s = .next (vdone s cv { s.ct with
        bins := s.ct.bins.map fun q => { q with comm := q.work }, mark := some (s.rd b, s.ct.a.sbase) } {})) ∧
      (∀ b, (s.rd b).toNat % 4 ≠ 0 → exec (.vmark c b) s = .next (raise s (trapAlign (s.rd b)))) ∧
      exec (.vstrip c) s = .next (vconf s cv { s.ct with a := { s.ct.a with sbase := s.ct.a.sbase + BitVec.ofNat 64 s.ct.vl } })) ∧
    (countConvoy s.ct.conv c { ring := true } = some cv →
      ∀ (n : BitVec 5) bin, s.ct.bins[n.toNat]? = some bin →
        (∀ a p ta, s.grp a = true → s.opT a.toNat 1 = some ta → binOk bin.ty ta = true →
          let r := binAdds s p bin.ty ta a.toNat none bin.work
          exec (.vbinacc c n a p) s = .next (vdone s cv (s.ct.setBin n.toNat fun q => { q with work := r.1 }) r.2)) ∧
        (∀ i a b p ta tb, (∃ r, b = .v r ∧ i = .vbinmacVv c n a r p) ∨ (∃ r, b = .x r ∧ i = .vbinmacVx c n a r p) → s.grp a = true →
          s.grpB b = true → s.opT a.toNat 1 = some ta → s.bTy b ta = some tb → binOk bin.ty ta = true →
          sameTag ta.byte tb.byte = true →
          let r := binAdds s p bin.ty ta a.toNat (some fun e => src2 s b ta.w e) bin.work
          exec i s = .next (vdone s cv (s.ct.setBin n.toNat fun q => { q with work := r.1 }) r.2)) ∧
        (∀ b, bin.ty ≠ 0 →
          let r := treeFold (redOp .sum (binT bin.ty) (rmAt s)) (bin.work.toList.map fun w => some (w.toNat % 2 ^ (binT bin.ty).w))
          exec (.binfold c n b) s = .next (vdone s cv (scalarTo s.ct b (BitVec.ofNat 64 (r.1.getD 0))) r.2)))

/-- VSETL, VSETT, VSETG (R65, R70 to R72, R394) and MSTL (R195): vl, the tags, vsw, g and the grants, vl never above vlmax. -/
def Obligations.ShapeWords : Prop :=
  ∀ (s : State) cv (c : Bool), VReady s → countConvoy s.ct.conv c {} = some cv →
    let most := fun g sw => min (s.ct.vlen * 2 ^ g / sw) (s.ct.vlen / 2)
    (∀ d a, let vl := min (s.rd a).toNat (most s.ct.g s.ct.vsw)
      exec (.vsetl c d a) s = .next (vconf s cv (scalarTo { s.ct with vl := vl, vstart := 0 } d (BitVec.ofNat 64 vl)))) ∧
    (∀ v n t f, let sw := if t = 0 then s.ct.vsw else tagWidth t.toNat
      exec (.vsett c v n t f) s = .next (vconf s cv { s.ct with
        vtype := retag s.ct.vtype v.toNat (n.toNat + 1) (t ++ f), vsw := sw, vl := min s.ct.vl (most s.ct.g sw) })) ∧
    (∀ g, exec (.vsetg c g) s = .next (vconf s cv { s.ct with g := g.toNat, vl := min s.ct.vl (most g.toNat s.ct.vsw) })) ∧
    (s.ct.mown = true → ∀ x y,
      let q := fun (i : SReg) => if y = 0 then 0 else min (s.rd (y + i)).toNat 128
      let t := { s.ct with grantM := q 0, grantN := q 1, grantK := q 2 }
      exec (.mstl c x y) s = .next (vconf s cv (if x = 0 then t
        else scalarTo (scalarTo (scalarTo t x (BitVec.ofNat 64 (q 0))) (x + 1) (BitVec.ofNat 64 (q 1))) (x + 2) (BitVec.ofNat 64 (q 2)))))

/-- Feeds (R163 to R173): FBIND, FCHAIN, FUNBIND and FSTAT in both streams, their refusals, the engine's next element, the pop of a word
that reads a bound register, and the ENGINE stops of R172 (PATTERN, CHAIN, EXHAUST, WIDTH, BOUND) and DECODE. The model's readings: an
8-bit flex TAG of a record takes the format of fmt0 (log 6), a feed's reads wait under the bindings in force at its FBIND (log 75), and a
move hands on the flags of the elements that it pops (log 72). -/
def Obligations.FeedWords : Prop :=
  ∀ (s : State) (d : VRegNo), 16 ≤ d.toNat →
    -- the execute stream posts them
    (∀ cv (c : Bool), VReady s → countConvoy s.ct.conv c {} = some cv →
      (∀ b l, (s.rd b).toNat % 64 = 0 → FeedReaches s s.ct.wmb 64 (s.rd b) l → patternRecOk ((bytesOf s).get l 64) = true →
        exec (.fbind c d b) s = .next (vdone s cv (s.ct.setFeed d.toNat
          (some (feedOfRec ((bytesOf s).get l 64) s.ct.a.fmt[0] s.ct.wmb))) {})) ∧
      (∀ op b f o, s.ct.feed d.toNat = some f → f.delivered = false → f.chain.length < 4 →
        chainOp f op.toNat (s.rd b) (if op = 1 then tyOf s.ct.a.fmt (BitVec.ofNat 8 (s.rd b).toNat) else none)
          ⟨rmAt s, s.ct.a.vseed, s.ct.a.vsrn.toNat, s.ct.a.sbase⟩ = some o →
        exec (.fchain c d op b) s = .next (vdone s cv (s.ct.setFeed d.toNat (some { f with
          chain := f.chain ++ [o], skip := 0, queue := [], blks := [], blkAddr := f.base, err := none })) {})) ∧
      exec (.funbind c d) s = .next (vdone s cv (s.ct.setFeed d.toNat none) {}) ∧
      (∀ l b, exec (.fstat c d l b) s = .next (vdone s cv (scalarTo s.ct b (feedStat s.ct d.toNat l.toNat)) {})) ∧
      -- refusals: a record that breaks R163, a misaligned one, an operator outside R166's table
      (∀ b l, (s.rd b).toNat % 64 = 0 → FeedReaches s s.ct.wmb 64 (s.rd b) l → patternRecOk ((bytesOf s).get l 64) = false →
        ∃ u, exec (.fbind c d b) s = .next u ∧ Stops s u 9 1 ∧ u.ct.feeds = (s.ct.setFeed d.toNat none).feeds) ∧
      (∀ b, (s.rd b).toNat % 64 ≠ 0 → ∃ u r, exec (.fbind c d b) s = .next u ∧ Stops s u 2 0 ∧ u.ct.frec = some r ∧ r.info = s.rd b ∧
        u.ct.feeds = (s.ct.setFeed d.toNat none).feeds) ∧
      (∀ op b, (∀ f, s.ct.feed d.toNat = some f → f.delivered = true ∨ 4 ≤ f.chain.length ∨
          chainOp f op.toNat (s.rd b) (if op = 1 then tyOf s.ct.a.fmt (BitVec.ofNat 8 (s.rd b).toNat) else none)
            ⟨rmAt s, s.ct.a.vseed, s.ct.a.vsrn.toNat, s.ct.a.sbase⟩ = none) →
        ∃ u, exec (.fchain c d op b) s = .next u ∧ Stops s u 9 2 ∧ u.ct.feeds = s.ct.feeds) ∧
      -- stops of a reading word, the first that applies; a word that writes a bound register; a block that does not decode
      (∀ f dst p ta, NoFeeds { s with ct := s.ct.setFeed d.toNat none } → s.ct.feed d.toNat = some f → s.grp dst = true →
        s.grp d = true → s.opT d.toNat 1 = some ta → (∀ i, i < 2 ^ s.ct.g → dst.toNat + i ≠ d.toNat) →
        let stops := fun sub => ∃ u, exec (.vmov c dst d p) s = .next u ∧ Stops s u 9 sub ∧ u.ct.feeds = s.ct.feeds
        (f.patternOk = false → stops 1) ∧
        (f.patternOk = true → f.total < f.popped + s.ct.vl → stops 3) ∧
        (f.patternOk = true → f.popped + s.ct.vl ≤ f.total → (chainTy f.ty f.chain).w ≠ ta.w → stops 4) ∧
        (f.patternOk = true → f.popped + s.ct.vl ≤ f.total → (chainTy f.ty f.chain).w = ta.w → f.queue.length < f.skip + s.ct.vl →
          ∀ k a, f.err = some ⟨1, k, a⟩ → ∃ u r, exec (.vmov c dst d p) s = .next u ∧ Stops s u 8 0 ∧ u.ct.feeds = s.ct.feeds ∧
            u.ct.frec = some r ∧ r.index = BitVec.ofNat 32 k ∧ r.info = BitVec.ofNat 64 d.toNat)) ∧
      (∀ dst a p ta i, s.ct.feed d.toNat ≠ none → i < 2 ^ s.ct.g → dst.toNat + i = d.toNat → s.grp dst = true → s.grp a = true →
        s.opT a.toNat 1 = some ta → ∃ u, exec (.vmov c dst a p) s = .next u ∧ Stops s u 9 5 ∧ u.ct.feeds = s.ct.feeds) ∧
      -- a word that reads the bound register pops its next vl elements, and hands on the flags that they carry
      (∀ f dst p ta, NoFeeds { s with ct := s.ct.setFeed d.toNat none } → s.ct.feed d.toNat = some f → f.patternOk = true →
        f.popped + s.ct.vl ≤ f.total → f.skip + s.ct.vl ≤ f.queue.length → s.grp dst = true → s.grp d = true →
        s.opT d.toNat 1 = some ta → (chainTy f.ty f.chain).w = ta.w → (∀ i, i < 2 ^ s.ct.g → dst.toNat + i ≠ d.toNat) →
        let elem := fun e => f.queue.getD (f.skip + e) (0, {})
        let c' := { s.ct.setFeed d.toNat (some { f with
            popped := f.popped + s.ct.vl, delivered := f.delivered || decide (0 < s.ct.vl), skip := 0,
            queue := f.queue.drop (f.skip + s.ct.vl), blks := f.blksFrom (f.popped + s.ct.vl) }) with
            vtype := retag s.ct.vtype dst.toNat (2 ^ s.ct.g) ta.byte }
        (∃ v, exec (.vmov c dst d p) s = .next (vdone s cv { c' with v := v } (flagsOf (ons s (onAt s p)) fun e => (elem e).2)) ∧
          Elements s.ct { s.ct with v := v } [dst.toNat] (2 ^ s.ct.g) ta.w (onAt s p) fun _ e => (elem e).1) ∧
        (ta.isFramed = false →
          let val := fun e => elemUn .abs ta ta (rmAt s) (rndAt s e) (elem e).1
          ∃ v, exec (.vabs c dst d p) s = .next (vdone s cv { c' with v := v }
              (flagsOf (ons s (onAt s p)) fun e => (val e).2.or (elem e).2)) ∧
            Elements s.ct { s.ct with v := v } [dst.toNat] (2 ^ s.ct.g) ta.w (onAt s p) fun _ e => (val e).1))) ∧
    -- the access stream runs them at once, with C = 0 (R32)
    (s.who = .access → s.pkg.reqs = [] →
      (∀ b l, (s.rd b).toNat % 64 = 0 → FeedReaches s s.ct.wmb 64 (s.rd b) l → patternRecOk ((bytesOf s).get l 64) = true →
        exec (.fbind false d b) s = .next (past { s with
          ct := s.ct.setFeed d.toNat (some (feedOfRec ((bytesOf s).get l 64) s.ct.a.fmt[0] s.ct.wmb)) })) ∧
      (∀ b l, (s.rd b).toNat % 64 = 0 → FeedReaches s s.ct.wmb 64 (s.rd b) l → patternRecOk ((bytesOf s).get l 64) = false →
        exec (.fbind false d b) s = .next (raise { s with ct := s.ct.setFeed d.toNat none } (trapEngine 1))) ∧
      (∀ b, (s.rd b).toNat % 64 ≠ 0 →
        exec (.fbind false d b) s = .next (raise { s with ct := s.ct.setFeed d.toNat none } (trapAlign (s.rd b)))) ∧
      (∀ op b, let par := if op = 1 then tyOf s.ct.a.fmt (BitVec.ofNat 8 (s.rd b).toNat) else none
        let rd : Rnd := ⟨rmAt s, s.ct.a.vseed, s.ct.a.vsrn.toNat, s.ct.a.sbase⟩
        (∀ f o, s.ct.feed d.toNat = some f → f.delivered = false → f.chain.length < 4 → chainOp f op.toNat (s.rd b) par rd = some o →
          exec (.fchain false d op b) s = .next (past { s with ct := s.ct.setFeed d.toNat (some { f with
            chain := f.chain ++ [o], skip := 0, queue := [], blks := [], blkAddr := f.base, err := none }) })) ∧
        ((∀ f, s.ct.feed d.toNat = some f → f.delivered = true ∨ 4 ≤ f.chain.length ∨ chainOp f op.toNat (s.rd b) par rd = none) →
          exec (.fchain false d op b) s = .next (raise s (trapEngine 2)))) ∧
      exec (.funbind false d) s = .next (past { s with ct := s.ct.setFeed d.toNat none }) ∧
      (∀ l b, exec (.fstat false d l b) s = .next (result s b (feedStat s.ct d.toNat l.toNat))) ∧
      exec (.funbind true d) s = .next (raise s (trapIll 5))) ∧
    -- the engine fetches ahead (R169)
    (∀ reg : BitVec 4, d.toNat = 16 + reg.toNat →
      (s.ct.feed d.toNat = none → ∀ n, exec (.feedFetch reg n) s = .next s) ∧
      (∀ f, s.ct.feed d.toNat = some f → s.ct.status ≠ .running → ∀ n, exec (.feedFetch reg n) s = .next s) ∧
      (∀ f l, s.ct.feed d.toNat = some f → s.ct.status = .running → s.pkg.reqs = [] → f.patternOk = true → f.chain = [] → f.err = none →
        f.skip = 0 → f.popped + f.queue.length < f.total →
        FeedReaches s f.wmb (f.ty.w / 8) (seqAddr f.base f.count f.stride (f.popped + f.queue.length)) l →
        exec (.feedFetch reg (f.queue.length + 1)) s = .next { s with ct := s.ct.setFeed d.toNat (some { f with
          queue := f.queue ++ [((bytesOf s).get l (f.ty.w / 8), {})], blks := [] }) }))

/-- Conversion through the trellis (R61, R97, R98, R101, R102) where no older version of a node may be read: the chain of a tag, what breaks it and
the tag that is then named (at FDEPTH that of the 64th node, the model's choice, log 80), and the climb to the lowest common
ancestor and the descent from it, through transit values, with their flags. A node read is the table's, or an older version that no
publish before the word's FRFENCE has replaced (which one is free, log 14), and the same for both chains of a conversion (R100, R333). -/
def Obligations.FramedConversions : Prop :=
  (∀ (s : State) fr o tag l t, (∀ i, s.olderNodes fr i = []) → Walk s tag l t → l.length < 64 →
    (∀ n, NodeOk s t n → n.root = true → s.chain fr o 64 tag = .ok (l ++ [(t, n)])) ∧
    (∀ n, NodeOk s t n → n.root = false → n.parent / 256 = 0 → s.chain fr o 64 tag = .error (fdisj t)) ∧
    (∀ n, NodeOk s t n → n.root = false → n.parent / 256 ≠ 0 → l.length = 63 → s.chain fr o 64 tag = .error (fdepth t)) ∧
    (2 ^ s.tsz ≤ t / 256 → s.chain fr o 64 tag = .error (fstale t)) ∧
    (∀ n, t / 256 < 2 ^ s.tsz → s.nodeNow (t / 256) = .ok n → ¬ NodeOk s t n → s.chain fr o 64 tag = .error (fstale t)) ∧
    (∀ f, t / 256 < 2 ^ s.tsz → s.nodeNow (t / 256) = .error f → s.chain fr o 64 tag = .error f)) ∧
  (∀ (s : State) fr o i n, s.nodeAt fr o i = .ok n →
    ∃ m, s.nodeNow i = .ok m ∧ (n = m ∨ ∃ v ∈ s.pkg.oldNodes, v.plot = s.ct.plot ∧ v.idx = i ∧ fr < v.upto ∧ v.node = n)) ∧
  (∀ (s : State) fr o fuel tag l, s.chain fr o fuel tag = .ok l → ∀ p ∈ l, s.nodeAt fr o (p.1 / 256) = .ok p.2) ∧
  (∀ (s : State) fr o v pos src dst,
    (src = dst → s.convert fr o v pos src dst = .ok (comps v, {})) ∧
    (∀ cs cd, src ≠ dst → s.chain fr o 64 src = .ok cs → s.chain fr o 64 dst = .ok cd →
      (cs.getLast?.map (·.1) ≠ cd.getLast?.map (·.1) → s.convert fr o v pos src dst = .error (fdisj src)) ∧
      (∀ up down top rest rest', cs = up ++ top :: rest → cd = down ++ top :: rest' → cs.getLast?.map (·.1) = cd.getLast?.map (·.1) →
        (∀ p ∈ up, ∀ q ∈ cd, p.1 ≠ q.1) → (∀ p ∈ down, p.1 ≠ top.1) →
        let start := three (transitOfF32 (v % 2 ^ 32)) (transitOfF32 (v / 2 ^ 32 % 2 ^ 32)) (transitOfF32 (v / 2 ^ 64 % 2 ^ 32))
        let finish := down.reverse.foldl (fun t p => descend pos t p.2) (up.foldl (fun t p => climb pos t p.2) start)
        (finish = none → s.convert fr o v pos src dst = .error (frange src)) ∧
        (∀ x y z uf, finish = some ([x, y, z], uf) →
          s.convert fr o v pos src dst = .ok ([(f32OfTransit x).1, (f32OfTransit y).1, (f32OfTransit z).1],
            ((({ uf := uf, tomb := (up ++ down).any (fun p => p.2.tomb) } : Fl).or (f32OfTransit x).2).or (f32OfTransit y).2).or
              (f32OfTransit z).2)))) ∧
    (∀ f cd, src ≠ dst → s.chain fr o 64 src = .error f → s.chain fr o 64 dst = .ok cd →
      s.convert fr o v pos src dst = .error (if f.rank = 4 then fdisj src else f)) ∧
    (∀ f cs, src ≠ dst → s.chain fr o 64 src = .ok cs → s.chain fr o 64 dst = .error f →
      s.convert fr o v pos src dst = .error (if f.rank = 4 then fdisj src else f)) ∧
    (∀ f g, src ≠ dst → s.chain fr o 64 src = .error f → s.chain fr o 64 dst = .error g →
      let h := if g.rank < f.rank then g else f
      s.convert fr o v pos src dst = .error (if h.rank = 4 then fdisj src else h))) ∧
  -- the steps
  (∀ pos (n : Node) (t : List Int) fl, t.length = 3 →
    climb pos (some (t, fl)) n = (match turned n t false with
      | none => none
      | some (u, g) => (moved pos n u false).map fun m => (m.1, fl || g || m.2)) ∧
    descend pos (some (t, fl)) n = (match moved pos n t true with
      | none => none
      | some (u, g) => (turned n u true).map fun m => (m.1, fl || g || m.2)) ∧
    climb pos none n = none ∧ descend pos none n = none) ∧
  -- transit values
  (∀ b, let x := decodeVal fmtF32 b
    (x.isNan = true ∨ x.isInf = true → transitOfF32 b = none) ∧
    (IsNumber x → (2 : ℝ) ^ 63 ≤ |realOf x| → transitOfF32 b = none) ∧
    (IsNumber x → |realOf x| < (2 : ℝ) ^ 63 → transitOfF32 b =
      some ((if x.neg then -1 else 1) * (⌊|realOf x| * 2 ^ 64⌋₊ : ℤ), decide ((⌊|realOf x| * 2 ^ 64⌋₊ : ℝ) ≠ |realOf x| * 2 ^ 64))) ∧
    (IsNumber x → (2 : ℝ) ^ (-41 : ℤ) ≤ |realOf x| → (⌊|realOf x| * 2 ^ 64⌋₊ : ℝ) = |realOf x| * 2 ^ 64)) ∧
  (∀ x, (x.isNan = true ∨ x.isInf = true → transitOfF64 x = none) ∧
    (IsNumber x → let t : ℤ := (if x.neg then -1 else 1) * unitsOf .rne x.neg 0 |realOf x| (-64)
      transitOfF64 x = if |t| < 2 ^ 127 then some (t, decide (x.isZero = false ∧ t = 0)) else none)) ∧
  (∀ t : ℤ, |t| < 2 ^ 127 → Rounds fmtF32 .rne 0 (t * (2 : ℝ) ^ (-64 : ℤ)) false (f32OfTransit t) ∧ (f32OfTransit t).2.ofl = false ∧
    ∃ out, Rounds fmtF64 .rne 0 (t * (2 : ℝ) ^ (-64 : ℤ)) false out ∧ f64OfTransit t = decodeVal fmtF64 out.1)

/-- Framed elements (R93 to R96, R101, R104 to R106): FPCVT, FPLEN2, FPGTAG, FPSTAG, framed VADD, VSUB, VMUL (with a scalar and with an
f32 vector on either side) and VCMP; an FPCVT to a null tag stops at its first computing element, one whose conversion fails at the
element that fails. A word that converts goes on once no copy has still to write a node of the plot's table (R261). -/
def Obligations.FramedWords : Prop :=
  ∀ (s : State) cv (c : Bool) (d a : VRegNo) (p : PGov) ta, VReady s → NoFeeds s → countConvoy s.ct.conv c {} = some cv →
    s.grp d = true → s.grp a = true → s.opT a.toNat 1 = some ta → ta.isFramed = true →
    let x := fun e => s.ct.vget a.toNat 128 e
    -- a word that may read nodes draws its choices among the versions that it may still read (log 14)
    let drew := fun (t : State) => t.drewNodes s.ct.vl
    let conv := fun e pos src dst => s.convert s.ct.frE (2 * e) (x e) pos src dst
    let wrote := fun (after : State → State) i w (tag : BitVec 8) (val : Nat → Nat × Fl) =>
      ∃ v, exec i s = .next (after (vdone s cv { s.ct with v := v, vtype := retag s.ct.vtype d.toNat (2 ^ s.ct.g) tag }
          (flagsOf (ons s (onAt s p)) fun e => (val e).2))) ∧
        Elements s.ct { s.ct with v := v } [d.toNat] (2 ^ s.ct.g) w (onAt s p) fun _ e => (val e).1
    let leaves := wrote id
    let scaled := fun (f : Nat → Nat) (k : Nat → Nat) e =>
      let r := zip3 (fun y _ => fpMul fmtF32 (rmAt s) (rndAt s e) (decodeVal fmtF32 y) (decodeVal fmtF32 (k e))) (comps (f e)) [0, 0, 0]
      (mkFramed r.1 (ftag (f e)), r.2)
    (s.fits 32 1 = true → leaves (.fpgtag c d a p) 32 0x40 fun e => (ftag (x e), {})) ∧
    (s.fits 32 1 = true → ta = .fdisp → leaves (.fplen2 c d a p) 32 0x78 fun e => len2 (rmAt s) (rndAt s e) (x e)) ∧
    (∀ b, leaves (.fpstagVx c d a b p) 128 ta.byte fun e => (mkFramed (comps (x e)) ((s.rd b).toNat % 2 ^ 32), {})) ∧
    (∀ b tb, s.grp b = true → s.opT b.toNat 1 = some tb → tb.code = 8 →
      leaves (.fpstagVv c d a b p) 128 ta.byte fun e => (mkFramed (comps (x e)) (s.ct.vget b.toNat 32 e), {})) ∧
    (∀ b (val : Nat → List Nat × Fl), let tag := (s.rd b).toNat % 2 ^ 32
      nullTag tag = false → s.nodesHeld = false →
      (∀ e, onAt s p e = true → if nullTag (ftag (x e)) then ta = .fdisp ∧ val e = (comps (x e), {})
        else conv e (isPos ta) (ftag (x e)) tag = .ok (val e)) →
      wrote drew (.fpcvt c d a b p) 128 ta.byte fun e => (mkFramed (val e).1 tag, (val e).2)) ∧
    -- an element whose conversion fails stops the word there: the elements below it are written and their flags raised (R101)
    (∀ b e f (val : Nat → List Nat × Fl), let tag := (s.rd b).toNat % 2 ^ 32
      nullTag tag = false → s.nodesHeld = false → onAt s p e = true → nullTag (ftag (x e)) = false →
      conv e (isPos ta) (ftag (x e)) tag = .error f →
      (∀ j, j < e → onAt s p j = true → if nullTag (ftag (x j)) then ta = .fdisp ∧ val j = (comps (x j), {})
        else conv j (isPos ta) (ftag (x j)) tag = .ok (val j)) →
      ∃ u y, exec (.fpcvt c d a b p) s = .next u ∧ u.ct.status = .stopped ∧ u.ct.viq = [y] ∧ y.vstart = e ∧ u.ct.vstart = e ∧
        u.ct.a = s.ct.a.flag (flagsOf ((ons s (onAt s p)).filter fun j => decide (j < e)) fun j => (val j).2) ∧
        Elements s.ct u.ct [d.toNat] (2 ^ s.ct.g) 128 (fun j => onAt s p j && decide (j < e)) (fun _ j => mkFramed (val j).1 tag) ∧
        ∃ r, u.ct.frec = some r ∧ r.code = f.code ∧ r.index = BitVec.ofNat 32 e ∧ r.info = f.info) ∧
    (∀ b e, nullTag ((s.rd b).toNat % 2 ^ 32) = true → s.nodesHeld = false → onAt s p e = true → (∀ j, j < e → onAt s p j = false) →
      ∃ u y, exec (.fpcvt c d a b p) s = .next u ∧ u.ct.status = .stopped ∧ u.ct.viq = [y] ∧ y.vstart = e ∧ u.ct.vstart = e ∧
        u.ct.v = s.ct.v ∧ ∃ r, u.ct.frec = some r ∧ r.code = 10 ∧ r.index = BitVec.ofNat 32 e ∧
          r.info = BitVec.ofNat 64 ((s.rd b).toNat % 2 ^ 32)) ∧
    (∀ i op b tb rt (val : Nat → List Nat × List Nat × Nat × Fl), (op = .add ∧ i = .vaddVv c d a b p) ∨ (op = .sub ∧ i = .vsubVv c d a b p) →
      s.nodesHeld = false → s.grp b = true → s.opT b.toNat 1 = some tb → framedResult op ta tb = some rt →
      (∀ e, onAt s p e = true → s.bothIn s.ct.frE (2 * e) (x e) (isPos ta) (s.ct.vget b.toNat 128 e) (isPos tb) = .ok (val e)) →
      wrote drew i 128 rt.byte fun e =>
        let r := zip3 (fun y z => (if op = .sub then fpSub else fpAdd) fmtF32 (rmAt s) (rndAt s e) (decodeVal fmtF32 y) (decodeVal fmtF32 z))
          (val e).1 (val e).2.1
        (mkFramed r.1 (val e).2.2.1, (val e).2.2.2.or r.2)) ∧
    (ta = .fdisp → ∀ b, wrote drew (.vmulVx c d a b p) 128 0x90 (scaled x fun _ => (s.rd b).toNat % 2 ^ 32)) ∧
    (ta = .fdisp → ∀ b tb, s.grp b = true → s.opT b.toNat 1 = some tb → tb.isFp = true → tb.code = 15 →
      wrote drew (.vmulVv c d a b p) 128 0x90 (scaled x fun e => s.ct.vget b.toNat 32 e) ∧
      wrote drew (.vmulVv c d b a p) 128 0x90 (scaled x fun e => s.ct.vget b.toNat 32 e)) ∧
    (∀ i k b q (val : Nat → List Nat × List Nat × Nat × Fl), (k = true ∧ i = .vcmpEq c q a b p) ∨ (k = false ∧ i = .vcmpNe c q a b p) →
      s.nodesHeld = false → s.grp b = true → s.opT b.toNat 1 = some ta →
      (∀ e, onAt s p e = true → s.bothIn s.ct.frE (2 * e) (x e) (isPos ta) (s.ct.vget b.toNat 128 e) (isPos ta) = .ok (val e)) →
      let cmp := fun e => ((val e).1.zip (val e).2.1).map fun y => fpCmp .eq (decodeVal fmtF32 y.1) (decodeVal fmtF32 y.2)
      ∃ w, exec i s = .next (drew (vdone s cv { s.ct with p := w } (flagsOf (ons s (onAt s p)) fun e =>
          (val e).2.2.2.or ((cmp e).foldl (fun f y => f.or y.2) {})))) ∧
        PBits s.ct { s.ct with p := w } q.toNat (onAt s p) fun e => ((cmp e).all (·.1)) == k)

/-- VP blocks (R114 to R121): VFETCH opens a block or a level, VPBR branches, falls through or splits, VPJOIN passes, waits or
reunites, VPEND waits or ends the level; the words that a block does not admit raise ILL PLACE. -/
def Obligations.BlockWords : Prop :=
  (∀ (s : State) cv o, VReady s → countConvoy s.ct.conv true {} = some cv →
    (s.ct.vl = 0 → exec (.vfetch o) s = .next (vconf s cv s.ct)) ∧
    (s.ct.vl ≠ 0 → let g : Group := ⟨s.ct.ex.pc + wordsOff o, BitVec.ofNat predBits (2 ^ s.ct.vl - 1), 0, [], .run, .clear⟩
      exec (.vfetch o) s = .next { s with ct := { s.ct with conv := cv, blk := some ⟨[g], 0, [(0, s.ct.ex.pc)], 1⟩ } })) ∧
  (∀ (s : State) c a o, VReady s → (countConvoy s.ct.conv false {}).isSome = true →
    exec (.vpbr c a o) s = .next (raise s (trapIll 9)) ∧ exec (.vpjoin c) s = .next (raise s (trapIll 9)) ∧
    exec (.vpend c) s = .next (raise s (trapIll 9))) ∧
  (∀ (s : State) b g, BReady s b g →
    let set := fun (x : Block) => (Host.Outcome.next { s with ct := { s.ct with blk := some x } } : Res)
    let moved := fun (h : Group) => set (Block.turn { b with ring := b.ring.set b.cur h } (b.cur + 1))
    (∀ o, b.levels.length < 4 → b.ring.length < 16 →
      exec (.vfetch o) s = set (Block.turn ⟨insertAfter (b.ring.set b.cur { g with wait := .fetch b.nextId, conv := ⟨true, 0, 0, 0, false⟩ })
        b.cur ⟨g.pc + wordsOff o, g.members, b.nextId, [], .run, .clear⟩, b.cur, b.levels ++ [(b.nextId, g.pc)], b.nextId + 1⟩
        (b.cur + 1))) ∧
    (∀ c (a : PRegNo) o, let m := (if a = 0 then BitVec.allOnes predBits else s.ct.p[a.toNat]) &&& g.members
      (m = g.members → exec (.vpbr c a o) s = moved { g with pc := g.pc + wordsOff o, conv := .clear }) ∧
      (m ≠ g.members → m = 0 → exec (.vpbr c a o) s = moved { g with pc := g.pc + 4, conv := .clear }) ∧
      (m ≠ g.members → m ≠ 0 → b.ring.length < 16 →
        let path := b.nextId :: g.path
        exec (.vpbr c a o) s = set (Block.turn { b with
          ring := insertAfter (b.ring.set b.cur { g with members := g.members &&& ~~~m, pc := g.pc + 4, path := path, conv := .clear })
            b.cur ⟨g.pc + wordsOff o, m, g.level, path, .run, .clear⟩, nextId := b.nextId + 1 } (b.cur + 1))) ∧
      (m ≠ g.members → m ≠ 0 → 16 ≤ b.ring.length → exec (.vpbr c a o) s = .next (raise s (trapIll 9)))) ∧
    (∀ c, (b.hasSibling g = false → exec (.vpjoin c) s = moved { g with pc := g.pc + 4, conv := .clear }) ∧
      (b.hasSibling g = true → b.sibling g = none → exec (.vpjoin c) s = moved { g with wait := .join g.pc, conv := .clear }) ∧
      (∀ j h, b.hasSibling g = true → b.sibling g = some j → b.ring[j]? = some h → h.wait = .join g.pc →
        exec (.vpjoin c) s = set (b.merge g j h (g.pc + 4)))) ∧
    (∀ c, g.path = [] →
      (∃ i h, b.ring[i]? = some h ∧ i ≠ b.cur ∧ h.level = g.level ∧ h.wait.isEnd = false) →
        exec (.vpend c) s = moved { g with wait := .end_ g.pc, conv := .clear }) ∧
    (∀ c a, g.path = [] → b.levels = [(g.level, a)] → (∀ h ∈ b.ring, h.level = g.level) →
      (∀ i h, b.ring[i]? = some h → i ≠ b.cur → h.wait.isEnd = true) →
        exec (.vpend c) s = .next { s with ct := { s.ct with conv := .clear, blk := none, ex := { s.ct.ex with pc := a + 4 } } })) ∧
  (∀ (s : State) i, s.group.isSome = true → (aluOf i).isSome = true ∨ (immOf i).isSome = true ∨ (branchOf i).isSome = true ∨
      (loadOf i).isSome = true ∨ (storeOf i).isSome = true ∨ (amoOf i).isSome = true →
    exec i s = .next (raise s (trapIll 9)))

namespace Sys2Proof.Stmt
open Sys2Proof Sys2Proof.Machine

/-- The decode of a vector-class word: C, the convoy classes, whether a VP block admits it, whether the matrix state must be its own,
its field rules, and its type rules (R22 to R36). -/
structure VDec where
  c : Bool
  k : Cls
  blk : Bool
  field : Bool
  typed : Bool
  mat : Bool := false
/-- An operand of span k whose type is one of those admitted, and which holds vl elements (R25, R66). -/
def typedAs (s : State) (r : VRegNo) (k : Nat) (ok : Ty → Bool) : Bool := (s.opT r.toNat k).any ok
/-- Two operands with types that go together. -/
def typed2 (s : State) (a b : VRegNo) (ok : Ty → Ty → Bool) : Bool := typedAs s a 1 fun t => typedAs s b 1 fun u => ok t u
def anyTy (_ : Ty) : Bool := true
def plainTy (t : Ty) : Bool := !t.isFramed
/-- An index vector (R155). -/
def indexTy (t : Ty) : Bool := t.isInt && decide (8 ≤ t.w)
/-- A type register (R194, R196). -/
def regTy (s : State) (v : VRegNo) (ok : List Nat) : Bool := (s.ty v.toNat).any fun t => decide (t.code ∈ ok)

/-- The vector memory words (R154 to R156, R251). -/
def memDec (s : State) : Instr → Option VDec
  | .vld c d _ _ => some ⟨c, { mem := true }, true, s.grp d, typedAs s d 1 anyTy, false⟩
  | .vldff c d _ _ => some ⟨c, { mem := true }, true, s.grp d, typedAs s d 1 anyTy, false⟩
  | .vst c d _ _ => some ⟨c, { mem := true }, true, s.grp d, typedAs s d 1 anyTy, false⟩
  | .vldS c d _ _ _ => some ⟨c, { mem := true }, true, s.grp d, typedAs s d 1 fun t => decide (8 ≤ t.w), false⟩
  | .vstS c d _ _ _ => some ⟨c, { mem := true }, true, s.grp d, typedAs s d 1 fun t => decide (8 ≤ t.w), false⟩
  | .vsto c d _ _ => some ⟨c, { mem := true }, true, s.grp d, typedAs s d 1 fun t => decide (8 ≤ t.w), false⟩
  | .vstoStrided c d _ _ _ => some ⟨c, { mem := true }, true, s.grp d, typedAs s d 1 fun t => decide (8 ≤ t.w), false⟩
  | .vldX c d _ i _ => some ⟨c, { mem := true }, true, s.grp d && s.grp i, typed2 s d i fun t u => decide (8 ≤ t.w) && indexTy u, false⟩
  | .vstX c d _ i _ => some ⟨c, { mem := true }, true, s.grp d && s.grp i, typed2 s d i fun t u => decide (8 ≤ t.w) && indexTy u, false⟩
  | .vldseg c d _ _ f => some (segDec s c d (f.toNat - 2))
  | .vstseg c d _ _ f => some (segDec s c d (f.toNat - 2))
  | .vamoAdd c d _ i _ => some (amoDec s c d i)
  | .vamoSwap c d _ i _ => some (amoDec s c d i)
  | .vamoAnd c d _ i _ => some (amoDec s c d i)
  | .vamoOr c d _ i _ => some (amoDec s c d i)
  | .vamoXor c d _ i _ => some (amoDec s c d i)
  | .vamoMin c d _ i _ => some (amoDec s c d i)
  | .vamoMax c d _ i _ => some (amoDec s c d i)
  | .pld _ _ => some ⟨false, { mem := true }, true, true, true, false⟩
  | .pst _ _ => some ⟨false, { mem := true }, true, true, true, false⟩
  | _ => none
where
  segDec (s : State) (c : Bool) (d : VRegNo) (f : Nat) : VDec :=
    ⟨c, { mem := true }, true, s.grp d && decide (d.toNat + f * 2 ^ s.ct.g ≤ 32), (typedAs s d 1 fun t => decide (8 ≤ t.w)) &&
      (List.range f).all (fun i => s.ct.vtype[d.toNat + i * 2 ^ s.ct.g]? == s.ct.vtype[d.toNat]?), false⟩
  amoDec (s : State) (c : Bool) (d i : VRegNo) : VDec :=
    ⟨c, { mem := true }, true, s.grp d && s.grp i, typed2 s d i fun t u => t.isInt && decide (32 ≤ t.w) && indexTy u, false⟩

/-- The shape, lane-ring, reduction, bin, strip and barrier words (R70 to R72, R175 to R189, R253). -/
def laneDec (s : State) : Instr → Option VDec
  | .vsetl c _ _ => some ⟨c, {}, false, true, true, false⟩
  | .vsett c _ _ _ _ => some ⟨c, {}, false, true, true, false⟩
  | .vsetg c _ => some ⟨c, {}, false, true, true, false⟩
  | .vpermVv c d a b _ => some ⟨c, { ring := true }, false, s.grp d && s.grp a && s.grp b, typed2 s a b fun _ u => u.isInt, false⟩
  | .vpermVx c d a _ _ => some (ring s c d a anyTy)
  | .vslup c d a _ _ => some (ring s c d a anyTy)
  | .vsldn c d a _ _ => some (ring s c d a anyTy)
  | .vcompr c d a _ => some (ring s c d a anyTy)
  | .vexpnd c d a _ => some (ring s c d a anyTy)
  | .vredsum c a _ _ => some (ring s c a a plainTy)
  | .vredmax c a _ _ => some (ring s c a a plainTy)
  | .vredmin c a _ _ => some (ring s c a a plainTy)
  | .vscan c d a _ _ => some (ring s c d a plainTy)
  | .vsoftmax c d a _ _ => some ⟨c, { ring := true }, false, s.grp d && s.grp a, typed2 s a d fun t u => decide (t.code = 15 ∧ u.code = 15), false⟩
  | .binz c _ _ => some ⟨c, {}, false, true, true, false⟩
  | .vbinacc c n a _ => some (ring s c a a fun t => binOk (s.ct.binTy n.toNat) t)
  | .vbinmacVx c n a _ _ => some (ring s c a a fun t => binOk (s.ct.binTy n.toNat) t)
  | .vbinmacVv c n a b _ => some ⟨c, { ring := true }, false, s.grp a && s.grp b,
      typed2 s a b fun t u => binOk (s.ct.binTy n.toNat) t && sameTag t.byte u.byte, false⟩
  | .binfold c n _ => some ⟨c, { ring := true }, false, true, decide (s.ct.binTy n.toNat ≠ 0), false⟩
  | .vmark c b => if (s.rd b).toNat % 4 = 0 then some ⟨c, {}, false, true, true, false⟩ else none
  | .vstrip c => some ⟨c, {}, false, true, true, false⟩
  | .barg c _ => some ⟨c, {}, false, true, true, false⟩
  | .barw c _ => some ⟨c, {}, false, true, true, false⟩
  | _ => none
where
  ring (s : State) (c : Bool) (d a : VRegNo) (ok : Ty → Bool) : VDec :=
    ⟨c, { ring := true }, false, s.grp d && s.grp a, typedAs s a 1 ok, false⟩

/-- The other elementwise words, the predicate and the FRAME words (R81 to R89, R95, R104 to R106, R111 to R113). -/
def elemDec (s : State) : Instr → Option VDec
  | .vabs c d a _ => some (one s c d a plainTy)
  | .vneg c d a _ => some (one s c d a fun t => t != .fpos)
  | .vmov c d a _ => some (one s c d a anyTy)
  | .vsqrt c d a _ => some (one s c d a sfu)
  | .vrcp c d a _ => some (one s c d a sfu)
  | .vrsq c d a _ => some (one s c d a sfu)
  | .vexp2 c d a _ => some (one s c d a sfu)
  | .vlog2 c d a _ => some (one s c d a sfu)
  | .vcvt c d a _ => some ⟨c, {}, true, s.grp d && s.grp a, typed2 s a d fun t u => plainTy t && plainTy u, false⟩
  | .vcvtSat c d a _ => some ⟨c, {}, true, s.grp d && s.grp a, typed2 s a d fun t u => plainTy t && plainTy u, false⟩
  | .vncvt c d a _ => some ⟨c, {}, true, s.grp d && s.grp2 a,
      typedAs s a 2 fun t => typedAs s d 1 fun u => narrowOk u.code t.code, false⟩
  | .vselVv c d a b _ => some ⟨c, {}, true, s.grp d && s.grp a && s.grp b, typed2 s a b fun t u => sameTag t.byte u.byte, false⟩
  | .vselVx c d a _ _ => some (one s c d a fun t => decide (t.w ≤ 64))
  | .vsplat c d _ _ => some (one s c d d fun t => decide (t.w ≤ 64))
  | .vext c a _ => some ⟨c, {}, false, s.grp a, typedAs s a 1 fun t => decide (t.w ≤ 64), false⟩
  | .viota c d _ _ _ => some (one s c d d plainTy)
  | .vcmpEq c _ a b _ => some (cmp s c a b true true)
  | .vcmpNe c _ a b _ => some (cmp s c a b true true)
  | .vcmpLt c _ a b _ => some (cmp s c a b false true)
  | .vcmpLe c _ a b _ => some (cmp s c a b false true)
  | .vcmpGt c _ a b _ => some (cmp s c a b false true)
  | .vcmpGe c _ a b _ => some (cmp s c a b false true)
  | .vcmpUn c _ a b _ => some (cmp s c a b false false)
  | .vclass c _ a _ _ => some ⟨c, {}, true, s.grp a, typedAs s a 1 (·.isFp), false⟩
  | .pand _ _ _ => some ⟨false, {}, true, true, true, false⟩
  | .por _ _ _ => some ⟨false, {}, true, true, true, false⟩
  | .pxor _ _ _ => some ⟨false, {}, true, true, true, false⟩
  | .pandn _ _ _ => some ⟨false, {}, true, true, true, false⟩
  | .pnot _ _ => some ⟨false, {}, true, true, true, false⟩
  | .pmov _ _ => some ⟨false, {}, true, true, true, false⟩
  | .pbrk _ _ => some ⟨false, {}, true, true, true, false⟩
  | .pset _ _ => some ⟨false, {}, true, true, true, false⟩
  | .pcnt _ _ => some ⟨false, {}, false, true, true, false⟩
  | .pfirst _ _ => some ⟨false, {}, false, true, true, false⟩
  | .plast _ _ => some ⟨false, {}, false, true, true, false⟩
  | .fpcvt c d a _ _ => some (one s c d a (·.isFramed))
  | .fplen2 c d a _ => some (one s c d a fun t => t == .fdisp && s.fits 32 1)
  | .fpgtag c d a _ => some (one s c d a fun t => t.isFramed && s.fits 32 1)
  | .fpstagVx c d a _ _ => some (one s c d a (·.isFramed))
  | .fpstagVv c d a b _ => some ⟨c, {}, true, s.grp d && s.grp a && s.grp b,
      typed2 s a b fun t u => t.isFramed && decide (u.code = 8), false⟩
  | _ => none
where
  one (s : State) (c : Bool) (d a : VRegNo) (ok : Ty → Bool) : VDec := ⟨c, {}, true, s.grp d && s.grp a, typedAs s a 1 ok, false⟩
  sfu (t : Ty) : Bool := t.isFp && decide (t.code ≠ 16)
  cmp (s : State) (c : Bool) (a b : VRegNo) (framed ints : Bool) : VDec :=
    ⟨c, {}, true, s.grp a && s.grp b, typed2 s a b fun t u =>
      if t.isFramed || u.isFramed then framed && t == u else (promote t u).isSome && (ints || !t.isInt), false⟩

/-- The two-source words, and those that widen and narrow (R68, R73 to R80, R86, R95). -/
def pairDec (s : State) (i : Instr) : Option VDec :=
  match binOf i, widenOf i, nshrOf i with
  | some (op, c, d, a, b, _), _, _ => some ⟨c, {}, true, s.grp d && s.grp a && s.grpB b, (match b with
      | .v r => typed2 s a r (pair op d)
      | .x _ => typedAs s a 1 fun t => if t.isFramed then decide (op = .mul) && t == .fdisp && s.fits 128 1 else pair op d t t), false⟩
  | none, some (_, c, d, a, b, _), _ => some ⟨c, {}, true, s.grp2 d && s.grp a && s.grpB b,
      typedAs s a 1 fun t => typedAs s d 2 fun w => widenOk t.code w.code &&
        (match b with | .v r => typedAs s r 1 fun u => sameTag t.byte u.byte | .x _ => true), false⟩
  | none, none, some (c, d, a, b, _) => some ⟨c, {}, true, s.grp d && s.grp2 a && s.grpB b,
      typedAs s a 2 fun t => typedAs s d 1 fun n => narrowOk n.code t.code &&
        (match b with | .v r => typedAs s r 1 fun u => u.isInt && decide (u.w = n.w) | .x _ => n.isInt), false⟩
  | none, none, none => none
where
  pair (op : BinOp) (d : VRegNo) (t u : Ty) : Bool :=
    if t.isFramed || u.isFramed then (framedResult op t u).isSome && s.fits 128 1
    else (!op.intOnly || (t.isInt && u.isInt)) &&
      (if op.threeOp then typedAs s d 1 fun v => sameTag v.byte t.byte && sameTag u.byte t.byte
       else (promote t u).any fun v => s.fits v.w 1)

/-- The matrix and the VCTX words (R193 to R214, R234 to R237). -/
def matDec (s : State) : Instr → Option VDec
  | .mstl c _ _ => some ⟨c, {}, false, true, true, true⟩
  | .mlds c v _ _ => some ⟨c, { mat := true, mem := true }, false, s.grp v, regTy s v [13, 14, 11, 3, 4, 12, 2], true⟩
  | .msow c v _ => some ⟨c, { mat := true, mem := true }, false, s.grp v, regTy s v [13, 14, 11, 12], true⟩
  | .mswap c => some ⟨c, { mat := true }, false, true, true, true⟩
  | .mmac c _ v _ => some (mac s c v)
  | .mmacM c _ v _ _ => some (mac s c v)
  | .macz c _ => some ⟨c, { mat := true }, false, true, true, true⟩
  | .macld c _ v _ _ => some ⟨c, { mat := true, mem := true }, false, s.grp v, regTy s v [13, 14, 15, 11, 12], true⟩
  | .macst c _ v _ _ => some ⟨c, { mat := true, mem := true }, false, s.grp v, regTy s v [15, 13, 14, 11], true⟩
  | .macin c _ v _ => some ⟨c, { mat := true }, false, s.grp v, typedAs s v 1 fun t => decide (t.code ∈ [13, 14, 15, 11, 12]), true⟩
  | .mseedgen c v _ _ => some ⟨c, { mat := true, mem := true }, false, s.grp v, regTy s v [13, 14, 11, 12], true⟩
  | .mseedscan c v _ _ => some ⟨c, { mat := true, mem := true }, false, s.grp v, regTy s v [13, 14, 15, 11, 12, 3, 2], true⟩
  | .vsave c _ => some ⟨c, { solo := true }, false, true, true, false⟩
  | .vrestore c _ => some ⟨c, { solo := true }, false, true, true, false⟩
  | .msave c _ => some ⟨c, { solo := true }, false, true, true, true⟩
  | .mrestore c _ => some ⟨c, { solo := true }, false, true, true, true⟩
  | _ => none
where
  mac (s : State) (c : Bool) (v : VRegNo) : VDec :=
    ⟨c, { mat := true }, false, s.grp v, typedAs s v 1 fun t => (planeTy s.ct.mx.actTag).any fun u => mmacOk t.code u.code, true⟩
def vdecOf (s : State) (i : Instr) : Option VDec :=
  ((memDec s i).or (laneDec s i)).or ((elemDec s i).or ((pairDec s i).or (matDec s i)))

end Sys2Proof.Stmt

open Sys2Proof Sys2Proof.Machine Sys2Proof.Stmt

/-- The convoy rules and what a vector-class word that does not decode raises (R22 to R36), every family of them: FIELD, TYPE, CONVOY, in
a block that does not admit it PLACE, in that order; outside the execute stream PLACE, whatever its operands (log 60); nothing but the
stop. -/
def Obligations.VectorDecodeFaults : Prop :=
  (∀ (v : Convoy) (c : Bool) (k : Cls),
    let n := fun (b : Bool) => if b then 1 else 0
    let base := fun x => if c || !v.opened then 0 else x
    countConvoy v c k = if (v.solo ∨ k.solo) ∧ c = false ∨ 2 < base v.mem + n k.mem ∨ 1 < base v.mat + n k.mat ∨ 1 < base v.ring + n k.ring
      then none else some ⟨true, base v.mem + n k.mem, base v.mat + n k.mat, base v.ring + n k.ring, k.solo⟩) ∧
  (∀ i op c d a b p (s : State), binOf i = some (op, c, d, a, b, p) →
    (s.who ≠ .exec → exec i s = .next (raise s (trapIll 9))) ∧
    (s.who = .exec → s.ct.viq.any Ventry.fixes = false → s.ct.vown = true →
      ((s.grp d && s.grp a && s.grpB b) = false → exec i s = .next (raise s (trapIll 5))) ∧
      ((s.grp d && s.grp a && s.grpB b) = true → s.opT a.toNat 1 = none → exec i s = .next (raise s (trapIll 6))) ∧
      (∀ t, (s.grp d && s.grp a && s.grpB b) = true → s.opT a.toNat 1 = some t → t.isFramed = false → t.isInt = false → op.intOnly = true →
        exec i s = .next (raise s (trapIll 6))) ∧
      (∀ f, (s.grp d && s.grp a && s.grpB b) = true → planBin op d a b p s = some f → countConvoy s.conv c {} = none →
        exec i s = .next (raise s (trapIll 7))))) ∧
  (∀ i x (s : State), vdecOf s i = some x →
    (s.who ≠ .exec → exec i s = .next (raise s (trapIll 9))) ∧
    (s.who = .exec → s.ct.viq.any Ventry.fixes = false → s.ct.vown = true → (x.mat = true → s.ct.mown = true) →
      (x.field = false → exec i s = .next (raise s (trapIll 5))) ∧
      (x.field = true → x.typed = false → exec i s = .next (raise s (trapIll 6))) ∧
      (x.field = true → x.typed = true → countConvoy s.conv x.c x.k = none → exec i s = .next (raise s (trapIll 7))) ∧
      (x.field = true → x.typed = true → (countConvoy s.conv x.c x.k).isSome = true → s.group.isSome = true → x.blk = false →
        exec i s = .next (raise s (trapIll 9))))) ∧
  (∀ i c (s : State), (∃ d b, i = .fbind c d b ∨ ∃ o, i = .fchain c d o b) ∨ (∃ d, i = .funbind c d ∨ ∃ l b, i = .fstat c d l b) →
    (s.isSys = true → exec i s = .next (raise s (trapIll 9))) ∧
    (s.who = .exec → s.ct.viq.any Ventry.fixes = false → s.ct.vown = true →
      (countConvoy s.conv c {} = none → exec i s = .next (raise s (trapIll 7))) ∧
      ((countConvoy s.conv c {}).isSome = true → s.group.isSome = true → exec i s = .next (raise s (trapIll 9))))) ∧
  (∀ i (s : State), (∃ c a o, i = .vpbr c a o) ∨ (∃ c, i = .vpjoin c ∨ i = .vpend c) → s.who = .exec →
    s.ct.viq.any Ventry.fixes = false → s.ct.vown = true → countConvoy s.conv false {} = none →
    exec i s = .next (raise s (trapIll 7)))

/-- Matrix words on registers (R193 to R203): MMAC, MMAC.M, MACZ, MACIN, MSWAP; a row index is taken modulo 2^64 (log 79). -/
def Obligations.MatrixRegisterWords : Prop :=
  ∀ (s : State) cv (c : Bool), MReady s → countConvoy s.ct.conv c { mat := true } = some cv →
    (∀ i k v x rows ta tp, (rows = none ∧ i = .mmac c k v x) ∨ (∃ p, rows = some p ∧ i = .mmacM c k v x p) → k.toNat < 12 → s.grp v = true →
      s.opT v.toNat 1 = some ta → planeTy s.ct.mx.actTag = some tp → mmacOk ta.code tp.code = true →
      let (m, n, d) := grantsOf s
      let row := fun i => (List.range (s.ct.vl / d)).find? fun r => rowAt s d (s.rd x) m rows i r
      let val := fun i j => macElem (accElem (s.ct.accOf k.toNat) i j) (dotExact ta tp
        ((List.range d).map fun q => s.ct.vget v.toNat ta.w ((row i).getD 0 * d + q))
        ((List.range d).map fun q => planeCell s.ct.mx.act q j % 2 ^ tp.w))
      ∃ acc fl, exec i s = .next (vdone s cv (s.ct.setAcc k.toNat acc) fl) ∧
        SlotWrites (s.ct.accOf k.toNat) acc (fun i j => (row i).isSome && decide (j < n)) (fun i j => (val i j).1) ∧
        fl = flagsOf (List.range 128) fun i => flagsOf (List.range 128) fun j =>
          if (row i).isSome && decide (j < n) then (val i j).2 else {}) ∧
    (∀ k, exec (.macz c k) s = .next (vdone s cv (s.ct.setAcc k.toNat 0) {})) ∧
    (∀ k v x t, k.toNat < 12 → s.grp v = true → s.opT v.toNat 1 = some t → t.code ∈ [13, 14, 15, 11, 12] →
      let (m, n, _) := grantsOf s
      let row := fun i => (List.range (s.ct.vl / n)).find? fun r => rowAt s n (s.rd x) m none i r
      let val := fun i j => cvtToFp fmtF32 .rne 0 false (t.val (s.ct.vget v.toNat t.w ((row i).getD 0 * n + j)))
      ∃ acc fl, exec (.macin c k v x) s = .next (vdone s cv (s.ct.setAcc k.toNat acc) fl) ∧
        SlotWrites (s.ct.accOf k.toNat) acc (fun i j => (row i).isSome && decide (j < n)) (fun i j => (val i j).1) ∧
        fl = flagsOf (List.range 128) fun i => flagsOf (List.range 128) fun j =>
          if (row i).isSome && decide (j < n) then (val i j).2 else {}) ∧
    exec (.mswap c) s = .next (vdone s cv { s.ct with mx := { s.ct.mx with
      act := s.ct.mx.sha, sha := s.ct.mx.act, actTag := s.ct.mx.shaTag, shaTag := s.ct.mx.actTag } } {})

/-- Matrix words on memory (R200 to R213) whose accesses all reach it: MLDS, MACLD, MACST, and the seed words MSOW, MSEEDGEN and
MSEEDSCAN. Their reads and stores are performed at once (VectorLoads and VectorStores say what a delayed one does, log 86). -/
def Obligations.MatrixMemoryWords : Prop :=
  ∀ (s : State) cv (c : Bool) (v : VRegNo) (x y : SReg) t (at_ : Nat → Nat → Loc), MReady s → Calm s → s.ct.lag = false → s.ct.prov = false → s.pkg.poison = [] →
    countConvoy s.ct.conv c { mat := true, mem := true } = some cv → s.ty v.toNat = some t →
    -- a type register that does not name a group (R214)
    (s.grp v = false → ∀ i k, i ∈ [Instr.mlds c v x y, .macld c k v x y, .macst c k v x y, .msow c v x, .mseedgen c v x y,
      .mseedscan c v x y] → exec i s = .next (raise s (trapIll 5))) ∧
    (s.grp v = true →
    let (m, n, d) := grantsOf s
    let reach := fun k q j a => Reaches s (max 1 (t.w / 8)) k notOrdered a (at_ q j)
    let shadow := fun (p : Plane) => { s.ct with mx := { s.ct.mx with
      sha := p, shaTag := ⟨t.byte, s.ct.a.fmt.toList.getD (t.byte.toNat % 8) 0⟩ } }
    (t.code ∈ [13, 14, 11, 3, 4, 12, 2] → mAligned t.w [s.rd x, s.rd y] →
      (∀ q j, q ∈ rowsTo s d → j < n → reach .load q j (rowAddr (s.rd x) (s.rd y) t.w q j)) →
      ∃ p c', noted (shadow p) c' ∧ exec (.mlds c v x y) s = .next (vdone s cv c' {}) ∧
        PlaneWrites s.ct.mx.sha p (fun q _ => decide (s.ct.vstart ≤ q ∨ d ≤ q))
          fun q j => if q < d ∧ j < n then (bytesOf s).getElem (at_ q j) t.w j else 0) ∧
    (∀ k : BitVec 4, k.toNat < 12 → t.code ∈ [13, 14, 15, 11, 12] → mAligned t.w [s.rd x, s.rd y] →
      (∀ q j, q ∈ rowsTo s m → j < n → reach .load q j (rowAddr (s.rd x) (s.rd y) t.w q j)) →
      let val := fun i j => cvtToFp fmtF32 .rne 0 false (t.val ((bytesOf s).getElem (at_ i j) t.w j))
      let on := fun i j => decide (s.ct.vstart ≤ i ∧ i < m ∧ j < n)
      ∃ acc c', noted (s.ct.setAcc k.toNat acc) c' ∧ exec (.macld c k v x y) s = .next (vdone s cv c'
          (flagsOf (List.range 128) fun i => flagsOf (List.range 128) fun j => if on i j then (val i j).2 else {})) ∧
        SlotWrites (s.ct.accOf k.toNat) acc on fun i j => (val i j).1) ∧
    (∀ k : BitVec 4, k.toNat < 12 → t.code ∈ [15, 13, 14, 11] → mAligned t.w [s.rd x, s.rd y] →
      (∀ q j, q ∈ rowsTo s m → j < n → reach .store q j (rowAddr (s.rd x) (s.rd y) t.w q j)) →
      let val := fun i j => convertValue true (.fp 0x78 fmtF32 32) t (rmAt s) (rndAt s (i * 128 + j)) (accElem (s.ct.accOf k.toNat) i j)
      ∃ u, exec (.macst c k v x y) s = .next u ∧
        SameRegs s { u with ct := { u.ct with a := s.ct.a } } cv ∧
        u.ct.a = s.ct.a.flag (flagsOf (rowsTo s m) fun i => flagsOf (List.range n) fun j => (val i j).2) ∧
        bytesOf u = storeRows t.w (fun i j => (val i j).1) at_ (rowsTo s m) n (bytesOf s)) ∧
    (t.code ∈ [13, 14, 11, 12] → ∀ l, (s.rd x).toNat % 64 = 0 → Reaches s 64 .load notOrdered (s.rd x) l →
      let r := (bytesOf s).get l 64
      seedRecOk r t.byte = true →
      let ws := seedWeights r t.fmtOf
      (∃ p c', noted (shadow p) c' ∧ exec (.msow c v x) s = .next (vdone s cv c' (ws.foldl (fun g z => g.or z.2) {})) ∧
        PlaneWrites s.ct.mx.sha p (fun _ _ => true) fun q j => (ws.getD (128 * q + j) (0, {})).1) ∧
      (mAligned t.w [s.rd y] → (∀ q j, q ∈ rowsTo s 128 → j < 128 → reach .store q j (rowAddr (s.rd y) (BitVec.ofNat 64 (16 * t.w)) t.w q j)) →
        ∃ u, exec (.mseedgen c v x y) s = .next u ∧ SameRegs s { u with ct := { u.ct with a := s.ct.a } } cv ∧
          u.ct.a = s.ct.a.flag (flagsOf (rowsTo s 128) fun i => flagsOf (List.range 128) fun j => (ws.getD (128 * i + j) (0, {})).2) ∧
          bytesOf u = storeRows t.w (fun i j => (ws.getD (128 * i + j) (0, {})).1) at_ (rowsTo s 128) 128 (bytesOf s))) ∧
    (t.code ∈ [13, 14, 15, 11, 12, 3, 2] → ∀ tile first count, x ≠ 0 → s.rd x = tile → s.rd (x + 1) = first → s.rd (x + 2) = count →
      mAligned t.w [tile] → count.toNat < 2 ^ 32 → y ≠ 0 →
      (count = 0 → exec (.mseedscan c v x y) s = .next (vdone s cv (scalarTo (scalarTo s.ct y (-1)) (y + 1) (BitVec.ofInt 64 (-(2 ^ 63)))) {})) ∧
      (count ≠ 0 → (∀ q j, q < 128 → j < 128 → reach .load q j (rowAddr tile (BitVec.ofNat 64 (16 * t.w)) t.w q j)) →
        let signs := (List.range 16384).map fun q => targetSign t ((bytesOf s).getElem (at_ (q / 128) (q % 128)) t.w (q % 128))
        let r := scanGo signs count.toNat first (-1, -(2 ^ 63))
        ∃ c', noted (scalarTo (scalarTo s.ct y r.1) (y + 1) (BitVec.ofInt 64 r.2)) c' ∧
          exec (.mseedscan c v x y) s = .next (vdone s cv c' {}))))

/-- VSAVE, VRESTORE, MSAVE and MRESTORE (R234 to R237) of images that all reach memory: the image's bytes; the fields of a valid image,
each in its range. -/
def Obligations.ContextImageWords : Prop :=
  ∀ (s : State) cv (c : Bool) (a : SReg) (at_ : Nat → Loc), MReady s → Calm s → countConvoy s.ct.conv c { solo := true } = some cv →
    (ImageReaches s .store (s.rd a) s.ct.vimgLen at_ →
      ∃ u, exec (.vsave c a) s = .next u ∧ SameRegs s u cv ∧ bytesOf u = storeImage at_ s.ct.vimgLen
        (vimage s.ct false s.ct.vtype.toList s.ct.vl s.ct.vsw s.ct.vstart s.ct.g s.ct.grantM s.ct.grantN s.ct.grantK) (bytesOf s)) ∧
    (ImageReaches s .store (s.rd a) mimgLen at_ →
      ∃ u, exec (.msave c a) s = .next u ∧ SameRegs s u cv ∧ bytesOf u = storeImage at_ mimgLen
        (mimage s.ct s.ct.grantM s.ct.grantN s.ct.grantK (s.ct.mx.actTag.code, s.ct.mx.actTag.fmt)
          (s.ct.mx.shaTag.code, s.ct.mx.shaTag.fmt)) (bytesOf s)) ∧
    (ImageReaches s .load (s.rd a) s.ct.vimgLen at_ →
      let img := imageAt at_ (bytesOf s) (s.ct.vimgLen / 128)
      let f := recField img
      vimageOk s.ct img = true → (∃ k, k ≤ 6 ∧ f 0x34 1 = 2 ^ (k + 1)) → f 0x29 1 ≤ 128 → f 0x2A 1 ≤ 128 → f 0x2B 1 ≤ 128 →
      f 0x30 4 ≤ min (s.ct.vlen * 2 ^ (f 0x28 1 % 4) / f 0x34 1) (s.ct.vlen / 2) →
      ∃ u, exec (.vrestore c a) s = .next u ∧ u.ct.vl = f 0x30 4 ∧ u.ct.vsw = f 0x34 1 ∧ u.ct.g = f 0x28 1 % 4 ∧
        u.ct.grantM = f 0x29 1 ∧ u.ct.grantN = f 0x2A 1 ∧ u.ct.grantK = f 0x2B 1 ∧ u.ct.vstart = f 0x38 4 ∧
        (∀ r, r < 32 → u.ct.vtype[r]? = some (BitVec.ofNat 8 (f (8 + r) 1)) ∧
          u.ct.v[r]? = some (BitVec.ofNat vregBits (f (0x2100 + s.ct.vlen / 8 * r) (s.ct.vlen / 8)))) ∧
        (∀ q, 0 < q → q < 128 →
          u.ct.p[q]? = some (BitVec.ofNat predBits (f (0x2100 + 32 * (s.ct.vlen / 8) + s.ct.vlen / 16 * q) (s.ct.vlen / 16)))) ∧
        u.ct.fmask = BitVec.ofNat predBits (f (0x2100 + 32 * (s.ct.vlen / 8) + 128 * (s.ct.vlen / 16)) (s.ct.vlen / 16)) ∧
        u.ct.a = s.ct.a ∧ u.ct.mx = s.ct.mx ∧ u.ct.ex.x = s.ct.ex.x ∧ u.mem = s.mem ∧ u.sram = s.sram ∧ u.pkg = s.pkg) ∧
    (ImageReaches s .load (s.rd a) mimgLen at_ →
      let img := imageAt at_ (bytesOf s) (mimgLen / 128)
      let f := recField img
      mimageOk img = true → f 9 1 ≤ 128 → f 0xA 1 ≤ 128 → f 0xB 1 ≤ 128 →
      ∃ u, exec (.mrestore c a) s = .next u ∧ u.ct.grantM = f 9 1 ∧ u.ct.grantN = f 0xA 1 ∧ u.ct.grantK = f 0xB 1 ∧
        u.ct.mx.act = BitVec.ofNat planeBits (f 0x100 32768) ∧ u.ct.mx.sha = BitVec.ofNat planeBits (f 0x8100 32768) ∧
        u.ct.mx.actTag = ⟨BitVec.ofNat 8 (f 0x10 1), BitVec.ofNat 64 (f 0x14 4)⟩ ∧
        u.ct.mx.shaTag = ⟨BitVec.ofNat 8 (f 0x18 1), BitVec.ofNat 64 (f 0x1C 4)⟩ ∧
        (∀ k, k < 12 → u.ct.mx.acc[k]? = some (BitVec.ofNat accBits (f (0x10100 + 65536 * k) 65536))) ∧
        u.ct.v = s.ct.v ∧ u.ct.p = s.ct.p ∧ u.ct.a = s.ct.a ∧ u.ct.ex.x = s.ct.ex.x ∧ u.mem = s.mem ∧ u.sram = s.sram ∧ u.pkg = s.pkg)

/-- Barriers (R252 to R255): BARG arrives and the stream goes on; its marker fires once the accesses before it are performed, at
once where they are. BARW passes when every live member's marker has fired, and later accesses of the stream then read no older
values; until then it waits, and the member's own marker fires as soon as it can. Out of step they raise ILL PLACE. Delayed stores
are the model's form of R323 (log 86). -/
def Obligations.BarrierWords : Prop :=
  ∀ (s : State) cv (c : Bool) (n : BitVec 5) b, VReady s → countConvoy s.ct.conv c {} = some cv → s.ct.bar[n.toNat]? = some b →
    let all := ∀ m ∈ s.cts, m.launch = s.ct.launch → m.gang = s.ct.gang → m.plot = s.ct.plot →
      m.status = .ended ∨ ∃ x, m.bar[n.toNat]? = some x ∧ b.a ≤ x.fired
    let bar := fun (x : Barrier) => { s.ct with bar := s.ct.bar.setIfInBounds n.toNat x }
    let upto : Upto := ⟨s.ct.sbn, 0, s.ct.sbn⟩
    (b.a = b.w → (∀ e ∈ s.ct.sbuf, SbEnt.before upto e = false) →
      exec (.barg c n) s = .next (vdone s cv (bar ⟨b.a + 1, b.w, b.fired + 1, none⟩) {})) ∧
    (b.a = b.w → (∃ e ∈ s.ct.sbuf, SbEnt.before upto e = true) →
      exec (.barg c n) s = .next (vdone s cv (bar ⟨b.a + 1, b.w, b.fired, some upto⟩) {})) ∧
    (b.a ≠ b.w → exec (.barg c n) s = .next (raise s (trapIll 9))) ∧
    (b.a = b.w + 1 → all → exec (.barw c n) s = .next (vconf s cv { bar { b with w := b.w + 1 } with
      vstart := 0, floors := { s.ct.floors with ex := max s.ct.floors.ex s.moment, post := s.moment } })) ∧
    (b.a = b.w + 1 → ¬ all →
      (b.pend = none → exec (.barw c n) s = .next s) ∧
      (∀ u, b.pend = some u →
        (s.canFlush s.ct (SbEnt.before u) = false → exec (.barw c n) s = .next s) ∧
        (s.canFlush s.ct (SbEnt.before u) = true → let t := s.flush (SbEnt.before u)
          exec (.barw c n) s = .next { t with ct := { t.ct with
            bar := t.ct.bar.setIfInBounds n.toNat { b with fired := b.fired + 1, pend := none } } }))) ∧
    (b.a ≠ b.w + 1 → exec (.barw c n) s = .next (raise s (trapIll 9)))

namespace Sys2Proof.Stmt
open Sys2Proof Sys2Proof.Machine

/-! ### Engines, launches, the trellis -/

/-- A firm CT of a compute core outside a block, its posted words complete (R115, R279). -/
structure CReady (s : State) : Prop where
  group : s.group = none
  core : s.isSys = false
  posted : s.who = .exec → s.ct.viq = []
  firm : s.ct.prov = false

/-- A place in main memory or in a scratch window. -/
def inMain (l : Loc) : Prop := ∀ pa ty, l = .phys pa ty → pa < mainEnd

/-- A copy issues (R263): its ticket and its place in the order of issue are the next ones. -/
def issuedCopy (s : State) (done : Bool) : State :=
  { s with
    ct := { s.ct with ticket := s.ct.ticket + 1,
                      copies := s.ct.copies ++ [⟨s.ct.ticket + 1, s.pkg.copySeq, done, none, [], [], [], [], []⟩] },
    pkg := { s.pkg with copySeq := s.pkg.copySeq + 1 } }
/-- Copies of the CT in focus that have not completed. -/
def openCopies (s : State) : List Copy := s.ct.copies.filter fun y => !y.done

/-- A word reads v, n bytes at a: at once, at the place l, nothing held back; t is the state it leaves (R139). -/
structure ReadsNow (s : State) (a : Word) (n : Nat) (l : Loc) (v : Nat) (t : State) : Prop where
  ready : Ready s a n .load l
  own : s.canFlush s.ct (s.own l n) = true
  read : v = (s.readNow l n).1
  left : t = (s.readNow l n).2.2
/-- v is what a word reads from some parts of lines, one after the other; t is the state it leaves. -/
def Reads (s : State) : List (Word × Nat) → Nat → State → Prop
  | [], v, t => v = 0 ∧ t = s
  | sp :: rest, v, t => ∃ l x w u, ReadsNow s sp.1 sp.2 l x u ∧ Reads u rest w t ∧ v = x + 2 ^ (8 * sp.2) * w

/-- What a launch word reads (R268, R278): the 128 bytes of a descriptor that passes, and the ten arguments. -/
structure DescReady (s : State) (p : Plot) (a : Word) (v asp : Nat) (args : Vector Word 10) (t : State) : Prop where
  aligned : a.toNat % 128 = 0
  fields : descOk v = true
  bytes : ∃ l r, ReadsNow s a 128 l v r ∧ r.plotOf r.ct.plot = some p ∧ r.lineClaimed (r.rootLine p asp) .load = false ∧
    asp = (if (descOf v).aspace = 0 then s.ct.aspace else (descOf v).aspace) ∧ r.rootOf p asp ≠ 0 ∧
    ((descOf v).resident = true → (descOf v).ngang * (descOf v).gsize ≤ r.slotCount p ((descOf v).scratch * 131072)) ∧
    ((descOf v).argsAt = 0 → args = Vector.replicate 10 0 ∧ t = r) ∧
    ((descOf v).argsAt ≠ 0 → ∃ w, Reads r (spans (descOf v).argsAt 80) w t ∧ args = argsOf w)

/-- A launch enters the queue of its plot (R268): n gangs to dispense; the firmware keeps its record (R349; the record's bytes are
open values, log 90). -/
def launched (s : State) (p : Plot) (d : Desc) (args : Vector Word 10) (sp : Option Spec) (n : Nat) : State :=
  State.tables { s with pkg := { s.pkg with
    launches := s.pkg.launches ++ [{
      id := s.pkg.nextLaunch, plot := p.id, queue := p.id, d := d, args := args, spec := sp, todo := List.range n, graft := [],
      halted := [], unrec := [], tile := 0, age := 0, last := s.time, fin := 0, indet := false, aband := false, counted := none,
      closed := false, die := none, run := none }],
    nextLaunch := s.pkg.nextLaunch + 1 } }
/-- Launches of a plot's device queue that still have gangs to dispense are fewer than 256 (R268). -/
def roomFor (s : State) (p : Plot) : Prop := s.queued p.id < 256
/-- A predictor entry's history, oldest first (R275). -/
def history (s : State) (i : Nat) : List Nat := ((s.pkg.pred.find? fun x => x.1 = i).map (·.2)).getD []
/-- The history takes a count: the last four are kept. -/
def learned (s : State) (i c : Nat) : State :=
  { s with pkg := { s.pkg with
    pred := (i, (history s i ++ [c]).drop ((history s i).length - 3)) :: s.pkg.pred.filter fun x => x.1 != i } }
/-- A shape record's place: global memory of no device type. -/
def ShapePlace (s : State) (a : Word) (k : Kind) (pa : Nat) : Prop :=
  canonical a = true ∧ va55 a + 16 ≤ clusterBase ∧ s.walkHeldNow a = false ∧ ∃ ty, ty < 2 ∧ s.place a 16 k = .ok (.phys pa ty)

/-- A trellis slot that a word may act on (R309): the node there, its generation that of the tag. -/
def SlotReady (s : State) (p : Plot) (tag : Nat) (n : Node) : Prop :=
  tag / 256 ≠ 0 ∧ tag / 256 < 2 ^ p.tsz ∧ s.coordNode p (tag / 256) = some n ∧ n.retired = false ∧ n.gen = tag % 256

end Sys2Proof.Stmt

open Sys2Proof Sys2Proof.Machine Sys2Proof.Stmt

/-! ### Engines, launches, the trellis -/

/-- The ENGINE words (R261 to R265, R271 to R273): tickets and moved bytes of CPY, the pieces of CPYQ, the words that cover copies,
tile queries, watermark bindings and publications. A copy's completion, a query's answer and a publication's visibility come with
events of their own, never in the word's own step (the model's choice, log 30); the order in which copies' claims bind is its
reading (log 31). -/
def Obligations.EngineWords : Prop :=
  (∀ s : State, CReady s →
    (∀ (d a b : SReg) p sc, let n := (s.rd b).toNat; let dst := s.rd a; let src := s.rd (a + 1)
      n < 2 ^ 40 → rangeOk dst n = true → rangeOk src n = true →
      (rangesMeet dst n src n = true → exec (.cpy d a b p sc) s = .next (raise s { code := 9, sub := 9 })) ∧
      -- the stream's scalar stores before it are performed; a line of another module is claimed at its home first (R379)
      (rangesMeet dst n src n = false → (openCopies s).length < 16 → s.farLines src dst n = [] → s.pkg.reqs = [] →
        s.canFlush s.ct s.mine = true →
        let u := (s.flush s.mine).acquire
        exec (.cpy d a b p sc) s = .next (issueTo u d (bytePieces (n / 64 + 3) src dst n)) ∧
        (n = 0 → exec (.cpy d a b p sc) s = .next (result (issuedCopy u true) d (BitVec.ofNat 64 (u.ct.ticket + 1)))) ∧
        (∀ l m, n ≠ 0 → src.toNat % 128 + n ≤ 128 → dst.toNat % 128 + n ≤ 128 → u.resolve u.ct.via src n .load = .ok l →
          u.resolve u.ct.via dst n .store = .ok m → inMain l → inMain m → (∀ c ∈ u.cts, ∀ y ∈ c.copies, y.claims = []) →
          u.pkg.farClaims = [] → u.poisonedAt l = false →
          let t := ((u.poke u.ct.via m n (u.peek u.ct.via l n % 2 ^ (8 * n))).stored u.ct.via m none).clearLines
            (m.byte.toList.map fun x => (x, n))
          exec (.cpy d a b p sc) s = .next (result (issuedCopy t false) d (BitVec.ofNat 64 (u.ct.ticket + 1)))))) ∧
    (∀ (d a : SReg) sc l v q t, (s.rd a).toNat % 64 = 0 → ReadsNow s (s.rd a) 64 l v t →
      quantOf t.ct.a.fmt v = some q → (∀ r ∈ q.ranges, remoteRange t r.1 r.2 = false) →
      anyMeet q.ranges = false → (openCopies t).length < 16 → t.canFlush t.ct t.mine = true →
      exec (.cpyq d a sc) s = .next (issueTo (t.flush t.mine).acquire d ((List.range (q.n / q.b)).map (fun i => Piece.block q i) ++
        if q.trec = 0 then [] else [Piece.record q]))) ∧
    (∀ d a : SReg, let n := (s.rd a).toNat
      (s.ct.ticket < n → exec (.cpyw d a) s = .next (raise s { code := 9, sub := 0xF }) ∧
        exec (.cpywP d a) s = .next (raise s { code := 9, sub := 0xF })) ∧
      (n ≤ s.ct.ticket → (∀ y ∈ openCopies s, n < y.ticket) →
        exec (.cpyw d a) s = .next (result s.acquire d 1) ∧ exec (.cpywP d a) s = .next (result s.acquire d 1)) ∧
      (n ≤ s.ct.ticket → (∃ y ∈ openCopies s, y.ticket ≤ n) → (∀ y ∈ openCopies s, y.ticket ≤ n → y.err = none) →
        exec (.cpywP d a) s = .next (result s d 0)) ∧
      (∀ pre y post cause at_, n ≤ s.ct.ticket → openCopies s = pre ++ y :: post → (∀ z ∈ pre, n < z.ticket ∨ z.err = none) →
        y.ticket ≤ n → y.err = some (cause, at_) →
        let u := raise s { code := codeOfCause cause, info := some at_, index := y.ticket % 2 ^ 32, pages := y.pages }
        exec (.cpyw d a) s = .next u ∧ exec (.cpywP d a) s = .next u)) ∧
    (∀ (a : SReg) l, (s.rd a).toNat % 8 = 0 → canonical (s.rd a) = true → scratchBase ≤ va55 (s.rd a) →
      va55 (s.rd a) < scratchBase + scratchSize → Ready s (s.rd a) 8 .store l →
      -- the word in scratch is written before the query leaves
      (s.ct.wdq.length < 4 → storeGoes s false l 8 = true →
        let t := s.storeAt l 8 0xFFFFFFFFFFFFFFFE
        let new := fun (e : SbEnt) => t.mine e && decide (s.ct.sbn ≤ e.id)
        (t.canFlush t.ct new = true → let u := t.flush new
          exec (.wdqry a) s = .next (past { u with ct := { u.ct with wdq := u.ct.wdq ++ [s.rd a] } })) ∧
        (t.canFlush t.ct new = false → exec (.wdqry a) s = .next s)) ∧
      (4 ≤ s.ct.wdq.length → exec (.wdqry a) s = .next s)) ∧
    (∀ (a b : SReg) (k : BitVec 2) p, s.plotOf s.ct.plot = some p →
      let slot := (s.rd a).toNat
      let set := fun w => (Host.Outcome.next (past { s with ct := { s.ct with wmb := s.ct.wmb.set k.toNat w } }) : Res)
      let publishes := fun u => (Host.Outcome.next (past { s with pkg := { s.pkg with
        wmPend := s.pkg.wmPend ++ [⟨slot, s.rd b, s.ct.key, u⟩] } }) : Res)
      (s.rd (a + 2) = 0 → exec (.wmbind a b k) s = set none) ∧
      (s.rd (a + 2) ≠ 0 → p.wmFirst ≤ slot → slot < p.wmFirst + p.wmCount → s.rd b ≠ 0 → (s.rd b).toNat ≤ 65536 →
        exec (.wmbind a b k) s = set (some ⟨slot, s.rd (a + 1), s.rd (a + 2), (s.rd b).toNat⟩)) ∧
      (p.wmFirst ≤ slot → slot < p.wmFirst + p.wmCount → s.who = .access → exec (.wmpub a b) s = publishes ⟨0, s.ct.sbn, 0⟩) ∧
      (p.wmFirst ≤ slot → slot < p.wmFirst + p.wmCount → s.who = .exec → s.ct.hold = false → s.ct.status = .running →
        s.pkg.reqs = [] → exec (.wmpub a b) s = publishes ⟨s.ct.sbn, 0, s.ct.sbn⟩))) ∧
  -- behind posted words the stream does not wait: the publication takes its place in the queue (R272)
  (∀ (t : State) (a b : SReg) p, t.group = none → t.isSys = false → t.ct.prov = false → t.plotOf t.ct.plot = some p →
    t.who = .exec → t.ct.hold = true → t.ct.viq ≠ [] → p.wmFirst ≤ (t.rd a).toNat → (t.rd a).toNat < p.wmFirst + p.wmCount →
    ∃ x : Ventry, x.op = .pub (t.rd a).toNat (t.rd b) t.ct.sbn ∧
      exec (.wmpub a b) t = .next (past { t with ct := { t.ct with viq := t.ct.viq ++ [x] } }))

/-- The LAUNCH words (R267, R268, R274 to R278, R284 to R293): launches enter their queue; LSPEC predicts or knows its count; SHPUB
writes the record and decides what is bound to it; ALLOCR, RETRACT; each selector of LSTAT. A launch's identifier is the next number
(the model's reading, log 65: R268 asks that it is nonzero and unique); a provisional gang's LAUNCH and
LSPEC wait before their descriptor is looked at, its SHPUB raises its refusals first (log 32). -/
def Obligations.LaunchWords : Prop :=
  (∀ (s : State) (p : Plot), CReady s → s.plotOf s.ct.plot = some p →
    (∀ (d a : SReg) v asp args t, DescReady s p (s.rd a) v asp args t → plainOk v = true → roomFor t p →
      exec (.launch d a) s = .next (result (launched t p { descOf v with aspace := asp } args none (descOf v).ngang) d
        (BitVec.ofNat 64 s.pkg.nextLaunch))) ∧
    (∀ (d a : SReg) v asp args t pa ty w u, DescReady s p (s.rd a) v asp args t → specOk p v = true → roomFor t p →
      let e := descOf v
      let count := w % 2 ^ 64
      ShapePlace t e.shape .load pa → ReadsNow t e.shape 16 (.phys pa ty) w u → count ≤ 2 ^ 24 →
      let ans := fun (t : State) n (c : Option Nat) => (Host.Outcome.next (result (launched t p { e with aspace := asp } args
        (some ⟨e.pred, e.floor, e.ceil, pa, n, c, [], [], []⟩) n).acquire d (BitVec.ofNat 64 s.pkg.nextLaunch)) : Res)
      (w / 2 ^ 64 % 2 ^ 32 = 1 → exec (.lspec d a) s = ans (learned u e.pred count) (max count e.floor) (some count)) ∧
      (w / 2 ^ 64 % 2 ^ 32 = 0 → exec (.lspec d a) s =
        ans u (min (max ((history s e.pred).max?.getD e.hint) e.floor) e.ceil) none)) ∧
    -- SHPUB: the record is written, and what is bound to it decided, as soon as nothing holds it back; the stream does not wait
    (∀ (a b : SReg) pa d, let ad := s.rd a; let c := (s.rd b).toNat
      ad.toNat % 16 = 0 → c ≤ 2 ^ 24 → ShapePlace s ad .store pa → pa < mainEnd → s.side = some d → s.pkg.shPend = [] →
      let upto := if d = .exec then s.ct.sbn else 0
      let noted := fun (t : State) => State.note { t with ct := { t.ct with sbn := s.ct.sbn + 1 } } d s.moment (.phys pa 0) 12
      let bound := s.pkg.launches.filter fun l => decide (l.fin = 0) && (match l.spec with
        | some x => x.count.isNone && decide (x.shape = pa)
        | none => false)
      (s.ct.lag = false → s.ct.sbuf = [] → s.lineClaimed (lineOf pa) .store = false → exec (.shpub a b) s =
        .next (past (bound.foldl (fun t l => t.decideLaunch l.id c) (performed (noted s) (.phys pa 0) 12 (c + 2 ^ 64))))) ∧
      (s.ct.lag = true → exec (.shpub a b) s = .next (past (noted { s with ct := { s.ct with
        sbuf := s.ct.sbuf ++ [⟨d, s.ct.sbn, true, some ⟨some upto, c⟩, .phys pa 0, 12, none, c + 2 ^ 64⟩] } })))) ∧
    (∀ (d a b : SReg) l v t, let q := s.ct.gang * s.ct.size + s.ct.rank; let n := (s.rd b).toNat
      let held := (s.poolAt s.ct.plot s.ct.aspace (s.rd a) q).elim [] PoolPos.pages
      (s.rd a).toNat % 64 = 0 → ReadsNow s (s.rd a) 64 l v t → poolOk v = true →
      recBytes v 16 8 = s.ct.launch → q < recBytes v 12 4 → n ≠ 0 → held.length + n ≤ recBytes v 8 4 →
      let va := BitVec.ofNat 64 (recBytes v 0 8) + BitVec.ofNat 64 ((q * recBytes v 8 4 + held.length) * 0x10000)
      let map := t.mapPages s.ct.plot s.ct.aspace va (leafBits true true false) none n
      (map = none → exec (.allocr d a b) s = .next t) ∧
      (∀ m pages, map = some (m, pages) →
        ∃ u, exec (.allocr d a b) s = .next (result u d va) ∧ u.mem = m.mem ∧
          u.poolAt s.ct.plot s.ct.aspace (s.rd a) q = some ⟨s.ct.plot, s.ct.aspace, s.rd a, q, held ++ pages⟩ ∧
          { u with pkg := { u.pkg with pools := m.pkg.pools } } = m)) ∧
    -- RETRACT comes after its stream's stores and copies; every access under the old entries is complete first (R228, R292)
    (∀ (a b : SReg) l v t, let q := (s.rd b).toNat
      let before := fun (e : SbEnt) => t.mine e || (decide (t.who = .exec) && e.side == .vec)
      (s.rd a).toNat % 64 = 0 → ReadsNow s (s.rd a) 64 l v t → q < recBytes v 12 4 → openCopies t = [] →
      t.canFlush t.ct before = true → (t.flush before).usersFree s.ct.plot s.ct.aspace = true →
      let u := (t.flush before).flushUsers s.ct.plot s.ct.aspace
      (u.poolAt s.ct.plot s.ct.aspace (s.rd a) q = none → exec (.retract a b) s = .next (past u)) ∧
      (∀ r, u.poolAt s.ct.plot s.ct.aspace (s.rd a) q = some r → exec (.retract a b) s = .next (past (u.retract r)))) ∧
    -- a count that is known or complete acquires (R293)
    (∀ (d a : SReg) (sel : BitVec 5) , sel.toNat ≤ 5 →
      let mine := s.pkg.launches.filter fun k => k.plot = s.ct.plot && k.spec.isSome
      let found := mine.find? fun k => k.id = (s.rd a).toNat
      (found = none → exec (.lstat d a sel) s = .next (result s d 0)) ∧
      (∀ k x, found = some k → k.spec = some x → (mine.filter fun j => decide ((s.rd a).toNat < j.id)).length < 4096 →
        let shut := k.fin = 2 ∨ k.closed = true
        (x.count = none → exec (.lstat d a sel) s = .next (
          if sel = 0 then (if shut then result s d 5 else if k.fin = 1 then result s.acquire d 4 else result s d 1)
          else result s d (if sel = 1 then BitVec.ofNat 64 x.n else if sel = 2 then BitVec.allOnes 64 else 0))) ∧
        (∀ c, x.count = some c → exec (.lstat d a sel) s = .next (
          if sel = 0 then
            let more := (if x.n < c then 64 else 0) + (if c < x.floor then 128 else 0)
            if shut then result s d (BitVec.ofNat 64 (5 + more))
            else if k.fin = 1 then result s.acquire d (BitVec.ofNat 64 (4 + more))
            else if x.toCommit = [] then result s.acquire d (BitVec.ofNat 64 (3 + more))
            else result s d (BitVec.ofNat 64 (2 + more))
          else result s d (BitVec.ofNat 64 (if sel = 1 then x.n else if sel = 2 then c else if sel = 3 then x.n - max c x.floor
             else if sel = 4 then c - x.n else x.committed.length)))))) ) ∧
  -- an SHPUB behind posted words takes its place among the stores still to be performed, and in the queue (R284)
  (∀ (s : State) (a b : SReg) pa, let ad := s.rd a; let c := (s.rd b).toNat
    s.group = none → s.who = .exec → s.ct.prov = false → s.ct.hold = true → s.ct.viq ≠ [] → s.ct.sbuf = [] → s.pkg.shPend = [] →
    ad.toNat % 16 = 0 → c ≤ 2 ^ 24 → ShapePlace s ad .store pa → pa < mainEnd →
    ∃ x : Ventry, x.op = .ship s.ct.sbn ∧ exec (.shpub a b) s = .next (past (State.note { s with ct := { s.ct with
      viq := s.ct.viq ++ [x], sbn := s.ct.sbn + 1,
      sbuf := [⟨.exec, s.ct.sbn, true, some ⟨none, c⟩, .phys pa 0, 12, none, c + 2 ^ 64⟩] } } .exec s.moment (.phys pa 0) 12))) ∧
  -- the decision of a launch whose surplus gangs have not been placed (R285 to R288)
  (∀ (s : State) l x c, s.launchOf l.id = some l → l.spec = some x → x.count = none → l.fin = 0 → l.closed = false →
    (∀ g, max c x.floor ≤ g → g < x.n → g ∈ l.todo) →
    let t := (learned s x.pred c).setLaunch { l with
      todo := l.todo.filter (fun g => decide (g < max c x.floor)), graft := (List.range (c - x.n)).map (· + x.n),
      halted := l.halted.filter (fun g => decide (g < max c x.floor)),
      unrec := l.unrec.filter (fun y => decide (y.1 < max c x.floor)),
      spec := some { x with
        count := some c,
        toCommit := ((List.range (min c x.n - x.floor)).map (· + x.floor)).filter (fun g => !l.todo.contains g),
        parked := x.parked.filter (fun g => decide (g < max c x.floor)) } }
    s.decideLaunch l.id c = (if x.n < c then { t with pkg := { t.pkg with grafts := l.id :: t.pkg.grafts } } else t).tables) ∧
  -- its graft stands before the other launches of its queue (R287)
  (∀ (s : State) l q, s.launchOf l.id = some l → l.queue = q → l.fin = 0 → l.graft ≠ [] → s.pkg.grafts.head? = some l.id →
    s.headOf q = some l)

/-- The trellis words (R305 to R317): what a publish writes and counts; FRSET's node, with its parent's depth and the new generation,
FRDEL's tombstone, their refusals, FRLOOK; FRFENCE passes once every invalidation of the plot has been acknowledged and stalls until
then (R314), whichever CT's publishes they are (log 14), and then bounds what later conversions of its stream read; a core that
acknowledges has dropped its chains of the plot; retention sleep and wake (R316, R317). A tag is the low 32 bits of its register
(log 33). -/
def Obligations.TrellisWords : Prop :=
  (∀ (s : State) (p : Plot) i (n : Node), s.plotOf p.id = some p → i < 2 ^ p.tsz →
    let a := s.home (p.trellis + 64 * i)
    let t := s.publish p i n
    t.mem.readN a 64 = n % 2 ^ 512 ∧ (∀ b, b < a ∨ a + 64 ≤ b → t.mem.read b = s.mem.read b) ∧
    t.plotOf p.id = some { p with seq := (p.seq + 1) % 2 ^ 32 } ∧ (∀ c ∈ s.awake p, (c, p.id, i) ∈ t.pkg.acks) ∧
    -- the node that it replaces is one that a conversion not ordered after the publish may still read (R100, R333; log 14)
    t.pkg.pubs = s.pkg.pubs + 1 ∧ (∀ m, s.coordNode p i = some m → t.pkg.oldNodes = s.pkg.oldNodes ++ [⟨p.id, i, m, s.pkg.pubs + 1⟩]) ∧
    t.ct.ex.x = s.ct.ex.x ∧ t.sram = s.sram ∧ t.time = s.time) ∧
  (∀ (s : State) (p : Plot), CReady s → s.plotOf s.ct.plot = some p →
    (∀ d a b : SReg, let tag := (s.rd a).toNat % 2 ^ 32; let i := tag / 256; let g := tag % 256
      -- FRSET
      (∀ l (img : Node) u, s.nodesBusy p i = false → (s.rd b).toNat % 64 = 0 → ReadsNow s (s.rd b) 64 l img u →
        let refused := fun (r : Word) => exec (.frset d a b) s = .next (result u d (0x8000000000000000 + r))
        (i = 0 ∨ 2 ^ p.tsz ≤ i → refused 1) ∧
        (∀ n : Node, i ≠ 0 → i < 2 ^ p.tsz → u.coordNode p i = some n →
          (n.retired = true → refused 2) ∧ (n.retired = false → n.gen ≠ g → refused 3)) ∧
        (∀ n : Node, SlotReady u p tag n → img.flags &&& 0xFFFFC0F5 ≠ 0 → refused 5) ∧
        (∀ n : Node, SlotReady u p tag n → img.flags &&& 0xFFFFC0F5 = 0 →
          (img.root = true → img.parent ≠ 0 → refused 6) ∧
          (img.root = false → img.parent / 256 = 0 ∨ img.parent / 256 = i ∨ 2 ^ p.tsz ≤ img.parent / 256 → refused 6) ∧
          (∀ q : Node, img.root = false → img.parent / 256 ≠ 0 → img.parent / 256 ≠ i → img.parent / 256 < 2 ^ p.tsz →
            u.coordNode p (img.parent / 256) = some q →
            (q.valid = false ∨ q.gen ≠ img.parent % 256 → refused 6) ∧
            (q.valid = true → q.gen = img.parent % 256 → q.depth = 63 → refused 7) ∧
            (q.valid = true → q.gen = img.parent % 256 → q.depth ≠ 63 → u.reaches p i (2 ^ p.tsz) img.parent = .ok true →
              refused 8))) ∧
        (∀ (n : Node) depth, SlotReady u p tag n → img.flags &&& 0xFFFFC0F5 = 0 →
          (img.root = true ∧ img.parent = 0 ∧ depth = 0 ∨
            ∃ q : Node, img.root = false ∧ img.parent / 256 ≠ 0 ∧ img.parent / 256 ≠ i ∧ img.parent / 256 < 2 ^ p.tsz ∧
              u.coordNode p (img.parent / 256) = some q ∧ q.valid = true ∧ q.gen = img.parent % 256 ∧ q.depth ≠ 63 ∧
              u.reaches p i (2 ^ p.tsz) img.parent = .ok false ∧ depth = q.depth + 1) →
          (n.valid = true ∨ n.gen ≠ 254 →
            let gen := if n.valid then n.gen else n.gen + 1
            exec (.frset d a b) s = .next (result
              (u.publish p i (mkNode img.parent (1 + (img.flags &&& 0xA) + 256 * depth) img.pose (n.version + 1) 0 gen)) d
              (BitVec.ofNat 64 (i * 256 + gen)))) ∧
          (n.valid = false → n.gen = 254 → exec (.frset d a b) s = .next (result
            (u.publish p i (mkNode 0 16 0 (n.version + 1) 0 255)) d 0x8000000000000009)))) ∧
      -- FRDEL
      (s.nodesBusy p i = false →
        (∀ n : Node, SlotReady s p tag n → n.valid = true → exec (.frdel d a b) s = .next (result
          (s.publish p i (mkNode n.parent ((n.flags &&& 0xFFFFFFFE) ||| 4) n.pose (n.version + 1) ((s.rd b).toNat % 2 ^ 32) n.gen)) d 0)) ∧
        (i = 0 ∨ 2 ^ p.tsz ≤ i → exec (.frdel d a b) s = .next (result s d 0x8000000000000001)) ∧
        (∀ n : Node, i ≠ 0 → i < 2 ^ p.tsz → s.coordNode p i = some n →
          (n.retired = true → exec (.frdel d a b) s = .next (result s d 0x8000000000000002)) ∧
          (n.retired = false → n.gen ≠ g → exec (.frdel d a b) s = .next (result s d 0x8000000000000003)) ∧
          (n.retired = false → n.gen = g → n.valid = false → exec (.frdel d a b) s = .next (result s d 0x8000000000000004)))) ∧
      -- FRLOOK
      (∀ l (n : Node), i ≠ 0 → i < 2 ^ p.tsz → s.lineClaimed (lineOf (s.home (p.trellis + 64 * i))) .load = false →
        s.coordNode p i = some n → (s.rd b).toNat % 64 = 0 → Ready s (s.rd b) 64 .store l → storeGoes s false l 64 = true →
        exec (.frlook d a b) s = .next (result (s.storeAt l 64 n) d
          (if n.retired then 3 else if n.gen ≠ g then 2 else if n.valid then 0 else if n.tomb then 1 else 4))) ∧
      ((s.rd b).toNat % 64 = 0 → i = 0 ∨ 2 ^ p.tsz ≤ i → exec (.frlook d a b) s = .next (result s d 5)))) ∧
  (∀ s : State, CReady s →
    ((∀ x ∈ s.pkg.acks, x.2.1 ≠ s.ct.plot) →
      (s.who = .exec → exec .frfence s = .next (past { s with ct := { s.ct with frE := s.pkg.pubs } })) ∧
      (s.who = .access → exec .frfence s = .next (past { s with ct := { s.ct with frA := s.pkg.pubs } }))) ∧
    ((∃ x ∈ s.pkg.acks, x.2.1 = s.ct.plot) → exec .frfence s = .next s)) ∧
  (∀ (s : State) core,
    (∀ node, exec (.chainCacheInvalidationAck core node) s = .next { s with pkg := { s.pkg with
      chain := s.pkg.chain.filter fun e => !(e.core = core && s.pkg.acks.any fun x => x.1 = core && x.2.2 = node && x.2.1 = e.plot),
      acks := s.pkg.acks.filter fun x => !(x.1 = core && x.2.2 = node) } }) ∧
    ((∀ x ∈ s.pkg.asleep, x.1 ≠ core) →
      exec (.retentionWake core) s = .next s ∧
      exec (.retentionSleep core) s = .next { s with pkg := { s.pkg with
        chain := s.pkg.chain.filter fun e => !(e.core = core && s.pkg.acks.any fun x => x.1 = core && x.2.1 = e.plot),
        acks := s.pkg.acks.filter fun x => x.1 != core,
        asleep := (core, s.pkg.plots.map fun p => (p.id, p.seq)) :: s.pkg.asleep } }) ∧
    (∀ x, s.pkg.asleep.find? (fun y => y.1 = core) = some x →
      exec (.retentionSleep core) s = .next s ∧
      ∃ chain, exec (.retentionWake core) s = .next { s with pkg := { s.pkg with
          asleep := s.pkg.asleep.filter (fun y => y.1 != core), chain := chain } } ∧
        ∀ e, e ∈ chain ↔ e ∈ s.pkg.chain ∧ (e.core ≠ core ∨ ∃ q, s.plotOf e.plot = some q ∧ (e.plot, q.seq) ∈ x.2)))

/-! ### The units of the die -/

/-- The events of the units of a die (R69, R146, R219, R220, R225, R231, R253, R257, R260, R318, R319, R365): what each changes.
Which translation a full slice drops is a free choice of the model's form (log 13); LOGBASE and LOGN of other values than R365 names
are the model's choice (log 25). Delayed stores are the model's form of R323 (log 86). -/
def Obligations.DieUnitEvents : Prop :=
  ∀ s : State,
    -- the vector side of the CT in focus, where the registers of its slot hold its state or no one's
    (∀ id, s.ct.inSlot = true → s.ct.id = id → (s.ct.owns id = true ∨ ∀ c ∈ s.cts, c.owns id = false) →
      (∀ busy, s.ct.viq = [] → exec (.uopIssue id busy) s = .next { s with ct := { s.ct with hold := busy } }) ∧
      (∀ x rest t fl, s.ct.status = .running → s.ct.owns id = true → (∀ y ∈ s.ct.viq, y.op.usesMatrix = true → s.ct.mown = true) →
        s.ct.viq = x :: rest → runEntry x { s with who := .exec } = .done t fl → t.pkg.reqs = [] →
        let c := { t.ct with
          viq := rest, a := t.ct.a.flag (x.fl.or fl), vstart := if x.op.keepsVstart then t.ct.vstart else 0,
          fmask := if x.masked then 0 else t.ct.fmask }
        exec (.uopComplete id) s = .next { t with who := s.who, ct := c }) ∧
      -- the marker leaves the queue; it fires once the stores before it are performed (R253)
      (∀ x rest (n : BitVec 2) upto b, s.ct.status = .running → s.ct.owns id = true →
        (∀ y ∈ s.ct.viq, y.op.usesMatrix = true → s.ct.mown = true) → s.ct.viq = x :: rest → x.op = .barMark n.toNat upto →
        x.popped = [] → x.fl = {} → s.pkg.reqs = [] → s.ct.bar[n.toNat]? = some b →
        let u : Upto := ⟨upto, 0, s.ct.sbn⟩
        let m : State := { s with ct := { s.ct with
          viq := rest, vstart := 0, fmask := if x.masked then 0 else s.ct.fmask,
          bar := s.ct.bar.setIfInBounds n.toNat { b with pend := some u } } }
        (s.canFlush s.ct (SbEnt.before u) = true → let v := m.flush (SbEnt.before u)
          exec (.barrierMarkerFire id n) s = .next { v with ct := { v.ct with
            bar := v.ct.bar.setIfInBounds n.toNat { b with fired := b.fired + 1, pend := none } } }) ∧
        (s.canFlush s.ct (SbEnt.before u) = false → exec (.barrierMarkerFire id n) s = .next m)) ∧
      (s.ct.viq = [] → exec (.uopComplete id) s = .next s ∧
        ∀ (n : BitVec 2), (∀ b, s.ct.bar[n.toNat]? = some b → b.pend = none) → exec (.barrierMarkerFire id n) s = .next s) ∧
      (s.ct.vown = true → exec (.ownershipTrap id false) s = .next s) ∧ (s.ct.mown = true → exec (.ownershipTrap id true) s = .next s) ∧
      (s.ct.vown = false → (∀ c ∈ s.others, c.vown = true → c.id ≠ id) → exec (.ownershipTrap id false) s =
        .next { s with ct := { s.ct with vown := true } }) ∧
      (s.ct.mown = false → (∀ c ∈ s.others, c.mown = true → coreOf c.id ≠ coreOf id) → exec (.ownershipTrap id true) s =
        .next { s with ct := { s.ct with mown := true } }) ∧
      -- the state of another CT is saved first, and leaves the registers
      (∀ o, s.ct.vown = false → s.others.filter (fun c => c.vown && c.id = id && c.status != .ended) = [o] →
        ∃ t, exec (.ownershipTrap id false) s = .next t ∧ t.mem = (saveVector s o).mem ∧ t.ct = { s.ct with vown := true } ∧
          (∀ d ∈ t.others, d.id = id → d.vown = false) ∧ t.sram = s.sram ∧ t.pkg = (saveVector s o).pkg ∧
          (s.pkg.poison = [] → t.pkg = s.pkg)) ∧
      (∀ o, s.ct.mown = false → s.others.filter (fun c => c.mown && coreOf c.id = coreOf id && c.status != .ended) = [o] →
        ∃ t, exec (.ownershipTrap id true) s = .next t ∧ t.mem = (saveMatrix s o).mem ∧ t.ct = { s.ct with mown := true } ∧
          (∀ d ∈ t.others, coreOf d.id = coreOf id → d.mown = false) ∧ t.sram = s.sram ∧ t.pkg = (saveMatrix s o).pkg ∧
          (s.pkg.poison = [] → t.pkg = s.pkg))) ∧
    -- a saved CT's queue keeps what a fault has stopped, and matrix words whose state has left the core's registers (R215, R231)
    (∀ id x rest, s.ct.owns id = true → s.ct.status = .saved → s.ct.viq = x :: rest →
      s.ct.frec.isSome = true ∨ x.op.usesMatrix = true ∧ s.ct.mown = false → exec (.uopComplete id) s = .next s) ∧
    -- the walkers: a slice holds at most 512 translations (R153); and the fault records
    (∀ core plot asp va, let a := va55 va; let lg := (s.coreCfg core).lg; let slice := ((a / 2 ^ 16 % 8) ^^^ (a / 2 ^ 19 % 8)) % lg
      let here : TlbEnt → Bool := fun t => t.core = core && t.slice = slice
      ((s.tlbAt core plot asp a).isSome = true → exec (.pageWalk ⟨core, plot⟩ asp va) s = .next s) ∧
      (∀ c, s.walkFor plot asp a = .error c → c ≠ 4 → exec (.pageWalk ⟨core, plot⟩ asp va) s = .next s) ∧
      -- a poisoned table line that the walk meets is logged (R258)
      (∀ n, canonical va = true → core < 256 → a < clusterBase → lg ≠ 0 → s.tlbAt core plot asp a = none →
        s.walkFor plot asp a = .error 4 → (s.walkOf plot asp a).find? s.badLine = some n →
        exec (.pageWalk ⟨core, plot⟩ asp va) s = .next (s.detectEngine n)) ∧
      (∀ leaf, canonical va = true → core < 256 → a < clusterBase → lg ≠ 0 → s.tlbAt core plot asp a = none →
        s.walkFor plot asp a = .ok leaf → let e : TlbEnt := ⟨core, slice, plot, asp, a / 2 ^ 16, BitVec.ofNat 64 leaf⟩
        ∃ l, exec (.pageWalk ⟨core, plot⟩ asp va) s = .next { s with pkg := { s.pkg with tlb := l } } ∧
          State.tlbAt { s with pkg := { s.pkg with tlb := l } } core plot asp a = some e ∧ (l.filter here).length ≤ 512 ∧
          ∀ t, (here t = false → (t ∈ l ↔ t ∈ s.pkg.tlb)) ∧ (here t = true → t ∈ l → t ∈ s.pkg.tlb ∨ t = e) ∧
            ((s.pkg.tlb.filter here).length < 512 → t ∈ s.pkg.tlb → t ∈ l))) ∧
    (∀ id c r p a h, s.cts.find? (fun c => c.id = id && c.status != .ended && c.frec.isSome && !c.posted) = some c → c.frec = some r →
      s.plotOf c.plot = some p →
      (c.prov = true ∨ s.settled c = false → exec (.faultRecordPost id) s = .next s) ∧
      (c.prov = false → s.settled c = true → s.supSlot p = none →
        exec (.faultRecordPost id) s = .next (s.meets (lineOf (s.home p.supq)))) ∧
      (c.prov = false → s.supSlot p = some (a, h) → s.settled c = true →
        s.lineClaimed (lineOf a) .store = false → s.lineClaimed (lineOf h) .store = false →
        let t := ((s.withKey c.key fun t => t.flush t.ct.ready).saveScalar c).unitStore a 64 r.image
        let u := t.unitStore (h + 0x10) 8 (t.mem.readN (h + 0x10) 8 + 1)
        exec (.faultRecordPost id) s = .next ((u.onKey c.key fun d => { d with posted := true }).interrupt 0))) ∧
    -- waits
    (∀ line, let woken := fun (w : WaitRec) => if w.line = some line ∧ w.cause = none then
          { w with cause := some (if w.due s.time then 0 else 1) } else w
      ∃ t, exec (.waitLineWrite line) s = .next t ∧ t.ct.ex.wait = s.ct.ex.wait.map woken ∧ t.ct.ac.wait = s.ct.ac.wait.map woken ∧
        (∀ n, n < 16 → (t.sysCore n).st.wait = (s.sysCore n).st.wait.map woken) ∧ t.mem = s.mem ∧ t.pkg = s.pkg ∧ t.ct.ex.x = s.ct.ex.x) ∧
    (∀ id d w, s.ct.inSlot = true → s.ct.id = id → w.deadline = some d → w.cause = none →
      let now := if s.time ≤ d then d else s.time
      (s.ct.ex.wait = some w → ∃ t, exec (.waitDeadline id false) s = .next t ∧ t.time = now ∧
        t.ct = { s.ct with ex := { s.ct.ex with wait := some { w with cause := some 0 } } } ∧ t.mem = s.mem ∧ t.pkg = s.pkg) ∧
      (s.ct.ac.wait = some w → ∃ t, exec (.waitDeadline id true) s = .next t ∧ t.time = now ∧
        t.ct = { s.ct with ac := { s.ct.ac with wait := some { w with cause := some 0 } } } ∧ t.mem = s.mem ∧ t.pkg = s.pkg)) ∧
    -- the directory: an owner is in M (0), E (1) or O (2)
    (∀ a n, a < 320 → let d := s.dirLine n
      (d.owner = none → d.sharers = [] → exec (.directoryRead a n) s = .next (s.setDir ⟨d.line, some (a, 1), []⟩)) ∧
      (d.owner = none → d.sharers ≠ [] →
        exec (.directoryRead a n) s = .next (s.setDir ⟨d.line, none, a :: d.sharers.filter (· != a)⟩)) ∧
      (∀ o st, d.owner = some (o, st) → o ≠ a →
        exec (.directoryRead a n) s = .next (s.setDir ⟨d.line, some (o, 2), a :: d.sharers.filter (· != a)⟩)) ∧
      (∀ st, d.owner = some (a, st) → exec (.directoryRead a n) s = .next (s.setDir d)) ∧
      exec (.directoryWrite a n) s = .next (s.setDir ⟨d.line, some (a, 0), []⟩) ∧
      (∀ st, d.owner = some (a, st) → st ≠ 1 → exec (.directoryEviction a n) s = .next (s.setDir ⟨d.line, none, d.sharers⟩)) ∧
      exec (.directoryAtomic n) s = .next (s.setDir ⟨n, none, []⟩)) ∧
    -- migration: the line's bytes move
    ((∀ m ∈ s.pkg.migr, 512 ≤ m.lines) → exec .migrationLineCopy s = .next s) ∧
    (∀ m rest, s.pkg.migr = m :: rest → m.lines < 512 → s.memOk →
      let a := m.old / 128 + m.lines
      let b := m.new / 128 + m.lines
      ∃ t, exec .migrationLineCopy s = .next t ∧ (m.lines < 511 → a ≠ b →
        t.mem.readN (128 * b) 128 = s.mem.readN (128 * a) 128 ∧ (∀ x, x / 128 ≠ b → t.mem.read x = s.mem.read x) ∧
        (t.poisoned (128 * b) = s.poisoned (128 * a)) ∧ t.pkg.ring = s.pkg.ring) ∧
        (m.lines = 511 → m.entry.isSome = true → t.pkg.ring = s.pkg.ring + 1) ∧
        ∃ k, t.pkg.migr.head? = some { m with lines := m.lines + 1, entry := k } ∧ (m.lines < 511 → k = m.entry) ∧ (m.lines = 511 → k = none)) ∧
    -- ECC
    (∀ line (src : BitVec 2) core, src ≠ 3 → core < 256 → s.badLine line = false → exec (.eccPoison line ⟨src, core⟩) s =
      .next { s with pkg := { s.pkg with
        poison := (line, src.toNat + if src = 2 then 4 * core else 0) :: s.pkg.poison, seen := s.pkg.seen.filter (· != line) } }) ∧
    (∀ line (src : BitVec 2) core, s.badLine line = true → exec (.eccPoison line ⟨src, core⟩) s = .next s) ∧
    -- corrected errors are counted per channel of a stack, per slice of the L2, per core (R318)
    (∀ line (src : BitVec 2) core, src ≠ 3 → core < 256 → src = 2 ∨ s.inStack (128 * line) = true →
      let u := s.counterOf line src core
      let n := ((s.pkg.corrected.find? fun p => p.1 = u).map (·.2)).getD 0
      exec (.scrub line (.corrected src core)) s = .next { s with pkg := { s.pkg with
        corrected := (u, n + 1) :: s.pkg.corrected.filter fun p => p.1 != u } }) ∧
    (∀ line, s.inStack (128 * line) = true → s.badLine line = false →
      exec (.scrub line .clean) s = .next s ∧
      exec (.scrub line .uncorrectable) s = .next (State.detectBy { s with pkg := { s.pkg with
        poison := (line, 0) :: s.pkg.poison, seen := s.pkg.seen.filter (· != line) } } line 0xFFFF)) ∧
    -- the log and the registers
    (∀ v : Word, let log := s.pkg.log
      exec (.logMove false v) s = .next { s with pkg := { s.pkg with log := { log with base := v &&& ~~~63, tail := log.head } } } ∧
      exec (.logMove true v) s = .next { s with pkg := { s.pkg with log := { log with
        logn := if 6 ≤ v.toNat % 32 ∧ v.toNat % 32 ≤ 24 then v.toNat % 32 else log.logn, tail := log.head } } } ∧
      exec (.registerWrite 0x100 v) s = .next { s with pkg := { s.pkg with doorbell := v } } ∧
      exec (.registerWrite 0x418 v) s = .next { s with pkg := { s.pkg with log := { log with tail := v } } } ∧
      exec (.registerWrite 0x410 v) s = .next s ∧ exec (.registerWrite 0x420 v) s = .next s ∧
      exec (.registerWrite 0x3000 v) s = .next { s with pkg := { s.pkg with fid := v.toNat % 32, tmaster := v.getLsbD 8 } } ∧
      (∀ d, d < 32 → exec (.registerWrite (0x3100 + 8 * d) v) s =
        .next { s with pkg := { s.pkg with route := s.pkg.route.setIfInBounds d (v.setWidth 4) } }) ∧
      (∀ q, q < 64 → exec (.registerWrite (0x1000 + 8 * q) v) s =
        .next { s with pkg := { s.pkg with kick := s.pkg.kick.setIfInBounds q v } }) ∧
      (∀ o, o % 8 = 0 → 0x10000 ≤ o → o < 0x14000 → exec (.registerWrite o v) s = .next (s.unitStore (0x400000000000 + o) 8 v.toNat)))

/-! ### The ends of launches -/

/-- The events of copies, tiles, watermarks, gangs and launches (R263, R269 to R273, R285, R289): completion of a copy, the answer
of a tile query, a publication that becomes visible, a commit, an age promotion, the end of a launch and its record. That nothing is
placed without a leader (log 88), whose turn it is (log 41), and that a WDQRY_ANSWER names the queries of one cycle (log 97) are the
model's readings. -/
def Obligations.LaunchEvents : Prop :=
  ∀ s : State,
    (∀ plot ctx n c y, s.ofKey (plot * 2 ^ 32 + ctx) = some c → c.copies.find? (fun y => y.ticket = n) = some y → y.done = false →
      y.err = none → y.todo = [] →
      -- the homes of what it claims on other modules learn of it (R379)
      (y.held = [] → exec (.copyComplete plot ctx n) s = .next ((s.releaseFar c.plot y.far).onKey (plot * 2 ^ 32 + ctx) fun d =>
        { d with copies := d.copies.map fun z => if z.ticket = n then { y with done := true, claims := [], far := [] } else z })) ∧
      -- what a fault holds waits for a resume (R265)
      (y.held ≠ [] → exec (.copyComplete plot ctx n) s = .next s)) ∧
    (∀ id a rest l m, s.ct.inSlot = true → s.ct.id = id → s.ct.wdq = a :: rest → s.launchOf s.ct.launch = some l → s.answerHeld id = false →
      let n := l.d.gx * l.d.gy
      let t := ({ s with ct := { s.ct with wdq := rest }, others := (s.onCt id fun c => { c with wdq := rest }).others }).setLaunch
        { l with tile := if l.tile < n then l.tile + 1 else l.tile }
      t.resolve s.ct.via a 8 .store = .ok m → exec (.wdqryAnswer [id]) s = .next ((t.poke s.ct.via m 8
        (if l.tile < n then l.tile + 2 ^ 32 * (l.tile % l.d.gx) + 2 ^ 48 * (l.tile / l.d.gx) else 2 ^ 64 - 1)).stored s.ct.via m none)) ∧
    -- queries that come in one cycle take their indices by rising ctid (R297)
    (∀ i j : BitVec 10, i.toNat < j.toNat → s.answerHeld i = false → s.answerHeld j = false →
      ∃ t u, exec (.wdqryAnswer [i]) s = .next t ∧ exec (.wdqryAnswer [j, i]) s = .next u ∧
        (t.answerHeld j = false → exec (.wdqryAnswer [j]) t = .next u)) ∧
    (∀ slot, (s.pkg.wmPend.find? (fun p => p.slot = slot) = none → exec (.watermarkVisible slot) s = .next s) ∧
      -- after the stores of its CT that come before it (R324)
      (∀ p, s.pkg.wmPend.find? (fun p => p.slot = slot) = some p →
        let old := ((s.pkg.wm.find? fun q => q.1 = slot).map (·.2)).getD 0
        let raised := fun (t : State) => (Host.Outcome.next { t with pkg := { t.pkg with
          wmPend := s.pkg.wmPend.erase p, wm := (slot, if old < p.val then p.val else old) :: s.pkg.wm.filter fun q => q.1 != slot } } : Res)
        (s.ofKey p.key = none → exec (.watermarkVisible slot) s = raised s) ∧
        (∀ c, s.ofKey p.key = some c →
          (s.canFlush c (SbEnt.before p.upto) = true →
            exec (.watermarkVisible slot) s = raised (s.withKey p.key fun t => t.flush (SbEnt.before p.upto))) ∧
          (s.canFlush c (SbEnt.before p.upto) = false → exec (.watermarkVisible slot) s = .next s)))) ∧
    (∀ id g l x, s.launchOf id = some l → l.spec = some x → x.toCommit.contains g = true → (∀ c ∈ s.linesOf id g, c.1 < mainEnd) →
      -- a copy's claim holds the commit back (R261)
      ((∃ c ∈ s.linesOf id g, s.lineClaimed (lineOf c.1) .store = true) → exec (.gangCommit id g) s = .next s) ∧
      ((∀ c ∈ s.linesOf id g, s.lineClaimed (lineOf c.1) .store = false) →
      ∃ t, exec (.gangCommit id g) s = .next t ∧ t.mem = (s.linesOf id g).foldl (fun m c => m.write c.1 c.2) s.mem ∧
        t.linesOf id g = [] ∧ (∀ c ∈ t.cts, c.launch = id → c.gang = g → c.prov = false) ∧
        t.launchOf id = some { l with spec := some { x with toCommit := x.toCommit.filter (· != g), committed := x.committed ++ [g] } } ∧
        (∀ q ∈ t.pkg.pools, ∀ pg ∈ q.pages, pg.owner ≠ some (id, g)) ∧ t.sram = s.sram ∧ t.ct.ex.x = s.ct.ex.x)) ∧
    (∀ id l, s.launchOf id = some l → l.fin = 0 → l.todo ≠ [] → min 3 (l.d.cls + l.age) < 3 →
      (10000000 ≤ (s.time - l.last).toNat → exec (.agePromotion id) s = .next (s.setLaunch { l with age := l.age + 1, last := s.time })) ∧
      ((s.time - l.last).toNat < 10000000 → exec (.agePromotion id) s = .next s)) ∧
    (∀ id l, s.launchOf id = some l → l.run = none →
      let ended := fun (t : State) => (t.setLaunch { l with fin := if l.aband then 2 else 1, todo := [], graft := [] }).tables
      (s.ready l = false → s.pkg.runs = [] → exec (.launchComplete id) s = .next s) ∧
      (s.ready l = true → l.d.done = 0 → exec (.launchComplete id) s = .next (ended s)) ∧
      (∀ pa ty, s.ready l = true → l.d.done ≠ 0 → canonical l.d.done = true → va55 l.d.done + 16 ≤ clusterBase →
        s.resolve l.via l.d.done 16 .store = .ok (.phys pa ty) → ty < 2 → pa < mainEnd →
        (s.walkHeld l.via l.d.done = true ∨ s.lineClaimed (lineOf pa) .store = true → exec (.launchComplete id) s = .next (s.setLaunch l)) ∧
        (s.walkHeld l.via l.d.done = false → s.lineClaimed (lineOf pa) .store = false → exec (.launchComplete id) s = .next (ended (s.unitStore pa 16
          (s.time.toNat + 2 ^ 64 * (if l.indet then 0x11 else if l.aband then 1 else 0) +
            2 ^ 96 * (l.counted.getD l.halted.length % 2 ^ 32)))))) ∧
      -- the record of a place that no store may reach is not written, and that is logged (R269, R365)
      (∀ c, s.ready l = true → l.d.done ≠ 0 → canonical l.d.done = false → l.die = some c →
        exec (.launchComplete id) s = .next ((ended s).logKind 4 c 4 0 0 l.id)) ∧
      -- without a leader nothing is placed (R347)
      (∀ ps, s.led = false → l.toUnpark = none → exec (.gangPlace id ps) s = .next s)) ∧
    -- the next gang of a head launch goes whole into slots of one cluster, its queue's and its die's turn come; each CT starts as R124
    -- and R267 say, its pc a word address (R8)
    (∀ id l p g rest cl c0 slot, s.launchOf id = some l → l.fin = 0 → l.spec = none → l.d.resident = false → l.graft = [] →
      l.todo = g :: rest → s.led = true → s.serves (cl / 8) = true → s.isHead l = true → s.outranked l = false → s.outturned l = false →
      s.dieTurn l (cl / 8) = true → s.pkg.runs = [] → s.plotOf l.plot = some p → cl < 32 → slot < 2 → p.clusters.getLsbD cl = true →
      l.d.gsize ≤ p.ctxCount - p.areas.length → l.d.gsize ≤ 8 →
      (∀ r, r < l.d.gsize → let k := cl * 8 + (c0 + r) % 8
        (s.coreCfg k).lg ≠ 0 ∧ s.slotKept (ctidOf k slot) none = false ∧ l.d.scratch * 131072 ≤ s.ssOf k slot) →
      ∃ t, exec (.gangPlace id [(cl, c0, slot)]) s = .next t ∧ t.others.length = s.others.length + l.d.gsize ∧
        t.mem = (s.setLaunch { l with todo := rest, last := s.time }).tables.mem ∧
        t.launchOf id = some { l with todo := rest, last := s.time } ∧
        ∀ r, r < l.d.gsize → ∃ c, t.others[s.others.length + r]? = some c ∧ c.id = ctidOf (cl * 8 + (c0 + r) % 8) slot ∧
          c.status = .running ∧ c.rank = r ∧ c.gang = g ∧ c.size = l.d.gsize ∧ c.launch = id ∧ c.prov = false ∧
          c.ex.pc = l.d.exec &&& ~~~3 ∧ c.ac.pc = l.d.acc &&& ~~~3 ∧
          c.dual = decide (l.d.acc ≠ 0) ∧ c.vl = 0 ∧ c.viq = [] ∧ c.copies = [] ∧
          (∀ i : Fin 64, c.ex.x[i] = c.ac.x[i] ∧
            c.ex.x[i] = if 4 ≤ i.val ∧ i.val < 14 then l.args.toList.getD (i.val - 4) 0 else 0))

/-! ### The package coordinator -/

namespace Sys2Proof.Stmt
open Sys2Proof Sys2Proof.Machine
/-- The coordinator's next command has a code and zeros from an offset on; no migration holds the ring (R345). -/
structure Cmd (s : State) (code from_ : Nat) : Prop where
  free : s.migrating = false
  code : s.cmdBytes 0 1 = code
  zeros : s.cmdBytes from_ (64 - from_) = 0
/-- The same of a command that acts on a plot, which is made. -/
def PlotCmd (s : State) (code from_ : Nat) (p : Plot) : Prop := Cmd s code from_ ∧ s.plotOf (s.cmdBytes 1 1) = some p
/-- The commands: their code, and the offset from which their bytes are zero. -/
def commandOf : Instr → Option (Nat × Nat)
  | .plotMake _ => some (0x01, 16)
  | .plotFree => some (0x02, 8)
  | .corecfg => some (0x03, 32)
  | .resume => some (0x04, 24)
  | .preempt => some (0x05, 16)
  | .abandon => some (0x06, 24)
  | .inval => some (0x07, 32)
  | .sweep => some (0x09, 16)
  | .cancel => some (0x0A, 24)
  | .queue => some (0x0B, 32)
  | .grant => some (0x0D, 24)
  | .trellisRepair => some (0x0E, 24)
  | .hostwin => some (0x0F, 32)
  | .addrwin => some (0x10, 24)
  | _ => none
/-- No copy's claim, and no access still under way, makes a command wait (R222, R228, R261). -/
def Unheld (s : State) : Instr → Prop
  | .plotMake _ => s.paBusy (s.arg 0) .load = false
  | .preempt => ∀ c, s.ctOf (BitVec.ofNat 10 (s.arg 0)) = some c → ∀ d ∈ s.gang c.launch c.gang, d.inSlot = true → s.settled d = true
  | .inval => s.oldAccess (s.cmdBytes 1 1) (s.arg 2) = false
  | .sweep => s.slotBusy = false
  | .trellisRepair => s.slotBusy = false ∧ s.paBusy (s.arg 1) .load = false
  | .queue => s.paBusy (s.arg 1) .load = false
  | _ => True
/-- A command is done with a STATUS. -/
def done (t : State) (status : Nat) : Res := .next (t.complete status)
end Sys2Proof.Stmt

open Sys2Proof Sys2Proof.Machine Sys2Proof.Stmt

/-- The coordinator (R345): what a completion leaves; a code of no command, nonzero reserved bytes and a plot that is not made are
bad arguments; another command's entry, a migration in progress, or an access under the old entries that INVAL waits for (R228),
leaves everything as it is. STATUS 2 for a zero code and for a plot that is not made (log 35) and that INVAL waits for every access
of the address space (log 91) are the model's readings. -/
def Obligations.CoordinatorProtocol : Prop :=
  (∀ (s : State) st, let a := ringAt s.pkg.ring; let t := s.complete st
    t.mem.readN (a + 2) 2 = st % 2 ^ 16 ∧ (∀ b, b < a + 2 ∨ a + 4 ≤ b → t.mem.read b = s.mem.read b) ∧ t.pkg.ring = s.pkg.ring + 1 ∧
    (∀ n, n < 16 → (t.sysCore n).irq = (s.sysCore n).irq ||| 4) ∧ t.sram = s.sram ∧ t.time = s.time ∧ t.pkg.plots = s.pkg.plots) ∧
  (∀ s : State, s.migrating = false → s.cmdBytes 0 1 = 0 ∨ 0x10 < s.cmdBytes 0 1 → exec .coordinatorBadCode s = done s 2) ∧
  (∀ i code from_ (s : State), commandOf i = some (code, from_) →
    (s.migrating = true ∨ s.cmdBytes 0 1 ≠ code → exec i s = .next s) ∧
    (s.migrating = false → Unheld s i → s.cmdBytes 0 1 = code → s.cmdBytes from_ (64 - from_) ≠ 0 → exec i s = done s 2) ∧
    (Cmd s code from_ → Unheld s i → s.plotOf (s.cmdBytes 1 1) = none → code ≠ 1 → code ≠ 0x0B → exec i s = done s 2)) ∧
  (∀ s : State, s.oldAccess (s.cmdBytes 1 1) (s.arg 2) = true → exec .inval s = .next s)

/-- The commands on plots, cores, control threads and launches (R148, R221, R222, R265, R303, R345, R346, R395), where they succeed.
The order of PLOT_MAKE's checks and the virtual address of its trellis (log 36), the arguments (log 35) and what RESUME refuses (log
38) are the model's readings. -/
def Obligations.PlotAndThreadCommands : Prop :=
  ∀ s : State,
    (∀ tva v p, let id := s.cmdBytes 1 1; let a := s.ownPa (s.arg 0)
      Cmd s 1 16 → Unheld s (.plotMake tva) → id ≤ 7 → a % 128 = 0 → s.inStack a = true → s.poisoned (s.home a) = false →
      v = s.mem.readN (s.home a) 128 → recordOk v = true → p = plotOfRecord s.ownPa id v (tva &&& ~~~63) →
      (s.plotOf id ≠ none → exec (.plotMake tva) s = done s 4) ∧
      (s.plotOf id = none → (∃ q ∈ s.pkg.plots, q.shares p = true) ∨ s.present p = false ∨ s.rangesIn p = false →
        exec (.plotMake tva) s = done s 3) ∧
      (s.plotOf id = none → (∀ q ∈ s.pkg.plots, q.shares p = false) → s.present p = true → s.rangesIn p = true →
        ∃ t, exec (.plotMake tva) s = done t 1 ∧ t.pkg.plots = s.pkg.plots ++ [p] ∧
          (∀ b, p.trellis ≤ b → b < p.trellis + 64 * 2 ^ p.tsz → t.mem.read (s.home b) = 0) ∧
          (∀ x, (∀ b, p.trellis ≤ b → b < p.trellis + 64 * 2 ^ p.tsz → x ≠ s.home b) → t.mem.read x = s.mem.read x) ∧
          (∀ w ∈ t.pkg.wm, w.1 < p.wmFirst ∨ p.wmFirst + p.wmCount ≤ w.1) ∧
          (∀ w ∈ t.pkg.pred, w.1 < p.predFirst ∨ p.predFirst + p.predCount ≤ w.1))) ∧
    (∀ p, PlotCmd s 2 8 p →
      ((∃ c ∈ s.cts, c.plot = p.id ∧ c.status ≠ .ended) ∨ (∃ l ∈ s.pkg.launches, l.plot = p.id ∧ l.fin = 0) →
        exec .plotFree s = done s 4) ∧
      ((∀ c ∈ s.cts, c.plot = p.id → c.status = .ended) → (∀ l ∈ s.pkg.launches, l.plot = p.id → l.fin ≠ 0) →
        ∃ t, exec .plotFree s = done t 1 ∧ t.plotOf p.id = none ∧ t.pkg.plots = s.pkg.plots.filter (fun q => q.id != p.id) ∧ t.mem = s.mem)) ∧
    (∀ p, PlotCmd s 3 32 p → s.arg 0 < 256 → s.arg 1 % 0x40000 = 0 → s.arg 1 ≤ 0x200000 → s.arg 2 % 0x20000 = 0 → s.arg 2 ≤ s.arg 1 →
      p.clusters.getLsbD (s.arg 0 / 8) = true → (s.coreCfg (s.arg 0)).lg ≠ 0 →
      (∀ c ∈ s.cts, c.inSlot = true → coreOf c.id ≠ s.arg 0) →
      ∃ t, exec .corecfg s = done t 1 ∧ t.coreCfg (s.arg 0) = ⟨(s.coreCfg (s.arg 0)).lg, s.arg 2, s.arg 1 - s.arg 2⟩ ∧
        (∀ k, k ≠ s.arg 0 → t.coreCfg k = s.coreCfg k) ∧ t.cts = s.cts ∧ t.mem = s.mem) ∧
    -- a stopped CT that keeps its slot; its record has been posted
    (∀ p c, PlotCmd s 4 24 p → s.arg 1 = 2 ^ 64 - 1 → s.cts.find? (fun c => c.plot = p.id && c.ctx = s.arg 0 && c.status != .ended) = some c →
      c.status = .stopped → s.mayResume c = true → c.size ≤ 1 → p.clusters.getLsbD (clusterOf c.id) = true →
      (s.coreCfg (coreOf c.id)).lg = c.lg → c.lg ≠ 0 → c.scratch ≤ s.ssOf (coreOf c.id) (slotOf c.id) →
      s.slotKept c.id (some (c.launch, c.gang)) = false →
      ∃ t d, exec .resume s = done t 1 ∧ t.ofKey c.key = some d ∧ d.status = .running ∧ d.id = c.id ∧ d.frec = none ∧ d.next = false ∧
        t.mem = s.mem ∧ d.ex.pc = (BitVec.ofNat 64 (s.readHome (p.ctxBase + 0x320000 * c.ctx) 8) &&& ~~~3) +
          (if c.next = true ∧ (c.frec.map (·.acc)).getD false = false then 4 else 0)) ∧
    -- a stopped member of a gang keeps to the cluster of its gang (R241, R242, R395)
    (∀ p c, PlotCmd s 4 24 p → s.arg 1 < 256 → p.clusters.getLsbD (s.arg 1 / 8) = true →
      s.cts.find? (fun c => c.plot = p.id && c.ctx = s.arg 0 && c.status != .ended) = some c →
      c.status = .stopped → s.mayResume c = true → 1 < c.size → clusterOf c.id ≠ s.arg 1 / 8 → exec .resume s = done s 4) ∧
    (∀ p, PlotCmd s 5 16 p → Unheld s .preempt → s.arg 0 < 1024 → p.clusters.getLsbD (s.arg 0 / 32) = true →
      (s.ctOf (BitVec.ofNat 10 (s.arg 0)) = none → exec .preempt s = done s 4) ∧
      (∀ c, s.ctOf (BitVec.ofNat 10 (s.arg 0)) = some c →
        exec .preempt s = done (((s.gang c.launch c.gang).filter Ct.inSlot).foldl (fun (t : State) d =>
          (t.park d).unitStore (ringAt s.pkg.ring + 0x10 + 4 * d.rank) 4 d.ctx) s) 1)) ∧
    (∀ p l, PlotCmd s 6 24 p → s.launchOf (s.arg 0) = some l → l.plot = p.id →
      (l.fin ≠ 0 → exec .abandon s = done s 4) ∧
      (l.fin = 0 → s.arg 1 = 0 → (∀ c ∈ s.cts, c.launch = l.id → c.status = .ended) → (∀ q ∈ s.pkg.prov, q.launch ≠ l.id) →
        l.d.done = 0 → l.run = none →
        exec .abandon s = done (s.setLaunch { l with
          aband := true, closed := true, unrec := [], halted := (l.halted ++ l.unrec.map (·.1)).filter (fun g => !l.isProv g), fin := 2,
          todo := [], graft := [] }).tables 1) ∧
      -- while its completion record waits for a copy's claim, so does the command (R261)
      (∀ pa ty, l.fin = 0 → s.arg 1 = 0 → (∀ c ∈ s.cts, c.launch = l.id → c.status = .ended) → (∀ q ∈ s.pkg.prov, q.launch ≠ l.id) →
        l.d.done ≠ 0 → s.walkHeld l.via l.d.done = false → canonical l.d.done = true → va55 l.d.done + 16 ≤ clusterBase →
        s.resolve l.via l.d.done 16 .store = .ok (.phys pa ty) → ty < 2 → s.lineClaimed (lineOf pa) .store = true →
        exec .abandon s = .next (s.setLaunch { l with
          aband := true, closed := true, unrec := [], halted := (l.halted ++ l.unrec.map (·.1)).filter (fun g => !l.isProv g),
          todo := [], graft := [] })) ∧
      (∀ g, l.fin = 0 → s.arg 1 = g + 1 → g < max l.count l.d.floor → l.halted.contains g = false →
        let unrec := l.unrec.filter (fun x => x.1 != g)
        exec .abandon s = done ((s.prune l.id g).setLaunch { l with
          aband := true, todo := l.todo.filter (· != g), graft := l.graft.filter (· != g), unrec := unrec,
          counted := some (l.counted.getD ((l.halted ++ unrec.map (·.1)).filter (fun h => !l.isProv h)).length),
          spec := l.spec.map (fun x => { x with
            toCommit := x.toCommit.filter (· != g), parked := x.parked.filter (· != g) }) }) 1)) ∧
    (∀ p c y, PlotCmd s 0xA 24 p → s.arg 0 < 1024 → p.clusters.getLsbD (s.arg 0 / 32) = true →
      s.ctOf (BitVec.ofNat 10 (s.arg 0)) = some c → c.copies.find? (fun y => y.ticket = s.arg 1) = some y → s.pkg.reqs = [] →
      (y.err = none → exec .cancel s = done s 4) ∧
      (y.err ≠ none → exec .cancel s = done ((s.releaseFar c.plot y.far).onKey c.key fun d => { d with copies := d.copies.map fun z =>
        if z.ticket = y.ticket then
          { y with done := true, err := none, pages := [], todo := [], held := [], claims := [], far := [] }
        else z }) 1))

/-- The commands on memory, the trellis and the tables (R228, R260, R313, R319, R350, R351, R368, R377), where they succeed. The
arguments (log 35), that INVAL waits for the address space's accesses and drops their answers (log 91), and that QUEUE drops the
queue's requests (log 29) are the model's readings. -/
def Obligations.MemoryAndTableCommands : Prop :=
  ∀ s : State,
    (∀ p, let a := BitVec.ofNat 64 (s.arg 0); let b := BitVec.ofNat 64 (s.arg 1)
      PlotCmd s 7 32 p → Unheld s .inval → canonical a = true → canonical b = true → va55 a ≤ va55 b → 1 ≤ s.arg 2 → s.arg 2 ≤ 255 →
      s.pkg.migr = [] →
      let tlb := s.pkg.tlb.filter fun t =>
        !(t.plot = p.id && t.aspace = s.arg 2 && decide (va55 a / 0x10000 ≤ t.page ∧ t.page < (va55 b + 0xFFFF) / 0x10000))
      (∃ t, exec .inval s = done t 1 ∧ t.pkg.tlb = tlb ∧ t.time = s.time ∧ t.pkg.plots = s.pkg.plots ∧
        ∀ r ∈ t.pkg.reqs, r ∈ s.pkg.reqs ∧ (r.op = .read → t.reqIn p.id (s.arg 2) r = false)) ∧
      ((∀ c ∈ s.cts, c.copies = [] ∧ c.sbuf = [] ∧ c.looks = []) → (∀ c ∈ s.others, c.plot = p.id → c.aspace = s.arg 2 → c.status = .ended) →
        s.pkg.reqs = [] → exec .inval s = done { s with pkg := { s.pkg with tlb := tlb } } 1)) ∧
    (∀ p, let old := s.ownPa (s.arg 0); let new := s.ownPa (s.arg 1)
      PlotCmd s 8 24 p → old % 0x10000 = 0 → new % 0x10000 = 0 → old ≠ new →
      (s.inUnits p.memory old 0x10000 = false ∨ s.inUnits p.memory new 0x10000 = false → exec .migrate s = done s 3) ∧
      (s.inUnits p.memory old 0x10000 = true → s.inUnits p.memory new 0x10000 = true →
        (∀ m ∈ s.pkg.migr, m.old ≠ old ∧ m.old ≠ new ∧ m.new ≠ old ∧ m.new ≠ new) →
        exec .migrate s = .next { s with pkg := { s.pkg with migr := ⟨p.id, old, new, 0, some s.pkg.ring⟩ :: s.pkg.migr } })) ∧
    (∀ p (n : Node), PlotCmd s 9 16 p → Unheld s .sweep → s.arg 0 ≠ 0 → s.arg 0 < 2 ^ p.tsz → s.coordNode p (s.arg 0) = some n →
      (n.retired = false → exec .sweep s = done s 4) ∧
      (n.retired = true → exec .sweep s = done (s.publish p (s.arg 0) (mkNode 0 0 0 (n.version + 1) 0 0)) 1)) ∧
    (∀ p, PlotCmd s 9 16 p → Unheld s .sweep → s.arg 0 = 0 ∨ 2 ^ p.tsz ≤ s.arg 0 → exec .sweep s = done s 2) ∧
    (∀ p, let from_ := s.ownPa (s.arg 1)
      PlotCmd s 0xE 24 p → Unheld s .trellisRepair → from_ % 128 = 0 → s.arg 0 / 2 * 2 + 1 < 2 ^ p.tsz → s.inUnits p.memory from_ 128 = true →
      s.poisoned (s.home from_) = false → s.plotOf p.id = some p →
      let a := s.home (p.trellis + 64 * (s.arg 0 / 2 * 2))
      ∃ t, exec .trellisRepair s = done t 1 ∧ t.mem.readN a 128 = s.mem.readN (s.home from_) 128 ∧
        (∀ b, b < a ∨ a + 128 ≤ b → t.mem.read b = s.mem.read b) ∧ t.plotOf p.id = some { p with seq := ((p.seq + 1) % 2 ^ 32 + 1) % 2 ^ 32 }) ∧
    -- host queues
    (Cmd s 0xB 32 → Unheld s .queue → s.arg 0 ≤ 63 → s.ownPa (s.arg 1) = 0 → exec .queue s = done { s with pkg := { s.pkg with
      queues := s.pkg.queues.map fun h => if h.q = s.arg 0 then { h with running := false } else h } } 1) ∧
    (∀ v, let h := queueOf (s.arg 0) v (s.arg 2); let a := s.ownPa (s.arg 1)
      Cmd s 0xB 32 → Unheld s .queue → s.arg 0 ≤ 63 → a ≠ 0 → a % 64 = 0 → s.inStack a = true → s.poisoned (s.home a) = false →
      v = s.mem.readN (s.home a) 64 → queueOk v = true → s.plotOf h.plot ≠ none →
      exec .queue s = done { s with pkg := { s.pkg with
        queues := h :: s.pkg.queues.filter fun x => x.q != s.arg 0,
        reqs := s.pkg.reqs.filter fun r => decide (r.key % 2 ^ 40 / 4 ≠ 2 ^ 36 + 16 + s.arg 0) } } 1) ∧
    -- grants, the host window table, the address windows
    (∀ p, let i := s.cmdBytes 8 1; let acc := s.cmdBytes 0xB 1; let n := s.cmdBytes 0xC 4; let base := s.cmdBytes 0x10 8
      let set := fun (l : List Grant) => done { s with pkg := { s.pkg with grants := l } } 1
      let rest := s.pkg.grants.filter fun x => x.idx != i
      PlotCmd s 0xD 24 p → i ≤ 63 →
      (acc = 0 → exec .grant s = set rest) ∧
      (1 ≤ acc → acc ≤ 3 → 1 ≤ s.cmdBytes 9 1 → s.cmdBytes 9 1 ≤ 31 → s.cmdBytes 0xA 1 ≤ 7 → base % 0x10000 = 0 → 1 ≤ n → base < 2 ^ 47 →
        s.inUnits p.memory base (n * 0x10000) = true →
        exec .grant s = set (⟨i, s.cmdBytes 9 1, s.cmdBytes 0xA 1, p.id, acc, n, base⟩ :: rest))) ∧
    (∀ p, let i := s.cmdBytes 8 1; let acc := s.cmdBytes 9 1; let n := s.cmdBytes 0xC 4; let off := s.cmdBytes 0x10 8
      let pa := s.ownPa (s.cmdBytes 0x18 8)
      let set := fun (l : List HostWin) => done { s with pkg := { s.pkg with hostWins := l } } 1
      let rest := s.pkg.hostWins.filter fun x => x.idx != i
      PlotCmd s 0xF 32 p → i ≤ 15 → s.cmdBytes 0xA 2 = 0 →
      (acc = 0 → exec .hostwin s = set rest) ∧
      (1 ≤ acc → acc ≤ 3 → off % 0x10000 = 0 → 1 ≤ n → pa % 0x10000 = 0 → off + n * 0x10000 ≤ 64 * 2 ^ 30 →
        (∀ x ∈ rest, off + n * 0x10000 ≤ x.off ∨ x.off + x.size * 0x10000 ≤ off ∨ x.size = 0) →
        s.inUnits p.memory pa (n * 0x10000) = true → exec .hostwin s = set (⟨i, acc, n, off, pa⟩ :: rest))) ∧
    (∀ p, let i := s.cmdBytes 8 1; let acc := s.cmdBytes 9 1; let asp := s.cmdBytes 0xA 2; let n := s.cmdBytes 0xC 4; let base := s.cmdBytes 0x10 8
      let set := fun (l : List AddrWin) => done { s with pkg := { s.pkg with wins := l } } 1
      let rest := s.pkg.wins.filter fun x => !(x.plot = p.id && x.idx = i)
      PlotCmd s 0x10 24 p → i ≤ 63 →
      (acc = 0 → exec .addrwin s = set rest) ∧
      (1 ≤ acc → acc ≤ 3 → 1 ≤ asp → asp ≤ 255 → base % 0x10000 = 0 → 1 ≤ n →
        exec .addrwin s = set (⟨p.id, i, acc, asp, n, base⟩ :: rest)))

/-! ### Host queues, firmware, the fabric -/

namespace Sys2Proof.Stmt
open Sys2Proof Sys2Proof.Machine

/-- Queue q runs and its kick covers its next packet p, which stands in main memory (R350, R354). -/
structure Packet (s : State) (q : BitVec 6) (h : HostQ) (p : Nat) : Prop where
  queue : s.hostQ q.toNat = some h
  run : h.running = true
  pend : h.pend = none
  free : s.lineClaimed (lineOf (s.home (h.base + 64 * (h.next % 2 ^ h.logn)))) .load = false
  clean : s.poisoned (s.home (h.base + 64 * (h.next % 2 ^ h.logn))) = false
  kicked : h.next < (s.pkg.kick.toList.getD q.toNat 0).toNat
  home : s.home (h.base + 64 * (h.next % 2 ^ h.logn)) < mainEnd
  bytes : p = s.mem.readN (s.home (h.base + 64 * (h.next % 2 ^ h.logn))) 64
/-- The opcode of the packet that an event performs (R353). -/
def packetOf : BitVec 6 → Instr → Option Nat
  | q, .launchPacket r => if q = r then some 1 else none
  | q, .graphLoad r => if q = r then some 2 else none
  | q, .graphUnload r => if q = r then some 3 else none
  | q, .graphRun r => if q = r then some 4 else none
  | q, .waitPacket r => if q = r then some 5 else none
  | q, .signal r => if q = r then some 6 else none
  | _, _ => none
/-- The packet has arrived, is the one of an opcode, and its head passes (R352, R353, R354). -/
def HeadOk (h : HostQ) (p op : Nat) : Prop :=
  recBytes p 2 2 = (h.next + 1) % 2 ^ 16 ∧ recBytes p 0 1 = op ∧ h.opmask.testBit op = true ∧ recBytes p 1 1 = h.ver ∧ reservedOk p = true
/-- The queue goes on to its next packet. -/
def nextPacket (t : State) (h : HostQ) : Res := .next (t.setQ { h with next := h.next + 1, first := none, pend := none })

/-- A flit that a port takes: the port is there and is up (a capability flit comes to one that is down too); type, SEQ and CRC are
right. -/
def FlitOk (s : State) (port : BitVec 4) (q : Port) (f : BitVec 2048) (type : Nat) : Prop :=
  s.pkg.ports.toList[port.toNat]? = some q ∧ (q.up = true ∨ type = 5) ∧ Flit.type f = type ∧ Flit.crcOf f = Flit.crc f ∧ Flit.seq f = q.rx
/-- The port has taken f: its SEQ has come, the flits that its ACK covers are gone from the retry buffer. -/
def took (q : Port) (f : BitVec 2048) : Port :=
  { q with rx := q.rx + 1, nak := none, retry := q.retry.filter fun x => decide (32768 ≤ (Flit.ack f - x.seq).toNat) }
def portNow (s : State) (port : BitVec 4) (q : Port) : State :=
  { s with pkg := { s.pkg with ports := s.pkg.ports.setIfInBounds port.toNat q } }
/-- The flits of each type, as they arrive. -/
noncomputable def flitEvents (port : BitVec 4) (f : BitVec 2048) : List (Nat × Instr) :=
  [(0, .dataFlit port f), (1, .nakFlit port f), (2, .pauseFlit port f), (3, .resumeFlit port f), (4, .idleFlit port f),
    (5, .capabilityFlit port f)]
/-- n bytes written at their home by another agent: the lines they fill are clean again, WAITs on their lines wake. -/
def wroteAt (s : State) (pa n x : Nat) : State :=
  (s.homeLines pa n).foldl (fun (t : State) l => t.wakeLine l none)
    ((s.writeHome pa n x).clearLines ((List.range n).map fun i => (s.home (pa + i), 1)))
/-- The next of the coordinator's commands is a COLLECT whose operands no copy claims. -/
def CollectCmd (s : State) (p : Plot) : Prop := PlotCmd s 0xC 16 p ∧ s.paBusy (s.arg 0) .load = false

end Sys2Proof.Stmt

open Sys2Proof Sys2Proof.Machine Sys2Proof.Stmt

/-- Host queues and graph runs (R350 to R354, R356, R358, R366): kicks and BAR0, stamps, heads that fail, each packet's effect, the
record that a packet or a stopped queue leaves. That ERR is a physical address and ASPACE 0 the queue's own address space (log 42),
and that a kick stays behind the host's earlier accesses (log 99), are the model's readings. -/
def Obligations.HostQueueEvents : Prop :=
  (∀ s : State,
    ((∀ y ∈ s.pkg.inbound, y.src ≠ none) →
      (∀ q k, q < 64 →
        exec (.queueKick (0x1000 + 8 * q) (some k)) s = .next { s with pkg := { s.pkg with kick := s.pkg.kick.setIfInBounds q k } }) ∧
      (∀ q, q < 64 → exec (.queueKick (0x1000 + 8 * q) none) s =
        .next { s with pkg := { s.pkg with hostOut := .val (s.pkg.kick.toList.getD q 0).toNat } }) ∧
      (∀ o, o < 0x1000 ∨ 0x1200 ≤ o ∨ o % 8 ≠ 0 →
        exec (.queueKick o none) s = .next { s with pkg := { s.pkg with hostOut := .val 0 } } ∧
        ∀ k, exec (.queueKick o (some k)) s = .next s)) ∧
    -- behind an earlier access of the host that waits, a kick waits too (R367; log 99)
    (∀ q k, q < 64 → (∃ y ∈ s.pkg.inbound, y.src = none) → exec (.queueKick (0x1000 + 8 * q) (some k)) s =
      .next { s with pkg := { s.pkg with inbound := s.pkg.inbound ++ [⟨none, regBase + (0x1000 + 8 * q), 8, .write k.toNat⟩] } })) ∧
  -- the records
  (∀ (t : State) (h : HostQ),
    (∀ a n x pa ty, t.walkHeld (viaOf h.plot h.aspace) a = false →
      t.globalPlace (viaOf h.plot h.aspace) a n .store = .ok (.phys pa ty) → ty < 2 → pa < mainEnd →
      t.lineClaimed (lineOf pa) .store = false →
      t.result h a n x = (t.unitStore pa n x).setQ { h with next := h.next + 1, first := none, pend := none }) ∧
    (∀ p code reason, let a := t.home h.err.toNat
      a < mainEnd → t.lineClaimed (lineOf a) .store = false → t.stopQueue h p code reason =
        (((t.unitStore a 32 (t.time.toNat + 2 ^ 64 * code + 2 ^ 72 * reason + 2 ^ 80 * h.q + 2 ^ 96 * (h.next % 2 ^ 32) +
          2 ^ 128 * (p % 2 ^ 128))).setQ { h with running := false, first := none, pend := none }).logKind 3 code 1 h.q h.next 0).interrupt 1)) ∧
  (∀ (s : State) (q : BitVec 6) h p, Packet s q h p → s.pkg.reqs = [] →
    let early := s.setQ { h with first := some (h.first.getD s.time) }
    let space := viaOf h.plot h.aspace
    (recBytes p 2 2 = (h.next + 1) % 2 ^ 16 → exec (.packetStampRetry q) s = .next s ∧ exec (.queueStale q) s = .next s) ∧
    (recBytes p 2 2 ≠ (h.next + 1) % 2 ^ 16 →
      exec (.packetStampRetry q) s = .next early ∧ (∀ i op, packetOf q i = some op → exec i s = .next early) ∧
      (h.first = none → exec (.queueStale q) s = .next early) ∧
      (∀ t, h.first = some t → exec (.queueStale q) s =
        .next (if 1000000 ≤ (s.time - t).toNat then s.stopQueue h p 0x0F 0 else s))) ∧
    (∀ i op, packetOf q i = some op → recBytes p 2 2 = (h.next + 1) % 2 ^ 16 → recBytes p 0 1 = op →
      (h.opmask.testBit op = false → exec i s = .next (s.stopQueue h p 0x10 1)) ∧
      (h.opmask.testBit op = true → recBytes p 1 1 ≠ h.ver → exec i s = .next (s.stopQueue h p 0x10 2)) ∧
      (h.opmask.testBit op = true → recBytes p 1 1 = h.ver → reservedOk p = false → exec i s = .next (s.stopQueue h p 0x10 3))) ∧
    -- LAUNCH
    (∀ x pl w, HeadOk h p 1 → s.objectOk h (field p 8) 128 false = true → (field p 8).toNat % 128 = 0 →
      s.readRange space (queuePort h.q 1) (field p 8) 128 = .ok (x, s) → s.plotOf h.plot = some pl →
      ((descOf x).argsAt = 0 ∧ w = 0 ∨ (descOf x).argsAt ≠ 0 ∧ s.objectOk h (descOf x).argsAt 80 false = true ∧
        s.readRange space (queuePort h.q 1) (descOf x).argsAt 80 = .ok (w, s)) →
      ((descOf x).done = 0 ∨ s.objectOk h (descOf x).done 16 true = true) →
      descOk x = true → plainOk x = true → s.residentOk pl (descOf x) = true → (descOf x).aspace = 0 ∨ (descOf x).aspace = h.aspace →
      s.rootOf pl h.aspace ≠ 0 → s.lineClaimed (s.rootLine pl h.aspace) .load = false → s.queued (8 + h.q) < 256 →
      exec (.launchPacket q) s = nextPacket (s.enqueue h.plot (8 + h.q) { descOf x with aspace := h.aspace, cls := h.cls } (argsOf w) none
        (descOf x).ngang none).1 h) ∧
    -- GRAPH_LOAD, GRAPH_UNLOAD, GRAPH_RUN
    (HeadOk h p 2 → loadRanges h p s = true →
      let size := recBytes p 0x10 8
      let done := fun (r : Nat × Nat × State) =>
        (Host.Outcome.next (r.2.2.result h (field p 0x20) 16 (s.time.toNat + 2 ^ 64 * r.1 + 2 ^ 96 * r.2.1)) : Res)
      (∀ v, s.readRange space (queuePort h.q 1) (field p 8) size = .ok (v, s) →
        (s.extentOk h p v = false → exec (.graphLoad q) s = .next (s.stopQueue h p 0x10 4)) ∧
        (s.extentOk h p v = true → exec (.graphLoad q) s = done (s.loadBytes h.plot h.aspace v size (field p 0x18)))) ∧
      (∀ c, s.readRange space (queuePort h.q 1) (field p 8) size = .flt c s → exec (.graphLoad q) s = done (s.refuseLoad (3, none)))) ∧
    (∀ code, HeadOk h p code → code = 3 ∨ code = 4 → (field p 0x10).toNat % 16 = 0 → s.objectOk h (field p 0x10) 16 true = true →
      let g := recBytes p 8 4
      (code = 3 → exec (.graphUnload q) s = .next ((s.unloadGraph h.plot g).2.result h (field p 0x10) 16
        (s.time.toNat + 2 ^ 64 * (s.unloadGraph h.plot g).1 + 2 ^ 96 * g))) ∧
      (code = 4 → (∀ x ∈ s.pkg.graphs, x.plot = h.plot → x.handle ≠ g) →
        exec (.graphRun q) s = .next (s.result h (field p 0x10) 16 (s.time.toNat + 2 ^ 64 * 7))) ∧
      (∀ x, code = 4 → s.pkg.graphs.find? (fun x => x.plot = h.plot && x.handle = g && !x.launches.isEmpty) = some x →
        let r : Run := ⟨s.pkg.nextRun, g, h.plot, 8 + h.q, h.aspace, field p 0x10, x.launches.map fun _ => .waiting, none⟩
        exec (.graphRun q) s = nextPacket
          (State.stepRun { s with pkg := { s.pkg with runs := s.pkg.runs ++ [r], nextRun := s.pkg.nextRun + 1 } } r) h)) ∧
    -- WAIT and SIGNAL
    (∀ pa, HeadOk h p 5 → (field p 8).toNat % 8 = 0 → s.objectOk h (field p 8) 8 false = true → s.queuePlace h (field p 8) .load = some pa →
      s.queueHeld h (field p 8) = false → pa < mainEnd → s.lineClaimed (lineOf pa) .load = false → s.poisoned pa = false →
      exec (.waitPacket q) s = if (field p 0x10).toNat ≤ s.mem.readN pa 8 then nextPacket s h else .next s) ∧
    (∀ pa, HeadOk h p 6 → (field p 8).toNat % 8 = 0 → s.objectOk h (field p 8) 8 true = true →
      ((∃ l ∈ s.pkg.launches, l.queue = 8 + h.q ∧ l.fin = 0) ∨ (∃ r ∈ s.pkg.runs, r.queue = 8 + h.q) → exec (.signal q) s = .next s) ∧
      ((∀ l ∈ s.pkg.launches, l.queue = 8 + h.q → l.fin ≠ 0) → (∀ r ∈ s.pkg.runs, r.queue ≠ 8 + h.q) →
        s.queueHeld h (field p 8) = false → s.queuePlace h (field p 8) .store = some pa → pa < mainEnd → s.lineClaimed (lineOf pa) .store = false →
        exec (.signal q) s = nextPacket (s.unitStore pa 8 (recBytes p 0x10 8)) h))) ∧
  -- what loading and unloading come to (R356, R358)
  (∀ (s : State) plot asp n base p v, s.plotOf plot = some p →
    let load := s.loadBytes plot asp v n base
    let refused := fun code => load.1 = code ∧ load.2.2 = { s with draws := s.draws + 1 }
    (recBytes v 0 4 ≠ 0x4B504759 ∨ recBytes v 4 2 ≠ 1 → refused 1) ∧
    (recBytes v 0 4 = 0x4B504759 → recBytes v 4 2 = 1 → n < recBytes v 0xC 4 + 3373 → refused 2) ∧
    -- refusal 4 gives the type (R356), in the field HANDLE (the model's reading, log 84)
    (∀ t, checkPackage s p v n base asp = .error (4, some t) → load = (4, t, s))) ∧
  (∀ (s : State) plot g, (∀ x ∈ s.pkg.graphs, x.plot = plot → x.handle ≠ g) → s.unloadGraph plot g = (7, s)) ∧
  (∀ (s : State) plot g x, s.pkg.graphs.find? (fun x => x.plot = plot && x.handle = g) = some x →
    ((∃ r ∈ s.pkg.runs, r.plot = plot ∧ r.handle = g) → s.unloadGraph plot g = (6, s)) ∧
    ((∀ r ∈ s.pkg.runs, r.plot = plot → r.handle ≠ g) → (s.unloadGraph plot g).1 = 0 ∧
      ∀ y ∈ (s.unloadGraph plot g).2.pkg.graphs, y.plot = plot → y.handle ≠ g))

/-- System-core interrupts, boot, lease, heartbeats, sensors, attestation (R342, R343, R347 to R349, R359 to R362). Values that the
spec leaves open (INFO of an interrupt, contents of SPDM responses, the layout of a failed boot's status) are free values (log 48).
The clearing of a taken interrupt and the return past HALT (log 54) and the hub clock of 3000 MHz (log 3) are the model's readings. -/
def Obligations.FirmwareEvents : Prop :=
  ∀ s : State,
    (∀ (n : BitVec 4) (src : BitVec 3), let c := s.sysCore n.toNat
      c.st.halted = false → c.st.wait = none → (if c.pl = 2 then c.fs.ie else c.xs.ie) = true →
      (if src.toNat = 5 then c.xtimecmp ≤ s.time else src.toNat < 5 ∧ c.irq.getLsbD src.toNat = true) →
      let back := if c.waiting then c.st.pc + 4 else c.st.pc
      let cause := 0x8000000000000080 + BitVec.ofNat 64 src.toNat
      let d := { c with waiting := false, irq := if src.toNat < 5 then c.irq &&& ~~~(1#5 <<< src.toNat) else c.irq }
      exec (.interrupt n src) s = .next { s.setSys n.toNat (if c.pl = 2 then
          { d with st := { c.st with pc := c.fs.vec }, pl := 2, fs := ⟨c.fs.ie, false, 2, c.fs.vec, back, cause, Config.freeValue s.draws⟩ }
        else
          { d with st := { c.st with pc := c.xs.vec }, pl := 1, xs := ⟨c.xs.ie, false, c.pl, c.xs.vec, back, cause, Config.freeValue s.draws⟩ })
        with draws := s.draws + 1 }) ∧
    (∀ n : BitVec 4, let d := (s.sysCore n.toNat).xtimecmp
      exec (.timerInterrupt n) s = .next { s with time := if s.time ≤ d then d else s.time }) ∧
    -- boot: copy A, else copy B; system core 0 starts at the supervisor's entry point; the fuse counter rises at firmware level alone, up
    -- to the running manifest's security version
    (∀ n rest, let b := s.pkg.boot
      b.booted = true → (b.raises = [] → exec .boot s = .next s) ∧
      (b.raises = n :: rest →
        (b.fuse < n → n ≤ b.secver → (∃ c ∈ s.sys.toList, c.pl = 2 ∧ c.st.halted = false) →
          exec .boot s = .next { s with pkg := { s.pkg with boot := { b with raises := rest, fuse := n } } }) ∧
        (n ≤ b.fuse ∨ b.secver < n ∨ (∀ c ∈ s.sys.toList, c.pl = 2 → c.st.halted = true) →
          exec .boot s = .next { s with pkg := { s.pkg with boot := { b with raises := rest } } }))) ∧
    (∀ o, s.pkg.boot.booted = false → (o = 0 ∧ s.copyOk 0 = true ∨ o = 512 * 2 ^ 20 ∧ s.copyOk 0 = false ∧ s.copyOk o = true) →
      ∃ t, exec .boot s = .next t ∧ t.pkg.boot.booted = true ∧
        t.pkg.boot.digests = ((s.entries o).filter (fun e => e.type ≠ 5)).map (·.digest) ∧
        t.pkg.boot.secver = s.flashN (o + 8) 4 ∧ t.ct = s.ct ∧
        (∀ e, (s.entries o).find? (fun e => e.type = 3) = some e → (t.sysCore 0).st.pc = BitVec.ofNat 64 e.entry &&& ~~~3 ∧ (t.sysCore 0).st.halted = false) ∧
        (∀ e, (s.entries o).find? (fun e => e.type = 5) = some e → t.pkg.boot.region = (e.load, e.size))) ∧
    (s.pkg.boot.booted = false → s.copyOk 0 = false → s.copyOk (512 * 2 ^ 20) = false → exec .boot s = .next { s with
      pkg := { s.pkg with boot := { s.pkg.boot with status := Config.bootCode 1 2 (s.failAt (512 * 2 ^ 20)) } } }) ∧
    -- the firmware cores
    (∀ d : BitVec 3, let k := d.toNat; let c := s.fwCore k
      let taken := ((s.time + 5000000) &&& ~~~7) ||| BitVec.ofNat 64 k
      let hold := (s.unitStore 0x400000000000 8 taken.toNat).setFw k { c with leader := true, seen := taken }
      s.pkg.boot.booted = true → k < 5 → c.halted = false →
      (c.leader = true → s.lease = c.seen → exec (.leaseRenew d) s = .next hold) ∧
      (c.leader = true → s.lease ≠ c.seen → exec (.leaseRenew d) s = .next (s.setFw k { c with leader := false })) ∧
      (c.leader = false → s.time < (s.lease &&& ~~~7) → exec (.leasePoll d) s = .next s) ∧
      (c.leader = false → (s.lease &&& ~~~7) ≤ s.time → (s.fwCore (s.lease.toNat % 8)).halted = false →
        exec (.leasePoll d) s = .next (hold.logKind 4 k 2 0 0 0)) ∧
      exec (.heartbeatWrite d) s = .next (s.unitStore (0x400000000008 + 8 * k) 8 s.time.toNat) ∧
      exec (.firmwareEccHalt d) s = .next ((s.setFw k { c with halted := true, leader := false }).logKind 4 k 1 0 0 0) ∧
      (∀ e : BitVec 3, let beat := BitVec.ofNat 64 (s.mem.readN (0x400000000008 + 8 * e.toNat) 8)
        c.leader = true → k ≠ e.toNat → e.toNat < 5 → s.time.toNat + 1000000 < (c.seen &&& ~~~7).toNat →
        ((s.time - beat).toNat ≤ 5000000 → exec (.heartbeatCheck d e) s = .next s) ∧
        (5000000 < (s.time - beat).toNat → ∃ t, exec (.heartbeatCheck d e) s = .next t ∧
          t.pkg.dist = s.pkg.dist.map (fun x => if x = e.toNat then k else x) ∧ (s.pkg.boot.region.2 = 0 → t.mem = s.mem) ∧ t.ct = s.ct))) ∧
    -- sensors and clocks
    (∀ (d : BitVec 3) (n : BitVec 4) x, d.toNat < 5 →
      let t := { s with pkg := { s.pkg with temps := (d.toNat * 16 + n.toNat, x) :: s.pkg.temps.filter fun p => p.1 != d.toNat * 16 + n.toNat } }
      (x < 12000 → exec (.sensorRead d (.temp n x)) s = .next t) ∧
      (12000 ≤ x → ∃ u, exec (.sensorRead d (.temp n x)) s = .next u ∧ u.powered = false) ∧
      (∀ k mv nom, (20 * mv < 19 * nom ∨ 21 * nom < 20 * mv → ∃ u, exec (.sensorRead d (.rail k mv nom)) s = .next u ∧ u.powered = false) ∧
        (19 * nom ≤ 20 * mv → 20 * mv ≤ 21 * nom → exec (.sensorRead d (.rail k mv nom)) s = .next s))) ∧
    (∀ d : BitVec 3, d.toNat < 5 → let clk := s.pkg.clock.toList.getD d.toNat 0; let full := if d.toNat = 4 then 3000 else 1200
      ((∃ p ∈ s.pkg.temps, p.1 / 16 = d.toNat ∧ 10500 ≤ p.2) → 400 < clk →
        ∃ t, exec (.clockStep d) s = .next t ∧ t.pkg.clock = s.pkg.clock.setIfInBounds d.toNat (max 400 (clk - 100))) ∧
      ((∀ p ∈ s.pkg.temps, p.1 / 16 = d.toNat → p.2 < 10000) → clk < full →
        ∃ t, exec (.clockStep d) s = .next t ∧ t.pkg.clock = s.pkg.clock.setIfInBounds d.toNat (min full (clk + 100))) ∧
      ((∃ p ∈ s.pkg.temps, p.1 / 16 = d.toNat ∧ 10000 ≤ p.2) → (∀ p ∈ s.pkg.temps, p.1 / 16 = d.toNat → p.2 < 10500) →
        exec (.clockStep d) s = .next s)) ∧
    -- attestation
    (s.pkg.boot.booted = true →
      let ans := fun k => (Host.Outcome.next { s with
        draws := s.draws + 1, pkg := { s.pkg with doe := .other k (Config.freeValue s.draws) } } : Res)
      exec .getVersion s = ans 0 ∧ exec .getCapabilities s = ans 1 ∧ exec .negotiateAlgorithms s = ans 2 ∧ exec .getDigests s = ans 3 ∧
      exec .getCertificate s = ans 4 ∧ exec .challenge s = ans 5 ∧ (∀ i nonce, i ≠ 0xF0 → exec (.getMeasurements i nonce) s = ans 6) ∧
      ∀ nonce, let ds := s.pkg.boot.digests ++ s.pkg.graphs.map (·.digest)
        let h := Config.sha384 (44 + 48 * ds.length) (nonce.toNat + 2 ^ 256 * s.time.toNat + 2 ^ 320 * (s.pkg.boot.fuse % 2 ^ 32) +
          2 ^ 352 * ds.foldr (fun x acc => x + 2 ^ 384 * acc) 0)
        exec (.getMeasurements 0xF0 nonce) s = .next { s with pkg := { s.pkg with
          doe := .report nonce.toNat s.time s.pkg.boot.fuse ds (Config.edSign h) (Config.mlSign h) } })

/-- The host, the fabric and the collectives (R367 to R382): accesses of the host and of other modules at their home, in the order
in which they arrive, held back by a copy's claim; flits and ports; answers and time-outs of this module's requests; reductions;
time synchronisation. The form of the CRC, of a NAK's and of a capability flit's payload is presumed (log 49); a host access lies in
one window (log 51), SYNCERR is 40 ns a hop (log 53), another module's flit is not delivered (log 95), accesses of one asker keep
their order (log 99): the model's readings. -/
def Obligations.FabricEvents : Prop :=
  ∀ s : State,
    -- host accesses
    (∀ o n x pa,
      (s.hostPlace o n false = some pa → pa < regBase ∨ regEnd ≤ pa →
        let asked : Inbound := ⟨none, pa, n, .read⟩
        (s.pkg.inbound = [] → s.inboundHeld asked = false → (∀ l ∈ s.homeLines pa n, s.badLine l = false) →
          exec (.hostBar2Access o n none) s = .next (s.hostAnswer (.val (s.readHome pa n))) ∧
          exec (.cxlMemRead o n) s = .next (s.hostAnswer (.val (s.readHome pa n)))) ∧
        ((∃ y ∈ s.pkg.inbound, y.src = none) ∨ s.inboundHeld asked = true →
          let t := { s with pkg := { s.pkg with inbound := s.pkg.inbound ++ [asked] } }
          exec (.hostBar2Access o n none) s = .next t ∧ exec (.cxlMemRead o n) s = .next t)) ∧
      (s.hostPlace o n true = some pa → pa < regBase ∨ regEnd ≤ pa →
        let asked : Inbound := ⟨none, pa, n, .write x⟩
        (s.pkg.inbound = [] → s.inboundHeld asked = false →
          let t := (wroteAt s pa n x).hostAnswer (.val (s.readHome pa n))
          exec (.hostBar2Access o n (some x)) s = .next t ∧ exec (.cxlMemWrite o n x) s = .next t) ∧
        ((∃ y ∈ s.pkg.inbound, y.src = none) ∨ s.inboundHeld asked = true →
          let t := { s with pkg := { s.pkg with inbound := s.pkg.inbound ++ [asked] } }
          exec (.hostBar2Access o n (some x)) s = .next t ∧ exec (.cxlMemWrite o n x) s = .next t)) ∧
      (s.hostPlace o n false = none →
        exec (.hostBar2Access o n none) s = .next ((s.hostAnswer .unsupported).logKind 3 0 2 0 0 o) ∧
        exec (.cxlMemRead o n) s = .next ((s.hostAnswer .poison).logKind 3 1 2 0 0 o)) ∧
      (s.hostPlace o n true = none →
        exec (.hostBar2Access o n (some x)) s = .next ((s.hostAnswer .unsupported).logKind 3 0 2 0 0 o) ∧
        exec (.cxlMemWrite o n x) s = .next ((s.hostAnswer .dropped).logKind 3 2 2 0 0 o))) ∧
    -- requests of other modules
    (∀ (src : BitVec 5) (plot : BitVec 3) pa n, s.pkg.inbound = [] → s.canSendTo src.toNat 1 = true →
      -- the firmware region takes no request (R349)
      let admitted := fun rd w => (∃ g ∈ s.pkg.grants, g.admits src.toNat plot.toNat pa n rd w = true) ∧ s.meetsRegion pa n = false
      let held := fun o => s.inboundHeld ⟨some src.toNat, pa, n, o⟩
      let clean := ∀ l ∈ s.homeLines pa n, s.badLine l = false
      let old := s.readHome pa n
      let out := fun (t : State) o what => (Host.Outcome.next (t.answerTo (some src.toNat) o what) : Res)
      let waits := fun o => (Host.Outcome.next { s with pkg := { s.pkg with inbound := [⟨some src.toNat, pa, n, o⟩] } } : Res)
      (¬ admitted true false → exec (.remoteRequest src plot pa n .read) s = out s .refused [2]) ∧
      (admitted true false → held .read = true → exec (.remoteRequest src plot pa n .read) s = waits .read) ∧
      (admitted true false → held .read = false → clean → exec (.remoteRequest src plot pa n .read) s = out s (.val old) [0, old]) ∧
      (∀ l, admitted true false → held .read = false → (s.homeLines pa n).find? s.badLine = some l →
        exec (.remoteRequest src plot pa n .read) s = out (s.detectEngine l) .poison [1]) ∧
      (∀ x, (¬ admitted false true → exec (.remoteRequest src plot pa n (.write x)) s = out s .refused [2]) ∧
        (admitted false true → held (.write x) = true → exec (.remoteRequest src plot pa n (.write x)) s = waits (.write x)) ∧
        (admitted false true → held (.write x) = false →
          exec (.remoteRequest src plot pa n (.write x)) s = out (wroteAt s pa n x) (.val old) [0, old])) ∧
      (∀ b d, admitted true true → held (.amo .add b d) = false → clean → exec (.remoteRequest src plot pa n (.amo 0 b d)) s =
        out (wroteAt s pa n ((old + b) % 2 ^ (8 * n))) (.val old) [0, old]) ∧
      -- the claims of another module's copies (R379)
      (∀ d, admitted (!d) d → held (.claim d) = false → exec (.remoteRequest src plot pa n (.claim d)) s =
        out { s with pkg := { s.pkg with farClaims := s.pkg.farClaims ++ (s.homeLines pa n).map fun l => ⟨src.toNat, l, d⟩ } }
          (.val 0) [0, 0]) ∧
      (held .release = false → exec (.remoteRequest src plot pa n .release) s =
        out { s with pkg := { s.pkg with farClaims := s.pkg.farClaims.filter fun f =>
          !(f.src = src.toNat && (s.homeLines pa n).contains f.line) } } (.val 0) [0, 0])) ∧
    -- answers to this module's requests
    (∀ key ok x, exec (.remoteResponse key ok x) s = .next { s with pkg := { s.pkg with reqs := s.pkg.reqs.map fun r =>
      if r.key = key ∧ r.ans = none then { r with ans := some (if ok then .val x else .refused) } else r } }) ∧
    (∀ key, (∀ r ∈ s.pkg.reqs, r.key = key → r.ans ≠ none ∨ r.pa < 2 ^ 47) → exec (.remoteTimeout key) s = .next s) ∧
    (∀ key r rest, s.pkg.reqs = r :: rest → r.key = key → r.ans = none → 2 ^ 47 ≤ r.pa → ∃ t, exec (.remoteTimeout key) s = .next t ∧
      t.pkg.reqs.head? = some { r with ans := some .failed }) ∧
    -- flits: one that is taken, by its type; one with a bad CRC or another SEQ is rejected with a NAK for the expected SEQ
    (∀ port q f, let z := took q f
      (FlitOk s port q f 0 →
        (Flit.dest f = s.pkg.fid → exec (.dataFlit port f) s = .next (portNow s port { z with
          inbox := q.inbox ++ [(Flit.vc f, Flit.src f, Flit.payload f)] })) ∧
        (Flit.dest f ≠ s.pkg.fid → exec (.dataFlit port f) s = .next (portNow s port z))) ∧
      (FlitOk s port q f 1 → let n := (Flit.payload f).extractLsb' 0 16
        exec (.nakFlit port f) s = .next (portNow s port { z with
          replay := some n, out := (z.retry.dropWhile fun x => x.seq != n).map (·.flit) })) ∧
      (FlitOk s port q f 2 →
        (Flit.vc f = 0 ∨ Flit.vc f = 2 → exec (.pauseFlit port f) s = .next (portNow s port { z with
          paused := q.paused ||| (1#8 <<< Flit.vc f) })) ∧
        (Flit.vc f ≠ 0 → Flit.vc f ≠ 2 → exec (.pauseFlit port f) s = .next (portNow s port z))) ∧
      (FlitOk s port q f 3 → exec (.resumeFlit port f) s = .next (portNow s port { z with
        paused := q.paused &&& ~~~(1#8 <<< Flit.vc f) })) ∧
      (FlitOk s port q f 4 → exec (.idleFlit port f) s = .next (portNow s port z)) ∧
      (FlitOk s port q f 5 → let major := ((Flit.payload f).extractLsb' 0 16).toNat
        let mask := (Flit.payload f).extractLsb' 40 8
        let partner := ((Flit.payload f).extractLsb' 32 5).toNat
        ∃ t y, exec (.capabilityFlit port f) s = .next t ∧ t.pkg.ports.toList[port.toNat]? = some y ∧ y.partner = partner ∧
          (major = 1 → y.up = true ∧ y.minor = 0 ∧ y.lanes = q.lanes &&& mask) ∧ (major ≠ 1 → y.up = false) ∧
          -- a port that was down sends its own
          (q.up = false → q.due = [] → z.retry.length < 512 → y.out = [flitOf q.tx q.rx 0 5 partner s.pkg.fid
            (BitVec.ofNat 1920 (1 + 2 ^ 32 * s.pkg.fid + 2 ^ 40 * q.lanes.toNat))])) ∧
      (∀ ty i, (ty, i) ∈ flitEvents port f → s.pkg.ports.toList[port.toNat]? = some q → q.up = true →
        Flit.crcOf f ≠ Flit.crc f ∨ (Flit.type f = ty ∧ Flit.seq f ≠ q.rx) → ∃ y, exec i s = .next (portNow s port y) ∧
          y.nak = some q.rx ∧ y.rx = q.rx ∧ y.inbox = q.inbox ∧ y.paused = q.paused ∧
          (q.due = [] → q.retry.length < 512 → y.out = [flitOf q.tx (q.rx - 1) 0 1 q.partner s.pkg.fid (q.rx.setWidth 1920)] ∧
            y.retry.map (·.flit) = q.retry.map (·.flit) ++ y.out) ∧
          -- the retry buffer holds at most 512 flits: the NAK waits for room (R370)
          (q.due ≠ [] ∨ 512 ≤ q.retry.length → y.due = q.due ++ [(1, q.rx.setWidth 1920)] ∧ y.retry = q.retry ∧ y.out = [])) ∧
      (∀ bad, s.pkg.ports.toList[port.toNat]? = some q →
        (∃ t y l, exec (.linkRetrain port true bad) s = .next t ∧ t.pkg.ports.toList[port.toNat]? = some y ∧ y.up = q.up ∧
          y.lanes = q.lanes &&& ~~~bad ∧ y.replay = (q.retry.head?).map (·.seq) ∧ y.out = q.retry.map (·.flit) ++ l) ∧
        ((q.fails.filter fun x => decide ((s.time - x).toNat ≤ 10000000)).length < 2 →
          ∃ t y, exec (.linkRetrain port false bad) s = .next t ∧ t.pkg.ports.toList[port.toNat]? = some y ∧ y.up = q.up) ∧
        (2 ≤ (q.fails.filter fun x => decide ((s.time - x).toNat ≤ 10000000)).length →
          ∃ t y, exec (.linkRetrain port false bad) s = .next t ∧ t.pkg.ports.toList[port.toNat]? = some y ∧ y.up = false))) ∧
    -- collectives: every member's part is there, and all name the same reduction; the members combine in increasing fabric id
    (∀ p c, CollectCmd s p → s.collect p = .ok c → s.collectHeld c = true →
      exec .collectMemberTimeout s = .next s ∧ ∀ parts, exec (.collect parts) s = .next s) ∧
    (∀ parts p c, CollectCmd s p → s.collect p = .ok c → s.collectHeld c = false →
      let others := c.members.filter (· != s.pkg.fid)
      let sent := s.contribute c
      ((∃ m ∈ others, ∀ q ∈ parts, q.fid ≠ m) → exec (.collect parts) s = .next s) ∧
      ((∀ m ∈ others, ∃ q ∈ parts, q.fid = m) →
        ((∃ q ∈ parts, q.fid ∈ others ∧ c.same q = false) → exec (.collect parts) s = done sent 2) ∧
        ((∀ q ∈ parts, q.fid ∈ others → c.same q = true) → exec (.collect parts) s = done (((List.range c.count).foldl
          (fun (t : State) e => t.collected c e (s.reduced c parts e)) sent).wroteHome [(c.dst, c.count * c.width)]) 1)) ∧
      (∀ (t : State) e x, (t.collected c e x).mem = (t.writeHome (c.dst + e * c.width) c.width x).mem) ∧
      (∀ a b, c.ty < 15 → c.op = 0 → c.combine a b = (a + b) % 2 ^ 64) ∧ sent.mem = s.mem ∧ sent.ct = s.ct ∧
      ∃ t, exec .collectMemberTimeout s = done t 5 ∧ t.sram = s.sram ∧ t.ct.ex.x = s.ct.ex.x ∧ t.pkg.ring = s.pkg.ring) ∧
    (∀ p e, CollectCmd s p → s.collect p = .error e →
      -- a poisoned line that it met is logged (R319)
      let met := if e = 2 then s.collectMet else s
      exec .collectMemberTimeout s = done met e ∧ ∀ parts, exec (.collect parts) s = done met e) ∧
    -- time: as it passes, forward by 100 ppm at most and back by 100 ppm at most; at the first lock forward by all that is left (R382)
    (let e := (Config.elapsed s.ticks).toNat
      let k := min s.pkg.sync.back (e / 10000)
      let g := min s.pkg.sync.fwd (e / 10000)
      s.tick.time = s.time + BitVec.ofNat 64 (e - k + g) ∧ s.tick.pkg.sync.fwd = s.pkg.sync.fwd - g ∧
      s.tick.pkg.sync.back = s.pkg.sync.back - k ∧ s.tick.ct = s.ct ∧ s.tick.mem = s.mem) ∧
    (∀ t1 t2 t3 t4 hops, s.pkg.fid = 0 → exec (.timeSyncExchange t1 t2 t3 t4 hops) s = .next s) ∧
    -- the master sends its timestamps on VC 3, to a module that no register names (a free value)
    (∀ t1 t2 t3 t4 hops, s.pkg.fid ≠ 0 → s.pkg.tmaster = true → exec (.timeSyncExchange t1 t2 t3 t4 hops) s =
      .next (State.sendTo { s with draws := s.draws + 1 } ((Config.freeValue s.draws).toNat % 31 + 1) 3 0
        [8, t1.toNat, t2.toNat, t3.toNat])) ∧
    (∀ t1 t2 t3 t4 hops, s.pkg.tmaster = false → s.pkg.fid ≠ 0 →
      let off := (((t2.toInt - t1.toInt) - (t4.toInt - t3.toInt)) / 2 : Int)
      ∃ t, exec (.timeSyncExchange t1 t2 t3 t4 hops) s = .next t ∧ t.mem = s.mem ∧ t.ct = s.ct ∧
        (t.pkg.sync.lock = true ↔ off.natAbs ≤ 40 * hops ∧ ∃ t0, s.pkg.sync.since = some t0 ∧ 10000000000 ≤ (s.time - t0).toNat) ∧
        t.pkg.sync.once = (s.pkg.sync.once || t.pkg.sync.lock) ∧ t.pkg.sync.back = (-off).toNat ∧
        (s.pkg.sync.once = true ∨ t.pkg.sync.lock = false → t.time = s.time ∧ t.pkg.sync.fwd = off.toNat) ∧
        (s.pkg.sync.once = false → t.pkg.sync.lock = true → s.time.toNat + off.toNat < 2 ^ 64 →
          t.time.toNat = s.time.toNat + off.toNat ∧ t.pkg.sync.fwd = 0) ∧
        t.pkg.sync.err = if t.pkg.sync.lock then BitVec.ofNat 32 (40 * hops) else 0xFFFFFFFF)
end

