-- ==== Sys2Proof/Laws/Encoding.lean ====
section
/-! SUPPORT. Fields of encoded words: where each part of an encoding lies, and what the decoder does on a word whose major field is
known. -/
namespace Sys2Proof.Laws

/-- A field above the last part of an append. -/
theorem extract_hi {a b : Nat} (x : BitVec a) (y : BitVec b) (lo n : Nat) (h : b ≤ lo) :
    (x ++ y).extractLsb' lo n = x.extractLsb' (lo - b) n := by
  ext i hi
  simp only [BitVec.getElem_extractLsb', BitVec.getLsbD_append]
  have : ¬ lo + i < b := by omega
  simp only [this, if_false]
  congr 1
  omega

/-- A field within the last part of an append. -/
theorem extract_lo {a b : Nat} (x : BitVec a) (y : BitVec b) (lo n : Nat) (h : lo + n ≤ b) :
    (x ++ y).extractLsb' lo n = y.extractLsb' lo n := by
  ext i hi
  simp only [BitVec.getElem_extractLsb', BitVec.getLsbD_append]
  have : lo + i < b := by omega
  simp [this]

theorem extract_all {a : Nat} (x : BitVec a) : x.extractLsb' 0 a = x := by
  ext i hi
  simp

/-- A field within a known field. -/
theorem fld_sub {w : IWord} {l m : Nat} {k : BitVec m} (h : fld w l m = k) (lo n : Nat) (hl : l ≤ lo) (hn : lo + n ≤ l + m) :
    fld w lo n = k.extractLsb' (lo - l) n := by
  subst h
  ext i hi
  simp only [fld, BitVec.getElem_extractLsb', BitVec.getLsbD_extractLsb']
  have : lo - l + i < m := by omega
  simp only [this, decide_true, Bool.true_and]
  congr 1
  omega

theorem cbit_fld {w : IWord} {c : Bool} (h : fld w 25 1 = BitVec.ofBool c) : cbit w = c := by
  have e : cbit w = (fld w 25 1).getLsbD 0 := by simp [cbit, fld]
  rw [e, h]
  cases c <;> rfl

/-- A word with a major field other than 0 and 63 is neither all zeros nor all ones. -/
theorem word_ne {w : IWord} {k : BitVec 6} (h : fld w 26 6 = k) (h0 : k ≠ 0#6) (h1 : k ≠ 63#6) :
    w ≠ 0#32 ∧ w ≠ 0xFFFFFFFF#32 := by
  refine ⟨fun e => h0 ?_, fun e => h1 ?_⟩ <;> subst e <;> rw [← h] <;> decide

/-- A well-formed candidate whose unused fields are zero is the instruction. -/
theorem unlessSet_wf {i : Instr} (h : i.wf = true) {u : Bool} (hu : u = false) : unlessSet u i = .ok i := by
  subst hu
  simp only [Instr.wf, Bool.and_eq_true, Bool.not_eq_true'] at h
  simp [unlessSet, h.1.2, h.2]

/-! ### The decoder by major field -/

theorem decodeWord_salu {w : IWord} (h : fld w 26 6 = 1#6) : decodeWord w = decSalu w := by
  have hn := word_ne h (by decide) (by decide)
  unfold decodeWord
  rw [if_neg hn.1, if_neg hn.2, h]
  rfl

theorem decodeWord_shi {w : IWord} (h : fld w 26 6 = 7#6) : decodeWord w = decShi w := by
  have hn := word_ne h (by decide) (by decide)
  unfold decodeWord
  rw [if_neg hn.1, if_neg hn.2, h]
  rfl

theorem decodeWord_amo {w : IWord} (h : fld w 26 6 = 13#6) : decodeWord w = decAmo w := by
  have hn := word_ne h (by decide) (by decide)
  unfold decodeWord
  rw [if_neg hn.1, if_neg hn.2, h]
  rfl

theorem decodeWord_sfpu {w : IWord} (h : fld w 26 6 = 24#6) : decodeWord w = decSfpu w := by
  have hn := word_ne h (by decide) (by decide)
  unfold decodeWord
  rw [if_neg hn.1, if_neg hn.2, h]
  rfl

theorem decodeWord_queue {w : IWord} (h : fld w 26 6 = 25#6) : decodeWord w = decQueue w := by
  have hn := word_ne h (by decide) (by decide)
  unfold decodeWord
  rw [if_neg hn.1, if_neg hn.2, h]
  rfl

theorem decodeWord_sys {w : IWord} (h : fld w 26 6 = 26#6) : decodeWord w = decSys w := by
  have hn := word_ne h (by decide) (by decide)
  unfold decodeWord
  rw [if_neg hn.1, if_neg hn.2, h]
  rfl

theorem decodeWord_ctrl {w : IWord} (h : fld w 26 6 = 27#6) : decodeWord w = decCtrl w := by
  have hn := word_ne h (by decide) (by decide)
  unfold decodeWord
  rw [if_neg hn.1, if_neg hn.2, h]
  rfl

theorem decodeWord_vcfg {w : IWord} (h : fld w 26 6 = 32#6) : decodeWord w = decVcfg w := by
  have hn := word_ne h (by decide) (by decide)
  unfold decodeWord
  rw [if_neg hn.1, if_neg hn.2, h]
  rfl

theorem decodeWord_vopVv {w : IWord} (h : fld w 26 6 = 33#6) : decodeWord w = decVopVv w := by
  have hn := word_ne h (by decide) (by decide)
  unfold decodeWord
  rw [if_neg hn.1, if_neg hn.2, h]
  rfl

theorem decodeWord_vopVx {w : IWord} (h : fld w 26 6 = 34#6) : decodeWord w = decVopVx w := by
  have hn := word_ne h (by decide) (by decide)
  unfold decodeWord
  rw [if_neg hn.1, if_neg hn.2, h]
  rfl

theorem decodeWord_vwide {w : IWord} (h : fld w 26 6 = 36#6) : decodeWord w = decVwide w := by
  have hn := word_ne h (by decide) (by decide)
  unfold decodeWord
  rw [if_neg hn.1, if_neg hn.2, h]
  rfl

theorem decodeWord_vsfu {w : IWord} (h : fld w 26 6 = 37#6) : decodeWord w = decVsfu w := by
  have hn := word_ne h (by decide) (by decide)
  unfold decodeWord
  rw [if_neg hn.1, if_neg hn.2, h]
  rfl

theorem decodeWord_vcmp {w : IWord} (h : fld w 26 6 = 38#6) : decodeWord w = decVcmp w := by
  have hn := word_ne h (by decide) (by decide)
  unfold decodeWord
  rw [if_neg hn.1, if_neg hn.2, h]
  rfl

theorem decodeWord_pred {w : IWord} (h : fld w 26 6 = 39#6) : decodeWord w = decPred w := by
  have hn := word_ne h (by decide) (by decide)
  unfold decodeWord
  rw [if_neg hn.1, if_neg hn.2, h]
  rfl

theorem decodeWord_vpctl {w : IWord} (h : fld w 26 6 = 40#6) : decodeWord w = decVpctl w := by
  have hn := word_ne h (by decide) (by decide)
  unfold decodeWord
  rw [if_neg hn.1, if_neg hn.2, h]
  rfl

theorem decodeWord_vld {w : IWord} (h : fld w 26 6 = 41#6) : decodeWord w = decVld w := by
  have hn := word_ne h (by decide) (by decide)
  unfold decodeWord
  rw [if_neg hn.1, if_neg hn.2, h]
  rfl

theorem decodeWord_vst {w : IWord} (h : fld w 26 6 = 42#6) : decodeWord w = decVst w := by
  have hn := word_ne h (by decide) (by decide)
  unfold decodeWord
  rw [if_neg hn.1, if_neg hn.2, h]
  rfl

theorem decodeWord_vamo {w : IWord} (h : fld w 26 6 = 43#6) : decodeWord w = decVamo w := by
  have hn := word_ne h (by decide) (by decide)
  unfold decodeWord
  rw [if_neg hn.1, if_neg hn.2, h]
  rfl

theorem decodeWord_vlane {w : IWord} (h : fld w 26 6 = 44#6) : decodeWord w = decVlane w := by
  have hn := word_ne h (by decide) (by decide)
  unfold decodeWord
  rw [if_neg hn.1, if_neg hn.2, h]
  rfl

theorem decodeWord_vred {w : IWord} (h : fld w 26 6 = 45#6) : decodeWord w = decVred w := by
  have hn := word_ne h (by decide) (by decide)
  unfold decodeWord
  rw [if_neg hn.1, if_neg hn.2, h]
  rfl

theorem decodeWord_feed {w : IWord} (h : fld w 26 6 = 46#6) : decodeWord w = decFeed w := by
  have hn := word_ne h (by decide) (by decide)
  unfold decodeWord
  rw [if_neg hn.1, if_neg hn.2, h]
  rfl

theorem decodeWord_frame {w : IWord} (h : fld w 26 6 = 47#6) : decodeWord w = decFrame w := by
  have hn := word_ne h (by decide) (by decide)
  unfold decodeWord
  rw [if_neg hn.1, if_neg hn.2, h]
  rfl

theorem decodeWord_trellis {w : IWord} (h : fld w 26 6 = 48#6) : decodeWord w = decTrellis w := by
  have hn := word_ne h (by decide) (by decide)
  unfold decodeWord
  rw [if_neg hn.1, if_neg hn.2, h]
  rfl

theorem decodeWord_matrix {w : IWord} (h : fld w 26 6 = 49#6) : decodeWord w = decMatrix w := by
  have hn := word_ne h (by decide) (by decide)
  unfold decodeWord
  rw [if_neg hn.1, if_neg hn.2, h]
  rfl

theorem decodeWord_engine {w : IWord} (h : fld w 26 6 = 50#6) : decodeWord w = decEngine w := by
  have hn := word_ne h (by decide) (by decide)
  unfold decodeWord
  rw [if_neg hn.1, if_neg hn.2, h]
  rfl

theorem decodeWord_launch {w : IWord} (h : fld w 26 6 = 51#6) : decodeWord w = decLaunch w := by
  have hn := word_ne h (by decide) (by decide)
  unfold decodeWord
  rw [if_neg hn.1, if_neg hn.2, h]
  rfl

theorem decodeWord_sync {w : IWord} (h : fld w 26 6 = 52#6) : decodeWord w = decSync w := by
  have hn := word_ne h (by decide) (by decide)
  unfold decodeWord
  rw [if_neg hn.1, if_neg hn.2, h]
  rfl

theorem decodeWord_vctx {w : IWord} (h : fld w 26 6 = 53#6) : decodeWord w = decVctx w := by
  have hn := word_ne h (by decide) (by decide)
  unfold decodeWord
  rw [if_neg hn.1, if_neg hn.2, h]
  rfl

/-! ### The parts of an encoding, by the widths of its parts -/

theorem parts_6_6_6_6_8 (p0 : BitVec 6) (p1 : BitVec 6) (p2 : BitVec 6) (p3 : BitVec 6) (p4 : BitVec 8) {w : IWord} (hw : w = p0 ++ p1 ++ p2 ++ p3 ++ p4) :
    fld w 26 6 = p0 ∧ fld w 20 6 = p1 ∧ fld w 14 6 = p2 ∧ fld w 8 6 = p3 ∧ fld w 0 8 = p4 := by
  subst hw
  have h0 : (p0 ++ p1 ++ p2 ++ p3 ++ p4).extractLsb' 26 6 = p0 := by
    simp (disch := decide) only [extract_hi, extract_all, Nat.reduceSub]
  have h1 : (p0 ++ p1 ++ p2 ++ p3 ++ p4).extractLsb' 20 6 = p1 := by
    simp (disch := decide) only [extract_hi, extract_lo, extract_all, Nat.reduceSub]
  have h2 : (p0 ++ p1 ++ p2 ++ p3 ++ p4).extractLsb' 14 6 = p2 := by
    simp (disch := decide) only [extract_hi, extract_lo, extract_all, Nat.reduceSub]
  have h3 : (p0 ++ p1 ++ p2 ++ p3 ++ p4).extractLsb' 8 6 = p3 := by
    simp (disch := decide) only [extract_hi, extract_lo, extract_all, Nat.reduceSub]
  have h4 : (p0 ++ p1 ++ p2 ++ p3 ++ p4).extractLsb' 0 8 = p4 := by
    simp (disch := decide) only [extract_lo, extract_all]
  exact ⟨h0, h1, h2, h3, h4⟩

theorem parts_6_6_6_14 (p0 : BitVec 6) (p1 : BitVec 6) (p2 : BitVec 6) (p3 : BitVec 14) {w : IWord} (hw : w = p0 ++ p1 ++ p2 ++ p3) :
    fld w 26 6 = p0 ∧ fld w 20 6 = p1 ∧ fld w 14 6 = p2 ∧ fld w 0 14 = p3 := by
  subst hw
  have h0 : (p0 ++ p1 ++ p2 ++ p3).extractLsb' 26 6 = p0 := by
    simp (disch := decide) only [extract_hi, extract_all, Nat.reduceSub]
  have h1 : (p0 ++ p1 ++ p2 ++ p3).extractLsb' 20 6 = p1 := by
    simp (disch := decide) only [extract_hi, extract_lo, extract_all, Nat.reduceSub]
  have h2 : (p0 ++ p1 ++ p2 ++ p3).extractLsb' 14 6 = p2 := by
    simp (disch := decide) only [extract_hi, extract_lo, extract_all, Nat.reduceSub]
  have h3 : (p0 ++ p1 ++ p2 ++ p3).extractLsb' 0 14 = p3 := by
    simp (disch := decide) only [extract_lo, extract_all]
  exact ⟨h0, h1, h2, h3⟩

theorem parts_6_6_6_8_6 (p0 : BitVec 6) (p1 : BitVec 6) (p2 : BitVec 6) (p3 : BitVec 8) (p4 : BitVec 6) {w : IWord} (hw : w = p0 ++ p1 ++ p2 ++ p3 ++ p4) :
    fld w 26 6 = p0 ∧ fld w 20 6 = p1 ∧ fld w 14 6 = p2 ∧ fld w 6 8 = p3 ∧ fld w 0 6 = p4 := by
  subst hw
  have h0 : (p0 ++ p1 ++ p2 ++ p3 ++ p4).extractLsb' 26 6 = p0 := by
    simp (disch := decide) only [extract_hi, extract_all, Nat.reduceSub]
  have h1 : (p0 ++ p1 ++ p2 ++ p3 ++ p4).extractLsb' 20 6 = p1 := by
    simp (disch := decide) only [extract_hi, extract_lo, extract_all, Nat.reduceSub]
  have h2 : (p0 ++ p1 ++ p2 ++ p3 ++ p4).extractLsb' 14 6 = p2 := by
    simp (disch := decide) only [extract_hi, extract_lo, extract_all, Nat.reduceSub]
  have h3 : (p0 ++ p1 ++ p2 ++ p3 ++ p4).extractLsb' 6 8 = p3 := by
    simp (disch := decide) only [extract_hi, extract_lo, extract_all, Nat.reduceSub]
  have h4 : (p0 ++ p1 ++ p2 ++ p3 ++ p4).extractLsb' 0 6 = p4 := by
    simp (disch := decide) only [extract_lo, extract_all]
  exact ⟨h0, h1, h2, h3, h4⟩

theorem parts_6_6_20 (p0 : BitVec 6) (p1 : BitVec 6) (p2 : BitVec 20) {w : IWord} (hw : w = p0 ++ p1 ++ p2) :
    fld w 26 6 = p0 ∧ fld w 20 6 = p1 ∧ fld w 0 20 = p2 := by
  subst hw
  have h0 : (p0 ++ p1 ++ p2).extractLsb' 26 6 = p0 := by
    simp (disch := decide) only [extract_hi, extract_all, Nat.reduceSub]
  have h1 : (p0 ++ p1 ++ p2).extractLsb' 20 6 = p1 := by
    simp (disch := decide) only [extract_hi, extract_lo, extract_all, Nat.reduceSub]
  have h2 : (p0 ++ p1 ++ p2).extractLsb' 0 20 = p2 := by
    simp (disch := decide) only [extract_lo, extract_all]
  exact ⟨h0, h1, h2⟩

theorem parts_6_6_6_2_2_10 (p0 : BitVec 6) (p1 : BitVec 6) (p2 : BitVec 6) (p3 : BitVec 2) (p4 : BitVec 2) (p5 : BitVec 10) {w : IWord} (hw : w = p0 ++ p1 ++ p2 ++ p3 ++ p4 ++ p5) :
    fld w 26 6 = p0 ∧ fld w 20 6 = p1 ∧ fld w 14 6 = p2 ∧ fld w 12 2 = p3 ∧ fld w 10 2 = p4 ∧ fld w 0 10 = p5 := by
  subst hw
  have h0 : (p0 ++ p1 ++ p2 ++ p3 ++ p4 ++ p5).extractLsb' 26 6 = p0 := by
    simp (disch := decide) only [extract_hi, extract_all, Nat.reduceSub]
  have h1 : (p0 ++ p1 ++ p2 ++ p3 ++ p4 ++ p5).extractLsb' 20 6 = p1 := by
    simp (disch := decide) only [extract_hi, extract_lo, extract_all, Nat.reduceSub]
  have h2 : (p0 ++ p1 ++ p2 ++ p3 ++ p4 ++ p5).extractLsb' 14 6 = p2 := by
    simp (disch := decide) only [extract_hi, extract_lo, extract_all, Nat.reduceSub]
  have h3 : (p0 ++ p1 ++ p2 ++ p3 ++ p4 ++ p5).extractLsb' 12 2 = p3 := by
    simp (disch := decide) only [extract_hi, extract_lo, extract_all, Nat.reduceSub]
  have h4 : (p0 ++ p1 ++ p2 ++ p3 ++ p4 ++ p5).extractLsb' 10 2 = p4 := by
    simp (disch := decide) only [extract_hi, extract_lo, extract_all, Nat.reduceSub]
  have h5 : (p0 ++ p1 ++ p2 ++ p3 ++ p4 ++ p5).extractLsb' 0 10 = p5 := by
    simp (disch := decide) only [extract_lo, extract_all]
  exact ⟨h0, h1, h2, h3, h4, h5⟩

theorem parts_6_6_6_6_4_1_3 (p0 : BitVec 6) (p1 : BitVec 6) (p2 : BitVec 6) (p3 : BitVec 6) (p4 : BitVec 4) (p5 : BitVec 1) (p6 : BitVec 3) {w : IWord} (hw : w = p0 ++ p1 ++ p2 ++ p3 ++ p4 ++ p5 ++ p6) :
    fld w 26 6 = p0 ∧ fld w 20 6 = p1 ∧ fld w 14 6 = p2 ∧ fld w 8 6 = p3 ∧ fld w 4 4 = p4 ∧ fld w 3 1 = p5 ∧ fld w 0 3 = p6 := by
  subst hw
  have h0 : (p0 ++ p1 ++ p2 ++ p3 ++ p4 ++ p5 ++ p6).extractLsb' 26 6 = p0 := by
    simp (disch := decide) only [extract_hi, extract_all, Nat.reduceSub]
  have h1 : (p0 ++ p1 ++ p2 ++ p3 ++ p4 ++ p5 ++ p6).extractLsb' 20 6 = p1 := by
    simp (disch := decide) only [extract_hi, extract_lo, extract_all, Nat.reduceSub]
  have h2 : (p0 ++ p1 ++ p2 ++ p3 ++ p4 ++ p5 ++ p6).extractLsb' 14 6 = p2 := by
    simp (disch := decide) only [extract_hi, extract_lo, extract_all, Nat.reduceSub]
  have h3 : (p0 ++ p1 ++ p2 ++ p3 ++ p4 ++ p5 ++ p6).extractLsb' 8 6 = p3 := by
    simp (disch := decide) only [extract_hi, extract_lo, extract_all, Nat.reduceSub]
  have h4 : (p0 ++ p1 ++ p2 ++ p3 ++ p4 ++ p5 ++ p6).extractLsb' 4 4 = p4 := by
    simp (disch := decide) only [extract_hi, extract_lo, extract_all, Nat.reduceSub]
  have h5 : (p0 ++ p1 ++ p2 ++ p3 ++ p4 ++ p5 ++ p6).extractLsb' 3 1 = p5 := by
    simp (disch := decide) only [extract_hi, extract_lo, extract_all, Nat.reduceSub]
  have h6 : (p0 ++ p1 ++ p2 ++ p3 ++ p4 ++ p5 ++ p6).extractLsb' 0 3 = p6 := by
    simp (disch := decide) only [extract_lo, extract_all]
  exact ⟨h0, h1, h2, h3, h4, h5, h6⟩

theorem parts_6_6_6_10_1_3 (p0 : BitVec 6) (p1 : BitVec 6) (p2 : BitVec 6) (p3 : BitVec 10) (p4 : BitVec 1) (p5 : BitVec 3) {w : IWord} (hw : w = p0 ++ p1 ++ p2 ++ p3 ++ p4 ++ p5) :
    fld w 26 6 = p0 ∧ fld w 20 6 = p1 ∧ fld w 14 6 = p2 ∧ fld w 4 10 = p3 ∧ fld w 3 1 = p4 ∧ fld w 0 3 = p5 := by
  subst hw
  have h0 : (p0 ++ p1 ++ p2 ++ p3 ++ p4 ++ p5).extractLsb' 26 6 = p0 := by
    simp (disch := decide) only [extract_hi, extract_all, Nat.reduceSub]
  have h1 : (p0 ++ p1 ++ p2 ++ p3 ++ p4 ++ p5).extractLsb' 20 6 = p1 := by
    simp (disch := decide) only [extract_hi, extract_lo, extract_all, Nat.reduceSub]
  have h2 : (p0 ++ p1 ++ p2 ++ p3 ++ p4 ++ p5).extractLsb' 14 6 = p2 := by
    simp (disch := decide) only [extract_hi, extract_lo, extract_all, Nat.reduceSub]
  have h3 : (p0 ++ p1 ++ p2 ++ p3 ++ p4 ++ p5).extractLsb' 4 10 = p3 := by
    simp (disch := decide) only [extract_hi, extract_lo, extract_all, Nat.reduceSub]
  have h4 : (p0 ++ p1 ++ p2 ++ p3 ++ p4 ++ p5).extractLsb' 3 1 = p4 := by
    simp (disch := decide) only [extract_hi, extract_lo, extract_all, Nat.reduceSub]
  have h5 : (p0 ++ p1 ++ p2 ++ p3 ++ p4 ++ p5).extractLsb' 0 3 = p5 := by
    simp (disch := decide) only [extract_lo, extract_all]
  exact ⟨h0, h1, h2, h3, h4, h5⟩

theorem parts_12_6_6_4_1_3 (p0 : BitVec 12) (p1 : BitVec 6) (p2 : BitVec 6) (p3 : BitVec 4) (p4 : BitVec 1) (p5 : BitVec 3) {w : IWord} (hw : w = p0 ++ p1 ++ p2 ++ p3 ++ p4 ++ p5) :
    fld w 20 12 = p0 ∧ fld w 14 6 = p1 ∧ fld w 8 6 = p2 ∧ fld w 4 4 = p3 ∧ fld w 3 1 = p4 ∧ fld w 0 3 = p5 := by
  subst hw
  have h0 : (p0 ++ p1 ++ p2 ++ p3 ++ p4 ++ p5).extractLsb' 20 12 = p0 := by
    simp (disch := decide) only [extract_hi, extract_all, Nat.reduceSub]
  have h1 : (p0 ++ p1 ++ p2 ++ p3 ++ p4 ++ p5).extractLsb' 14 6 = p1 := by
    simp (disch := decide) only [extract_hi, extract_lo, extract_all, Nat.reduceSub]
  have h2 : (p0 ++ p1 ++ p2 ++ p3 ++ p4 ++ p5).extractLsb' 8 6 = p2 := by
    simp (disch := decide) only [extract_hi, extract_lo, extract_all, Nat.reduceSub]
  have h3 : (p0 ++ p1 ++ p2 ++ p3 ++ p4 ++ p5).extractLsb' 4 4 = p3 := by
    simp (disch := decide) only [extract_hi, extract_lo, extract_all, Nat.reduceSub]
  have h4 : (p0 ++ p1 ++ p2 ++ p3 ++ p4 ++ p5).extractLsb' 3 1 = p4 := by
    simp (disch := decide) only [extract_hi, extract_lo, extract_all, Nat.reduceSub]
  have h5 : (p0 ++ p1 ++ p2 ++ p3 ++ p4 ++ p5).extractLsb' 0 3 = p5 := by
    simp (disch := decide) only [extract_lo, extract_all]
  exact ⟨h0, h1, h2, h3, h4, h5⟩

theorem parts_24_2_3_3 (p0 : BitVec 24) (p1 : BitVec 2) (p2 : BitVec 3) (p3 : BitVec 3) {w : IWord} (hw : w = p0 ++ p1 ++ p2 ++ p3) :
    fld w 8 24 = p0 ∧ fld w 6 2 = p1 ∧ fld w 3 3 = p2 ∧ fld w 0 3 = p3 := by
  subst hw
  have h0 : (p0 ++ p1 ++ p2 ++ p3).extractLsb' 8 24 = p0 := by
    simp (disch := decide) only [extract_hi, extract_all, Nat.reduceSub]
  have h1 : (p0 ++ p1 ++ p2 ++ p3).extractLsb' 6 2 = p1 := by
    simp (disch := decide) only [extract_hi, extract_lo, extract_all, Nat.reduceSub]
  have h2 : (p0 ++ p1 ++ p2 ++ p3).extractLsb' 3 3 = p2 := by
    simp (disch := decide) only [extract_hi, extract_lo, extract_all, Nat.reduceSub]
  have h3 : (p0 ++ p1 ++ p2 ++ p3).extractLsb' 0 3 = p3 := by
    simp (disch := decide) only [extract_lo, extract_all]
  exact ⟨h0, h1, h2, h3⟩

theorem parts_6_6_6_6_4_2_2 (p0 : BitVec 6) (p1 : BitVec 6) (p2 : BitVec 6) (p3 : BitVec 6) (p4 : BitVec 4) (p5 : BitVec 2) (p6 : BitVec 2) {w : IWord} (hw : w = p0 ++ p1 ++ p2 ++ p3 ++ p4 ++ p5 ++ p6) :
    fld w 26 6 = p0 ∧ fld w 20 6 = p1 ∧ fld w 14 6 = p2 ∧ fld w 8 6 = p3 ∧ fld w 4 4 = p4 ∧ fld w 2 2 = p5 ∧ fld w 0 2 = p6 := by
  subst hw
  have h0 : (p0 ++ p1 ++ p2 ++ p3 ++ p4 ++ p5 ++ p6).extractLsb' 26 6 = p0 := by
    simp (disch := decide) only [extract_hi, extract_all, Nat.reduceSub]
  have h1 : (p0 ++ p1 ++ p2 ++ p3 ++ p4 ++ p5 ++ p6).extractLsb' 20 6 = p1 := by
    simp (disch := decide) only [extract_hi, extract_lo, extract_all, Nat.reduceSub]
  have h2 : (p0 ++ p1 ++ p2 ++ p3 ++ p4 ++ p5 ++ p6).extractLsb' 14 6 = p2 := by
    simp (disch := decide) only [extract_hi, extract_lo, extract_all, Nat.reduceSub]
  have h3 : (p0 ++ p1 ++ p2 ++ p3 ++ p4 ++ p5 ++ p6).extractLsb' 8 6 = p3 := by
    simp (disch := decide) only [extract_hi, extract_lo, extract_all, Nat.reduceSub]
  have h4 : (p0 ++ p1 ++ p2 ++ p3 ++ p4 ++ p5 ++ p6).extractLsb' 4 4 = p4 := by
    simp (disch := decide) only [extract_hi, extract_lo, extract_all, Nat.reduceSub]
  have h5 : (p0 ++ p1 ++ p2 ++ p3 ++ p4 ++ p5 ++ p6).extractLsb' 2 2 = p5 := by
    simp (disch := decide) only [extract_hi, extract_lo, extract_all, Nat.reduceSub]
  have h6 : (p0 ++ p1 ++ p2 ++ p3 ++ p4 ++ p5 ++ p6).extractLsb' 0 2 = p6 := by
    simp (disch := decide) only [extract_lo, extract_all]
  exact ⟨h0, h1, h2, h3, h4, h5, h6⟩

theorem parts_6_6_6_10_2_2 (p0 : BitVec 6) (p1 : BitVec 6) (p2 : BitVec 6) (p3 : BitVec 10) (p4 : BitVec 2) (p5 : BitVec 2) {w : IWord} (hw : w = p0 ++ p1 ++ p2 ++ p3 ++ p4 ++ p5) :
    fld w 26 6 = p0 ∧ fld w 20 6 = p1 ∧ fld w 14 6 = p2 ∧ fld w 4 10 = p3 ∧ fld w 2 2 = p4 ∧ fld w 0 2 = p5 := by
  subst hw
  have h0 : (p0 ++ p1 ++ p2 ++ p3 ++ p4 ++ p5).extractLsb' 26 6 = p0 := by
    simp (disch := decide) only [extract_hi, extract_all, Nat.reduceSub]
  have h1 : (p0 ++ p1 ++ p2 ++ p3 ++ p4 ++ p5).extractLsb' 20 6 = p1 := by
    simp (disch := decide) only [extract_hi, extract_lo, extract_all, Nat.reduceSub]
  have h2 : (p0 ++ p1 ++ p2 ++ p3 ++ p4 ++ p5).extractLsb' 14 6 = p2 := by
    simp (disch := decide) only [extract_hi, extract_lo, extract_all, Nat.reduceSub]
  have h3 : (p0 ++ p1 ++ p2 ++ p3 ++ p4 ++ p5).extractLsb' 4 10 = p3 := by
    simp (disch := decide) only [extract_hi, extract_lo, extract_all, Nat.reduceSub]
  have h4 : (p0 ++ p1 ++ p2 ++ p3 ++ p4 ++ p5).extractLsb' 2 2 = p4 := by
    simp (disch := decide) only [extract_hi, extract_lo, extract_all, Nat.reduceSub]
  have h5 : (p0 ++ p1 ++ p2 ++ p3 ++ p4 ++ p5).extractLsb' 0 2 = p5 := by
    simp (disch := decide) only [extract_lo, extract_all]
  exact ⟨h0, h1, h2, h3, h4, h5⟩

theorem parts_12_6_2_2_10 (p0 : BitVec 12) (p1 : BitVec 6) (p2 : BitVec 2) (p3 : BitVec 2) (p4 : BitVec 10) {w : IWord} (hw : w = p0 ++ p1 ++ p2 ++ p3 ++ p4) :
    fld w 20 12 = p0 ∧ fld w 14 6 = p1 ∧ fld w 12 2 = p2 ∧ fld w 10 2 = p3 ∧ fld w 0 10 = p4 := by
  subst hw
  have h0 : (p0 ++ p1 ++ p2 ++ p3 ++ p4).extractLsb' 20 12 = p0 := by
    simp (disch := decide) only [extract_hi, extract_all, Nat.reduceSub]
  have h1 : (p0 ++ p1 ++ p2 ++ p3 ++ p4).extractLsb' 14 6 = p1 := by
    simp (disch := decide) only [extract_hi, extract_lo, extract_all, Nat.reduceSub]
  have h2 : (p0 ++ p1 ++ p2 ++ p3 ++ p4).extractLsb' 12 2 = p2 := by
    simp (disch := decide) only [extract_hi, extract_lo, extract_all, Nat.reduceSub]
  have h3 : (p0 ++ p1 ++ p2 ++ p3 ++ p4).extractLsb' 10 2 = p3 := by
    simp (disch := decide) only [extract_hi, extract_lo, extract_all, Nat.reduceSub]
  have h4 : (p0 ++ p1 ++ p2 ++ p3 ++ p4).extractLsb' 0 10 = p4 := by
    simp (disch := decide) only [extract_lo, extract_all]
  exact ⟨h0, h1, h2, h3, h4⟩

theorem parts_6_6_8_2_10 (p0 : BitVec 6) (p1 : BitVec 6) (p2 : BitVec 8) (p3 : BitVec 2) (p4 : BitVec 10) {w : IWord} (hw : w = p0 ++ p1 ++ p2 ++ p3 ++ p4) :
    fld w 26 6 = p0 ∧ fld w 20 6 = p1 ∧ fld w 12 8 = p2 ∧ fld w 10 2 = p3 ∧ fld w 0 10 = p4 := by
  subst hw
  have h0 : (p0 ++ p1 ++ p2 ++ p3 ++ p4).extractLsb' 26 6 = p0 := by
    simp (disch := decide) only [extract_hi, extract_all, Nat.reduceSub]
  have h1 : (p0 ++ p1 ++ p2 ++ p3 ++ p4).extractLsb' 20 6 = p1 := by
    simp (disch := decide) only [extract_hi, extract_lo, extract_all, Nat.reduceSub]
  have h2 : (p0 ++ p1 ++ p2 ++ p3 ++ p4).extractLsb' 12 8 = p2 := by
    simp (disch := decide) only [extract_hi, extract_lo, extract_all, Nat.reduceSub]
  have h3 : (p0 ++ p1 ++ p2 ++ p3 ++ p4).extractLsb' 10 2 = p3 := by
    simp (disch := decide) only [extract_hi, extract_lo, extract_all, Nat.reduceSub]
  have h4 : (p0 ++ p1 ++ p2 ++ p3 ++ p4).extractLsb' 0 10 = p4 := by
    simp (disch := decide) only [extract_lo, extract_all]
  exact ⟨h0, h1, h2, h3, h4⟩

theorem parts_12_6_14 (p0 : BitVec 12) (p1 : BitVec 6) (p2 : BitVec 14) {w : IWord} (hw : w = p0 ++ p1 ++ p2) :
    fld w 20 12 = p0 ∧ fld w 14 6 = p1 ∧ fld w 0 14 = p2 := by
  subst hw
  have h0 : (p0 ++ p1 ++ p2).extractLsb' 20 12 = p0 := by
    simp (disch := decide) only [extract_hi, extract_all, Nat.reduceSub]
  have h1 : (p0 ++ p1 ++ p2).extractLsb' 14 6 = p1 := by
    simp (disch := decide) only [extract_hi, extract_lo, extract_all, Nat.reduceSub]
  have h2 : (p0 ++ p1 ++ p2).extractLsb' 0 14 = p2 := by
    simp (disch := decide) only [extract_lo, extract_all]
  exact ⟨h0, h1, h2⟩

theorem parts_22_10 (p0 : BitVec 22) (p1 : BitVec 10) {w : IWord} (hw : w = p0 ++ p1) :
    fld w 10 22 = p0 ∧ fld w 0 10 = p1 := by
  subst hw
  have h0 : (p0 ++ p1).extractLsb' 10 22 = p0 := by
    simp (disch := decide) only [extract_hi, extract_all, Nat.reduceSub]
  have h1 : (p0 ++ p1).extractLsb' 0 10 = p1 := by
    simp (disch := decide) only [extract_lo, extract_all]
  exact ⟨h0, h1⟩

theorem parts_6_6_6_12_2 (p0 : BitVec 6) (p1 : BitVec 6) (p2 : BitVec 6) (p3 : BitVec 12) (p4 : BitVec 2) {w : IWord} (hw : w = p0 ++ p1 ++ p2 ++ p3 ++ p4) :
    fld w 26 6 = p0 ∧ fld w 20 6 = p1 ∧ fld w 14 6 = p2 ∧ fld w 2 12 = p3 ∧ fld w 0 2 = p4 := by
  subst hw
  have h0 : (p0 ++ p1 ++ p2 ++ p3 ++ p4).extractLsb' 26 6 = p0 := by
    simp (disch := decide) only [extract_hi, extract_all, Nat.reduceSub]
  have h1 : (p0 ++ p1 ++ p2 ++ p3 ++ p4).extractLsb' 20 6 = p1 := by
    simp (disch := decide) only [extract_hi, extract_lo, extract_all, Nat.reduceSub]
  have h2 : (p0 ++ p1 ++ p2 ++ p3 ++ p4).extractLsb' 14 6 = p2 := by
    simp (disch := decide) only [extract_hi, extract_lo, extract_all, Nat.reduceSub]
  have h3 : (p0 ++ p1 ++ p2 ++ p3 ++ p4).extractLsb' 2 12 = p3 := by
    simp (disch := decide) only [extract_hi, extract_lo, extract_all, Nat.reduceSub]
  have h4 : (p0 ++ p1 ++ p2 ++ p3 ++ p4).extractLsb' 0 2 = p4 := by
    simp (disch := decide) only [extract_lo, extract_all]
  exact ⟨h0, h1, h2, h3, h4⟩

theorem parts_12_6_12_2 (p0 : BitVec 12) (p1 : BitVec 6) (p2 : BitVec 12) (p3 : BitVec 2) {w : IWord} (hw : w = p0 ++ p1 ++ p2 ++ p3) :
    fld w 20 12 = p0 ∧ fld w 14 6 = p1 ∧ fld w 2 12 = p2 ∧ fld w 0 2 = p3 := by
  subst hw
  have h0 : (p0 ++ p1 ++ p2 ++ p3).extractLsb' 20 12 = p0 := by
    simp (disch := decide) only [extract_hi, extract_all, Nat.reduceSub]
  have h1 : (p0 ++ p1 ++ p2 ++ p3).extractLsb' 14 6 = p1 := by
    simp (disch := decide) only [extract_hi, extract_lo, extract_all, Nat.reduceSub]
  have h2 : (p0 ++ p1 ++ p2 ++ p3).extractLsb' 2 12 = p2 := by
    simp (disch := decide) only [extract_hi, extract_lo, extract_all, Nat.reduceSub]
  have h3 : (p0 ++ p1 ++ p2 ++ p3).extractLsb' 0 2 = p3 := by
    simp (disch := decide) only [extract_lo, extract_all]
  exact ⟨h0, h1, h2, h3⟩

theorem parts_32 (p0 : BitVec 32) {w : IWord} (hw : w = p0) : fld w 0 32 = p0 := by
  subst hw; exact extract_all _

theorem parts_6_26 (p0 : BitVec 6) (p1 : BitVec 26) {w : IWord} (hw : w = p0 ++ p1) :
    fld w 26 6 = p0 ∧ fld w 0 26 = p1 := by
  subst hw
  have h0 : (p0 ++ p1).extractLsb' 26 6 = p0 := by
    simp (disch := decide) only [extract_hi, extract_all, Nat.reduceSub]
  have h1 : (p0 ++ p1).extractLsb' 0 26 = p1 := by
    simp (disch := decide) only [extract_lo, extract_all]
  exact ⟨h0, h1⟩

theorem parts_6_1_3_6_6_10 (p0 : BitVec 6) (p1 : BitVec 1) (p2 : BitVec 3) (p3 : BitVec 6) (p4 : BitVec 6) (p5 : BitVec 10) {w : IWord} (hw : w = p0 ++ p1 ++ p2 ++ p3 ++ p4 ++ p5) :
    fld w 26 6 = p0 ∧ fld w 25 1 = p1 ∧ fld w 22 3 = p2 ∧ fld w 16 6 = p3 ∧ fld w 10 6 = p4 ∧ fld w 0 10 = p5 := by
  subst hw
  have h0 : (p0 ++ p1 ++ p2 ++ p3 ++ p4 ++ p5).extractLsb' 26 6 = p0 := by
    simp (disch := decide) only [extract_hi, extract_all, Nat.reduceSub]
  have h1 : (p0 ++ p1 ++ p2 ++ p3 ++ p4 ++ p5).extractLsb' 25 1 = p1 := by
    simp (disch := decide) only [extract_hi, extract_lo, extract_all, Nat.reduceSub]
  have h2 : (p0 ++ p1 ++ p2 ++ p3 ++ p4 ++ p5).extractLsb' 22 3 = p2 := by
    simp (disch := decide) only [extract_hi, extract_lo, extract_all, Nat.reduceSub]
  have h3 : (p0 ++ p1 ++ p2 ++ p3 ++ p4 ++ p5).extractLsb' 16 6 = p3 := by
    simp (disch := decide) only [extract_hi, extract_lo, extract_all, Nat.reduceSub]
  have h4 : (p0 ++ p1 ++ p2 ++ p3 ++ p4 ++ p5).extractLsb' 10 6 = p4 := by
    simp (disch := decide) only [extract_hi, extract_lo, extract_all, Nat.reduceSub]
  have h5 : (p0 ++ p1 ++ p2 ++ p3 ++ p4 ++ p5).extractLsb' 0 10 = p5 := by
    simp (disch := decide) only [extract_lo, extract_all]
  exact ⟨h0, h1, h2, h3, h4, h5⟩

theorem parts_6_1_3_5_5_5_3_4 (p0 : BitVec 6) (p1 : BitVec 1) (p2 : BitVec 3) (p3 : BitVec 5) (p4 : BitVec 5) (p5 : BitVec 5) (p6 : BitVec 3) (p7 : BitVec 4) {w : IWord} (hw : w = p0 ++ p1 ++ p2 ++ p3 ++ p4 ++ p5 ++ p6 ++ p7) :
    fld w 26 6 = p0 ∧ fld w 25 1 = p1 ∧ fld w 22 3 = p2 ∧ fld w 17 5 = p3 ∧ fld w 12 5 = p4 ∧ fld w 7 5 = p5 ∧ fld w 4 3 = p6 ∧ fld w 0 4 = p7 := by
  subst hw
  have h0 : (p0 ++ p1 ++ p2 ++ p3 ++ p4 ++ p5 ++ p6 ++ p7).extractLsb' 26 6 = p0 := by
    simp (disch := decide) only [extract_hi, extract_all, Nat.reduceSub]
  have h1 : (p0 ++ p1 ++ p2 ++ p3 ++ p4 ++ p5 ++ p6 ++ p7).extractLsb' 25 1 = p1 := by
    simp (disch := decide) only [extract_hi, extract_lo, extract_all, Nat.reduceSub]
  have h2 : (p0 ++ p1 ++ p2 ++ p3 ++ p4 ++ p5 ++ p6 ++ p7).extractLsb' 22 3 = p2 := by
    simp (disch := decide) only [extract_hi, extract_lo, extract_all, Nat.reduceSub]
  have h3 : (p0 ++ p1 ++ p2 ++ p3 ++ p4 ++ p5 ++ p6 ++ p7).extractLsb' 17 5 = p3 := by
    simp (disch := decide) only [extract_hi, extract_lo, extract_all, Nat.reduceSub]
  have h4 : (p0 ++ p1 ++ p2 ++ p3 ++ p4 ++ p5 ++ p6 ++ p7).extractLsb' 12 5 = p4 := by
    simp (disch := decide) only [extract_hi, extract_lo, extract_all, Nat.reduceSub]
  have h5 : (p0 ++ p1 ++ p2 ++ p3 ++ p4 ++ p5 ++ p6 ++ p7).extractLsb' 7 5 = p5 := by
    simp (disch := decide) only [extract_hi, extract_lo, extract_all, Nat.reduceSub]
  have h6 : (p0 ++ p1 ++ p2 ++ p3 ++ p4 ++ p5 ++ p6 ++ p7).extractLsb' 4 3 = p6 := by
    simp (disch := decide) only [extract_hi, extract_lo, extract_all, Nat.reduceSub]
  have h7 : (p0 ++ p1 ++ p2 ++ p3 ++ p4 ++ p5 ++ p6 ++ p7).extractLsb' 0 4 = p7 := by
    simp (disch := decide) only [extract_lo, extract_all]
  exact ⟨h0, h1, h2, h3, h4, h5, h6, h7⟩

theorem parts_6_1_23_2 (p0 : BitVec 6) (p1 : BitVec 1) (p2 : BitVec 23) (p3 : BitVec 2) {w : IWord} (hw : w = p0 ++ p1 ++ p2 ++ p3) :
    fld w 26 6 = p0 ∧ fld w 25 1 = p1 ∧ fld w 2 23 = p2 ∧ fld w 0 2 = p3 := by
  subst hw
  have h0 : (p0 ++ p1 ++ p2 ++ p3).extractLsb' 26 6 = p0 := by
    simp (disch := decide) only [extract_hi, extract_all, Nat.reduceSub]
  have h1 : (p0 ++ p1 ++ p2 ++ p3).extractLsb' 25 1 = p1 := by
    simp (disch := decide) only [extract_hi, extract_lo, extract_all, Nat.reduceSub]
  have h2 : (p0 ++ p1 ++ p2 ++ p3).extractLsb' 2 23 = p2 := by
    simp (disch := decide) only [extract_hi, extract_lo, extract_all, Nat.reduceSub]
  have h3 : (p0 ++ p1 ++ p2 ++ p3).extractLsb' 0 2 = p3 := by
    simp (disch := decide) only [extract_lo, extract_all]
  exact ⟨h0, h1, h2, h3⟩

theorem parts_6_1_5_5_5_3_7 (p0 : BitVec 6) (p1 : BitVec 1) (p2 : BitVec 5) (p3 : BitVec 5) (p4 : BitVec 5) (p5 : BitVec 3) (p6 : BitVec 7) {w : IWord} (hw : w = p0 ++ p1 ++ p2 ++ p3 ++ p4 ++ p5 ++ p6) :
    fld w 26 6 = p0 ∧ fld w 25 1 = p1 ∧ fld w 20 5 = p2 ∧ fld w 15 5 = p3 ∧ fld w 10 5 = p4 ∧ fld w 7 3 = p5 ∧ fld w 0 7 = p6 := by
  subst hw
  have h0 : (p0 ++ p1 ++ p2 ++ p3 ++ p4 ++ p5 ++ p6).extractLsb' 26 6 = p0 := by
    simp (disch := decide) only [extract_hi, extract_all, Nat.reduceSub]
  have h1 : (p0 ++ p1 ++ p2 ++ p3 ++ p4 ++ p5 ++ p6).extractLsb' 25 1 = p1 := by
    simp (disch := decide) only [extract_hi, extract_lo, extract_all, Nat.reduceSub]
  have h2 : (p0 ++ p1 ++ p2 ++ p3 ++ p4 ++ p5 ++ p6).extractLsb' 20 5 = p2 := by
    simp (disch := decide) only [extract_hi, extract_lo, extract_all, Nat.reduceSub]
  have h3 : (p0 ++ p1 ++ p2 ++ p3 ++ p4 ++ p5 ++ p6).extractLsb' 15 5 = p3 := by
    simp (disch := decide) only [extract_hi, extract_lo, extract_all, Nat.reduceSub]
  have h4 : (p0 ++ p1 ++ p2 ++ p3 ++ p4 ++ p5 ++ p6).extractLsb' 10 5 = p4 := by
    simp (disch := decide) only [extract_hi, extract_lo, extract_all, Nat.reduceSub]
  have h5 : (p0 ++ p1 ++ p2 ++ p3 ++ p4 ++ p5 ++ p6).extractLsb' 7 3 = p5 := by
    simp (disch := decide) only [extract_hi, extract_lo, extract_all, Nat.reduceSub]
  have h6 : (p0 ++ p1 ++ p2 ++ p3 ++ p4 ++ p5 ++ p6).extractLsb' 0 7 = p6 := by
    simp (disch := decide) only [extract_lo, extract_all]
  exact ⟨h0, h1, h2, h3, h4, h5, h6⟩

theorem parts_6_1_5_5_6_3_6 (p0 : BitVec 6) (p1 : BitVec 1) (p2 : BitVec 5) (p3 : BitVec 5) (p4 : BitVec 6) (p5 : BitVec 3) (p6 : BitVec 6) {w : IWord} (hw : w = p0 ++ p1 ++ p2 ++ p3 ++ p4 ++ p5 ++ p6) :
    fld w 26 6 = p0 ∧ fld w 25 1 = p1 ∧ fld w 20 5 = p2 ∧ fld w 15 5 = p3 ∧ fld w 9 6 = p4 ∧ fld w 6 3 = p5 ∧ fld w 0 6 = p6 := by
  subst hw
  have h0 : (p0 ++ p1 ++ p2 ++ p3 ++ p4 ++ p5 ++ p6).extractLsb' 26 6 = p0 := by
    simp (disch := decide) only [extract_hi, extract_all, Nat.reduceSub]
  have h1 : (p0 ++ p1 ++ p2 ++ p3 ++ p4 ++ p5 ++ p6).extractLsb' 25 1 = p1 := by
    simp (disch := decide) only [extract_hi, extract_lo, extract_all, Nat.reduceSub]
  have h2 : (p0 ++ p1 ++ p2 ++ p3 ++ p4 ++ p5 ++ p6).extractLsb' 20 5 = p2 := by
    simp (disch := decide) only [extract_hi, extract_lo, extract_all, Nat.reduceSub]
  have h3 : (p0 ++ p1 ++ p2 ++ p3 ++ p4 ++ p5 ++ p6).extractLsb' 15 5 = p3 := by
    simp (disch := decide) only [extract_hi, extract_lo, extract_all, Nat.reduceSub]
  have h4 : (p0 ++ p1 ++ p2 ++ p3 ++ p4 ++ p5 ++ p6).extractLsb' 9 6 = p4 := by
    simp (disch := decide) only [extract_hi, extract_lo, extract_all, Nat.reduceSub]
  have h5 : (p0 ++ p1 ++ p2 ++ p3 ++ p4 ++ p5 ++ p6).extractLsb' 6 3 = p5 := by
    simp (disch := decide) only [extract_hi, extract_lo, extract_all, Nat.reduceSub]
  have h6 : (p0 ++ p1 ++ p2 ++ p3 ++ p4 ++ p5 ++ p6).extractLsb' 0 6 = p6 := by
    simp (disch := decide) only [extract_lo, extract_all]
  exact ⟨h0, h1, h2, h3, h4, h5, h6⟩

theorem parts_6_1_5_5_6_9 (p0 : BitVec 6) (p1 : BitVec 1) (p2 : BitVec 5) (p3 : BitVec 5) (p4 : BitVec 6) (p5 : BitVec 9) {w : IWord} (hw : w = p0 ++ p1 ++ p2 ++ p3 ++ p4 ++ p5) :
    fld w 26 6 = p0 ∧ fld w 25 1 = p1 ∧ fld w 20 5 = p2 ∧ fld w 15 5 = p3 ∧ fld w 9 6 = p4 ∧ fld w 0 9 = p5 := by
  subst hw
  have h0 : (p0 ++ p1 ++ p2 ++ p3 ++ p4 ++ p5).extractLsb' 26 6 = p0 := by
    simp (disch := decide) only [extract_hi, extract_all, Nat.reduceSub]
  have h1 : (p0 ++ p1 ++ p2 ++ p3 ++ p4 ++ p5).extractLsb' 25 1 = p1 := by
    simp (disch := decide) only [extract_hi, extract_lo, extract_all, Nat.reduceSub]
  have h2 : (p0 ++ p1 ++ p2 ++ p3 ++ p4 ++ p5).extractLsb' 20 5 = p2 := by
    simp (disch := decide) only [extract_hi, extract_lo, extract_all, Nat.reduceSub]
  have h3 : (p0 ++ p1 ++ p2 ++ p3 ++ p4 ++ p5).extractLsb' 15 5 = p3 := by
    simp (disch := decide) only [extract_hi, extract_lo, extract_all, Nat.reduceSub]
  have h4 : (p0 ++ p1 ++ p2 ++ p3 ++ p4 ++ p5).extractLsb' 9 6 = p4 := by
    simp (disch := decide) only [extract_hi, extract_lo, extract_all, Nat.reduceSub]
  have h5 : (p0 ++ p1 ++ p2 ++ p3 ++ p4 ++ p5).extractLsb' 0 9 = p5 := by
    simp (disch := decide) only [extract_lo, extract_all]
  exact ⟨h0, h1, h2, h3, h4, h5⟩

theorem parts_6_1_5_3_9_8 (p0 : BitVec 6) (p1 : BitVec 1) (p2 : BitVec 5) (p3 : BitVec 3) (p4 : BitVec 9) (p5 : BitVec 8) {w : IWord} (hw : w = p0 ++ p1 ++ p2 ++ p3 ++ p4 ++ p5) :
    fld w 26 6 = p0 ∧ fld w 25 1 = p1 ∧ fld w 20 5 = p2 ∧ fld w 17 3 = p3 ∧ fld w 8 9 = p4 ∧ fld w 0 8 = p5 := by
  subst hw
  have h0 : (p0 ++ p1 ++ p2 ++ p3 ++ p4 ++ p5).extractLsb' 26 6 = p0 := by
    simp (disch := decide) only [extract_hi, extract_all, Nat.reduceSub]
  have h1 : (p0 ++ p1 ++ p2 ++ p3 ++ p4 ++ p5).extractLsb' 25 1 = p1 := by
    simp (disch := decide) only [extract_hi, extract_lo, extract_all, Nat.reduceSub]
  have h2 : (p0 ++ p1 ++ p2 ++ p3 ++ p4 ++ p5).extractLsb' 20 5 = p2 := by
    simp (disch := decide) only [extract_hi, extract_lo, extract_all, Nat.reduceSub]
  have h3 : (p0 ++ p1 ++ p2 ++ p3 ++ p4 ++ p5).extractLsb' 17 3 = p3 := by
    simp (disch := decide) only [extract_hi, extract_lo, extract_all, Nat.reduceSub]
  have h4 : (p0 ++ p1 ++ p2 ++ p3 ++ p4 ++ p5).extractLsb' 8 9 = p4 := by
    simp (disch := decide) only [extract_hi, extract_lo, extract_all, Nat.reduceSub]
  have h5 : (p0 ++ p1 ++ p2 ++ p3 ++ p4 ++ p5).extractLsb' 0 8 = p5 := by
    simp (disch := decide) only [extract_lo, extract_all]
  exact ⟨h0, h1, h2, h3, h4, h5⟩

theorem parts_6_1_5_5_1_5_3_6 (p0 : BitVec 6) (p1 : BitVec 1) (p2 : BitVec 5) (p3 : BitVec 5) (p4 : BitVec 1) (p5 : BitVec 5) (p6 : BitVec 3) (p7 : BitVec 6) {w : IWord} (hw : w = p0 ++ p1 ++ p2 ++ p3 ++ p4 ++ p5 ++ p6 ++ p7) :
    fld w 26 6 = p0 ∧ fld w 25 1 = p1 ∧ fld w 20 5 = p2 ∧ fld w 15 5 = p3 ∧ fld w 14 1 = p4 ∧ fld w 9 5 = p5 ∧ fld w 6 3 = p6 ∧ fld w 0 6 = p7 := by
  subst hw
  have h0 : (p0 ++ p1 ++ p2 ++ p3 ++ p4 ++ p5 ++ p6 ++ p7).extractLsb' 26 6 = p0 := by
    simp (disch := decide) only [extract_hi, extract_all, Nat.reduceSub]
  have h1 : (p0 ++ p1 ++ p2 ++ p3 ++ p4 ++ p5 ++ p6 ++ p7).extractLsb' 25 1 = p1 := by
    simp (disch := decide) only [extract_hi, extract_lo, extract_all, Nat.reduceSub]
  have h2 : (p0 ++ p1 ++ p2 ++ p3 ++ p4 ++ p5 ++ p6 ++ p7).extractLsb' 20 5 = p2 := by
    simp (disch := decide) only [extract_hi, extract_lo, extract_all, Nat.reduceSub]
  have h3 : (p0 ++ p1 ++ p2 ++ p3 ++ p4 ++ p5 ++ p6 ++ p7).extractLsb' 15 5 = p3 := by
    simp (disch := decide) only [extract_hi, extract_lo, extract_all, Nat.reduceSub]
  have h4 : (p0 ++ p1 ++ p2 ++ p3 ++ p4 ++ p5 ++ p6 ++ p7).extractLsb' 14 1 = p4 := by
    simp (disch := decide) only [extract_hi, extract_lo, extract_all, Nat.reduceSub]
  have h5 : (p0 ++ p1 ++ p2 ++ p3 ++ p4 ++ p5 ++ p6 ++ p7).extractLsb' 9 5 = p5 := by
    simp (disch := decide) only [extract_hi, extract_lo, extract_all, Nat.reduceSub]
  have h6 : (p0 ++ p1 ++ p2 ++ p3 ++ p4 ++ p5 ++ p6 ++ p7).extractLsb' 6 3 = p6 := by
    simp (disch := decide) only [extract_hi, extract_lo, extract_all, Nat.reduceSub]
  have h7 : (p0 ++ p1 ++ p2 ++ p3 ++ p4 ++ p5 ++ p6 ++ p7).extractLsb' 0 6 = p7 := by
    simp (disch := decide) only [extract_lo, extract_all]
  exact ⟨h0, h1, h2, h3, h4, h5, h6, h7⟩

theorem parts_6_1_7_5_5_3_5 (p0 : BitVec 6) (p1 : BitVec 1) (p2 : BitVec 7) (p3 : BitVec 5) (p4 : BitVec 5) (p5 : BitVec 3) (p6 : BitVec 5) {w : IWord} (hw : w = p0 ++ p1 ++ p2 ++ p3 ++ p4 ++ p5 ++ p6) :
    fld w 26 6 = p0 ∧ fld w 25 1 = p1 ∧ fld w 18 7 = p2 ∧ fld w 13 5 = p3 ∧ fld w 8 5 = p4 ∧ fld w 5 3 = p5 ∧ fld w 0 5 = p6 := by
  subst hw
  have h0 : (p0 ++ p1 ++ p2 ++ p3 ++ p4 ++ p5 ++ p6).extractLsb' 26 6 = p0 := by
    simp (disch := decide) only [extract_hi, extract_all, Nat.reduceSub]
  have h1 : (p0 ++ p1 ++ p2 ++ p3 ++ p4 ++ p5 ++ p6).extractLsb' 25 1 = p1 := by
    simp (disch := decide) only [extract_hi, extract_lo, extract_all, Nat.reduceSub]
  have h2 : (p0 ++ p1 ++ p2 ++ p3 ++ p4 ++ p5 ++ p6).extractLsb' 18 7 = p2 := by
    simp (disch := decide) only [extract_hi, extract_lo, extract_all, Nat.reduceSub]
  have h3 : (p0 ++ p1 ++ p2 ++ p3 ++ p4 ++ p5 ++ p6).extractLsb' 13 5 = p3 := by
    simp (disch := decide) only [extract_hi, extract_lo, extract_all, Nat.reduceSub]
  have h4 : (p0 ++ p1 ++ p2 ++ p3 ++ p4 ++ p5 ++ p6).extractLsb' 8 5 = p4 := by
    simp (disch := decide) only [extract_hi, extract_lo, extract_all, Nat.reduceSub]
  have h5 : (p0 ++ p1 ++ p2 ++ p3 ++ p4 ++ p5 ++ p6).extractLsb' 5 3 = p5 := by
    simp (disch := decide) only [extract_hi, extract_lo, extract_all, Nat.reduceSub]
  have h6 : (p0 ++ p1 ++ p2 ++ p3 ++ p4 ++ p5 ++ p6).extractLsb' 0 5 = p6 := by
    simp (disch := decide) only [extract_lo, extract_all]
  exact ⟨h0, h1, h2, h3, h4, h5, h6⟩

theorem parts_6_7_7_7_5 (p0 : BitVec 6) (p1 : BitVec 7) (p2 : BitVec 7) (p3 : BitVec 7) (p4 : BitVec 5) {w : IWord} (hw : w = p0 ++ p1 ++ p2 ++ p3 ++ p4) :
    fld w 26 6 = p0 ∧ fld w 19 7 = p1 ∧ fld w 12 7 = p2 ∧ fld w 5 7 = p3 ∧ fld w 0 5 = p4 := by
  subst hw
  have h0 : (p0 ++ p1 ++ p2 ++ p3 ++ p4).extractLsb' 26 6 = p0 := by
    simp (disch := decide) only [extract_hi, extract_all, Nat.reduceSub]
  have h1 : (p0 ++ p1 ++ p2 ++ p3 ++ p4).extractLsb' 19 7 = p1 := by
    simp (disch := decide) only [extract_hi, extract_lo, extract_all, Nat.reduceSub]
  have h2 : (p0 ++ p1 ++ p2 ++ p3 ++ p4).extractLsb' 12 7 = p2 := by
    simp (disch := decide) only [extract_hi, extract_lo, extract_all, Nat.reduceSub]
  have h3 : (p0 ++ p1 ++ p2 ++ p3 ++ p4).extractLsb' 5 7 = p3 := by
    simp (disch := decide) only [extract_hi, extract_lo, extract_all, Nat.reduceSub]
  have h4 : (p0 ++ p1 ++ p2 ++ p3 ++ p4).extractLsb' 0 5 = p4 := by
    simp (disch := decide) only [extract_lo, extract_all]
  exact ⟨h0, h1, h2, h3, h4⟩

theorem parts_6_7_7_12 (p0 : BitVec 6) (p1 : BitVec 7) (p2 : BitVec 7) (p3 : BitVec 12) {w : IWord} (hw : w = p0 ++ p1 ++ p2 ++ p3) :
    fld w 26 6 = p0 ∧ fld w 19 7 = p1 ∧ fld w 12 7 = p2 ∧ fld w 0 12 = p3 := by
  subst hw
  have h0 : (p0 ++ p1 ++ p2 ++ p3).extractLsb' 26 6 = p0 := by
    simp (disch := decide) only [extract_hi, extract_all, Nat.reduceSub]
  have h1 : (p0 ++ p1 ++ p2 ++ p3).extractLsb' 19 7 = p1 := by
    simp (disch := decide) only [extract_hi, extract_lo, extract_all, Nat.reduceSub]
  have h2 : (p0 ++ p1 ++ p2 ++ p3).extractLsb' 12 7 = p2 := by
    simp (disch := decide) only [extract_hi, extract_lo, extract_all, Nat.reduceSub]
  have h3 : (p0 ++ p1 ++ p2 ++ p3).extractLsb' 0 12 = p3 := by
    simp (disch := decide) only [extract_lo, extract_all]
  exact ⟨h0, h1, h2, h3⟩

theorem parts_6_6_1_7_12 (p0 : BitVec 6) (p1 : BitVec 6) (p2 : BitVec 1) (p3 : BitVec 7) (p4 : BitVec 12) {w : IWord} (hw : w = p0 ++ p1 ++ p2 ++ p3 ++ p4) :
    fld w 26 6 = p0 ∧ fld w 20 6 = p1 ∧ fld w 19 1 = p2 ∧ fld w 12 7 = p3 ∧ fld w 0 12 = p4 := by
  subst hw
  have h0 : (p0 ++ p1 ++ p2 ++ p3 ++ p4).extractLsb' 26 6 = p0 := by
    simp (disch := decide) only [extract_hi, extract_all, Nat.reduceSub]
  have h1 : (p0 ++ p1 ++ p2 ++ p3 ++ p4).extractLsb' 20 6 = p1 := by
    simp (disch := decide) only [extract_hi, extract_lo, extract_all, Nat.reduceSub]
  have h2 : (p0 ++ p1 ++ p2 ++ p3 ++ p4).extractLsb' 19 1 = p2 := by
    simp (disch := decide) only [extract_hi, extract_lo, extract_all, Nat.reduceSub]
  have h3 : (p0 ++ p1 ++ p2 ++ p3 ++ p4).extractLsb' 12 7 = p3 := by
    simp (disch := decide) only [extract_hi, extract_lo, extract_all, Nat.reduceSub]
  have h4 : (p0 ++ p1 ++ p2 ++ p3 ++ p4).extractLsb' 0 12 = p4 := by
    simp (disch := decide) only [extract_lo, extract_all]
  exact ⟨h0, h1, h2, h3, h4⟩

theorem parts_6_7_6_13 (p0 : BitVec 6) (p1 : BitVec 7) (p2 : BitVec 6) (p3 : BitVec 13) {w : IWord} (hw : w = p0 ++ p1 ++ p2 ++ p3) :
    fld w 26 6 = p0 ∧ fld w 19 7 = p1 ∧ fld w 13 6 = p2 ∧ fld w 0 13 = p3 := by
  subst hw
  have h0 : (p0 ++ p1 ++ p2 ++ p3).extractLsb' 26 6 = p0 := by
    simp (disch := decide) only [extract_hi, extract_all, Nat.reduceSub]
  have h1 : (p0 ++ p1 ++ p2 ++ p3).extractLsb' 19 7 = p1 := by
    simp (disch := decide) only [extract_hi, extract_lo, extract_all, Nat.reduceSub]
  have h2 : (p0 ++ p1 ++ p2 ++ p3).extractLsb' 13 6 = p2 := by
    simp (disch := decide) only [extract_hi, extract_lo, extract_all, Nat.reduceSub]
  have h3 : (p0 ++ p1 ++ p2 ++ p3).extractLsb' 0 13 = p3 := by
    simp (disch := decide) only [extract_lo, extract_all]
  exact ⟨h0, h1, h2, h3⟩

theorem parts_16_16 (p0 : BitVec 16) (p1 : BitVec 16) {w : IWord} (hw : w = p0 ++ p1) :
    fld w 16 16 = p0 ∧ fld w 0 16 = p1 := by
  subst hw
  have h0 : (p0 ++ p1).extractLsb' 16 16 = p0 := by
    simp (disch := decide) only [extract_hi, extract_all, Nat.reduceSub]
  have h1 : (p0 ++ p1).extractLsb' 0 16 = p1 := by
    simp (disch := decide) only [extract_lo, extract_all]
  exact ⟨h0, h1⟩

theorem parts_6_1_2_7_16 (p0 : BitVec 6) (p1 : BitVec 1) (p2 : BitVec 2) (p3 : BitVec 7) (p4 : BitVec 16) {w : IWord} (hw : w = p0 ++ p1 ++ p2 ++ p3 ++ p4) :
    fld w 26 6 = p0 ∧ fld w 25 1 = p1 ∧ fld w 23 2 = p2 ∧ fld w 16 7 = p3 ∧ fld w 0 16 = p4 := by
  subst hw
  have h0 : (p0 ++ p1 ++ p2 ++ p3 ++ p4).extractLsb' 26 6 = p0 := by
    simp (disch := decide) only [extract_hi, extract_all, Nat.reduceSub]
  have h1 : (p0 ++ p1 ++ p2 ++ p3 ++ p4).extractLsb' 25 1 = p1 := by
    simp (disch := decide) only [extract_hi, extract_lo, extract_all, Nat.reduceSub]
  have h2 : (p0 ++ p1 ++ p2 ++ p3 ++ p4).extractLsb' 23 2 = p2 := by
    simp (disch := decide) only [extract_hi, extract_lo, extract_all, Nat.reduceSub]
  have h3 : (p0 ++ p1 ++ p2 ++ p3 ++ p4).extractLsb' 16 7 = p3 := by
    simp (disch := decide) only [extract_hi, extract_lo, extract_all, Nat.reduceSub]
  have h4 : (p0 ++ p1 ++ p2 ++ p3 ++ p4).extractLsb' 0 16 = p4 := by
    simp (disch := decide) only [extract_lo, extract_all]
  exact ⟨h0, h1, h2, h3, h4⟩

theorem parts_6_1_25 (p0 : BitVec 6) (p1 : BitVec 1) (p2 : BitVec 25) {w : IWord} (hw : w = p0 ++ p1 ++ p2) :
    fld w 26 6 = p0 ∧ fld w 25 1 = p1 ∧ fld w 0 25 = p2 := by
  subst hw
  have h0 : (p0 ++ p1 ++ p2).extractLsb' 26 6 = p0 := by
    simp (disch := decide) only [extract_hi, extract_all, Nat.reduceSub]
  have h1 : (p0 ++ p1 ++ p2).extractLsb' 25 1 = p1 := by
    simp (disch := decide) only [extract_hi, extract_lo, extract_all, Nat.reduceSub]
  have h2 : (p0 ++ p1 ++ p2).extractLsb' 0 25 = p2 := by
    simp (disch := decide) only [extract_lo, extract_all]
  exact ⟨h0, h1, h2⟩

theorem parts_6_1_5_6_6_3_5 (p0 : BitVec 6) (p1 : BitVec 1) (p2 : BitVec 5) (p3 : BitVec 6) (p4 : BitVec 6) (p5 : BitVec 3) (p6 : BitVec 5) {w : IWord} (hw : w = p0 ++ p1 ++ p2 ++ p3 ++ p4 ++ p5 ++ p6) :
    fld w 26 6 = p0 ∧ fld w 25 1 = p1 ∧ fld w 20 5 = p2 ∧ fld w 14 6 = p3 ∧ fld w 8 6 = p4 ∧ fld w 5 3 = p5 ∧ fld w 0 5 = p6 := by
  subst hw
  have h0 : (p0 ++ p1 ++ p2 ++ p3 ++ p4 ++ p5 ++ p6).extractLsb' 26 6 = p0 := by
    simp (disch := decide) only [extract_hi, extract_all, Nat.reduceSub]
  have h1 : (p0 ++ p1 ++ p2 ++ p3 ++ p4 ++ p5 ++ p6).extractLsb' 25 1 = p1 := by
    simp (disch := decide) only [extract_hi, extract_lo, extract_all, Nat.reduceSub]
  have h2 : (p0 ++ p1 ++ p2 ++ p3 ++ p4 ++ p5 ++ p6).extractLsb' 20 5 = p2 := by
    simp (disch := decide) only [extract_hi, extract_lo, extract_all, Nat.reduceSub]
  have h3 : (p0 ++ p1 ++ p2 ++ p3 ++ p4 ++ p5 ++ p6).extractLsb' 14 6 = p3 := by
    simp (disch := decide) only [extract_hi, extract_lo, extract_all, Nat.reduceSub]
  have h4 : (p0 ++ p1 ++ p2 ++ p3 ++ p4 ++ p5 ++ p6).extractLsb' 8 6 = p4 := by
    simp (disch := decide) only [extract_hi, extract_lo, extract_all, Nat.reduceSub]
  have h5 : (p0 ++ p1 ++ p2 ++ p3 ++ p4 ++ p5 ++ p6).extractLsb' 5 3 = p5 := by
    simp (disch := decide) only [extract_hi, extract_lo, extract_all, Nat.reduceSub]
  have h6 : (p0 ++ p1 ++ p2 ++ p3 ++ p4 ++ p5 ++ p6).extractLsb' 0 5 = p6 := by
    simp (disch := decide) only [extract_lo, extract_all]
  exact ⟨h0, h1, h2, h3, h4, h5, h6⟩

theorem parts_6_1_5_6_1_5_3_5 (p0 : BitVec 6) (p1 : BitVec 1) (p2 : BitVec 5) (p3 : BitVec 6) (p4 : BitVec 1) (p5 : BitVec 5) (p6 : BitVec 3) (p7 : BitVec 5) {w : IWord} (hw : w = p0 ++ p1 ++ p2 ++ p3 ++ p4 ++ p5 ++ p6 ++ p7) :
    fld w 26 6 = p0 ∧ fld w 25 1 = p1 ∧ fld w 20 5 = p2 ∧ fld w 14 6 = p3 ∧ fld w 13 1 = p4 ∧ fld w 8 5 = p5 ∧ fld w 5 3 = p6 ∧ fld w 0 5 = p7 := by
  subst hw
  have h0 : (p0 ++ p1 ++ p2 ++ p3 ++ p4 ++ p5 ++ p6 ++ p7).extractLsb' 26 6 = p0 := by
    simp (disch := decide) only [extract_hi, extract_all, Nat.reduceSub]
  have h1 : (p0 ++ p1 ++ p2 ++ p3 ++ p4 ++ p5 ++ p6 ++ p7).extractLsb' 25 1 = p1 := by
    simp (disch := decide) only [extract_hi, extract_lo, extract_all, Nat.reduceSub]
  have h2 : (p0 ++ p1 ++ p2 ++ p3 ++ p4 ++ p5 ++ p6 ++ p7).extractLsb' 20 5 = p2 := by
    simp (disch := decide) only [extract_hi, extract_lo, extract_all, Nat.reduceSub]
  have h3 : (p0 ++ p1 ++ p2 ++ p3 ++ p4 ++ p5 ++ p6 ++ p7).extractLsb' 14 6 = p3 := by
    simp (disch := decide) only [extract_hi, extract_lo, extract_all, Nat.reduceSub]
  have h4 : (p0 ++ p1 ++ p2 ++ p3 ++ p4 ++ p5 ++ p6 ++ p7).extractLsb' 13 1 = p4 := by
    simp (disch := decide) only [extract_hi, extract_lo, extract_all, Nat.reduceSub]
  have h5 : (p0 ++ p1 ++ p2 ++ p3 ++ p4 ++ p5 ++ p6 ++ p7).extractLsb' 8 5 = p5 := by
    simp (disch := decide) only [extract_hi, extract_lo, extract_all, Nat.reduceSub]
  have h6 : (p0 ++ p1 ++ p2 ++ p3 ++ p4 ++ p5 ++ p6 ++ p7).extractLsb' 5 3 = p6 := by
    simp (disch := decide) only [extract_hi, extract_lo, extract_all, Nat.reduceSub]
  have h7 : (p0 ++ p1 ++ p2 ++ p3 ++ p4 ++ p5 ++ p6 ++ p7).extractLsb' 0 5 = p7 := by
    simp (disch := decide) only [extract_lo, extract_all]
  exact ⟨h0, h1, h2, h3, h4, h5, h6, h7⟩

theorem parts_6_1_5_5_15 (p0 : BitVec 6) (p1 : BitVec 1) (p2 : BitVec 5) (p3 : BitVec 5) (p4 : BitVec 15) {w : IWord} (hw : w = p0 ++ p1 ++ p2 ++ p3 ++ p4) :
    fld w 26 6 = p0 ∧ fld w 25 1 = p1 ∧ fld w 20 5 = p2 ∧ fld w 15 5 = p3 ∧ fld w 0 15 = p4 := by
  subst hw
  have h0 : (p0 ++ p1 ++ p2 ++ p3 ++ p4).extractLsb' 26 6 = p0 := by
    simp (disch := decide) only [extract_hi, extract_all, Nat.reduceSub]
  have h1 : (p0 ++ p1 ++ p2 ++ p3 ++ p4).extractLsb' 25 1 = p1 := by
    simp (disch := decide) only [extract_hi, extract_lo, extract_all, Nat.reduceSub]
  have h2 : (p0 ++ p1 ++ p2 ++ p3 ++ p4).extractLsb' 20 5 = p2 := by
    simp (disch := decide) only [extract_hi, extract_lo, extract_all, Nat.reduceSub]
  have h3 : (p0 ++ p1 ++ p2 ++ p3 ++ p4).extractLsb' 15 5 = p3 := by
    simp (disch := decide) only [extract_hi, extract_lo, extract_all, Nat.reduceSub]
  have h4 : (p0 ++ p1 ++ p2 ++ p3 ++ p4).extractLsb' 0 15 = p4 := by
    simp (disch := decide) only [extract_lo, extract_all]
  exact ⟨h0, h1, h2, h3, h4⟩

theorem parts_6_1_10_6_9 (p0 : BitVec 6) (p1 : BitVec 1) (p2 : BitVec 10) (p3 : BitVec 6) (p4 : BitVec 9) {w : IWord} (hw : w = p0 ++ p1 ++ p2 ++ p3 ++ p4) :
    fld w 26 6 = p0 ∧ fld w 25 1 = p1 ∧ fld w 15 10 = p2 ∧ fld w 9 6 = p3 ∧ fld w 0 9 = p4 := by
  subst hw
  have h0 : (p0 ++ p1 ++ p2 ++ p3 ++ p4).extractLsb' 26 6 = p0 := by
    simp (disch := decide) only [extract_hi, extract_all, Nat.reduceSub]
  have h1 : (p0 ++ p1 ++ p2 ++ p3 ++ p4).extractLsb' 25 1 = p1 := by
    simp (disch := decide) only [extract_hi, extract_lo, extract_all, Nat.reduceSub]
  have h2 : (p0 ++ p1 ++ p2 ++ p3 ++ p4).extractLsb' 15 10 = p2 := by
    simp (disch := decide) only [extract_hi, extract_lo, extract_all, Nat.reduceSub]
  have h3 : (p0 ++ p1 ++ p2 ++ p3 ++ p4).extractLsb' 9 6 = p3 := by
    simp (disch := decide) only [extract_hi, extract_lo, extract_all, Nat.reduceSub]
  have h4 : (p0 ++ p1 ++ p2 ++ p3 ++ p4).extractLsb' 0 9 = p4 := by
    simp (disch := decide) only [extract_lo, extract_all]
  exact ⟨h0, h1, h2, h3, h4⟩

theorem parts_6_1_5_20 (p0 : BitVec 6) (p1 : BitVec 1) (p2 : BitVec 5) (p3 : BitVec 20) {w : IWord} (hw : w = p0 ++ p1 ++ p2 ++ p3) :
    fld w 26 6 = p0 ∧ fld w 25 1 = p1 ∧ fld w 20 5 = p2 ∧ fld w 0 20 = p3 := by
  subst hw
  have h0 : (p0 ++ p1 ++ p2 ++ p3).extractLsb' 26 6 = p0 := by
    simp (disch := decide) only [extract_hi, extract_all, Nat.reduceSub]
  have h1 : (p0 ++ p1 ++ p2 ++ p3).extractLsb' 25 1 = p1 := by
    simp (disch := decide) only [extract_hi, extract_lo, extract_all, Nat.reduceSub]
  have h2 : (p0 ++ p1 ++ p2 ++ p3).extractLsb' 20 5 = p2 := by
    simp (disch := decide) only [extract_hi, extract_lo, extract_all, Nat.reduceSub]
  have h3 : (p0 ++ p1 ++ p2 ++ p3).extractLsb' 0 20 = p3 := by
    simp (disch := decide) only [extract_lo, extract_all]
  exact ⟨h0, h1, h2, h3⟩

theorem parts_6_1_13_6_6 (p0 : BitVec 6) (p1 : BitVec 1) (p2 : BitVec 13) (p3 : BitVec 6) (p4 : BitVec 6) {w : IWord} (hw : w = p0 ++ p1 ++ p2 ++ p3 ++ p4) :
    fld w 26 6 = p0 ∧ fld w 25 1 = p1 ∧ fld w 12 13 = p2 ∧ fld w 6 6 = p3 ∧ fld w 0 6 = p4 := by
  subst hw
  have h0 : (p0 ++ p1 ++ p2 ++ p3 ++ p4).extractLsb' 26 6 = p0 := by
    simp (disch := decide) only [extract_hi, extract_all, Nat.reduceSub]
  have h1 : (p0 ++ p1 ++ p2 ++ p3 ++ p4).extractLsb' 25 1 = p1 := by
    simp (disch := decide) only [extract_hi, extract_lo, extract_all, Nat.reduceSub]
  have h2 : (p0 ++ p1 ++ p2 ++ p3 ++ p4).extractLsb' 12 13 = p2 := by
    simp (disch := decide) only [extract_hi, extract_lo, extract_all, Nat.reduceSub]
  have h3 : (p0 ++ p1 ++ p2 ++ p3 ++ p4).extractLsb' 6 6 = p3 := by
    simp (disch := decide) only [extract_hi, extract_lo, extract_all, Nat.reduceSub]
  have h4 : (p0 ++ p1 ++ p2 ++ p3 ++ p4).extractLsb' 0 6 = p4 := by
    simp (disch := decide) only [extract_lo, extract_all]
  exact ⟨h0, h1, h2, h3, h4⟩

theorem parts_6_1_8_5_6_6 (p0 : BitVec 6) (p1 : BitVec 1) (p2 : BitVec 8) (p3 : BitVec 5) (p4 : BitVec 6) (p5 : BitVec 6) {w : IWord} (hw : w = p0 ++ p1 ++ p2 ++ p3 ++ p4 ++ p5) :
    fld w 26 6 = p0 ∧ fld w 25 1 = p1 ∧ fld w 17 8 = p2 ∧ fld w 12 5 = p3 ∧ fld w 6 6 = p4 ∧ fld w 0 6 = p5 := by
  subst hw
  have h0 : (p0 ++ p1 ++ p2 ++ p3 ++ p4 ++ p5).extractLsb' 26 6 = p0 := by
    simp (disch := decide) only [extract_hi, extract_all, Nat.reduceSub]
  have h1 : (p0 ++ p1 ++ p2 ++ p3 ++ p4 ++ p5).extractLsb' 25 1 = p1 := by
    simp (disch := decide) only [extract_hi, extract_lo, extract_all, Nat.reduceSub]
  have h2 : (p0 ++ p1 ++ p2 ++ p3 ++ p4 ++ p5).extractLsb' 17 8 = p2 := by
    simp (disch := decide) only [extract_hi, extract_lo, extract_all, Nat.reduceSub]
  have h3 : (p0 ++ p1 ++ p2 ++ p3 ++ p4 ++ p5).extractLsb' 12 5 = p3 := by
    simp (disch := decide) only [extract_hi, extract_lo, extract_all, Nat.reduceSub]
  have h4 : (p0 ++ p1 ++ p2 ++ p3 ++ p4 ++ p5).extractLsb' 6 6 = p4 := by
    simp (disch := decide) only [extract_hi, extract_lo, extract_all, Nat.reduceSub]
  have h5 : (p0 ++ p1 ++ p2 ++ p3 ++ p4 ++ p5).extractLsb' 0 6 = p5 := by
    simp (disch := decide) only [extract_lo, extract_all]
  exact ⟨h0, h1, h2, h3, h4, h5⟩

theorem parts_6_1_4_4_5_6_6 (p0 : BitVec 6) (p1 : BitVec 1) (p2 : BitVec 4) (p3 : BitVec 4) (p4 : BitVec 5) (p5 : BitVec 6) (p6 : BitVec 6) {w : IWord} (hw : w = p0 ++ p1 ++ p2 ++ p3 ++ p4 ++ p5 ++ p6) :
    fld w 26 6 = p0 ∧ fld w 25 1 = p1 ∧ fld w 21 4 = p2 ∧ fld w 17 4 = p3 ∧ fld w 12 5 = p4 ∧ fld w 6 6 = p5 ∧ fld w 0 6 = p6 := by
  subst hw
  have h0 : (p0 ++ p1 ++ p2 ++ p3 ++ p4 ++ p5 ++ p6).extractLsb' 26 6 = p0 := by
    simp (disch := decide) only [extract_hi, extract_all, Nat.reduceSub]
  have h1 : (p0 ++ p1 ++ p2 ++ p3 ++ p4 ++ p5 ++ p6).extractLsb' 25 1 = p1 := by
    simp (disch := decide) only [extract_hi, extract_lo, extract_all, Nat.reduceSub]
  have h2 : (p0 ++ p1 ++ p2 ++ p3 ++ p4 ++ p5 ++ p6).extractLsb' 21 4 = p2 := by
    simp (disch := decide) only [extract_hi, extract_lo, extract_all, Nat.reduceSub]
  have h3 : (p0 ++ p1 ++ p2 ++ p3 ++ p4 ++ p5 ++ p6).extractLsb' 17 4 = p3 := by
    simp (disch := decide) only [extract_hi, extract_lo, extract_all, Nat.reduceSub]
  have h4 : (p0 ++ p1 ++ p2 ++ p3 ++ p4 ++ p5 ++ p6).extractLsb' 12 5 = p4 := by
    simp (disch := decide) only [extract_hi, extract_lo, extract_all, Nat.reduceSub]
  have h5 : (p0 ++ p1 ++ p2 ++ p3 ++ p4 ++ p5 ++ p6).extractLsb' 6 6 = p5 := by
    simp (disch := decide) only [extract_hi, extract_lo, extract_all, Nat.reduceSub]
  have h6 : (p0 ++ p1 ++ p2 ++ p3 ++ p4 ++ p5 ++ p6).extractLsb' 0 6 = p6 := by
    simp (disch := decide) only [extract_lo, extract_all]
  exact ⟨h0, h1, h2, h3, h4, h5, h6⟩

theorem parts_6_1_4_4_5_6_3_3 (p0 : BitVec 6) (p1 : BitVec 1) (p2 : BitVec 4) (p3 : BitVec 4) (p4 : BitVec 5) (p5 : BitVec 6) (p6 : BitVec 3) (p7 : BitVec 3) {w : IWord} (hw : w = p0 ++ p1 ++ p2 ++ p3 ++ p4 ++ p5 ++ p6 ++ p7) :
    fld w 26 6 = p0 ∧ fld w 25 1 = p1 ∧ fld w 21 4 = p2 ∧ fld w 17 4 = p3 ∧ fld w 12 5 = p4 ∧ fld w 6 6 = p5 ∧ fld w 3 3 = p6 ∧ fld w 0 3 = p7 := by
  subst hw
  have h0 : (p0 ++ p1 ++ p2 ++ p3 ++ p4 ++ p5 ++ p6 ++ p7).extractLsb' 26 6 = p0 := by
    simp (disch := decide) only [extract_hi, extract_all, Nat.reduceSub]
  have h1 : (p0 ++ p1 ++ p2 ++ p3 ++ p4 ++ p5 ++ p6 ++ p7).extractLsb' 25 1 = p1 := by
    simp (disch := decide) only [extract_hi, extract_lo, extract_all, Nat.reduceSub]
  have h2 : (p0 ++ p1 ++ p2 ++ p3 ++ p4 ++ p5 ++ p6 ++ p7).extractLsb' 21 4 = p2 := by
    simp (disch := decide) only [extract_hi, extract_lo, extract_all, Nat.reduceSub]
  have h3 : (p0 ++ p1 ++ p2 ++ p3 ++ p4 ++ p5 ++ p6 ++ p7).extractLsb' 17 4 = p3 := by
    simp (disch := decide) only [extract_hi, extract_lo, extract_all, Nat.reduceSub]
  have h4 : (p0 ++ p1 ++ p2 ++ p3 ++ p4 ++ p5 ++ p6 ++ p7).extractLsb' 12 5 = p4 := by
    simp (disch := decide) only [extract_hi, extract_lo, extract_all, Nat.reduceSub]
  have h5 : (p0 ++ p1 ++ p2 ++ p3 ++ p4 ++ p5 ++ p6 ++ p7).extractLsb' 6 6 = p5 := by
    simp (disch := decide) only [extract_hi, extract_lo, extract_all, Nat.reduceSub]
  have h6 : (p0 ++ p1 ++ p2 ++ p3 ++ p4 ++ p5 ++ p6 ++ p7).extractLsb' 3 3 = p6 := by
    simp (disch := decide) only [extract_hi, extract_lo, extract_all, Nat.reduceSub]
  have h7 : (p0 ++ p1 ++ p2 ++ p3 ++ p4 ++ p5 ++ p6 ++ p7).extractLsb' 0 3 = p7 := by
    simp (disch := decide) only [extract_lo, extract_all]
  exact ⟨h0, h1, h2, h3, h4, h5, h6, h7⟩

theorem parts_6_1_4_4_17 (p0 : BitVec 6) (p1 : BitVec 1) (p2 : BitVec 4) (p3 : BitVec 4) (p4 : BitVec 17) {w : IWord} (hw : w = p0 ++ p1 ++ p2 ++ p3 ++ p4) :
    fld w 26 6 = p0 ∧ fld w 25 1 = p1 ∧ fld w 21 4 = p2 ∧ fld w 17 4 = p3 ∧ fld w 0 17 = p4 := by
  subst hw
  have h0 : (p0 ++ p1 ++ p2 ++ p3 ++ p4).extractLsb' 26 6 = p0 := by
    simp (disch := decide) only [extract_hi, extract_all, Nat.reduceSub]
  have h1 : (p0 ++ p1 ++ p2 ++ p3 ++ p4).extractLsb' 25 1 = p1 := by
    simp (disch := decide) only [extract_hi, extract_lo, extract_all, Nat.reduceSub]
  have h2 : (p0 ++ p1 ++ p2 ++ p3 ++ p4).extractLsb' 21 4 = p2 := by
    simp (disch := decide) only [extract_hi, extract_lo, extract_all, Nat.reduceSub]
  have h3 : (p0 ++ p1 ++ p2 ++ p3 ++ p4).extractLsb' 17 4 = p3 := by
    simp (disch := decide) only [extract_hi, extract_lo, extract_all, Nat.reduceSub]
  have h4 : (p0 ++ p1 ++ p2 ++ p3 ++ p4).extractLsb' 0 17 = p4 := by
    simp (disch := decide) only [extract_lo, extract_all]
  exact ⟨h0, h1, h2, h3, h4⟩

theorem parts_9_6_6_6_2_3 (p0 : BitVec 9) (p1 : BitVec 6) (p2 : BitVec 6) (p3 : BitVec 6) (p4 : BitVec 2) (p5 : BitVec 3) {w : IWord} (hw : w = p0 ++ p1 ++ p2 ++ p3 ++ p4 ++ p5) :
    fld w 23 9 = p0 ∧ fld w 17 6 = p1 ∧ fld w 11 6 = p2 ∧ fld w 5 6 = p3 ∧ fld w 3 2 = p4 ∧ fld w 0 3 = p5 := by
  subst hw
  have h0 : (p0 ++ p1 ++ p2 ++ p3 ++ p4 ++ p5).extractLsb' 23 9 = p0 := by
    simp (disch := decide) only [extract_hi, extract_all, Nat.reduceSub]
  have h1 : (p0 ++ p1 ++ p2 ++ p3 ++ p4 ++ p5).extractLsb' 17 6 = p1 := by
    simp (disch := decide) only [extract_hi, extract_lo, extract_all, Nat.reduceSub]
  have h2 : (p0 ++ p1 ++ p2 ++ p3 ++ p4 ++ p5).extractLsb' 11 6 = p2 := by
    simp (disch := decide) only [extract_hi, extract_lo, extract_all, Nat.reduceSub]
  have h3 : (p0 ++ p1 ++ p2 ++ p3 ++ p4 ++ p5).extractLsb' 5 6 = p3 := by
    simp (disch := decide) only [extract_hi, extract_lo, extract_all, Nat.reduceSub]
  have h4 : (p0 ++ p1 ++ p2 ++ p3 ++ p4 ++ p5).extractLsb' 3 2 = p4 := by
    simp (disch := decide) only [extract_hi, extract_lo, extract_all, Nat.reduceSub]
  have h5 : (p0 ++ p1 ++ p2 ++ p3 ++ p4 ++ p5).extractLsb' 0 3 = p5 := by
    simp (disch := decide) only [extract_lo, extract_all]
  exact ⟨h0, h1, h2, h3, h4, h5⟩

theorem parts_9_6_6_8_3 (p0 : BitVec 9) (p1 : BitVec 6) (p2 : BitVec 6) (p3 : BitVec 8) (p4 : BitVec 3) {w : IWord} (hw : w = p0 ++ p1 ++ p2 ++ p3 ++ p4) :
    fld w 23 9 = p0 ∧ fld w 17 6 = p1 ∧ fld w 11 6 = p2 ∧ fld w 3 8 = p3 ∧ fld w 0 3 = p4 := by
  subst hw
  have h0 : (p0 ++ p1 ++ p2 ++ p3 ++ p4).extractLsb' 23 9 = p0 := by
    simp (disch := decide) only [extract_hi, extract_all, Nat.reduceSub]
  have h1 : (p0 ++ p1 ++ p2 ++ p3 ++ p4).extractLsb' 17 6 = p1 := by
    simp (disch := decide) only [extract_hi, extract_lo, extract_all, Nat.reduceSub]
  have h2 : (p0 ++ p1 ++ p2 ++ p3 ++ p4).extractLsb' 11 6 = p2 := by
    simp (disch := decide) only [extract_hi, extract_lo, extract_all, Nat.reduceSub]
  have h3 : (p0 ++ p1 ++ p2 ++ p3 ++ p4).extractLsb' 3 8 = p3 := by
    simp (disch := decide) only [extract_hi, extract_lo, extract_all, Nat.reduceSub]
  have h4 : (p0 ++ p1 ++ p2 ++ p3 ++ p4).extractLsb' 0 3 = p4 := by
    simp (disch := decide) only [extract_lo, extract_all]
  exact ⟨h0, h1, h2, h3, h4⟩

theorem parts_9_6_6_11 (p0 : BitVec 9) (p1 : BitVec 6) (p2 : BitVec 6) (p3 : BitVec 11) {w : IWord} (hw : w = p0 ++ p1 ++ p2 ++ p3) :
    fld w 23 9 = p0 ∧ fld w 17 6 = p1 ∧ fld w 11 6 = p2 ∧ fld w 0 11 = p3 := by
  subst hw
  have h0 : (p0 ++ p1 ++ p2 ++ p3).extractLsb' 23 9 = p0 := by
    simp (disch := decide) only [extract_hi, extract_all, Nat.reduceSub]
  have h1 : (p0 ++ p1 ++ p2 ++ p3).extractLsb' 17 6 = p1 := by
    simp (disch := decide) only [extract_hi, extract_lo, extract_all, Nat.reduceSub]
  have h2 : (p0 ++ p1 ++ p2 ++ p3).extractLsb' 11 6 = p2 := by
    simp (disch := decide) only [extract_hi, extract_lo, extract_all, Nat.reduceSub]
  have h3 : (p0 ++ p1 ++ p2 ++ p3).extractLsb' 0 11 = p3 := by
    simp (disch := decide) only [extract_lo, extract_all]
  exact ⟨h0, h1, h2, h3⟩

theorem parts_15_6_11 (p0 : BitVec 15) (p1 : BitVec 6) (p2 : BitVec 11) {w : IWord} (hw : w = p0 ++ p1 ++ p2) :
    fld w 17 15 = p0 ∧ fld w 11 6 = p1 ∧ fld w 0 11 = p2 := by
  subst hw
  have h0 : (p0 ++ p1 ++ p2).extractLsb' 17 15 = p0 := by
    simp (disch := decide) only [extract_hi, extract_all, Nat.reduceSub]
  have h1 : (p0 ++ p1 ++ p2).extractLsb' 11 6 = p1 := by
    simp (disch := decide) only [extract_hi, extract_lo, extract_all, Nat.reduceSub]
  have h2 : (p0 ++ p1 ++ p2).extractLsb' 0 11 = p2 := by
    simp (disch := decide) only [extract_lo, extract_all]
  exact ⟨h0, h1, h2⟩

theorem parts_15_6_6_3_2 (p0 : BitVec 15) (p1 : BitVec 6) (p2 : BitVec 6) (p3 : BitVec 3) (p4 : BitVec 2) {w : IWord} (hw : w = p0 ++ p1 ++ p2 ++ p3 ++ p4) :
    fld w 17 15 = p0 ∧ fld w 11 6 = p1 ∧ fld w 5 6 = p2 ∧ fld w 2 3 = p3 ∧ fld w 0 2 = p4 := by
  subst hw
  have h0 : (p0 ++ p1 ++ p2 ++ p3 ++ p4).extractLsb' 17 15 = p0 := by
    simp (disch := decide) only [extract_hi, extract_all, Nat.reduceSub]
  have h1 : (p0 ++ p1 ++ p2 ++ p3 ++ p4).extractLsb' 11 6 = p1 := by
    simp (disch := decide) only [extract_hi, extract_lo, extract_all, Nat.reduceSub]
  have h2 : (p0 ++ p1 ++ p2 ++ p3 ++ p4).extractLsb' 5 6 = p2 := by
    simp (disch := decide) only [extract_hi, extract_lo, extract_all, Nat.reduceSub]
  have h3 : (p0 ++ p1 ++ p2 ++ p3 ++ p4).extractLsb' 2 3 = p3 := by
    simp (disch := decide) only [extract_hi, extract_lo, extract_all, Nat.reduceSub]
  have h4 : (p0 ++ p1 ++ p2 ++ p3 ++ p4).extractLsb' 0 2 = p4 := by
    simp (disch := decide) only [extract_lo, extract_all]
  exact ⟨h0, h1, h2, h3, h4⟩

theorem parts_15_6_6_5 (p0 : BitVec 15) (p1 : BitVec 6) (p2 : BitVec 6) (p3 : BitVec 5) {w : IWord} (hw : w = p0 ++ p1 ++ p2 ++ p3) :
    fld w 17 15 = p0 ∧ fld w 11 6 = p1 ∧ fld w 5 6 = p2 ∧ fld w 0 5 = p3 := by
  subst hw
  have h0 : (p0 ++ p1 ++ p2 ++ p3).extractLsb' 17 15 = p0 := by
    simp (disch := decide) only [extract_hi, extract_all, Nat.reduceSub]
  have h1 : (p0 ++ p1 ++ p2 ++ p3).extractLsb' 11 6 = p1 := by
    simp (disch := decide) only [extract_hi, extract_lo, extract_all, Nat.reduceSub]
  have h2 : (p0 ++ p1 ++ p2 ++ p3).extractLsb' 5 6 = p2 := by
    simp (disch := decide) only [extract_hi, extract_lo, extract_all, Nat.reduceSub]
  have h3 : (p0 ++ p1 ++ p2 ++ p3).extractLsb' 0 5 = p3 := by
    simp (disch := decide) only [extract_lo, extract_all]
  exact ⟨h0, h1, h2, h3⟩

theorem parts_9_6_6_6_5 (p0 : BitVec 9) (p1 : BitVec 6) (p2 : BitVec 6) (p3 : BitVec 6) (p4 : BitVec 5) {w : IWord} (hw : w = p0 ++ p1 ++ p2 ++ p3 ++ p4) :
    fld w 23 9 = p0 ∧ fld w 17 6 = p1 ∧ fld w 11 6 = p2 ∧ fld w 5 6 = p3 ∧ fld w 0 5 = p4 := by
  subst hw
  have h0 : (p0 ++ p1 ++ p2 ++ p3 ++ p4).extractLsb' 23 9 = p0 := by
    simp (disch := decide) only [extract_hi, extract_all, Nat.reduceSub]
  have h1 : (p0 ++ p1 ++ p2 ++ p3 ++ p4).extractLsb' 17 6 = p1 := by
    simp (disch := decide) only [extract_hi, extract_lo, extract_all, Nat.reduceSub]
  have h2 : (p0 ++ p1 ++ p2 ++ p3 ++ p4).extractLsb' 11 6 = p2 := by
    simp (disch := decide) only [extract_hi, extract_lo, extract_all, Nat.reduceSub]
  have h3 : (p0 ++ p1 ++ p2 ++ p3 ++ p4).extractLsb' 5 6 = p3 := by
    simp (disch := decide) only [extract_hi, extract_lo, extract_all, Nat.reduceSub]
  have h4 : (p0 ++ p1 ++ p2 ++ p3 ++ p4).extractLsb' 0 5 = p4 := by
    simp (disch := decide) only [extract_lo, extract_all]
  exact ⟨h0, h1, h2, h3, h4⟩

theorem parts_6_1_5_6_14 (p0 : BitVec 6) (p1 : BitVec 1) (p2 : BitVec 5) (p3 : BitVec 6) (p4 : BitVec 14) {w : IWord} (hw : w = p0 ++ p1 ++ p2 ++ p3 ++ p4) :
    fld w 26 6 = p0 ∧ fld w 25 1 = p1 ∧ fld w 20 5 = p2 ∧ fld w 14 6 = p3 ∧ fld w 0 14 = p4 := by
  subst hw
  have h0 : (p0 ++ p1 ++ p2 ++ p3 ++ p4).extractLsb' 26 6 = p0 := by
    simp (disch := decide) only [extract_hi, extract_all, Nat.reduceSub]
  have h1 : (p0 ++ p1 ++ p2 ++ p3 ++ p4).extractLsb' 25 1 = p1 := by
    simp (disch := decide) only [extract_hi, extract_lo, extract_all, Nat.reduceSub]
  have h2 : (p0 ++ p1 ++ p2 ++ p3 ++ p4).extractLsb' 20 5 = p2 := by
    simp (disch := decide) only [extract_hi, extract_lo, extract_all, Nat.reduceSub]
  have h3 : (p0 ++ p1 ++ p2 ++ p3 ++ p4).extractLsb' 14 6 = p3 := by
    simp (disch := decide) only [extract_hi, extract_lo, extract_all, Nat.reduceSub]
  have h4 : (p0 ++ p1 ++ p2 ++ p3 ++ p4).extractLsb' 0 14 = p4 := by
    simp (disch := decide) only [extract_lo, extract_all]
  exact ⟨h0, h1, h2, h3, h4⟩

end Sys2Proof.Laws
end

