-- ==== Sys2Proof/Laws/Exec.lean ====
section
/-! SUPPORT. The dispatch, one equation per constructor. -/
namespace Sys2Proof.Laws
open Sys2Proof Sys2Proof.Machine

theorem exec_add (d : BitVec 6) (a : BitVec 6) (b : BitVec 6) (s : State) : exec (.add d a b) s = execAdd d a b s := rfl
theorem exec_sub (d : BitVec 6) (a : BitVec 6) (b : BitVec 6) (s : State) : exec (.sub d a b) s = execSub d a b s := rfl
theorem exec_mul (d : BitVec 6) (a : BitVec 6) (b : BitVec 6) (s : State) : exec (.mul d a b) s = execMul d a b s := rfl
theorem exec_mulh (d : BitVec 6) (a : BitVec 6) (b : BitVec 6) (s : State) : exec (.mulh d a b) s = execMulh d a b s := rfl
theorem exec_mulhu (d : BitVec 6) (a : BitVec 6) (b : BitVec 6) (s : State) : exec (.mulhu d a b) s = execMulhu d a b s := rfl
theorem exec_div (d : BitVec 6) (a : BitVec 6) (b : BitVec 6) (s : State) : exec (.div d a b) s = execDiv d a b s := rfl
theorem exec_divu (d : BitVec 6) (a : BitVec 6) (b : BitVec 6) (s : State) : exec (.divu d a b) s = execDivu d a b s := rfl
theorem exec_rem (d : BitVec 6) (a : BitVec 6) (b : BitVec 6) (s : State) : exec (.rem d a b) s = execRem d a b s := rfl
theorem exec_remu (d : BitVec 6) (a : BitVec 6) (b : BitVec 6) (s : State) : exec (.remu d a b) s = execRemu d a b s := rfl
theorem exec_and (d : BitVec 6) (a : BitVec 6) (b : BitVec 6) (s : State) : exec (.and d a b) s = execAnd d a b s := rfl
theorem exec_or (d : BitVec 6) (a : BitVec 6) (b : BitVec 6) (s : State) : exec (.or d a b) s = execOr d a b s := rfl
theorem exec_xor (d : BitVec 6) (a : BitVec 6) (b : BitVec 6) (s : State) : exec (.xor d a b) s = execXor d a b s := rfl
theorem exec_andn (d : BitVec 6) (a : BitVec 6) (b : BitVec 6) (s : State) : exec (.andn d a b) s = execAndn d a b s := rfl
theorem exec_shl (d : BitVec 6) (a : BitVec 6) (b : BitVec 6) (s : State) : exec (.shl d a b) s = execShl d a b s := rfl
theorem exec_shr (d : BitVec 6) (a : BitVec 6) (b : BitVec 6) (s : State) : exec (.shr d a b) s = execShr d a b s := rfl
theorem exec_sha (d : BitVec 6) (a : BitVec 6) (b : BitVec 6) (s : State) : exec (.sha d a b) s = execSha d a b s := rfl
theorem exec_rot (d : BitVec 6) (a : BitVec 6) (b : BitVec 6) (s : State) : exec (.rot d a b) s = execRot d a b s := rfl
theorem exec_slt (d : BitVec 6) (a : BitVec 6) (b : BitVec 6) (s : State) : exec (.slt d a b) s = execSlt d a b s := rfl
theorem exec_sltu (d : BitVec 6) (a : BitVec 6) (b : BitVec 6) (s : State) : exec (.sltu d a b) s = execSltu d a b s := rfl
theorem exec_min (d : BitVec 6) (a : BitVec 6) (b : BitVec 6) (s : State) : exec (.min d a b) s = execMin d a b s := rfl
theorem exec_max (d : BitVec 6) (a : BitVec 6) (b : BitVec 6) (s : State) : exec (.max d a b) s = execMax d a b s := rfl
theorem exec_minu (d : BitVec 6) (a : BitVec 6) (b : BitVec 6) (s : State) : exec (.minu d a b) s = execMinu d a b s := rfl
theorem exec_maxu (d : BitVec 6) (a : BitVec 6) (b : BitVec 6) (s : State) : exec (.maxu d a b) s = execMaxu d a b s := rfl
theorem exec_clz (d : BitVec 6) (a : BitVec 6) (s : State) : exec (.clz d a) s = execClz d a s := rfl
theorem exec_ctz (d : BitVec 6) (a : BitVec 6) (s : State) : exec (.ctz d a) s = execCtz d a s := rfl
theorem exec_popc (d : BitVec 6) (a : BitVec 6) (s : State) : exec (.popc d a) s = execPopc d a s := rfl
theorem exec_addi (d : BitVec 6) (a : BitVec 6) (im : BitVec 14) (s : State) : exec (.addi d a im) s = execAddi d a im s := rfl
theorem exec_andi (d : BitVec 6) (a : BitVec 6) (im : BitVec 14) (s : State) : exec (.andi d a im) s = execAndi d a im s := rfl
theorem exec_ori (d : BitVec 6) (a : BitVec 6) (im : BitVec 14) (s : State) : exec (.ori d a im) s = execOri d a im s := rfl
theorem exec_xori (d : BitVec 6) (a : BitVec 6) (im : BitVec 14) (s : State) : exec (.xori d a im) s = execXori d a im s := rfl
theorem exec_slti (d : BitVec 6) (a : BitVec 6) (im : BitVec 14) (s : State) : exec (.slti d a im) s = execSlti d a im s := rfl
theorem exec_shli (d : BitVec 6) (a : BitVec 6) (n : BitVec 6) (s : State) : exec (.shli d a n) s = execShli d a n s := rfl
theorem exec_shri (d : BitVec 6) (a : BitVec 6) (n : BitVec 6) (s : State) : exec (.shri d a n) s = execShri d a n s := rfl
theorem exec_shai (d : BitVec 6) (a : BitVec 6) (n : BitVec 6) (s : State) : exec (.shai d a n) s = execShai d a n s := rfl
theorem exec_ldi (d : BitVec 6) (im : BitVec 20) (s : State) : exec (.ldi d im) s = execLdi d im s := rfl
theorem exec_adpc (d : BitVec 6) (o : BitVec 20) (s : State) : exec (.adpc d o) s = execAdpc d o s := rfl
theorem exec_ld (d : BitVec 6) (a : BitVec 6) (w : BitVec 2) (c : BitVec 2) (im : BitVec 10) (s : State) : exec (.ld d a w c im) s = execLd d a w c im s := rfl
theorem exec_ldu (d : BitVec 6) (a : BitVec 6) (w : BitVec 2) (c : BitVec 2) (im : BitVec 10) (s : State) : exec (.ldu d a w c im) s = execLdu d a w c im s := rfl
theorem exec_st (d : BitVec 6) (a : BitVec 6) (w : BitVec 2) (c : BitVec 2) (im : BitVec 10) (s : State) : exec (.st d a w c im) s = execSt d a w c im s := rfl
theorem exec_amoadd (d : BitVec 6) (a : BitVec 6) (b : BitVec 6) (w : BitVec 1) (sc : BitVec 3) (s : State) : exec (.amoadd d a b w sc) s = execAmoadd d a b w sc s := rfl
theorem exec_amoswap (d : BitVec 6) (a : BitVec 6) (b : BitVec 6) (w : BitVec 1) (sc : BitVec 3) (s : State) : exec (.amoswap d a b w sc) s = execAmoswap d a b w sc s := rfl
theorem exec_amoand (d : BitVec 6) (a : BitVec 6) (b : BitVec 6) (w : BitVec 1) (sc : BitVec 3) (s : State) : exec (.amoand d a b w sc) s = execAmoand d a b w sc s := rfl
theorem exec_amoor (d : BitVec 6) (a : BitVec 6) (b : BitVec 6) (w : BitVec 1) (sc : BitVec 3) (s : State) : exec (.amoor d a b w sc) s = execAmoor d a b w sc s := rfl
theorem exec_amoxor (d : BitVec 6) (a : BitVec 6) (b : BitVec 6) (w : BitVec 1) (sc : BitVec 3) (s : State) : exec (.amoxor d a b w sc) s = execAmoxor d a b w sc s := rfl
theorem exec_amomin (d : BitVec 6) (a : BitVec 6) (b : BitVec 6) (w : BitVec 1) (sc : BitVec 3) (s : State) : exec (.amomin d a b w sc) s = execAmomin d a b w sc s := rfl
theorem exec_amomax (d : BitVec 6) (a : BitVec 6) (b : BitVec 6) (w : BitVec 1) (sc : BitVec 3) (s : State) : exec (.amomax d a b w sc) s = execAmomax d a b w sc s := rfl
theorem exec_amominu (d : BitVec 6) (a : BitVec 6) (b : BitVec 6) (w : BitVec 1) (sc : BitVec 3) (s : State) : exec (.amominu d a b w sc) s = execAmominu d a b w sc s := rfl
theorem exec_amomaxu (d : BitVec 6) (a : BitVec 6) (b : BitVec 6) (w : BitVec 1) (sc : BitVec 3) (s : State) : exec (.amomaxu d a b w sc) s = execAmomaxu d a b w sc s := rfl
theorem exec_amocas (d : BitVec 6) (a : BitVec 6) (b : BitVec 6) (w : BitVec 1) (sc : BitVec 3) (s : State) : exec (.amocas d a b w sc) s = execAmocas d a b w sc s := rfl
theorem exec_lda (d : BitVec 6) (a : BitVec 6) (w : BitVec 1) (sc : BitVec 3) (s : State) : exec (.lda d a w sc) s = execLda d a w sc s := rfl
theorem exec_stl (a : BitVec 6) (b : BitVec 6) (w : BitVec 1) (sc : BitVec 3) (s : State) : exec (.stl a b w sc) s = execStl a b w sc s := rfl
theorem exec_fence (k : BitVec 2) (sc : BitVec 3) (s : State) : exec (.fence k sc) s = execFence k sc s := rfl
theorem exec_beq (a : BitVec 6) (b : BitVec 6) (o : BitVec 14) (s : State) : exec (.beq a b o) s = execBeq a b o s := rfl
theorem exec_bne (a : BitVec 6) (b : BitVec 6) (o : BitVec 14) (s : State) : exec (.bne a b o) s = execBne a b o s := rfl
theorem exec_blt (a : BitVec 6) (b : BitVec 6) (o : BitVec 14) (s : State) : exec (.blt a b o) s = execBlt a b o s := rfl
theorem exec_bge (a : BitVec 6) (b : BitVec 6) (o : BitVec 14) (s : State) : exec (.bge a b o) s = execBge a b o s := rfl
theorem exec_bltu (a : BitVec 6) (b : BitVec 6) (o : BitVec 14) (s : State) : exec (.bltu a b o) s = execBltu a b o s := rfl
theorem exec_bgeu (a : BitVec 6) (b : BitVec 6) (o : BitVec 14) (s : State) : exec (.bgeu a b o) s = execBgeu a b o s := rfl
theorem exec_jmp (d : BitVec 6) (o : BitVec 20) (s : State) : exec (.jmp d o) s = execJmp d o s := rfl
theorem exec_jmpr (d : BitVec 6) (a : BitVec 6) (im : BitVec 14) (s : State) : exec (.jmpr d a im) s = execJmpr d a im s := rfl
theorem exec_fadd (d : BitVec 6) (a : BitVec 6) (b : BitVec 6) (f : BitVec 2) (s : State) : exec (.fadd d a b f) s = execFadd d a b f s := rfl
theorem exec_fsub (d : BitVec 6) (a : BitVec 6) (b : BitVec 6) (f : BitVec 2) (s : State) : exec (.fsub d a b f) s = execFsub d a b f s := rfl
theorem exec_fmul (d : BitVec 6) (a : BitVec 6) (b : BitVec 6) (f : BitVec 2) (s : State) : exec (.fmul d a b f) s = execFmul d a b f s := rfl
theorem exec_fdiv (d : BitVec 6) (a : BitVec 6) (b : BitVec 6) (f : BitVec 2) (s : State) : exec (.fdiv d a b f) s = execFdiv d a b f s := rfl
theorem exec_fsqrt (d : BitVec 6) (a : BitVec 6) (f : BitVec 2) (s : State) : exec (.fsqrt d a f) s = execFsqrt d a f s := rfl
theorem exec_fma (d : BitVec 6) (a : BitVec 6) (b : BitVec 6) (f : BitVec 2) (s : State) : exec (.fma d a b f) s = execFma d a b f s := rfl
theorem exec_fmin (d : BitVec 6) (a : BitVec 6) (b : BitVec 6) (f : BitVec 2) (s : State) : exec (.fmin d a b f) s = execFmin d a b f s := rfl
theorem exec_fmax (d : BitVec 6) (a : BitVec 6) (b : BitVec 6) (f : BitVec 2) (s : State) : exec (.fmax d a b f) s = execFmax d a b f s := rfl
theorem exec_fcmp (d : BitVec 6) (a : BitVec 6) (b : BitVec 6) (f : BitVec 2) (c : BitVec 2) (s : State) : exec (.fcmp d a b f c) s = execFcmp d a b f c s := rfl
theorem exec_fcvtDS (d : BitVec 6) (a : BitVec 6) (f : BitVec 2) (sc : BitVec 2) (s : State) : exec (.fcvtDS d a f sc) s = execFcvtDS d a f sc s := rfl
theorem exec_fmv (d : BitVec 6) (a : BitVec 6) (f : BitVec 2) (s : State) : exec (.fmv d a f) s = execFmv d a f s := rfl
theorem exec_fmvNeg (d : BitVec 6) (a : BitVec 6) (f : BitVec 2) (s : State) : exec (.fmvNeg d a f) s = execFmvNeg d a f s := rfl
theorem exec_fmvAbs (d : BitVec 6) (a : BitVec 6) (f : BitVec 2) (s : State) : exec (.fmvAbs d a f) s = execFmvAbs d a f s := rfl
theorem exec_fcvtFK (d : BitVec 6) (a : BitVec 6) (f : BitVec 2) (k : BitVec 2) (s : State) : exec (.fcvtFK d a f k) s = execFcvtFK d a f k s := rfl
theorem exec_fcvtKF (d : BitVec 6) (a : BitVec 6) (f : BitVec 2) (k : BitVec 2) (s : State) : exec (.fcvtKF d a f k) s = execFcvtKF d a f k s := rfl
theorem exec_fcvtRtz (d : BitVec 6) (a : BitVec 6) (f : BitVec 2) (k : BitVec 2) (s : State) : exec (.fcvtRtz d a f k) s = execFcvtRtz d a f k s := rfl
theorem exec_qsend (a : BitVec 6) (q : BitVec 2) (s : State) : exec (.qsend a q) s = execQsend a q s := rfl
theorem exec_qrecv (d : BitVec 6) (q : BitVec 2) (s : State) : exec (.qrecv d q) s = execQrecv d q s := rfl
theorem exec_qbsend (a : BitVec 6) (s : State) : exec (.qbsend a) s = execQbsend a s := rfl
theorem exec_bq (o : BitVec 10) (s : State) : exec (.bq o) s = execBq o s := rfl
theorem exec_sysr (d : BitVec 6) (c : BitVec 12) (s : State) : exec (.sysr d c) s = execSysr d c s := rfl
theorem exec_sysw (a : BitVec 6) (c : BitVec 12) (s : State) : exec (.sysw a c) s = execSysw a c s := rfl
theorem exec_sysset (a : BitVec 6) (c : BitVec 12) (s : State) : exec (.sysset a c) s = execSysset a c s := rfl
theorem exec_sysclr (a : BitVec 6) (c : BitVec 12) (s : State) : exec (.sysclr a c) s = execSysclr a c s := rfl
theorem exec_trap (a : BitVec 6) (s : State) : exec (.trap a) s = execTrap a s := rfl
theorem exec_tret (s : State) : exec (.tret) s = execTret s := rfl
theorem exec_wait (d : BitVec 6) (a : BitVec 6) (b : BitVec 6) (s : State) : exec (.wait d a b) s = execWait d a b s := rfl
theorem exec_yield (s : State) : exec (.yield) s = execYield s := rfl
theorem exec_halt (s : State) : exec (.halt) s = execHalt s := rfl
theorem exec_time (d : BitVec 6) (s : State) : exec (.time d) s = execTime d s := rfl
theorem exec_hint (im : BitVec 26) (s : State) : exec (.hint im) s = execHint im s := rfl
theorem exec_illegalWord (w : IWord) (sub : Nat) (s : State) : exec (.illegalWord w sub) s = execIllegalWord w sub s := rfl
theorem exec_vsetl (c : Bool) (d : BitVec 6) (a : BitVec 6) (s : State) : exec (.vsetl c d a) s = execVsetl c d a s := rfl
theorem exec_vsett (c : Bool) (v : BitVec 5) (n : BitVec 5) (t : BitVec 5) (sc : BitVec 3) (s : State) : exec (.vsett c v n t sc) s = execVsett c v n t sc s := rfl
theorem exec_vsetg (c : Bool) (g : BitVec 2) (s : State) : exec (.vsetg c g) s = execVsetg c g s := rfl
theorem exec_vaddVv (c : Bool) (d : BitVec 5) (a : BitVec 5) (b : BitVec 5) (p : BitVec 3) (s : State) : exec (.vaddVv c d a b p) s = execVaddVv c d a b p s := rfl
theorem exec_vaddVx (c : Bool) (d : BitVec 5) (a : BitVec 5) (sc : BitVec 6) (p : BitVec 3) (s : State) : exec (.vaddVx c d a sc p) s = execVaddVx c d a sc p s := rfl
theorem exec_vsubVv (c : Bool) (d : BitVec 5) (a : BitVec 5) (b : BitVec 5) (p : BitVec 3) (s : State) : exec (.vsubVv c d a b p) s = execVsubVv c d a b p s := rfl
theorem exec_vsubVx (c : Bool) (d : BitVec 5) (a : BitVec 5) (sc : BitVec 6) (p : BitVec 3) (s : State) : exec (.vsubVx c d a sc p) s = execVsubVx c d a sc p s := rfl
theorem exec_vmulVv (c : Bool) (d : BitVec 5) (a : BitVec 5) (b : BitVec 5) (p : BitVec 3) (s : State) : exec (.vmulVv c d a b p) s = execVmulVv c d a b p s := rfl
theorem exec_vmulVx (c : Bool) (d : BitVec 5) (a : BitVec 5) (sc : BitVec 6) (p : BitVec 3) (s : State) : exec (.vmulVx c d a sc p) s = execVmulVx c d a sc p s := rfl
theorem exec_vmulhVv (c : Bool) (d : BitVec 5) (a : BitVec 5) (b : BitVec 5) (p : BitVec 3) (s : State) : exec (.vmulhVv c d a b p) s = execVmulhVv c d a b p s := rfl
theorem exec_vmulhVx (c : Bool) (d : BitVec 5) (a : BitVec 5) (sc : BitVec 6) (p : BitVec 3) (s : State) : exec (.vmulhVx c d a sc p) s = execVmulhVx c d a sc p s := rfl
theorem exec_vdivVv (c : Bool) (d : BitVec 5) (a : BitVec 5) (b : BitVec 5) (p : BitVec 3) (s : State) : exec (.vdivVv c d a b p) s = execVdivVv c d a b p s := rfl
theorem exec_vdivVx (c : Bool) (d : BitVec 5) (a : BitVec 5) (sc : BitVec 6) (p : BitVec 3) (s : State) : exec (.vdivVx c d a sc p) s = execVdivVx c d a sc p s := rfl
theorem exec_vremVv (c : Bool) (d : BitVec 5) (a : BitVec 5) (b : BitVec 5) (p : BitVec 3) (s : State) : exec (.vremVv c d a b p) s = execVremVv c d a b p s := rfl
theorem exec_vremVx (c : Bool) (d : BitVec 5) (a : BitVec 5) (sc : BitVec 6) (p : BitVec 3) (s : State) : exec (.vremVx c d a sc p) s = execVremVx c d a sc p s := rfl
theorem exec_vminVv (c : Bool) (d : BitVec 5) (a : BitVec 5) (b : BitVec 5) (p : BitVec 3) (s : State) : exec (.vminVv c d a b p) s = execVminVv c d a b p s := rfl
theorem exec_vminVx (c : Bool) (d : BitVec 5) (a : BitVec 5) (sc : BitVec 6) (p : BitVec 3) (s : State) : exec (.vminVx c d a sc p) s = execVminVx c d a sc p s := rfl
theorem exec_vmaxVv (c : Bool) (d : BitVec 5) (a : BitVec 5) (b : BitVec 5) (p : BitVec 3) (s : State) : exec (.vmaxVv c d a b p) s = execVmaxVv c d a b p s := rfl
theorem exec_vmaxVx (c : Bool) (d : BitVec 5) (a : BitVec 5) (sc : BitVec 6) (p : BitVec 3) (s : State) : exec (.vmaxVx c d a sc p) s = execVmaxVx c d a sc p s := rfl
theorem exec_vandVv (c : Bool) (d : BitVec 5) (a : BitVec 5) (b : BitVec 5) (p : BitVec 3) (s : State) : exec (.vandVv c d a b p) s = execVandVv c d a b p s := rfl
theorem exec_vandVx (c : Bool) (d : BitVec 5) (a : BitVec 5) (sc : BitVec 6) (p : BitVec 3) (s : State) : exec (.vandVx c d a sc p) s = execVandVx c d a sc p s := rfl
theorem exec_vorVv (c : Bool) (d : BitVec 5) (a : BitVec 5) (b : BitVec 5) (p : BitVec 3) (s : State) : exec (.vorVv c d a b p) s = execVorVv c d a b p s := rfl
theorem exec_vorVx (c : Bool) (d : BitVec 5) (a : BitVec 5) (sc : BitVec 6) (p : BitVec 3) (s : State) : exec (.vorVx c d a sc p) s = execVorVx c d a sc p s := rfl
theorem exec_vxorVv (c : Bool) (d : BitVec 5) (a : BitVec 5) (b : BitVec 5) (p : BitVec 3) (s : State) : exec (.vxorVv c d a b p) s = execVxorVv c d a b p s := rfl
theorem exec_vxorVx (c : Bool) (d : BitVec 5) (a : BitVec 5) (sc : BitVec 6) (p : BitVec 3) (s : State) : exec (.vxorVx c d a sc p) s = execVxorVx c d a sc p s := rfl
theorem exec_vandnVv (c : Bool) (d : BitVec 5) (a : BitVec 5) (b : BitVec 5) (p : BitVec 3) (s : State) : exec (.vandnVv c d a b p) s = execVandnVv c d a b p s := rfl
theorem exec_vandnVx (c : Bool) (d : BitVec 5) (a : BitVec 5) (sc : BitVec 6) (p : BitVec 3) (s : State) : exec (.vandnVx c d a sc p) s = execVandnVx c d a sc p s := rfl
theorem exec_vshlVv (c : Bool) (d : BitVec 5) (a : BitVec 5) (b : BitVec 5) (p : BitVec 3) (s : State) : exec (.vshlVv c d a b p) s = execVshlVv c d a b p s := rfl
theorem exec_vshlVx (c : Bool) (d : BitVec 5) (a : BitVec 5) (sc : BitVec 6) (p : BitVec 3) (s : State) : exec (.vshlVx c d a sc p) s = execVshlVx c d a sc p s := rfl
theorem exec_vshrVv (c : Bool) (d : BitVec 5) (a : BitVec 5) (b : BitVec 5) (p : BitVec 3) (s : State) : exec (.vshrVv c d a b p) s = execVshrVv c d a b p s := rfl
theorem exec_vshrVx (c : Bool) (d : BitVec 5) (a : BitVec 5) (sc : BitVec 6) (p : BitVec 3) (s : State) : exec (.vshrVx c d a sc p) s = execVshrVx c d a sc p s := rfl
theorem exec_vshaVv (c : Bool) (d : BitVec 5) (a : BitVec 5) (b : BitVec 5) (p : BitVec 3) (s : State) : exec (.vshaVv c d a b p) s = execVshaVv c d a b p s := rfl
theorem exec_vshaVx (c : Bool) (d : BitVec 5) (a : BitVec 5) (sc : BitVec 6) (p : BitVec 3) (s : State) : exec (.vshaVx c d a sc p) s = execVshaVx c d a sc p s := rfl
theorem exec_vfmaVv (c : Bool) (d : BitVec 5) (a : BitVec 5) (b : BitVec 5) (p : BitVec 3) (s : State) : exec (.vfmaVv c d a b p) s = execVfmaVv c d a b p s := rfl
theorem exec_vfmaVx (c : Bool) (d : BitVec 5) (a : BitVec 5) (sc : BitVec 6) (p : BitVec 3) (s : State) : exec (.vfmaVx c d a sc p) s = execVfmaVx c d a sc p s := rfl
theorem exec_vfmsVv (c : Bool) (d : BitVec 5) (a : BitVec 5) (b : BitVec 5) (p : BitVec 3) (s : State) : exec (.vfmsVv c d a b p) s = execVfmsVv c d a b p s := rfl
theorem exec_vfmsVx (c : Bool) (d : BitVec 5) (a : BitVec 5) (sc : BitVec 6) (p : BitVec 3) (s : State) : exec (.vfmsVx c d a sc p) s = execVfmsVx c d a sc p s := rfl
theorem exec_vfnmaVv (c : Bool) (d : BitVec 5) (a : BitVec 5) (b : BitVec 5) (p : BitVec 3) (s : State) : exec (.vfnmaVv c d a b p) s = execVfnmaVv c d a b p s := rfl
theorem exec_vfnmaVx (c : Bool) (d : BitVec 5) (a : BitVec 5) (sc : BitVec 6) (p : BitVec 3) (s : State) : exec (.vfnmaVx c d a sc p) s = execVfnmaVx c d a sc p s := rfl
theorem exec_vclampVv (c : Bool) (d : BitVec 5) (a : BitVec 5) (b : BitVec 5) (p : BitVec 3) (s : State) : exec (.vclampVv c d a b p) s = execVclampVv c d a b p s := rfl
theorem exec_vclampVx (c : Bool) (d : BitVec 5) (a : BitVec 5) (sc : BitVec 6) (p : BitVec 3) (s : State) : exec (.vclampVx c d a sc p) s = execVclampVx c d a sc p s := rfl
theorem exec_vselVv (c : Bool) (d : BitVec 5) (a : BitVec 5) (b : BitVec 5) (p : BitVec 3) (s : State) : exec (.vselVv c d a b p) s = execVselVv c d a b p s := rfl
theorem exec_vselVx (c : Bool) (d : BitVec 5) (a : BitVec 5) (sc : BitVec 6) (p : BitVec 3) (s : State) : exec (.vselVx c d a sc p) s = execVselVx c d a sc p s := rfl
theorem exec_vaddSatVv (c : Bool) (d : BitVec 5) (a : BitVec 5) (b : BitVec 5) (p : BitVec 3) (s : State) : exec (.vaddSatVv c d a b p) s = execVaddSatVv c d a b p s := rfl
theorem exec_vaddSatVx (c : Bool) (d : BitVec 5) (a : BitVec 5) (sc : BitVec 6) (p : BitVec 3) (s : State) : exec (.vaddSatVx c d a sc p) s = execVaddSatVx c d a sc p s := rfl
theorem exec_vsubSatVv (c : Bool) (d : BitVec 5) (a : BitVec 5) (b : BitVec 5) (p : BitVec 3) (s : State) : exec (.vsubSatVv c d a b p) s = execVsubSatVv c d a b p s := rfl
theorem exec_vsubSatVx (c : Bool) (d : BitVec 5) (a : BitVec 5) (sc : BitVec 6) (p : BitVec 3) (s : State) : exec (.vsubSatVx c d a sc p) s = execVsubSatVx c d a sc p s := rfl
theorem exec_vabs (c : Bool) (d : BitVec 5) (a : BitVec 5) (p : BitVec 3) (s : State) : exec (.vabs c d a p) s = execVabs c d a p s := rfl
theorem exec_vneg (c : Bool) (d : BitVec 5) (a : BitVec 5) (p : BitVec 3) (s : State) : exec (.vneg c d a p) s = execVneg c d a p s := rfl
theorem exec_vmov (c : Bool) (d : BitVec 5) (a : BitVec 5) (p : BitVec 3) (s : State) : exec (.vmov c d a p) s = execVmov c d a p s := rfl
theorem exec_vcvt (c : Bool) (d : BitVec 5) (a : BitVec 5) (p : BitVec 3) (s : State) : exec (.vcvt c d a p) s = execVcvt c d a p s := rfl
theorem exec_vcvtSat (c : Bool) (d : BitVec 5) (a : BitVec 5) (p : BitVec 3) (s : State) : exec (.vcvtSat c d a p) s = execVcvtSat c d a p s := rfl
theorem exec_vsplat (c : Bool) (d : BitVec 5) (sc : BitVec 6) (p : BitVec 3) (s : State) : exec (.vsplat c d sc p) s = execVsplat c d sc p s := rfl
theorem exec_vext (c : Bool) (a : BitVec 5) (sc : BitVec 6) (s : State) : exec (.vext c a sc) s = execVext c a sc s := rfl
theorem exec_viota (c : Bool) (d : BitVec 5) (p : BitVec 3) (im : BitVec 9) (j : BitVec 8) (s : State) : exec (.viota c d p im j) s = execViota c d p im j s := rfl
theorem exec_vwaddVx (c : Bool) (d : BitVec 5) (a : BitVec 5) (sc : BitVec 6) (p : BitVec 3) (s : State) : exec (.vwaddVx c d a sc p) s = execVwaddVx c d a sc p s := rfl
theorem exec_vwaddVv (c : Bool) (d : BitVec 5) (a : BitVec 5) (b : BitVec 5) (p : BitVec 3) (s : State) : exec (.vwaddVv c d a b p) s = execVwaddVv c d a b p s := rfl
theorem exec_vwsubVx (c : Bool) (d : BitVec 5) (a : BitVec 5) (sc : BitVec 6) (p : BitVec 3) (s : State) : exec (.vwsubVx c d a sc p) s = execVwsubVx c d a sc p s := rfl
theorem exec_vwsubVv (c : Bool) (d : BitVec 5) (a : BitVec 5) (b : BitVec 5) (p : BitVec 3) (s : State) : exec (.vwsubVv c d a b p) s = execVwsubVv c d a b p s := rfl
theorem exec_vwmulVx (c : Bool) (d : BitVec 5) (a : BitVec 5) (sc : BitVec 6) (p : BitVec 3) (s : State) : exec (.vwmulVx c d a sc p) s = execVwmulVx c d a sc p s := rfl
theorem exec_vwmulVv (c : Bool) (d : BitVec 5) (a : BitVec 5) (b : BitVec 5) (p : BitVec 3) (s : State) : exec (.vwmulVv c d a b p) s = execVwmulVv c d a b p s := rfl
theorem exec_vwmacVx (c : Bool) (d : BitVec 5) (a : BitVec 5) (sc : BitVec 6) (p : BitVec 3) (s : State) : exec (.vwmacVx c d a sc p) s = execVwmacVx c d a sc p s := rfl
theorem exec_vwmacVv (c : Bool) (d : BitVec 5) (a : BitVec 5) (b : BitVec 5) (p : BitVec 3) (s : State) : exec (.vwmacVv c d a b p) s = execVwmacVv c d a b p s := rfl
theorem exec_vnshrVx (c : Bool) (d : BitVec 5) (a : BitVec 5) (sc : BitVec 6) (p : BitVec 3) (s : State) : exec (.vnshrVx c d a sc p) s = execVnshrVx c d a sc p s := rfl
theorem exec_vnshrVv (c : Bool) (d : BitVec 5) (a : BitVec 5) (b : BitVec 5) (p : BitVec 3) (s : State) : exec (.vnshrVv c d a b p) s = execVnshrVv c d a b p s := rfl
theorem exec_vncvt (c : Bool) (d : BitVec 5) (a : BitVec 5) (p : BitVec 3) (s : State) : exec (.vncvt c d a p) s = execVncvt c d a p s := rfl
theorem exec_vsqrt (c : Bool) (d : BitVec 5) (a : BitVec 5) (p : BitVec 3) (s : State) : exec (.vsqrt c d a p) s = execVsqrt c d a p s := rfl
theorem exec_vrcp (c : Bool) (d : BitVec 5) (a : BitVec 5) (p : BitVec 3) (s : State) : exec (.vrcp c d a p) s = execVrcp c d a p s := rfl
theorem exec_vrsq (c : Bool) (d : BitVec 5) (a : BitVec 5) (p : BitVec 3) (s : State) : exec (.vrsq c d a p) s = execVrsq c d a p s := rfl
theorem exec_vexp2 (c : Bool) (d : BitVec 5) (a : BitVec 5) (p : BitVec 3) (s : State) : exec (.vexp2 c d a p) s = execVexp2 c d a p s := rfl
theorem exec_vlog2 (c : Bool) (d : BitVec 5) (a : BitVec 5) (p : BitVec 3) (s : State) : exec (.vlog2 c d a p) s = execVlog2 c d a p s := rfl
theorem exec_vcmpEq (c : Bool) (d : BitVec 7) (a : BitVec 5) (b : BitVec 5) (p : BitVec 3) (s : State) : exec (.vcmpEq c d a b p) s = execVcmpEq c d a b p s := rfl
theorem exec_vcmpNe (c : Bool) (d : BitVec 7) (a : BitVec 5) (b : BitVec 5) (p : BitVec 3) (s : State) : exec (.vcmpNe c d a b p) s = execVcmpNe c d a b p s := rfl
theorem exec_vcmpLt (c : Bool) (d : BitVec 7) (a : BitVec 5) (b : BitVec 5) (p : BitVec 3) (s : State) : exec (.vcmpLt c d a b p) s = execVcmpLt c d a b p s := rfl
theorem exec_vcmpLe (c : Bool) (d : BitVec 7) (a : BitVec 5) (b : BitVec 5) (p : BitVec 3) (s : State) : exec (.vcmpLe c d a b p) s = execVcmpLe c d a b p s := rfl
theorem exec_vcmpGt (c : Bool) (d : BitVec 7) (a : BitVec 5) (b : BitVec 5) (p : BitVec 3) (s : State) : exec (.vcmpGt c d a b p) s = execVcmpGt c d a b p s := rfl
theorem exec_vcmpGe (c : Bool) (d : BitVec 7) (a : BitVec 5) (b : BitVec 5) (p : BitVec 3) (s : State) : exec (.vcmpGe c d a b p) s = execVcmpGe c d a b p s := rfl
theorem exec_vcmpUn (c : Bool) (d : BitVec 7) (a : BitVec 5) (b : BitVec 5) (p : BitVec 3) (s : State) : exec (.vcmpUn c d a b p) s = execVcmpUn c d a b p s := rfl
theorem exec_vclass (c : Bool) (d : BitVec 7) (a : BitVec 5) (k : BitVec 5) (p : BitVec 3) (s : State) : exec (.vclass c d a k p) s = execVclass c d a k p s := rfl
theorem exec_pand (d : BitVec 7) (a : BitVec 7) (b : BitVec 7) (s : State) : exec (.pand d a b) s = execPand d a b s := rfl
theorem exec_por (d : BitVec 7) (a : BitVec 7) (b : BitVec 7) (s : State) : exec (.por d a b) s = execPor d a b s := rfl
theorem exec_pxor (d : BitVec 7) (a : BitVec 7) (b : BitVec 7) (s : State) : exec (.pxor d a b) s = execPxor d a b s := rfl
theorem exec_pandn (d : BitVec 7) (a : BitVec 7) (b : BitVec 7) (s : State) : exec (.pandn d a b) s = execPandn d a b s := rfl
theorem exec_pnot (d : BitVec 7) (a : BitVec 7) (s : State) : exec (.pnot d a) s = execPnot d a s := rfl
theorem exec_pmov (d : BitVec 7) (a : BitVec 7) (s : State) : exec (.pmov d a) s = execPmov d a s := rfl
theorem exec_pset (d : BitVec 7) (v : BitVec 7) (s : State) : exec (.pset d v) s = execPset d v s := rfl
theorem exec_pcnt (d : BitVec 6) (a : BitVec 7) (s : State) : exec (.pcnt d a) s = execPcnt d a s := rfl
theorem exec_pfirst (d : BitVec 6) (a : BitVec 7) (s : State) : exec (.pfirst d a) s = execPfirst d a s := rfl
theorem exec_plast (d : BitVec 6) (a : BitVec 7) (s : State) : exec (.plast d a) s = execPlast d a s := rfl
theorem exec_pbrk (d : BitVec 7) (a : BitVec 7) (s : State) : exec (.pbrk d a) s = execPbrk d a s := rfl
theorem exec_pld (d : BitVec 7) (sc : BitVec 6) (s : State) : exec (.pld d sc) s = execPld d sc s := rfl
theorem exec_pst (sc : BitVec 6) (a : BitVec 7) (s : State) : exec (.pst sc a) s = execPst sc a s := rfl
theorem exec_vfetch (o : BitVec 16) (s : State) : exec (.vfetch o) s = execVfetch o s := rfl
theorem exec_vpbr (c : Bool) (a : BitVec 7) (o : BitVec 16) (s : State) : exec (.vpbr c a o) s = execVpbr c a o s := rfl
theorem exec_vpjoin (c : Bool) (s : State) : exec (.vpjoin c) s = execVpjoin c s := rfl
theorem exec_vpend (c : Bool) (s : State) : exec (.vpend c) s = execVpend c s := rfl
theorem exec_vld (c : Bool) (d : BitVec 5) (a : BitVec 6) (p : BitVec 3) (s : State) : exec (.vld c d a p) s = execVld c d a p s := rfl
theorem exec_vldS (c : Bool) (d : BitVec 5) (a : BitVec 6) (x : BitVec 6) (p : BitVec 3) (s : State) : exec (.vldS c d a x p) s = execVldS c d a x p s := rfl
theorem exec_vldX (c : Bool) (d : BitVec 5) (a : BitVec 6) (im : BitVec 5) (p : BitVec 3) (s : State) : exec (.vldX c d a im p) s = execVldX c d a im p s := rfl
theorem exec_vldff (c : Bool) (d : BitVec 5) (a : BitVec 6) (p : BitVec 3) (s : State) : exec (.vldff c d a p) s = execVldff c d a p s := rfl
theorem exec_vldseg (c : Bool) (d : BitVec 5) (a : BitVec 6) (p : BitVec 3) (f : BitVec 5) (s : State) : exec (.vldseg c d a p f) s = execVldseg c d a p f s := rfl
theorem exec_vst (c : Bool) (d : BitVec 5) (a : BitVec 6) (p : BitVec 3) (s : State) : exec (.vst c d a p) s = execVst c d a p s := rfl
theorem exec_vstS (c : Bool) (d : BitVec 5) (a : BitVec 6) (x : BitVec 6) (p : BitVec 3) (s : State) : exec (.vstS c d a x p) s = execVstS c d a x p s := rfl
theorem exec_vstX (c : Bool) (d : BitVec 5) (a : BitVec 6) (im : BitVec 5) (p : BitVec 3) (s : State) : exec (.vstX c d a im p) s = execVstX c d a im p s := rfl
theorem exec_vsto (c : Bool) (d : BitVec 5) (a : BitVec 6) (p : BitVec 3) (s : State) : exec (.vsto c d a p) s = execVsto c d a p s := rfl
theorem exec_vstseg (c : Bool) (d : BitVec 5) (a : BitVec 6) (p : BitVec 3) (f : BitVec 5) (s : State) : exec (.vstseg c d a p f) s = execVstseg c d a p f s := rfl
theorem exec_vstoStrided (c : Bool) (d : BitVec 5) (a : BitVec 6) (x : BitVec 6) (p : BitVec 3) (s : State) : exec (.vstoStrided c d a x p) s = execVstoStrided c d a x p s := rfl
theorem exec_vamoAdd (c : Bool) (d : BitVec 5) (a : BitVec 6) (im : BitVec 5) (p : BitVec 3) (s : State) : exec (.vamoAdd c d a im p) s = execVamoAdd c d a im p s := rfl
theorem exec_vamoSwap (c : Bool) (d : BitVec 5) (a : BitVec 6) (im : BitVec 5) (p : BitVec 3) (s : State) : exec (.vamoSwap c d a im p) s = execVamoSwap c d a im p s := rfl
theorem exec_vamoAnd (c : Bool) (d : BitVec 5) (a : BitVec 6) (im : BitVec 5) (p : BitVec 3) (s : State) : exec (.vamoAnd c d a im p) s = execVamoAnd c d a im p s := rfl
theorem exec_vamoOr (c : Bool) (d : BitVec 5) (a : BitVec 6) (im : BitVec 5) (p : BitVec 3) (s : State) : exec (.vamoOr c d a im p) s = execVamoOr c d a im p s := rfl
theorem exec_vamoXor (c : Bool) (d : BitVec 5) (a : BitVec 6) (im : BitVec 5) (p : BitVec 3) (s : State) : exec (.vamoXor c d a im p) s = execVamoXor c d a im p s := rfl
theorem exec_vamoMin (c : Bool) (d : BitVec 5) (a : BitVec 6) (im : BitVec 5) (p : BitVec 3) (s : State) : exec (.vamoMin c d a im p) s = execVamoMin c d a im p s := rfl
theorem exec_vamoMax (c : Bool) (d : BitVec 5) (a : BitVec 6) (im : BitVec 5) (p : BitVec 3) (s : State) : exec (.vamoMax c d a im p) s = execVamoMax c d a im p s := rfl
theorem exec_vpermVv (c : Bool) (d : BitVec 5) (a : BitVec 5) (b : BitVec 5) (p : BitVec 3) (s : State) : exec (.vpermVv c d a b p) s = execVpermVv c d a b p s := rfl
theorem exec_vpermVx (c : Bool) (d : BitVec 5) (a : BitVec 5) (sc : BitVec 6) (p : BitVec 3) (s : State) : exec (.vpermVx c d a sc p) s = execVpermVx c d a sc p s := rfl
theorem exec_vslup (c : Bool) (d : BitVec 5) (a : BitVec 5) (sc : BitVec 6) (p : BitVec 3) (s : State) : exec (.vslup c d a sc p) s = execVslup c d a sc p s := rfl
theorem exec_vsldn (c : Bool) (d : BitVec 5) (a : BitVec 5) (sc : BitVec 6) (p : BitVec 3) (s : State) : exec (.vsldn c d a sc p) s = execVsldn c d a sc p s := rfl
theorem exec_vcompr (c : Bool) (d : BitVec 5) (a : BitVec 5) (p : BitVec 3) (s : State) : exec (.vcompr c d a p) s = execVcompr c d a p s := rfl
theorem exec_vexpnd (c : Bool) (d : BitVec 5) (a : BitVec 5) (p : BitVec 3) (s : State) : exec (.vexpnd c d a p) s = execVexpnd c d a p s := rfl
theorem exec_vredsum (c : Bool) (a : BitVec 5) (sc : BitVec 6) (p : BitVec 3) (s : State) : exec (.vredsum c a sc p) s = execVredsum c a sc p s := rfl
theorem exec_vredmax (c : Bool) (a : BitVec 5) (sc : BitVec 6) (p : BitVec 3) (s : State) : exec (.vredmax c a sc p) s = execVredmax c a sc p s := rfl
theorem exec_vredmin (c : Bool) (a : BitVec 5) (sc : BitVec 6) (p : BitVec 3) (s : State) : exec (.vredmin c a sc p) s = execVredmin c a sc p s := rfl
theorem exec_vscan (c : Bool) (d : BitVec 5) (a : BitVec 5) (sc : BitVec 6) (p : BitVec 3) (s : State) : exec (.vscan c d a sc p) s = execVscan c d a sc p s := rfl
theorem exec_vsoftmax (c : Bool) (d : BitVec 5) (a : BitVec 5) (sc : BitVec 6) (p : BitVec 3) (s : State) : exec (.vsoftmax c d a sc p) s = execVsoftmax c d a sc p s := rfl
theorem exec_binz (c : Bool) (n : BitVec 5) (t : BitVec 5) (s : State) : exec (.binz c n t) s = execBinz c n t s := rfl
theorem exec_vbinacc (c : Bool) (n : BitVec 5) (a : BitVec 5) (p : BitVec 3) (s : State) : exec (.vbinacc c n a p) s = execVbinacc c n a p s := rfl
theorem exec_vbinmacVx (c : Bool) (n : BitVec 5) (a : BitVec 5) (sc : BitVec 6) (p : BitVec 3) (s : State) : exec (.vbinmacVx c n a sc p) s = execVbinmacVx c n a sc p s := rfl
theorem exec_vbinmacVv (c : Bool) (n : BitVec 5) (a : BitVec 5) (b : BitVec 5) (p : BitVec 3) (s : State) : exec (.vbinmacVv c n a b p) s = execVbinmacVv c n a b p s := rfl
theorem exec_binfold (c : Bool) (n : BitVec 5) (sc : BitVec 6) (s : State) : exec (.binfold c n sc) s = execBinfold c n sc s := rfl
theorem exec_vmark (c : Bool) (sc : BitVec 6) (s : State) : exec (.vmark c sc) s = execVmark c sc s := rfl
theorem exec_vstrip (c : Bool) (s : State) : exec (.vstrip c) s = execVstrip c s := rfl
theorem exec_fbind (c : Bool) (d : BitVec 5) (sc : BitVec 6) (s : State) : exec (.fbind c d sc) s = execFbind c d sc s := rfl
theorem exec_fchain (c : Bool) (d : BitVec 5) (o : BitVec 5) (sc : BitVec 6) (s : State) : exec (.fchain c d o sc) s = execFchain c d o sc s := rfl
theorem exec_funbind (c : Bool) (d : BitVec 5) (s : State) : exec (.funbind c d) s = execFunbind c d s := rfl
theorem exec_fstat (c : Bool) (d : BitVec 5) (l : BitVec 5) (sc : BitVec 6) (s : State) : exec (.fstat c d l sc) s = execFstat c d l sc s := rfl
theorem exec_feedFetch (reg : BitVec 4) (n : Nat) (s : State) : exec (.feedFetch reg n) s = execFeedFetch reg n s := rfl
theorem exec_fpcvt (c : Bool) (d : BitVec 5) (a : BitVec 5) (sc : BitVec 6) (p : BitVec 3) (s : State) : exec (.fpcvt c d a sc p) s = execFpcvt c d a sc p s := rfl
theorem exec_fplen2 (c : Bool) (d : BitVec 5) (a : BitVec 5) (p : BitVec 3) (s : State) : exec (.fplen2 c d a p) s = execFplen2 c d a p s := rfl
theorem exec_fpgtag (c : Bool) (d : BitVec 5) (a : BitVec 5) (p : BitVec 3) (s : State) : exec (.fpgtag c d a p) s = execFpgtag c d a p s := rfl
theorem exec_fpstagVx (c : Bool) (d : BitVec 5) (a : BitVec 5) (sc : BitVec 6) (p : BitVec 3) (s : State) : exec (.fpstagVx c d a sc p) s = execFpstagVx c d a sc p s := rfl
theorem exec_fpstagVv (c : Bool) (d : BitVec 5) (a : BitVec 5) (b : BitVec 5) (p : BitVec 3) (s : State) : exec (.fpstagVv c d a b p) s = execFpstagVv c d a b p s := rfl
theorem exec_frset (d : BitVec 6) (a : BitVec 6) (b : BitVec 6) (s : State) : exec (.frset d a b) s = execFrset d a b s := rfl
theorem exec_frdel (d : BitVec 6) (a : BitVec 6) (b : BitVec 6) (s : State) : exec (.frdel d a b) s = execFrdel d a b s := rfl
theorem exec_frfence (s : State) : exec (.frfence) s = execFrfence s := rfl
theorem exec_frlook (d : BitVec 6) (a : BitVec 6) (b : BitVec 6) (s : State) : exec (.frlook d a b) s = execFrlook d a b s := rfl
theorem exec_chainCacheInvalidationAck (core : Nat) (node : Nat) (s : State) : exec (.chainCacheInvalidationAck core node) s = execChainCacheInvalidationAck core node s := rfl
theorem exec_retentionWake (core : Nat) (s : State) : exec (.retentionWake core) s = execRetentionWake core s := rfl
theorem exec_mstl (c : Bool) (x : BitVec 6) (y : BitVec 6) (s : State) : exec (.mstl c x y) s = execMstl c x y s := rfl
theorem exec_mlds (c : Bool) (v : BitVec 5) (x : BitVec 6) (y : BitVec 6) (s : State) : exec (.mlds c v x y) s = execMlds c v x y s := rfl
theorem exec_msow (c : Bool) (v : BitVec 5) (x : BitVec 6) (s : State) : exec (.msow c v x) s = execMsow c v x s := rfl
theorem exec_mswap (c : Bool) (s : State) : exec (.mswap c) s = execMswap c s := rfl
theorem exec_mmac (c : Bool) (k : BitVec 4) (v : BitVec 5) (x : BitVec 6) (s : State) : exec (.mmac c k v x) s = execMmac c k v x s := rfl
theorem exec_mmacM (c : Bool) (k : BitVec 4) (v : BitVec 5) (x : BitVec 6) (p : BitVec 3) (s : State) : exec (.mmacM c k v x p) s = execMmacM c k v x p s := rfl
theorem exec_macz (c : Bool) (k : BitVec 4) (s : State) : exec (.macz c k) s = execMacz c k s := rfl
theorem exec_macld (c : Bool) (k : BitVec 4) (v : BitVec 5) (x : BitVec 6) (y : BitVec 6) (s : State) : exec (.macld c k v x y) s = execMacld c k v x y s := rfl
theorem exec_macst (c : Bool) (k : BitVec 4) (v : BitVec 5) (x : BitVec 6) (y : BitVec 6) (s : State) : exec (.macst c k v x y) s = execMacst c k v x y s := rfl
theorem exec_macin (c : Bool) (k : BitVec 4) (v : BitVec 5) (x : BitVec 6) (s : State) : exec (.macin c k v x) s = execMacin c k v x s := rfl
theorem exec_mseedgen (c : Bool) (v : BitVec 5) (x : BitVec 6) (y : BitVec 6) (s : State) : exec (.mseedgen c v x y) s = execMseedgen c v x y s := rfl
theorem exec_mseedscan (c : Bool) (v : BitVec 5) (x : BitVec 6) (y : BitVec 6) (s : State) : exec (.mseedscan c v x y) s = execMseedscan c v x y s := rfl
theorem exec_cpy (d : BitVec 6) (a : BitVec 6) (b : BitVec 6) (p : BitVec 2) (sc : BitVec 3) (s : State) : exec (.cpy d a b p sc) s = execCpy d a b p sc s := rfl
theorem exec_cpyq (d : BitVec 6) (a : BitVec 6) (sc : BitVec 3) (s : State) : exec (.cpyq d a sc) s = execCpyq d a sc s := rfl
theorem exec_cpyw (d : BitVec 6) (a : BitVec 6) (s : State) : exec (.cpyw d a) s = execCpyw d a s := rfl
theorem exec_cpywP (d : BitVec 6) (a : BitVec 6) (s : State) : exec (.cpywP d a) s = execCpywP d a s := rfl
theorem exec_wdqry (a : BitVec 6) (s : State) : exec (.wdqry a) s = execWdqry a s := rfl
theorem exec_wmbind (a : BitVec 6) (b : BitVec 6) (k : BitVec 2) (s : State) : exec (.wmbind a b k) s = execWmbind a b k s := rfl
theorem exec_wmpub (a : BitVec 6) (b : BitVec 6) (s : State) : exec (.wmpub a b) s = execWmpub a b s := rfl
theorem exec_copyComplete (plot : Nat) (ctx : Nat) (ticket : Nat) (s : State) : exec (.copyComplete plot ctx ticket) s = execCopyComplete plot ctx ticket s := rfl
theorem exec_wdqryAnswer (ctids : List (BitVec 10)) (s : State) : exec (.wdqryAnswer ctids) s = execWdqryAnswer ctids s := rfl
theorem exec_watermarkVisible (slot : Nat) (s : State) : exec (.watermarkVisible slot) s = execWatermarkVisible slot s := rfl
theorem exec_launch (d : BitVec 6) (a : BitVec 6) (s : State) : exec (.launch d a) s = execLaunch d a s := rfl
theorem exec_lspec (d : BitVec 6) (a : BitVec 6) (s : State) : exec (.lspec d a) s = execLspec d a s := rfl
theorem exec_shpub (a : BitVec 6) (b : BitVec 6) (s : State) : exec (.shpub a b) s = execShpub a b s := rfl
theorem exec_allocr (d : BitVec 6) (a : BitVec 6) (b : BitVec 6) (s : State) : exec (.allocr d a b) s = execAllocr d a b s := rfl
theorem exec_retract (a : BitVec 6) (b : BitVec 6) (s : State) : exec (.retract a b) s = execRetract a b s := rfl
theorem exec_lstat (d : BitVec 6) (a : BitVec 6) (l : BitVec 5) (s : State) : exec (.lstat d a l) s = execLstat d a l s := rfl
theorem exec_gangCommit (launch : Nat) (gang : Nat) (s : State) : exec (.gangCommit launch gang) s = execGangCommit launch gang s := rfl
theorem exec_gangPlace (launch : Nat) (places : List (Nat × Nat × Nat)) (s : State) : exec (.gangPlace launch places) s = execGangPlace launch places s := rfl
theorem exec_agePromotion (launch : Nat) (s : State) : exec (.agePromotion launch) s = execAgePromotion launch s := rfl
theorem exec_launchComplete (launch : Nat) (s : State) : exec (.launchComplete launch) s = execLaunchComplete launch s := rfl
theorem exec_barg (c : Bool) (n : BitVec 5) (s : State) : exec (.barg c n) s = execBarg c n s := rfl
theorem exec_barw (c : Bool) (n : BitVec 5) (s : State) : exec (.barw c n) s = execBarw c n s := rfl
theorem exec_barrierMarkerFire (ctid : BitVec 10) (n : BitVec 2) (s : State) : exec (.barrierMarkerFire ctid n) s = execBarrierMarkerFire ctid n s := rfl
theorem exec_vsave (c : Bool) (a : BitVec 6) (s : State) : exec (.vsave c a) s = execVsave c a s := rfl
theorem exec_vrestore (c : Bool) (a : BitVec 6) (s : State) : exec (.vrestore c a) s = execVrestore c a s := rfl
theorem exec_msave (c : Bool) (a : BitVec 6) (s : State) : exec (.msave c a) s = execMsave c a s := rfl
theorem exec_mrestore (c : Bool) (a : BitVec 6) (s : State) : exec (.mrestore c a) s = execMrestore c a s := rfl
theorem exec_uopIssue (ctid : BitVec 10) (busy : Bool) (s : State) : exec (.uopIssue ctid busy) s = execUopIssue ctid busy s := rfl
theorem exec_uopComplete (ctid : BitVec 10) (s : State) : exec (.uopComplete ctid) s = execUopComplete ctid s := rfl
theorem exec_pageWalk (plot : Walker) (aspace : Nat) (va : Word) (s : State) : exec (.pageWalk plot aspace va) s = execPageWalk plot aspace va s := rfl
theorem exec_ownershipTrap (ctid : BitVec 10) (matrix : Bool) (s : State) : exec (.ownershipTrap ctid matrix) s = execOwnershipTrap ctid matrix s := rfl
theorem exec_faultRecordPost (ctid : BitVec 10) (s : State) : exec (.faultRecordPost ctid) s = execFaultRecordPost ctid s := rfl
theorem exec_waitLineWrite (line : Nat) (s : State) : exec (.waitLineWrite line) s = execWaitLineWrite line s := rfl
theorem exec_waitDeadline (ctid : BitVec 10) (acc : Bool) (s : State) : exec (.waitDeadline ctid acc) s = execWaitDeadline ctid acc s := rfl
theorem exec_directoryRead (agent : Nat) (line : Nat) (s : State) : exec (.directoryRead agent line) s = execDirectoryRead agent line s := rfl
theorem exec_directoryWrite (agent : Nat) (line : Nat) (s : State) : exec (.directoryWrite agent line) s = execDirectoryWrite agent line s := rfl
theorem exec_directoryEviction (agent : Nat) (line : Nat) (s : State) : exec (.directoryEviction agent line) s = execDirectoryEviction agent line s := rfl
theorem exec_directoryAtomic (line : Nat) (s : State) : exec (.directoryAtomic line) s = execDirectoryAtomic line s := rfl
theorem exec_migrationLineCopy (s : State) : exec (.migrationLineCopy) s = execMigrationLineCopy s := rfl
theorem exec_eccPoison (line : Nat) (src : ErrorUnit) (s : State) : exec (.eccPoison line src) s = execEccPoison line src s := rfl
theorem exec_scrub (line : Nat) (found : ScrubFound) (s : State) : exec (.scrub line found) s = execScrub line found s := rfl
theorem exec_logMove (n : Bool) (v : Word) (s : State) : exec (.logMove n v) s = execLogMove n v s := rfl
theorem exec_registerWrite (offset : Nat) (v : Word) (s : State) : exec (.registerWrite offset v) s = execRegisterWrite offset v s := rfl
theorem exec_plotMake (tva : Word) (s : State) : exec (.plotMake tva) s = execPlotMake tva s := rfl
theorem exec_plotFree (s : State) : exec (.plotFree) s = execPlotFree s := rfl
theorem exec_corecfg (s : State) : exec (.corecfg) s = execCorecfg s := rfl
theorem exec_resume (s : State) : exec (.resume) s = execResume s := rfl
theorem exec_preempt (s : State) : exec (.preempt) s = execPreempt s := rfl
theorem exec_abandon (s : State) : exec (.abandon) s = execAbandon s := rfl
theorem exec_inval (s : State) : exec (.inval) s = execInval s := rfl
theorem exec_migrate (s : State) : exec (.migrate) s = execMigrate s := rfl
theorem exec_sweep (s : State) : exec (.sweep) s = execSweep s := rfl
theorem exec_cancel (s : State) : exec (.cancel) s = execCancel s := rfl
theorem exec_queue (s : State) : exec (.queue) s = execQueue s := rfl
theorem exec_collect (parts : List CollectPart) (s : State) : exec (.collect parts) s = execCollect parts s := rfl
theorem exec_collectMemberTimeout (s : State) : exec (.collectMemberTimeout) s = execCollectMemberTimeout s := rfl
theorem exec_grant (s : State) : exec (.grant) s = execGrant s := rfl
theorem exec_trellisRepair (s : State) : exec (.trellisRepair) s = execTrellisRepair s := rfl
theorem exec_hostwin (s : State) : exec (.hostwin) s = execHostwin s := rfl
theorem exec_addrwin (s : State) : exec (.addrwin) s = execAddrwin s := rfl
theorem exec_coordinatorBadCode (s : State) : exec (.coordinatorBadCode) s = execCoordinatorBadCode s := rfl
theorem exec_queueKick (offset : Nat) (write : Option Word) (s : State) : exec (.queueKick offset write) s = execQueueKick offset write s := rfl
theorem exec_launchPacket (q : BitVec 6) (s : State) : exec (.launchPacket q) s = execLaunchPacket q s := rfl
theorem exec_graphLoad (q : BitVec 6) (s : State) : exec (.graphLoad q) s = execGraphLoad q s := rfl
theorem exec_graphUnload (q : BitVec 6) (s : State) : exec (.graphUnload q) s = execGraphUnload q s := rfl
theorem exec_graphRun (q : BitVec 6) (s : State) : exec (.graphRun q) s = execGraphRun q s := rfl
theorem exec_waitPacket (q : BitVec 6) (s : State) : exec (.waitPacket q) s = execWaitPacket q s := rfl
theorem exec_signal (q : BitVec 6) (s : State) : exec (.signal q) s = execSignal q s := rfl
theorem exec_packetStampRetry (q : BitVec 6) (s : State) : exec (.packetStampRetry q) s = execPacketStampRetry q s := rfl
theorem exec_queueStale (q : BitVec 6) (s : State) : exec (.queueStale q) s = execQueueStale q s := rfl
theorem exec_interrupt (core : BitVec 4) (src : BitVec 3) (s : State) : exec (.interrupt core src) s = execInterrupt core src s := rfl
theorem exec_timerInterrupt (core : BitVec 4) (s : State) : exec (.timerInterrupt core) s = execTimerInterrupt core s := rfl
theorem exec_boot (s : State) : exec .boot s = execBoot s := rfl
theorem exec_leaseRenew (die : BitVec 3) (s : State) : exec (.leaseRenew die) s = execLeaseRenew die s := rfl
theorem exec_leasePoll (die : BitVec 3) (s : State) : exec (.leasePoll die) s = execLeasePoll die s := rfl
theorem exec_heartbeatWrite (die : BitVec 3) (s : State) : exec (.heartbeatWrite die) s = execHeartbeatWrite die s := rfl
theorem exec_heartbeatCheck (leader : BitVec 3) (die : BitVec 3) (s : State) : exec (.heartbeatCheck leader die) s = execHeartbeatCheck leader die s := rfl
theorem exec_firmwareEccHalt (die : BitVec 3) (s : State) : exec (.firmwareEccHalt die) s = execFirmwareEccHalt die s := rfl
theorem exec_sensorRead (die : BitVec 3) (reading : Reading) (s : State) : exec (.sensorRead die reading) s = execSensorRead die reading s := rfl
theorem exec_clockStep (die : BitVec 3) (s : State) : exec (.clockStep die) s = execClockStep die s := rfl
theorem exec_getVersion (s : State) : exec (.getVersion) s = execGetVersion s := rfl
theorem exec_getCapabilities (s : State) : exec (.getCapabilities) s = execGetCapabilities s := rfl
theorem exec_negotiateAlgorithms (s : State) : exec (.negotiateAlgorithms) s = execNegotiateAlgorithms s := rfl
theorem exec_getDigests (s : State) : exec (.getDigests) s = execGetDigests s := rfl
theorem exec_getCertificate (s : State) : exec (.getCertificate) s = execGetCertificate s := rfl
theorem exec_challenge (s : State) : exec (.challenge) s = execChallenge s := rfl
theorem exec_getMeasurements (index : BitVec 8) (nonce : BitVec 256) (s : State) : exec (.getMeasurements index nonce) s = execGetMeasurements index nonce s := rfl
theorem exec_hostBar2Access (offset : Nat) (n : Nat) (write : Option Nat) (s : State) : exec (.hostBar2Access offset n write) s = execHostBar2Access offset n write s := rfl
theorem exec_cxlMemRead (offset : Nat) (n : Nat) (s : State) : exec (.cxlMemRead offset n) s = execCxlMemRead offset n s := rfl
theorem exec_cxlMemWrite (offset : Nat) (n : Nat) (x : Nat) (s : State) : exec (.cxlMemWrite offset n x) s = execCxlMemWrite offset n x s := rfl
theorem exec_dataFlit (port : BitVec 4) (flit : BitVec 2048) (s : State) : exec (.dataFlit port flit) s = execDataFlit port flit s := rfl
theorem exec_nakFlit (port : BitVec 4) (flit : BitVec 2048) (s : State) : exec (.nakFlit port flit) s = execNakFlit port flit s := rfl
theorem exec_pauseFlit (port : BitVec 4) (flit : BitVec 2048) (s : State) : exec (.pauseFlit port flit) s = execPauseFlit port flit s := rfl
theorem exec_resumeFlit (port : BitVec 4) (flit : BitVec 2048) (s : State) : exec (.resumeFlit port flit) s = execResumeFlit port flit s := rfl
theorem exec_idleFlit (port : BitVec 4) (flit : BitVec 2048) (s : State) : exec (.idleFlit port flit) s = execIdleFlit port flit s := rfl
theorem exec_capabilityFlit (port : BitVec 4) (flit : BitVec 2048) (s : State) : exec (.capabilityFlit port flit) s = execCapabilityFlit port flit s := rfl
theorem exec_linkRetrain (port : BitVec 4) (ok : Bool) (bad : BitVec 8) (s : State) : exec (.linkRetrain port ok bad) s = execLinkRetrain port ok bad s := rfl
theorem exec_remoteRequest (src : BitVec 5) (plot : BitVec 3) (pa : Nat) (n : Nat) (op : RemoteOp) (s : State) : exec (.remoteRequest src plot pa n op) s = execRemoteRequest src plot pa n op s := rfl
theorem exec_remoteResponse (key : Nat) (ok : Bool) (x : Nat) (s : State) : exec (.remoteResponse key ok x) s = execRemoteResponse key ok x s := rfl
theorem exec_remoteTimeout (key : Nat) (s : State) : exec (.remoteTimeout key) s = execRemoteTimeout key s := rfl
theorem exec_timeSyncExchange (t1 : Word) (t2 : Word) (t3 : Word) (t4 : Word) (hops : Nat) (s : State) : exec (.timeSyncExchange t1 t2 t3 t4 hops) s = execTimeSyncExchange t1 t2 t3 t4 hops s := rfl
theorem exec_retentionSleep (core : Nat) (s : State) : exec (.retentionSleep core) s = execRetentionSleep core s := rfl

end Sys2Proof.Laws
end

