-- ==== Sys2Proof/Laws/Frames.lean ====
section
/-! SUPPORT. Node reads of a conversion. -/
namespace Sys2Proof.Laws
open Sys2Proof.Machine

/-- What a conversion's read of a node can give: a fault of the read, the table's node, or an older version of it (R100, R333). -/
theorem nodeAt_cases (s : State) (fr o i : Nat) :
    (∃ f, s.nodeNow i = .error f ∧ s.nodeAt fr o i = .error f) ∨
    ∃ n m, s.nodeNow i = .ok n ∧ s.nodeAt fr o i = .ok m ∧ (m = n ∨ m ∈ s.olderNodes fr i) := by
  unfold State.nodeAt
  cases s.nodeNow i with
  | error f => exact .inl ⟨f, rfl, rfl⟩
  | ok n =>
    refine .inr ⟨n, _, rfl, rfl, ?_⟩
    have h : (Config.freeValue (s.draws + 2 ^ 24 * o + i)).toNat % (n :: s.olderNodes fr i).length < (n :: s.olderNodes fr i).length :=
      Nat.mod_lt _ (by simp)
    rw [List.getD_eq_getElem _ _ h]
    exact List.mem_cons.mp (List.getElem_mem h)

/-- Where no older version may be read, a conversion reads the table's node. -/
theorem nodeAt_now {s : State} {fr i : Nat} (h : s.olderNodes fr i = []) (o : Nat) : s.nodeAt fr o i = s.nodeNow i := by
  unfold State.nodeAt
  rw [h]
  cases s.nodeNow i with
  | error f => rfl
  | ok n => simp
theorem olderNodes_of_empty {s : State} (h : s.pkg.oldNodes = []) (fr i : Nat) : s.olderNodes fr i = [] := by
  simp [State.olderNodes, h]

/-- One step of a chain past a node that stands as the tag names it and is no root. -/
theorem chain_succ {s : State} {fr o fuel tag : Nat} {n : Node} (h : s.olderNodes fr (tag / 256) = []) (hi : ¬2 ^ s.tsz ≤ tag / 256)
    (hn : s.nodeNow (tag / 256) = .ok n) (hok : (n.retired || decide (n.gen ≠ tag % 256) || !(n.valid || n.tomb)) = false)
    (hr : n.root = false) (hp : n.parent / 256 ≠ 0) (hf : fuel ≠ 0) :
    s.chain fr o (fuel + 1) tag = (match s.chain fr o fuel n.parent with
      | .error f => .error f
      | .ok l => .ok ((tag, n) :: l)) := by
  rw [State.chain]
  simp only [hi, nodeAt_now h, hn, hok, hr, hp, hf, if_false, Bool.false_eq_true]
  all_goals cases s.chain fr o fuel n.parent <;> rfl

end Sys2Proof.Laws
end

