-- ==== Sys2Proof/Laws/Memory.lean ====
section
/-! SUPPORT. The byte memories: a read after a write, and the canonical form, which every memory operation keeps. -/
namespace Sys2Proof.Laws
open Sys2Proof.Machine

/-! ### Reads -/

@[simp] theorem read_nil (a : Nat) : Memory.read [] a = fillByte := rfl
theorem read_cons (c : Host.Cell) (m : Memory) (a : Nat) :
    Memory.read (c :: m) a = if c.1 = a then c.2 else Memory.read m a := rfl

theorem read_filter (p : Nat → Bool) : ∀ (m : Memory) (b : Nat),
    Memory.read (m.filter fun c => p c.1) b = if p b then m.read b else fillByte
  | [], b => by simp
  | c :: m, b => by
    have ih := read_filter p m b
    by_cases hc : p c.1 = true
    · simp only [List.filter_cons, hc, if_true, read_cons, ih]
      by_cases hb : c.1 = b
      · simp [← hb, hc]
      · simp [hb]
    · simp only [List.filter_cons, hc, read_cons]
      by_cases hb : c.1 = b
      · subst hb
        simpa [hc] using ih
      · simpa [hb] using ih

theorem read_erase (m : Memory) (a b : Nat) : (m.erase a).read b = if b = a then fillByte else m.read b := by
  have h := read_filter (fun x => x != a) m b
  simp only [Memory.erase]
  rw [h]
  by_cases hb : b = a <;> simp [hb]

theorem read_insertCell (a : Nat) (v : BitVec 8) : ∀ (m : Memory) (b : Nat), m.read a = fillByte → (∀ c ∈ m, c.1 ≠ a) →
    (Memory.insertCell a v m).read b = if b = a then v else m.read b
  | [], b, _, _ => by
    simp only [Memory.insertCell, read_cons, read_nil]
    by_cases hb : b = a
    · simp [hb]
    · simp [hb, Ne.symm hb]
  | c :: m, b, hr, hm => by
    have hc : c.1 ≠ a := hm c (by simp)
    have hr' : Memory.read m a = fillByte := by simpa [read_cons, hc] using hr
    have ih := read_insertCell a v m b hr' (fun d hd => hm d (by simp [hd]))
    simp only [Memory.insertCell]
    split
    · simp only [read_cons]
      by_cases hb : b = a
      · simp [hb]
      · simp [hb, Ne.symm hb]
    · simp only [read_cons, ih]
      by_cases hb : b = a
      · subst hb
        simp [hc]
      · simp [hb]

/-- A read after a write: the byte written, and every other byte as before. -/
theorem read_write (m : Memory) (a : Nat) (v : BitVec 8) (b : Nat) :
    (m.write a v).read b = if b = a then v else m.read b := by
  unfold Memory.write
  split
  · rename_i h
    rw [read_erase, h]
  · rw [read_insertCell]
    · rw [read_erase]
      by_cases hb : b = a <;> simp [hb]
    · simp [read_erase]
    · intro c hc
      simp only [Memory.erase, List.mem_filter] at hc
      simpa using hc.2

/-- A write of n bytes leaves every byte outside them. -/
theorem read_writeN_outside : ∀ (n : Nat) (m : Memory) (a x b : Nat), b < a ∨ a + n ≤ b →
    (m.writeN a n x).read b = m.read b
  | 0, _, _, _, _, _ => rfl
  | n + 1, m, a, x, b, h => by
    simp only [Memory.writeN]
    rw [read_writeN_outside n _ (a + 1) _ b (by omega), read_write, if_neg (by omega)]

theorem read_writeN_inside : ∀ (n : Nat) (m : Memory) (a x i : Nat), i < n →
    (m.writeN a n x).read (a + i) = BitVec.ofNat 8 (x / 256 ^ i)
  | n + 1, m, a, x, 0, _ => by
    simp only [Memory.writeN]
    rw [read_writeN_outside n _ _ _ _ (by omega), read_write]
    simp
  | n + 1, m, a, x, i + 1, h => by
    simp only [Memory.writeN]
    have e : a + (i + 1) = a + 1 + i := by omega
    rw [e, read_writeN_inside n _ (a + 1) _ i (by omega), Nat.div_div_eq_div_mul, Nat.pow_succ, Nat.mul_comm]

theorem readN_congr : ∀ (n : Nat) (m k : Memory) (a : Nat), (∀ i, i < n → m.read (a + i) = k.read (a + i)) →
    m.readN a n = k.readN a n
  | 0, _, _, _, _ => rfl
  | n + 1, m, k, a, h => by
    simp only [Memory.readN]
    have h0 := h 0 (by omega)
    simp only [Nat.add_zero] at h0
    rw [h0, readN_congr n m k (a + 1) fun i hi => by
      have := h (i + 1) (by omega)
      rwa [show a + (i + 1) = a + 1 + i by omega] at this]

/-- n bytes written at an address are read back there, little-endian (R5). -/
theorem readN_writeN : ∀ (n : Nat) (m : Memory) (a x : Nat), (m.writeN a n x).readN a n = x % 2 ^ (8 * n)
  | 0, m, a, x => by simp [Memory.readN, Nat.mod_one]
  | n + 1, m, a, x => by
    have h0 : (m.writeN a (n + 1) x).read a = BitVec.ofNat 8 x := by
      have := read_writeN_inside (n + 1) m a x 0 (by omega)
      simpa using this
    have ht : (m.writeN a (n + 1) x).readN (a + 1) n = x / 256 % 2 ^ (8 * n) := by
      simp only [Memory.writeN]
      exact readN_writeN n _ (a + 1) (x / 256)
    simp only [Memory.readN, h0, ht, BitVec.toNat_ofNat]
    have e : (2 : Nat) ^ (8 * (n + 1)) = 256 * 2 ^ (8 * n) := by
      rw [Nat.mul_add, Nat.pow_add]; omega
    rw [e, Nat.mod_mul]

theorem readN_lt : ∀ (n : Nat) (m : Memory) (a : Nat), m.readN a n < 2 ^ (8 * n)
  | 0, _, _ => by simp [Memory.readN]
  | n + 1, m, a => by
    have h := readN_lt n m (a + 1)
    have hb := (m.read a).isLt
    have e : (2 : Nat) ^ (8 * (n + 1)) = 256 * 2 ^ (8 * n) := by
      rw [Nat.mul_add, Nat.pow_add]; omega
    simp only [Memory.readN]
    omega

/-! ### The canonical form -/

/-- What the form says, as a fact about all cells. -/
theorem wf_iff : ∀ m : Memory, m.wf = true ↔ m.Pairwise (fun c d => c.1 < d.1) ∧ ∀ c ∈ m, c.2 ≠ fillByte
  | [] => by simp [Memory.wf]
  | [c] => by simp [Memory.wf]
  | c :: d :: rest => by
    have ih := wf_iff (d :: rest)
    simp only [Memory.wf, Bool.and_eq_true, bne_iff_ne, ne_eq, decide_eq_true_eq, ih, List.pairwise_cons, List.mem_cons]
    constructor
    · rintro ⟨⟨hc, hcd⟩, ⟨hd, hp⟩, hn⟩
      refine ⟨⟨?_, hd, hp⟩, ?_⟩
      · rintro e (rfl | he)
        · exact hcd
        · exact Nat.lt_trans hcd (hd e he)
      · rintro e (rfl | he)
        · exact hc
        · exact hn e he
    · rintro ⟨⟨hc, hd, hp⟩, hn⟩
      exact ⟨⟨hn c (.inl rfl), hc d (.inl rfl)⟩, ⟨hd, hp⟩, fun e he => hn e (.inr he)⟩

theorem wf_filter {m : Memory} (p : Host.Cell → Bool) (h : m.wf = true) : Memory.wf (m.filter p) = true := by
  rw [wf_iff] at *
  exact ⟨h.1.filter p, fun c hc => h.2 c (List.mem_filter.mp hc).1⟩

theorem wf_erase {m : Memory} (a : Nat) (h : m.wf = true) : (m.erase a).wf = true := wf_filter _ h

theorem mem_insertCell (a : Nat) (v : BitVec 8) : ∀ (m : Memory) (c : Host.Cell), c ∈ Memory.insertCell a v m → c = (a, v) ∨ c ∈ m
  | [], c, h => by simpa [Memory.insertCell] using h
  | d :: m, c, h => by
    simp only [Memory.insertCell] at h
    split at h
    · simpa using h
    · simp only [List.mem_cons] at h ⊢
      rcases h with h | h
      · exact .inr (.inl h)
      · rcases mem_insertCell a v m c h with h | h
        · exact .inl h
        · exact .inr (.inr h)

theorem wf_insertCell (a : Nat) (v : BitVec 8) (hv : v ≠ fillByte) : ∀ m : Memory, m.wf = true → (∀ c ∈ m, c.1 ≠ a) →
    (Memory.insertCell a v m).wf = true := by
  intro m h hn
  rw [wf_iff] at h ⊢
  refine ⟨?_, fun c hc => ?_⟩
  · induction m with
    | nil => simp [Memory.insertCell]
    | cons d m ih =>
      simp only [Memory.insertCell]
      have hp := List.pairwise_cons.mp h.1
      split
      · rename_i hlt
        refine List.pairwise_cons.mpr ⟨?_, h.1⟩
        intro e he
        rcases List.mem_cons.mp he with rfl | he
        · exact hlt
        · exact Nat.lt_trans hlt (hp.1 e he)
      · rename_i hge
        have hd : d.1 ≠ a := hn d (by simp)
        refine List.pairwise_cons.mpr ⟨?_, ih ⟨hp.2, fun c hc => h.2 c (by simp [hc])⟩ fun c hc => hn c (by simp [hc])⟩
        intro e he
        rcases mem_insertCell a v m e he with rfl | he
        · show d.1 < a
          omega
        · exact hp.1 e he
  · rcases mem_insertCell a v m c hc with rfl | hc
    · exact hv
    · exact h.2 c hc

/-- A write of a byte keeps the canonical form. -/
theorem wf_write {m : Memory} (a : Nat) (v : BitVec 8) (h : m.wf = true) : (m.write a v).wf = true := by
  unfold Memory.write
  split
  · exact wf_erase a h
  · rename_i hv
    refine wf_insertCell a v hv _ (wf_erase a h) fun c hc => ?_
    simp only [Memory.erase, List.mem_filter] at hc
    simpa using hc.2

/-- A write of n bytes keeps the canonical form. -/
theorem wf_writeN : ∀ (n : Nat) {m : Memory} (a x : Nat), m.wf = true → (m.writeN a n x).wf = true
  | 0, _, _, _, h => h
  | n + 1, _, a, x, h => wf_writeN n (a + 1) (x / 256) (wf_write a _ h)

/-- Cells written one after another keep the canonical form. -/
theorem wf_foldl_write (f : Host.Cell → Nat) : ∀ (l : List Host.Cell) (m : Memory), m.wf = true →
    (l.foldl (fun (m : Memory) c => m.write (f c) c.2) m).wf = true
  | [], _, h => h
  | c :: l, _, h => wf_foldl_write f l _ (wf_write (f c) c.2 h)

/-- Clearing a range keeps the canonical form. -/
theorem wf_clear {m : Memory} (a n : Nat) (h : m.wf = true) : (m.clear a n).wf = true := wf_filter _ h

/-- A copy keeps the canonical form. -/
theorem wf_copyFrom {m : Memory} (src : Memory) (a b n : Nat) (h : m.wf = true) : (m.copyFrom src a b n).wf = true :=
  wf_foldl_write (fun c => b + (c.1 - a)) _ _ (wf_clear b n h)

/-- A store of a unit of the package keeps it. -/
theorem memOk_unitStore {s : State} (pa n x : Nat) (h : s.mem.wf = true) : (s.unitStore pa n x).mem.wf = true :=
  wf_writeN n pa x h

/-- A store at a place keeps it in both memories. -/
theorem memOk_poke {s : State} (v : Via) (l : Loc) (n x : Nat) (h : s.mem.wf = true ∧ s.sram.wf = true) :
    (s.poke v l n x).mem.wf = true ∧ (s.poke v l n x).sram.wf = true := by
  unfold State.poke
  split
  · exact ⟨h.1, wf_writeN _ _ _ h.2⟩
  · exact h
  · split
    · exact h
    · exact ⟨wf_writeN _ _ _ h.1, h.2⟩
  · exact ⟨wf_writeN _ _ _ h.1, h.2⟩

end Sys2Proof.Laws
end

