-- ==== Sys2Proof/Laws/Num.lean ====
section
/-! SUPPORT. Exact magnitudes: what the integer square root and a cut shift give. -/
namespace Sys2Proof.Laws
open Sys2Proof.Machine

theorem isqrtGo_spec (n : Nat) : ∀ b r, r * r ≤ n → n < (r + 2 ^ b) * (r + 2 ^ b) →
    isqrtGo n b r * isqrtGo n b r ≤ n ∧ n < (isqrtGo n b r + 1) * (isqrtGo n b r + 1)
  | 0, _, hl, hu => ⟨hl, hu⟩
  | b + 1, r, hl, hu => by
    unfold isqrtGo
    split
    · rename_i h
      exact isqrtGo_spec n b _ h (by rw [pow_succ] at hu; convert hu using 2 <;> ring)
    · rename_i h
      exact isqrtGo_spec n b r hl (not_le.1 h)

/-- isqrt is the floor of the square root. -/
theorem isqrt_spec (n : Nat) : isqrt n * isqrt n ≤ n ∧ n < (isqrt n + 1) * (isqrt n + 1) := by
  refine isqrtGo_spec n _ 0 (Nat.zero_le _) ?_
  rw [Nat.zero_add, ← pow_add]
  exact lt_of_lt_of_le Nat.lt_log2_self (Nat.pow_le_pow_right (by norm_num) (by omega))

/-- shiftFloor is floor(m * 2^d), and says whether it cut anything. -/
theorem shiftFloor_neg (m k : Nat) :
    shiftFloor m (.negSucc k) = (m / 2 ^ (k + 1), decide (m % 2 ^ (k + 1) ≠ 0)) := by
  simp only [shiftFloor]
  split
  · rename_i h
    have : m < 2 ^ (k + 1) := lt_of_lt_of_le Nat.lt_log2_self (Nat.pow_le_pow_right (by norm_num) (by omega))
    rw [Nat.div_eq_of_lt this, Nat.mod_eq_of_lt this]
  · rfl

@[simp] theorem shiftFloor_pos (m k : Nat) : shiftFloor m (.ofNat k) = (m * 2 ^ k, false) := rfl

end Sys2Proof.Laws
end

