-- ==== Sys2Proof/Laws/PerInstr.lean ====
section
/-! SUPPORT. The round trip per instruction: a well-formed instruction word decodes to what it encodes (R8 to R21). -/
namespace Sys2Proof.Laws.RoundTrip

/-- Decoding the word of a well-formed instruction gives the instruction. -/
def Statement (i : Instr) : Prop := i.wf = true → decodeWord (encode i) = .ok i

theorem add (d : BitVec 6) (a : BitVec 6) (b : BitVec 6) : Statement (.add d a b) := by
  intro hwf
  obtain ⟨h0, h1, h2, h3, h4⟩ := parts_6_6_6_6_8 _ _ _ _ _ (w := encode (.add d a b)) rfl
  refine (decodeWord_salu h0).trans ?_
  generalize encode (.add d a b) = w at *
  unfold decSalu
  rw [h4, h1, h2, h3]
  exact unlessSet_wf hwf rfl

theorem sub (d : BitVec 6) (a : BitVec 6) (b : BitVec 6) : Statement (.sub d a b) := by
  intro hwf
  obtain ⟨h0, h1, h2, h3, h4⟩ := parts_6_6_6_6_8 _ _ _ _ _ (w := encode (.sub d a b)) rfl
  refine (decodeWord_salu h0).trans ?_
  generalize encode (.sub d a b) = w at *
  unfold decSalu
  rw [h4, h1, h2, h3]
  exact unlessSet_wf hwf rfl

theorem mul (d : BitVec 6) (a : BitVec 6) (b : BitVec 6) : Statement (.mul d a b) := by
  intro hwf
  obtain ⟨h0, h1, h2, h3, h4⟩ := parts_6_6_6_6_8 _ _ _ _ _ (w := encode (.mul d a b)) rfl
  refine (decodeWord_salu h0).trans ?_
  generalize encode (.mul d a b) = w at *
  unfold decSalu
  rw [h4, h1, h2, h3]
  exact unlessSet_wf hwf rfl

theorem mulh (d : BitVec 6) (a : BitVec 6) (b : BitVec 6) : Statement (.mulh d a b) := by
  intro hwf
  obtain ⟨h0, h1, h2, h3, h4⟩ := parts_6_6_6_6_8 _ _ _ _ _ (w := encode (.mulh d a b)) rfl
  refine (decodeWord_salu h0).trans ?_
  generalize encode (.mulh d a b) = w at *
  unfold decSalu
  rw [h4, h1, h2, h3]
  exact unlessSet_wf hwf rfl

theorem mulhu (d : BitVec 6) (a : BitVec 6) (b : BitVec 6) : Statement (.mulhu d a b) := by
  intro hwf
  obtain ⟨h0, h1, h2, h3, h4⟩ := parts_6_6_6_6_8 _ _ _ _ _ (w := encode (.mulhu d a b)) rfl
  refine (decodeWord_salu h0).trans ?_
  generalize encode (.mulhu d a b) = w at *
  unfold decSalu
  rw [h4, h1, h2, h3]
  exact unlessSet_wf hwf rfl

theorem div (d : BitVec 6) (a : BitVec 6) (b : BitVec 6) : Statement (.div d a b) := by
  intro hwf
  obtain ⟨h0, h1, h2, h3, h4⟩ := parts_6_6_6_6_8 _ _ _ _ _ (w := encode (.div d a b)) rfl
  refine (decodeWord_salu h0).trans ?_
  generalize encode (.div d a b) = w at *
  unfold decSalu
  rw [h4, h1, h2, h3]
  exact unlessSet_wf hwf rfl

theorem divu (d : BitVec 6) (a : BitVec 6) (b : BitVec 6) : Statement (.divu d a b) := by
  intro hwf
  obtain ⟨h0, h1, h2, h3, h4⟩ := parts_6_6_6_6_8 _ _ _ _ _ (w := encode (.divu d a b)) rfl
  refine (decodeWord_salu h0).trans ?_
  generalize encode (.divu d a b) = w at *
  unfold decSalu
  rw [h4, h1, h2, h3]
  exact unlessSet_wf hwf rfl

theorem rem (d : BitVec 6) (a : BitVec 6) (b : BitVec 6) : Statement (.rem d a b) := by
  intro hwf
  obtain ⟨h0, h1, h2, h3, h4⟩ := parts_6_6_6_6_8 _ _ _ _ _ (w := encode (.rem d a b)) rfl
  refine (decodeWord_salu h0).trans ?_
  generalize encode (.rem d a b) = w at *
  unfold decSalu
  rw [h4, h1, h2, h3]
  exact unlessSet_wf hwf rfl

theorem remu (d : BitVec 6) (a : BitVec 6) (b : BitVec 6) : Statement (.remu d a b) := by
  intro hwf
  obtain ⟨h0, h1, h2, h3, h4⟩ := parts_6_6_6_6_8 _ _ _ _ _ (w := encode (.remu d a b)) rfl
  refine (decodeWord_salu h0).trans ?_
  generalize encode (.remu d a b) = w at *
  unfold decSalu
  rw [h4, h1, h2, h3]
  exact unlessSet_wf hwf rfl

theorem and (d : BitVec 6) (a : BitVec 6) (b : BitVec 6) : Statement (.and d a b) := by
  intro hwf
  obtain ⟨h0, h1, h2, h3, h4⟩ := parts_6_6_6_6_8 _ _ _ _ _ (w := encode (.and d a b)) rfl
  refine (decodeWord_salu h0).trans ?_
  generalize encode (.and d a b) = w at *
  unfold decSalu
  rw [h4, h1, h2, h3]
  exact unlessSet_wf hwf rfl

theorem or (d : BitVec 6) (a : BitVec 6) (b : BitVec 6) : Statement (.or d a b) := by
  intro hwf
  obtain ⟨h0, h1, h2, h3, h4⟩ := parts_6_6_6_6_8 _ _ _ _ _ (w := encode (.or d a b)) rfl
  refine (decodeWord_salu h0).trans ?_
  generalize encode (.or d a b) = w at *
  unfold decSalu
  rw [h4, h1, h2, h3]
  exact unlessSet_wf hwf rfl

theorem xor (d : BitVec 6) (a : BitVec 6) (b : BitVec 6) : Statement (.xor d a b) := by
  intro hwf
  obtain ⟨h0, h1, h2, h3, h4⟩ := parts_6_6_6_6_8 _ _ _ _ _ (w := encode (.xor d a b)) rfl
  refine (decodeWord_salu h0).trans ?_
  generalize encode (.xor d a b) = w at *
  unfold decSalu
  rw [h4, h1, h2, h3]
  exact unlessSet_wf hwf rfl

theorem andn (d : BitVec 6) (a : BitVec 6) (b : BitVec 6) : Statement (.andn d a b) := by
  intro hwf
  obtain ⟨h0, h1, h2, h3, h4⟩ := parts_6_6_6_6_8 _ _ _ _ _ (w := encode (.andn d a b)) rfl
  refine (decodeWord_salu h0).trans ?_
  generalize encode (.andn d a b) = w at *
  unfold decSalu
  rw [h4, h1, h2, h3]
  exact unlessSet_wf hwf rfl

theorem shl (d : BitVec 6) (a : BitVec 6) (b : BitVec 6) : Statement (.shl d a b) := by
  intro hwf
  obtain ⟨h0, h1, h2, h3, h4⟩ := parts_6_6_6_6_8 _ _ _ _ _ (w := encode (.shl d a b)) rfl
  refine (decodeWord_salu h0).trans ?_
  generalize encode (.shl d a b) = w at *
  unfold decSalu
  rw [h4, h1, h2, h3]
  exact unlessSet_wf hwf rfl

theorem shr (d : BitVec 6) (a : BitVec 6) (b : BitVec 6) : Statement (.shr d a b) := by
  intro hwf
  obtain ⟨h0, h1, h2, h3, h4⟩ := parts_6_6_6_6_8 _ _ _ _ _ (w := encode (.shr d a b)) rfl
  refine (decodeWord_salu h0).trans ?_
  generalize encode (.shr d a b) = w at *
  unfold decSalu
  rw [h4, h1, h2, h3]
  exact unlessSet_wf hwf rfl

theorem sha (d : BitVec 6) (a : BitVec 6) (b : BitVec 6) : Statement (.sha d a b) := by
  intro hwf
  obtain ⟨h0, h1, h2, h3, h4⟩ := parts_6_6_6_6_8 _ _ _ _ _ (w := encode (.sha d a b)) rfl
  refine (decodeWord_salu h0).trans ?_
  generalize encode (.sha d a b) = w at *
  unfold decSalu
  rw [h4, h1, h2, h3]
  exact unlessSet_wf hwf rfl

theorem rot (d : BitVec 6) (a : BitVec 6) (b : BitVec 6) : Statement (.rot d a b) := by
  intro hwf
  obtain ⟨h0, h1, h2, h3, h4⟩ := parts_6_6_6_6_8 _ _ _ _ _ (w := encode (.rot d a b)) rfl
  refine (decodeWord_salu h0).trans ?_
  generalize encode (.rot d a b) = w at *
  unfold decSalu
  rw [h4, h1, h2, h3]
  exact unlessSet_wf hwf rfl

theorem slt (d : BitVec 6) (a : BitVec 6) (b : BitVec 6) : Statement (.slt d a b) := by
  intro hwf
  obtain ⟨h0, h1, h2, h3, h4⟩ := parts_6_6_6_6_8 _ _ _ _ _ (w := encode (.slt d a b)) rfl
  refine (decodeWord_salu h0).trans ?_
  generalize encode (.slt d a b) = w at *
  unfold decSalu
  rw [h4, h1, h2, h3]
  exact unlessSet_wf hwf rfl

theorem sltu (d : BitVec 6) (a : BitVec 6) (b : BitVec 6) : Statement (.sltu d a b) := by
  intro hwf
  obtain ⟨h0, h1, h2, h3, h4⟩ := parts_6_6_6_6_8 _ _ _ _ _ (w := encode (.sltu d a b)) rfl
  refine (decodeWord_salu h0).trans ?_
  generalize encode (.sltu d a b) = w at *
  unfold decSalu
  rw [h4, h1, h2, h3]
  exact unlessSet_wf hwf rfl

theorem min (d : BitVec 6) (a : BitVec 6) (b : BitVec 6) : Statement (.min d a b) := by
  intro hwf
  obtain ⟨h0, h1, h2, h3, h4⟩ := parts_6_6_6_6_8 _ _ _ _ _ (w := encode (.min d a b)) rfl
  refine (decodeWord_salu h0).trans ?_
  generalize encode (.min d a b) = w at *
  unfold decSalu
  rw [h4, h1, h2, h3]
  exact unlessSet_wf hwf rfl

theorem max (d : BitVec 6) (a : BitVec 6) (b : BitVec 6) : Statement (.max d a b) := by
  intro hwf
  obtain ⟨h0, h1, h2, h3, h4⟩ := parts_6_6_6_6_8 _ _ _ _ _ (w := encode (.max d a b)) rfl
  refine (decodeWord_salu h0).trans ?_
  generalize encode (.max d a b) = w at *
  unfold decSalu
  rw [h4, h1, h2, h3]
  exact unlessSet_wf hwf rfl

theorem minu (d : BitVec 6) (a : BitVec 6) (b : BitVec 6) : Statement (.minu d a b) := by
  intro hwf
  obtain ⟨h0, h1, h2, h3, h4⟩ := parts_6_6_6_6_8 _ _ _ _ _ (w := encode (.minu d a b)) rfl
  refine (decodeWord_salu h0).trans ?_
  generalize encode (.minu d a b) = w at *
  unfold decSalu
  rw [h4, h1, h2, h3]
  exact unlessSet_wf hwf rfl

theorem maxu (d : BitVec 6) (a : BitVec 6) (b : BitVec 6) : Statement (.maxu d a b) := by
  intro hwf
  obtain ⟨h0, h1, h2, h3, h4⟩ := parts_6_6_6_6_8 _ _ _ _ _ (w := encode (.maxu d a b)) rfl
  refine (decodeWord_salu h0).trans ?_
  generalize encode (.maxu d a b) = w at *
  unfold decSalu
  rw [h4, h1, h2, h3]
  exact unlessSet_wf hwf rfl

theorem clz (d : BitVec 6) (a : BitVec 6) : Statement (.clz d a) := by
  intro hwf
  obtain ⟨h0, h1, h2, h3⟩ := parts_6_6_6_14 _ _ _ _ (w := encode (.clz d a)) rfl
  have g0 : fld (encode (.clz d a)) 0 8 = 40#8 := (fld_sub h3 0 8 (by decide) (by decide)).trans (by decide)
  have g1 : fld (encode (.clz d a)) 8 6 = 0#6 := (fld_sub h3 8 6 (by decide) (by decide)).trans (by decide)
  refine (decodeWord_salu h0).trans ?_
  generalize encode (.clz d a) = w at *
  unfold decSalu
  rw [g0, g1, h1, h2]
  exact unlessSet_wf hwf rfl

theorem ctz (d : BitVec 6) (a : BitVec 6) : Statement (.ctz d a) := by
  intro hwf
  obtain ⟨h0, h1, h2, h3⟩ := parts_6_6_6_14 _ _ _ _ (w := encode (.ctz d a)) rfl
  have g0 : fld (encode (.ctz d a)) 0 8 = 41#8 := (fld_sub h3 0 8 (by decide) (by decide)).trans (by decide)
  have g1 : fld (encode (.ctz d a)) 8 6 = 0#6 := (fld_sub h3 8 6 (by decide) (by decide)).trans (by decide)
  refine (decodeWord_salu h0).trans ?_
  generalize encode (.ctz d a) = w at *
  unfold decSalu
  rw [g0, g1, h1, h2]
  exact unlessSet_wf hwf rfl

theorem popc (d : BitVec 6) (a : BitVec 6) : Statement (.popc d a) := by
  intro hwf
  obtain ⟨h0, h1, h2, h3⟩ := parts_6_6_6_14 _ _ _ _ (w := encode (.popc d a)) rfl
  have g0 : fld (encode (.popc d a)) 0 8 = 42#8 := (fld_sub h3 0 8 (by decide) (by decide)).trans (by decide)
  have g1 : fld (encode (.popc d a)) 8 6 = 0#6 := (fld_sub h3 8 6 (by decide) (by decide)).trans (by decide)
  refine (decodeWord_salu h0).trans ?_
  generalize encode (.popc d a) = w at *
  unfold decSalu
  rw [g0, g1, h1, h2]
  exact unlessSet_wf hwf rfl

theorem addi (d : BitVec 6) (a : BitVec 6) (i : BitVec 14) : Statement (.addi d a i) := by
  intro hwf
  obtain ⟨h0, h1, h2, h3⟩ := parts_6_6_6_14 _ _ _ _ (w := encode (.addi d a i)) rfl
  have hn := word_ne h0 (by decide) (by decide)
  generalize encode (.addi d a i) = w at *
  unfold decodeWord
  rw [if_neg hn.1, if_neg hn.2, h0, h1, h2, h3]
  exact unlessSet_wf hwf rfl

theorem andi (d : BitVec 6) (a : BitVec 6) (i : BitVec 14) : Statement (.andi d a i) := by
  intro hwf
  obtain ⟨h0, h1, h2, h3⟩ := parts_6_6_6_14 _ _ _ _ (w := encode (.andi d a i)) rfl
  have hn := word_ne h0 (by decide) (by decide)
  generalize encode (.andi d a i) = w at *
  unfold decodeWord
  rw [if_neg hn.1, if_neg hn.2, h0, h1, h2, h3]
  exact unlessSet_wf hwf rfl

theorem ori (d : BitVec 6) (a : BitVec 6) (i : BitVec 14) : Statement (.ori d a i) := by
  intro hwf
  obtain ⟨h0, h1, h2, h3⟩ := parts_6_6_6_14 _ _ _ _ (w := encode (.ori d a i)) rfl
  have hn := word_ne h0 (by decide) (by decide)
  generalize encode (.ori d a i) = w at *
  unfold decodeWord
  rw [if_neg hn.1, if_neg hn.2, h0, h1, h2, h3]
  exact unlessSet_wf hwf rfl

theorem xori (d : BitVec 6) (a : BitVec 6) (i : BitVec 14) : Statement (.xori d a i) := by
  intro hwf
  obtain ⟨h0, h1, h2, h3⟩ := parts_6_6_6_14 _ _ _ _ (w := encode (.xori d a i)) rfl
  have hn := word_ne h0 (by decide) (by decide)
  generalize encode (.xori d a i) = w at *
  unfold decodeWord
  rw [if_neg hn.1, if_neg hn.2, h0, h1, h2, h3]
  exact unlessSet_wf hwf rfl

theorem slti (d : BitVec 6) (a : BitVec 6) (i : BitVec 14) : Statement (.slti d a i) := by
  intro hwf
  obtain ⟨h0, h1, h2, h3⟩ := parts_6_6_6_14 _ _ _ _ (w := encode (.slti d a i)) rfl
  have hn := word_ne h0 (by decide) (by decide)
  generalize encode (.slti d a i) = w at *
  unfold decodeWord
  rw [if_neg hn.1, if_neg hn.2, h0, h1, h2, h3]
  exact unlessSet_wf hwf rfl

theorem shli (d : BitVec 6) (a : BitVec 6) (n : BitVec 6) : Statement (.shli d a n) := by
  intro hwf
  obtain ⟨h0, h1, h2, h3, h4⟩ := parts_6_6_6_8_6 _ _ _ _ _ (w := encode (.shli d a n)) rfl
  have g0 : fld (encode (.shli d a n)) 12 2 = 0#2 := (fld_sub h3 12 2 (by decide) (by decide)).trans (by decide)
  have g1 : fld (encode (.shli d a n)) 6 6 = 0#6 := (fld_sub h3 6 6 (by decide) (by decide)).trans (by decide)
  refine (decodeWord_shi h0).trans ?_
  generalize encode (.shli d a n) = w at *
  unfold decShi
  rw [g0, g1, h1, h2, h4]
  exact unlessSet_wf hwf rfl

theorem shri (d : BitVec 6) (a : BitVec 6) (n : BitVec 6) : Statement (.shri d a n) := by
  intro hwf
  obtain ⟨h0, h1, h2, h3, h4⟩ := parts_6_6_6_8_6 _ _ _ _ _ (w := encode (.shri d a n)) rfl
  have g0 : fld (encode (.shri d a n)) 12 2 = 1#2 := (fld_sub h3 12 2 (by decide) (by decide)).trans (by decide)
  have g1 : fld (encode (.shri d a n)) 6 6 = 0#6 := (fld_sub h3 6 6 (by decide) (by decide)).trans (by decide)
  refine (decodeWord_shi h0).trans ?_
  generalize encode (.shri d a n) = w at *
  unfold decShi
  rw [g0, g1, h1, h2, h4]
  exact unlessSet_wf hwf rfl

theorem shai (d : BitVec 6) (a : BitVec 6) (n : BitVec 6) : Statement (.shai d a n) := by
  intro hwf
  obtain ⟨h0, h1, h2, h3, h4⟩ := parts_6_6_6_8_6 _ _ _ _ _ (w := encode (.shai d a n)) rfl
  have g0 : fld (encode (.shai d a n)) 12 2 = 2#2 := (fld_sub h3 12 2 (by decide) (by decide)).trans (by decide)
  have g1 : fld (encode (.shai d a n)) 6 6 = 0#6 := (fld_sub h3 6 6 (by decide) (by decide)).trans (by decide)
  refine (decodeWord_shi h0).trans ?_
  generalize encode (.shai d a n) = w at *
  unfold decShi
  rw [g0, g1, h1, h2, h4]
  exact unlessSet_wf hwf rfl

theorem ldi (d : BitVec 6) (i : BitVec 20) : Statement (.ldi d i) := by
  intro hwf
  obtain ⟨h0, h1, h2⟩ := parts_6_6_20 _ _ _ (w := encode (.ldi d i)) rfl
  have hn := word_ne h0 (by decide) (by decide)
  generalize encode (.ldi d i) = w at *
  unfold decodeWord
  rw [if_neg hn.1, if_neg hn.2, h0, h1, h2]
  exact unlessSet_wf hwf rfl

theorem adpc (d : BitVec 6) (o : BitVec 20) : Statement (.adpc d o) := by
  intro hwf
  obtain ⟨h0, h1, h2⟩ := parts_6_6_20 _ _ _ (w := encode (.adpc d o)) rfl
  have hn := word_ne h0 (by decide) (by decide)
  generalize encode (.adpc d o) = w at *
  unfold decodeWord
  rw [if_neg hn.1, if_neg hn.2, h0, h1, h2]
  exact unlessSet_wf hwf rfl

theorem ld (d : BitVec 6) (a : BitVec 6) (w : BitVec 2) (c : BitVec 2) (i : BitVec 10) : Statement (.ld d a w c i) := by
  intro hwf
  obtain ⟨h0, h1, h2, h3, h4, h5⟩ := parts_6_6_6_2_2_10 _ _ _ _ _ _ (w := encode (.ld d a w c i)) rfl
  have hn := word_ne h0 (by decide) (by decide)
  generalize encode (.ld d a w c i) = w at *
  unfold decodeWord
  rw [if_neg hn.1, if_neg hn.2, h0, h1, h2, h3, h4, h5]
  exact unlessSet_wf hwf rfl

theorem ldu (d : BitVec 6) (a : BitVec 6) (w : BitVec 2) (c : BitVec 2) (i : BitVec 10) : Statement (.ldu d a w c i) := by
  intro hwf
  obtain ⟨h0, h1, h2, h3, h4, h5⟩ := parts_6_6_6_2_2_10 _ _ _ _ _ _ (w := encode (.ldu d a w c i)) rfl
  have hn := word_ne h0 (by decide) (by decide)
  generalize encode (.ldu d a w c i) = w at *
  unfold decodeWord
  rw [if_neg hn.1, if_neg hn.2, h0, h1, h2, h3, h4, h5]
  exact unlessSet_wf hwf rfl

theorem st (d : BitVec 6) (a : BitVec 6) (w : BitVec 2) (c : BitVec 2) (i : BitVec 10) : Statement (.st d a w c i) := by
  intro hwf
  obtain ⟨h0, h1, h2, h3, h4, h5⟩ := parts_6_6_6_2_2_10 _ _ _ _ _ _ (w := encode (.st d a w c i)) rfl
  have hn := word_ne h0 (by decide) (by decide)
  generalize encode (.st d a w c i) = w at *
  unfold decodeWord
  rw [if_neg hn.1, if_neg hn.2, h0, h1, h2, h3, h4, h5]
  exact unlessSet_wf hwf rfl

theorem amoadd (d : BitVec 6) (a : BitVec 6) (b : BitVec 6) (w : BitVec 1) (s : BitVec 3) : Statement (.amoadd d a b w s) := by
  intro hwf
  obtain ⟨h0, h1, h2, h3, h4, h5, h6⟩ := parts_6_6_6_6_4_1_3 _ _ _ _ _ _ _ (w := encode (.amoadd d a b w s)) rfl
  refine (decodeWord_amo h0).trans ?_
  generalize encode (.amoadd d a b w s) = w at *
  unfold decAmo
  rw [h4, h1, h2, h3, h5, h6]
  exact unlessSet_wf hwf rfl

theorem amoswap (d : BitVec 6) (a : BitVec 6) (b : BitVec 6) (w : BitVec 1) (s : BitVec 3) : Statement (.amoswap d a b w s) := by
  intro hwf
  obtain ⟨h0, h1, h2, h3, h4, h5, h6⟩ := parts_6_6_6_6_4_1_3 _ _ _ _ _ _ _ (w := encode (.amoswap d a b w s)) rfl
  refine (decodeWord_amo h0).trans ?_
  generalize encode (.amoswap d a b w s) = w at *
  unfold decAmo
  rw [h4, h1, h2, h3, h5, h6]
  exact unlessSet_wf hwf rfl

theorem amoand (d : BitVec 6) (a : BitVec 6) (b : BitVec 6) (w : BitVec 1) (s : BitVec 3) : Statement (.amoand d a b w s) := by
  intro hwf
  obtain ⟨h0, h1, h2, h3, h4, h5, h6⟩ := parts_6_6_6_6_4_1_3 _ _ _ _ _ _ _ (w := encode (.amoand d a b w s)) rfl
  refine (decodeWord_amo h0).trans ?_
  generalize encode (.amoand d a b w s) = w at *
  unfold decAmo
  rw [h4, h1, h2, h3, h5, h6]
  exact unlessSet_wf hwf rfl

theorem amoor (d : BitVec 6) (a : BitVec 6) (b : BitVec 6) (w : BitVec 1) (s : BitVec 3) : Statement (.amoor d a b w s) := by
  intro hwf
  obtain ⟨h0, h1, h2, h3, h4, h5, h6⟩ := parts_6_6_6_6_4_1_3 _ _ _ _ _ _ _ (w := encode (.amoor d a b w s)) rfl
  refine (decodeWord_amo h0).trans ?_
  generalize encode (.amoor d a b w s) = w at *
  unfold decAmo
  rw [h4, h1, h2, h3, h5, h6]
  exact unlessSet_wf hwf rfl

theorem amoxor (d : BitVec 6) (a : BitVec 6) (b : BitVec 6) (w : BitVec 1) (s : BitVec 3) : Statement (.amoxor d a b w s) := by
  intro hwf
  obtain ⟨h0, h1, h2, h3, h4, h5, h6⟩ := parts_6_6_6_6_4_1_3 _ _ _ _ _ _ _ (w := encode (.amoxor d a b w s)) rfl
  refine (decodeWord_amo h0).trans ?_
  generalize encode (.amoxor d a b w s) = w at *
  unfold decAmo
  rw [h4, h1, h2, h3, h5, h6]
  exact unlessSet_wf hwf rfl

theorem amomin (d : BitVec 6) (a : BitVec 6) (b : BitVec 6) (w : BitVec 1) (s : BitVec 3) : Statement (.amomin d a b w s) := by
  intro hwf
  obtain ⟨h0, h1, h2, h3, h4, h5, h6⟩ := parts_6_6_6_6_4_1_3 _ _ _ _ _ _ _ (w := encode (.amomin d a b w s)) rfl
  refine (decodeWord_amo h0).trans ?_
  generalize encode (.amomin d a b w s) = w at *
  unfold decAmo
  rw [h4, h1, h2, h3, h5, h6]
  exact unlessSet_wf hwf rfl

theorem amomax (d : BitVec 6) (a : BitVec 6) (b : BitVec 6) (w : BitVec 1) (s : BitVec 3) : Statement (.amomax d a b w s) := by
  intro hwf
  obtain ⟨h0, h1, h2, h3, h4, h5, h6⟩ := parts_6_6_6_6_4_1_3 _ _ _ _ _ _ _ (w := encode (.amomax d a b w s)) rfl
  refine (decodeWord_amo h0).trans ?_
  generalize encode (.amomax d a b w s) = w at *
  unfold decAmo
  rw [h4, h1, h2, h3, h5, h6]
  exact unlessSet_wf hwf rfl

theorem amominu (d : BitVec 6) (a : BitVec 6) (b : BitVec 6) (w : BitVec 1) (s : BitVec 3) : Statement (.amominu d a b w s) := by
  intro hwf
  obtain ⟨h0, h1, h2, h3, h4, h5, h6⟩ := parts_6_6_6_6_4_1_3 _ _ _ _ _ _ _ (w := encode (.amominu d a b w s)) rfl
  refine (decodeWord_amo h0).trans ?_
  generalize encode (.amominu d a b w s) = w at *
  unfold decAmo
  rw [h4, h1, h2, h3, h5, h6]
  exact unlessSet_wf hwf rfl

theorem amomaxu (d : BitVec 6) (a : BitVec 6) (b : BitVec 6) (w : BitVec 1) (s : BitVec 3) : Statement (.amomaxu d a b w s) := by
  intro hwf
  obtain ⟨h0, h1, h2, h3, h4, h5, h6⟩ := parts_6_6_6_6_4_1_3 _ _ _ _ _ _ _ (w := encode (.amomaxu d a b w s)) rfl
  refine (decodeWord_amo h0).trans ?_
  generalize encode (.amomaxu d a b w s) = w at *
  unfold decAmo
  rw [h4, h1, h2, h3, h5, h6]
  exact unlessSet_wf hwf rfl

theorem amocas (d : BitVec 6) (a : BitVec 6) (b : BitVec 6) (w : BitVec 1) (s : BitVec 3) : Statement (.amocas d a b w s) := by
  intro hwf
  obtain ⟨h0, h1, h2, h3, h4, h5, h6⟩ := parts_6_6_6_6_4_1_3 _ _ _ _ _ _ _ (w := encode (.amocas d a b w s)) rfl
  refine (decodeWord_amo h0).trans ?_
  generalize encode (.amocas d a b w s) = w at *
  unfold decAmo
  rw [h4, h1, h2, h3, h5, h6]
  exact unlessSet_wf hwf rfl

theorem lda (d : BitVec 6) (a : BitVec 6) (w : BitVec 1) (s : BitVec 3) : Statement (.lda d a w s) := by
  intro hwf
  obtain ⟨h0, h1, h2, h3, h4, h5⟩ := parts_6_6_6_10_1_3 _ _ _ _ _ _ (w := encode (.lda d a w s)) rfl
  have g0 : fld (encode (.lda d a w s)) 4 4 = 10#4 := (fld_sub h3 4 4 (by decide) (by decide)).trans (by decide)
  have g1 : fld (encode (.lda d a w s)) 8 6 = 0#6 := (fld_sub h3 8 6 (by decide) (by decide)).trans (by decide)
  refine (decodeWord_amo h0).trans ?_
  generalize encode (.lda d a w s) = w at *
  unfold decAmo
  rw [g0, g1, h1, h2, h4, h5]
  exact unlessSet_wf hwf rfl

theorem stl (a : BitVec 6) (b : BitVec 6) (w : BitVec 1) (s : BitVec 3) : Statement (.stl a b w s) := by
  intro hwf
  obtain ⟨h0, h1, h2, h3, h4, h5⟩ := parts_12_6_6_4_1_3 _ _ _ _ _ _ (w := encode (.stl a b w s)) rfl
  have g0 : fld (encode (.stl a b w s)) 26 6 = 13#6 := (fld_sub h0 26 6 (by decide) (by decide)).trans (by decide)
  have g1 : fld (encode (.stl a b w s)) 20 6 = 0#6 := (fld_sub h0 20 6 (by decide) (by decide)).trans (by decide)
  refine (decodeWord_amo g0).trans ?_
  generalize encode (.stl a b w s) = w at *
  unfold decAmo
  rw [h3, g1, h1, h2, h4, h5]
  exact unlessSet_wf hwf rfl

theorem fence (k : BitVec 2) (s : BitVec 3) : Statement (.fence k s) := by
  intro hwf
  obtain ⟨h0, h1, h2, h3⟩ := parts_24_2_3_3 _ _ _ _ (w := encode (.fence k s)) rfl
  have g0 : fld (encode (.fence k s)) 26 6 = 14#6 := (fld_sub h0 26 6 (by decide) (by decide)).trans (by decide)
  have g1 : fld (encode (.fence k s)) 8 18 = 0#18 := (fld_sub h0 8 18 (by decide) (by decide)).trans (by decide)
  have hn := word_ne g0 (by decide) (by decide)
  generalize encode (.fence k s) = w at *
  unfold decodeWord
  rw [if_neg hn.1, if_neg hn.2, g0, h3, g1, h1, h2]
  exact unlessSet_wf hwf rfl

theorem beq (a : BitVec 6) (b : BitVec 6) (o : BitVec 14) : Statement (.beq a b o) := by
  intro hwf
  obtain ⟨h0, h1, h2, h3⟩ := parts_6_6_6_14 _ _ _ _ (w := encode (.beq a b o)) rfl
  have hn := word_ne h0 (by decide) (by decide)
  generalize encode (.beq a b o) = w at *
  unfold decodeWord
  rw [if_neg hn.1, if_neg hn.2, h0, h1, h2, h3]
  exact unlessSet_wf hwf rfl

theorem bne (a : BitVec 6) (b : BitVec 6) (o : BitVec 14) : Statement (.bne a b o) := by
  intro hwf
  obtain ⟨h0, h1, h2, h3⟩ := parts_6_6_6_14 _ _ _ _ (w := encode (.bne a b o)) rfl
  have hn := word_ne h0 (by decide) (by decide)
  generalize encode (.bne a b o) = w at *
  unfold decodeWord
  rw [if_neg hn.1, if_neg hn.2, h0, h1, h2, h3]
  exact unlessSet_wf hwf rfl

theorem blt (a : BitVec 6) (b : BitVec 6) (o : BitVec 14) : Statement (.blt a b o) := by
  intro hwf
  obtain ⟨h0, h1, h2, h3⟩ := parts_6_6_6_14 _ _ _ _ (w := encode (.blt a b o)) rfl
  have hn := word_ne h0 (by decide) (by decide)
  generalize encode (.blt a b o) = w at *
  unfold decodeWord
  rw [if_neg hn.1, if_neg hn.2, h0, h1, h2, h3]
  exact unlessSet_wf hwf rfl

theorem bge (a : BitVec 6) (b : BitVec 6) (o : BitVec 14) : Statement (.bge a b o) := by
  intro hwf
  obtain ⟨h0, h1, h2, h3⟩ := parts_6_6_6_14 _ _ _ _ (w := encode (.bge a b o)) rfl
  have hn := word_ne h0 (by decide) (by decide)
  generalize encode (.bge a b o) = w at *
  unfold decodeWord
  rw [if_neg hn.1, if_neg hn.2, h0, h1, h2, h3]
  exact unlessSet_wf hwf rfl

theorem bltu (a : BitVec 6) (b : BitVec 6) (o : BitVec 14) : Statement (.bltu a b o) := by
  intro hwf
  obtain ⟨h0, h1, h2, h3⟩ := parts_6_6_6_14 _ _ _ _ (w := encode (.bltu a b o)) rfl
  have hn := word_ne h0 (by decide) (by decide)
  generalize encode (.bltu a b o) = w at *
  unfold decodeWord
  rw [if_neg hn.1, if_neg hn.2, h0, h1, h2, h3]
  exact unlessSet_wf hwf rfl

theorem bgeu (a : BitVec 6) (b : BitVec 6) (o : BitVec 14) : Statement (.bgeu a b o) := by
  intro hwf
  obtain ⟨h0, h1, h2, h3⟩ := parts_6_6_6_14 _ _ _ _ (w := encode (.bgeu a b o)) rfl
  have hn := word_ne h0 (by decide) (by decide)
  generalize encode (.bgeu a b o) = w at *
  unfold decodeWord
  rw [if_neg hn.1, if_neg hn.2, h0, h1, h2, h3]
  exact unlessSet_wf hwf rfl

theorem jmp (d : BitVec 6) (o : BitVec 20) : Statement (.jmp d o) := by
  intro hwf
  obtain ⟨h0, h1, h2⟩ := parts_6_6_20 _ _ _ (w := encode (.jmp d o)) rfl
  have hn := word_ne h0 (by decide) (by decide)
  generalize encode (.jmp d o) = w at *
  unfold decodeWord
  rw [if_neg hn.1, if_neg hn.2, h0, h1, h2]
  exact unlessSet_wf hwf rfl

theorem jmpr (d : BitVec 6) (a : BitVec 6) (i : BitVec 14) : Statement (.jmpr d a i) := by
  intro hwf
  obtain ⟨h0, h1, h2, h3⟩ := parts_6_6_6_14 _ _ _ _ (w := encode (.jmpr d a i)) rfl
  have hn := word_ne h0 (by decide) (by decide)
  generalize encode (.jmpr d a i) = w at *
  unfold decodeWord
  rw [if_neg hn.1, if_neg hn.2, h0, h1, h2, h3]
  exact unlessSet_wf hwf rfl

theorem fadd (d : BitVec 6) (a : BitVec 6) (b : BitVec 6) (f : BitVec 2) : Statement (.fadd d a b f) := by
  intro hwf
  obtain ⟨h0, h1, h2, h3, h4, h5, h6⟩ := parts_6_6_6_6_4_2_2 _ _ _ _ _ _ _ (w := encode (.fadd d a b f)) rfl
  refine (decodeWord_sfpu h0).trans ?_
  generalize encode (.fadd d a b f) = w at *
  unfold decSfpu
  rw [h4, h6, h1, h2, h3, h5]
  exact unlessSet_wf hwf rfl

theorem fsub (d : BitVec 6) (a : BitVec 6) (b : BitVec 6) (f : BitVec 2) : Statement (.fsub d a b f) := by
  intro hwf
  obtain ⟨h0, h1, h2, h3, h4, h5, h6⟩ := parts_6_6_6_6_4_2_2 _ _ _ _ _ _ _ (w := encode (.fsub d a b f)) rfl
  refine (decodeWord_sfpu h0).trans ?_
  generalize encode (.fsub d a b f) = w at *
  unfold decSfpu
  rw [h4, h6, h1, h2, h3, h5]
  exact unlessSet_wf hwf rfl

theorem fmul (d : BitVec 6) (a : BitVec 6) (b : BitVec 6) (f : BitVec 2) : Statement (.fmul d a b f) := by
  intro hwf
  obtain ⟨h0, h1, h2, h3, h4, h5, h6⟩ := parts_6_6_6_6_4_2_2 _ _ _ _ _ _ _ (w := encode (.fmul d a b f)) rfl
  refine (decodeWord_sfpu h0).trans ?_
  generalize encode (.fmul d a b f) = w at *
  unfold decSfpu
  rw [h4, h6, h1, h2, h3, h5]
  exact unlessSet_wf hwf rfl

theorem fdiv (d : BitVec 6) (a : BitVec 6) (b : BitVec 6) (f : BitVec 2) : Statement (.fdiv d a b f) := by
  intro hwf
  obtain ⟨h0, h1, h2, h3, h4, h5, h6⟩ := parts_6_6_6_6_4_2_2 _ _ _ _ _ _ _ (w := encode (.fdiv d a b f)) rfl
  refine (decodeWord_sfpu h0).trans ?_
  generalize encode (.fdiv d a b f) = w at *
  unfold decSfpu
  rw [h4, h6, h1, h2, h3, h5]
  exact unlessSet_wf hwf rfl

theorem fsqrt (d : BitVec 6) (a : BitVec 6) (f : BitVec 2) : Statement (.fsqrt d a f) := by
  intro hwf
  obtain ⟨h0, h1, h2, h3, h4, h5⟩ := parts_6_6_6_10_2_2 _ _ _ _ _ _ (w := encode (.fsqrt d a f)) rfl
  have g0 : fld (encode (.fsqrt d a f)) 4 4 = 4#4 := (fld_sub h3 4 4 (by decide) (by decide)).trans (by decide)
  have g1 : fld (encode (.fsqrt d a f)) 8 6 = 0#6 := (fld_sub h3 8 6 (by decide) (by decide)).trans (by decide)
  refine (decodeWord_sfpu h0).trans ?_
  generalize encode (.fsqrt d a f) = w at *
  unfold decSfpu
  rw [g0, h5, g1, h1, h2, h4]
  exact unlessSet_wf hwf rfl

theorem fma (d : BitVec 6) (a : BitVec 6) (b : BitVec 6) (f : BitVec 2) : Statement (.fma d a b f) := by
  intro hwf
  obtain ⟨h0, h1, h2, h3, h4, h5, h6⟩ := parts_6_6_6_6_4_2_2 _ _ _ _ _ _ _ (w := encode (.fma d a b f)) rfl
  refine (decodeWord_sfpu h0).trans ?_
  generalize encode (.fma d a b f) = w at *
  unfold decSfpu
  rw [h4, h6, h1, h2, h3, h5]
  exact unlessSet_wf hwf rfl

theorem fmin (d : BitVec 6) (a : BitVec 6) (b : BitVec 6) (f : BitVec 2) : Statement (.fmin d a b f) := by
  intro hwf
  obtain ⟨h0, h1, h2, h3, h4, h5, h6⟩ := parts_6_6_6_6_4_2_2 _ _ _ _ _ _ _ (w := encode (.fmin d a b f)) rfl
  refine (decodeWord_sfpu h0).trans ?_
  generalize encode (.fmin d a b f) = w at *
  unfold decSfpu
  rw [h4, h6, h1, h2, h3, h5]
  exact unlessSet_wf hwf rfl

theorem fmax (d : BitVec 6) (a : BitVec 6) (b : BitVec 6) (f : BitVec 2) : Statement (.fmax d a b f) := by
  intro hwf
  obtain ⟨h0, h1, h2, h3, h4, h5, h6⟩ := parts_6_6_6_6_4_2_2 _ _ _ _ _ _ _ (w := encode (.fmax d a b f)) rfl
  refine (decodeWord_sfpu h0).trans ?_
  generalize encode (.fmax d a b f) = w at *
  unfold decSfpu
  rw [h4, h6, h1, h2, h3, h5]
  exact unlessSet_wf hwf rfl

theorem fcmp (d : BitVec 6) (a : BitVec 6) (b : BitVec 6) (f : BitVec 2) (c : BitVec 2) : Statement (.fcmp d a b f c) := by
  intro hwf
  obtain ⟨h0, h1, h2, h3, h4, h5, h6⟩ := parts_6_6_6_6_4_2_2 _ _ _ _ _ _ _ (w := encode (.fcmp d a b f c)) rfl
  refine (decodeWord_sfpu h0).trans ?_
  generalize encode (.fcmp d a b f c) = w at *
  unfold decSfpu
  rw [h4, h1, h2, h3, h5, h6]
  exact unlessSet_wf hwf rfl

theorem fcvtDS (d : BitVec 6) (a : BitVec 6) (f : BitVec 2) (s : BitVec 2) : Statement (.fcvtDS d a f s) := by
  intro hwf
  obtain ⟨h0, h1, h2, h3, h4, h5⟩ := parts_6_6_6_10_2_2 _ _ _ _ _ _ (w := encode (.fcvtDS d a f s)) rfl
  have g0 : fld (encode (.fcvtDS d a f s)) 4 4 = 9#4 := (fld_sub h3 4 4 (by decide) (by decide)).trans (by decide)
  have g1 : fld (encode (.fcvtDS d a f s)) 8 6 = 0#6 := (fld_sub h3 8 6 (by decide) (by decide)).trans (by decide)
  refine (decodeWord_sfpu h0).trans ?_
  generalize encode (.fcvtDS d a f s) = w at *
  unfold decSfpu
  rw [g0, g1, h1, h2, h4, h5]
  exact unlessSet_wf hwf rfl

theorem fmv (d : BitVec 6) (a : BitVec 6) (f : BitVec 2) : Statement (.fmv d a f) := by
  intro hwf
  obtain ⟨h0, h1, h2, h3, h4, h5⟩ := parts_6_6_6_10_2_2 _ _ _ _ _ _ (w := encode (.fmv d a f)) rfl
  have g0 : fld (encode (.fmv d a f)) 4 4 = 10#4 := (fld_sub h3 4 4 (by decide) (by decide)).trans (by decide)
  have g1 : fld (encode (.fmv d a f)) 8 6 = 0#6 := (fld_sub h3 8 6 (by decide) (by decide)).trans (by decide)
  refine (decodeWord_sfpu h0).trans ?_
  generalize encode (.fmv d a f) = w at *
  unfold decSfpu
  rw [g0, h5, g1, h1, h2, h4]
  exact unlessSet_wf hwf rfl

theorem fmvNeg (d : BitVec 6) (a : BitVec 6) (f : BitVec 2) : Statement (.fmvNeg d a f) := by
  intro hwf
  obtain ⟨h0, h1, h2, h3, h4, h5⟩ := parts_6_6_6_10_2_2 _ _ _ _ _ _ (w := encode (.fmvNeg d a f)) rfl
  have g0 : fld (encode (.fmvNeg d a f)) 4 4 = 10#4 := (fld_sub h3 4 4 (by decide) (by decide)).trans (by decide)
  have g1 : fld (encode (.fmvNeg d a f)) 8 6 = 0#6 := (fld_sub h3 8 6 (by decide) (by decide)).trans (by decide)
  refine (decodeWord_sfpu h0).trans ?_
  generalize encode (.fmvNeg d a f) = w at *
  unfold decSfpu
  rw [g0, h5, g1, h1, h2, h4]
  exact unlessSet_wf hwf rfl

theorem fmvAbs (d : BitVec 6) (a : BitVec 6) (f : BitVec 2) : Statement (.fmvAbs d a f) := by
  intro hwf
  obtain ⟨h0, h1, h2, h3, h4, h5⟩ := parts_6_6_6_10_2_2 _ _ _ _ _ _ (w := encode (.fmvAbs d a f)) rfl
  have g0 : fld (encode (.fmvAbs d a f)) 4 4 = 10#4 := (fld_sub h3 4 4 (by decide) (by decide)).trans (by decide)
  have g1 : fld (encode (.fmvAbs d a f)) 8 6 = 0#6 := (fld_sub h3 8 6 (by decide) (by decide)).trans (by decide)
  refine (decodeWord_sfpu h0).trans ?_
  generalize encode (.fmvAbs d a f) = w at *
  unfold decSfpu
  rw [g0, h5, g1, h1, h2, h4]
  exact unlessSet_wf hwf rfl

theorem fcvtFK (d : BitVec 6) (a : BitVec 6) (f : BitVec 2) (k : BitVec 2) : Statement (.fcvtFK d a f k) := by
  intro hwf
  obtain ⟨h0, h1, h2, h3, h4, h5⟩ := parts_6_6_6_10_2_2 _ _ _ _ _ _ (w := encode (.fcvtFK d a f k)) rfl
  have g0 : fld (encode (.fcvtFK d a f k)) 4 4 = 11#4 := (fld_sub h3 4 4 (by decide) (by decide)).trans (by decide)
  have g1 : fld (encode (.fcvtFK d a f k)) 8 6 = 0#6 := (fld_sub h3 8 6 (by decide) (by decide)).trans (by decide)
  refine (decodeWord_sfpu h0).trans ?_
  generalize encode (.fcvtFK d a f k) = w at *
  unfold decSfpu
  rw [g0, g1, h1, h2, h4, h5]
  exact unlessSet_wf hwf rfl

theorem fcvtKF (d : BitVec 6) (a : BitVec 6) (f : BitVec 2) (k : BitVec 2) : Statement (.fcvtKF d a f k) := by
  intro hwf
  obtain ⟨h0, h1, h2, h3, h4, h5⟩ := parts_6_6_6_10_2_2 _ _ _ _ _ _ (w := encode (.fcvtKF d a f k)) rfl
  have g0 : fld (encode (.fcvtKF d a f k)) 4 4 = 12#4 := (fld_sub h3 4 4 (by decide) (by decide)).trans (by decide)
  have g1 : fld (encode (.fcvtKF d a f k)) 8 6 = 0#6 := (fld_sub h3 8 6 (by decide) (by decide)).trans (by decide)
  refine (decodeWord_sfpu h0).trans ?_
  generalize encode (.fcvtKF d a f k) = w at *
  unfold decSfpu
  rw [g0, g1, h1, h2, h4, h5]
  exact unlessSet_wf hwf rfl

theorem fcvtRtz (d : BitVec 6) (a : BitVec 6) (f : BitVec 2) (k : BitVec 2) : Statement (.fcvtRtz d a f k) := by
  intro hwf
  obtain ⟨h0, h1, h2, h3, h4, h5⟩ := parts_6_6_6_10_2_2 _ _ _ _ _ _ (w := encode (.fcvtRtz d a f k)) rfl
  have g0 : fld (encode (.fcvtRtz d a f k)) 4 4 = 13#4 := (fld_sub h3 4 4 (by decide) (by decide)).trans (by decide)
  have g1 : fld (encode (.fcvtRtz d a f k)) 8 6 = 0#6 := (fld_sub h3 8 6 (by decide) (by decide)).trans (by decide)
  refine (decodeWord_sfpu h0).trans ?_
  generalize encode (.fcvtRtz d a f k) = w at *
  unfold decSfpu
  rw [g0, g1, h1, h2, h4, h5]
  exact unlessSet_wf hwf rfl

theorem qsend (a : BitVec 6) (q : BitVec 2) : Statement (.qsend a q) := by
  intro hwf
  obtain ⟨h0, h1, h2, h3, h4⟩ := parts_12_6_2_2_10 _ _ _ _ _ (w := encode (.qsend a q)) rfl
  have g0 : fld (encode (.qsend a q)) 26 6 = 25#6 := (fld_sub h0 26 6 (by decide) (by decide)).trans (by decide)
  have g1 : fld (encode (.qsend a q)) 20 6 = 0#6 := (fld_sub h0 20 6 (by decide) (by decide)).trans (by decide)
  refine (decodeWord_queue g0).trans ?_
  generalize encode (.qsend a q) = w at *
  unfold decQueue
  rw [h2, h4, g1, h1, h3]
  exact unlessSet_wf hwf rfl

theorem qrecv (d : BitVec 6) (q : BitVec 2) : Statement (.qrecv d q) := by
  intro hwf
  obtain ⟨h0, h1, h2, h3, h4⟩ := parts_6_6_8_2_10 _ _ _ _ _ (w := encode (.qrecv d q)) rfl
  have g0 : fld (encode (.qrecv d q)) 12 2 = 1#2 := (fld_sub h2 12 2 (by decide) (by decide)).trans (by decide)
  have g1 : fld (encode (.qrecv d q)) 14 6 = 0#6 := (fld_sub h2 14 6 (by decide) (by decide)).trans (by decide)
  refine (decodeWord_queue h0).trans ?_
  generalize encode (.qrecv d q) = w at *
  unfold decQueue
  rw [g0, h4, g1, h1, h3]
  exact unlessSet_wf hwf rfl

theorem qbsend (a : BitVec 6) : Statement (.qbsend a) := by
  intro hwf
  obtain ⟨h0, h1, h2⟩ := parts_12_6_14 _ _ _ (w := encode (.qbsend a)) rfl
  have g0 : fld (encode (.qbsend a)) 26 6 = 25#6 := (fld_sub h0 26 6 (by decide) (by decide)).trans (by decide)
  have g1 : fld (encode (.qbsend a)) 12 2 = 2#2 := (fld_sub h2 12 2 (by decide) (by decide)).trans (by decide)
  have g2 : fld (encode (.qbsend a)) 0 12 = 0#12 := (fld_sub h2 0 12 (by decide) (by decide)).trans (by decide)
  have g3 : fld (encode (.qbsend a)) 20 6 = 0#6 := (fld_sub h0 20 6 (by decide) (by decide)).trans (by decide)
  refine (decodeWord_queue g0).trans ?_
  generalize encode (.qbsend a) = w at *
  unfold decQueue
  rw [g1, g2, g3, h1]
  exact unlessSet_wf hwf rfl

theorem bq (o : BitVec 10) : Statement (.bq o) := by
  intro hwf
  obtain ⟨h0, h1⟩ := parts_22_10 _ _ (w := encode (.bq o)) rfl
  have g0 : fld (encode (.bq o)) 26 6 = 25#6 := (fld_sub h0 26 6 (by decide) (by decide)).trans (by decide)
  have g1 : fld (encode (.bq o)) 12 2 = 3#2 := (fld_sub h0 12 2 (by decide) (by decide)).trans (by decide)
  have g2 : fld (encode (.bq o)) 10 2 = 0#2 := (fld_sub h0 10 2 (by decide) (by decide)).trans (by decide)
  have g3 : fld (encode (.bq o)) 14 12 = 0#12 := (fld_sub h0 14 12 (by decide) (by decide)).trans (by decide)
  refine (decodeWord_queue g0).trans ?_
  generalize encode (.bq o) = w at *
  unfold decQueue
  rw [g1, g2, g3, h1]
  exact unlessSet_wf hwf rfl

theorem sysr (d : BitVec 6) (c : BitVec 12) : Statement (.sysr d c) := by
  intro hwf
  obtain ⟨h0, h1, h2, h3, h4⟩ := parts_6_6_6_12_2 _ _ _ _ _ (w := encode (.sysr d c)) rfl
  refine (decodeWord_sys h0).trans ?_
  generalize encode (.sysr d c) = w at *
  unfold decSys
  rw [h4, h2, h1, h3]
  exact unlessSet_wf hwf rfl

theorem sysw (a : BitVec 6) (c : BitVec 12) : Statement (.sysw a c) := by
  intro hwf
  obtain ⟨h0, h1, h2, h3⟩ := parts_12_6_12_2 _ _ _ _ (w := encode (.sysw a c)) rfl
  have g0 : fld (encode (.sysw a c)) 26 6 = 26#6 := (fld_sub h0 26 6 (by decide) (by decide)).trans (by decide)
  have g1 : fld (encode (.sysw a c)) 20 6 = 0#6 := (fld_sub h0 20 6 (by decide) (by decide)).trans (by decide)
  refine (decodeWord_sys g0).trans ?_
  generalize encode (.sysw a c) = w at *
  unfold decSys
  rw [h3, g1, h1, h2]
  exact unlessSet_wf hwf rfl

theorem sysset (a : BitVec 6) (c : BitVec 12) : Statement (.sysset a c) := by
  intro hwf
  obtain ⟨h0, h1, h2, h3⟩ := parts_12_6_12_2 _ _ _ _ (w := encode (.sysset a c)) rfl
  have g0 : fld (encode (.sysset a c)) 26 6 = 26#6 := (fld_sub h0 26 6 (by decide) (by decide)).trans (by decide)
  have g1 : fld (encode (.sysset a c)) 20 6 = 0#6 := (fld_sub h0 20 6 (by decide) (by decide)).trans (by decide)
  refine (decodeWord_sys g0).trans ?_
  generalize encode (.sysset a c) = w at *
  unfold decSys
  rw [h3, g1, h1, h2]
  exact unlessSet_wf hwf rfl

theorem sysclr (a : BitVec 6) (c : BitVec 12) : Statement (.sysclr a c) := by
  intro hwf
  obtain ⟨h0, h1, h2, h3⟩ := parts_12_6_12_2 _ _ _ _ (w := encode (.sysclr a c)) rfl
  have g0 : fld (encode (.sysclr a c)) 26 6 = 26#6 := (fld_sub h0 26 6 (by decide) (by decide)).trans (by decide)
  have g1 : fld (encode (.sysclr a c)) 20 6 = 0#6 := (fld_sub h0 20 6 (by decide) (by decide)).trans (by decide)
  refine (decodeWord_sys g0).trans ?_
  generalize encode (.sysclr a c) = w at *
  unfold decSys
  rw [h3, g1, h1, h2]
  exact unlessSet_wf hwf rfl

theorem trap (a : BitVec 6) : Statement (.trap a) := by
  intro hwf
  obtain ⟨h0, h1, h2⟩ := parts_12_6_14 _ _ _ (w := encode (.trap a)) rfl
  have g0 : fld (encode (.trap a)) 26 6 = 27#6 := (fld_sub h0 26 6 (by decide) (by decide)).trans (by decide)
  have g1 : fld (encode (.trap a)) 0 8 = 0#8 := (fld_sub h2 0 8 (by decide) (by decide)).trans (by decide)
  have g2 : fld (encode (.trap a)) 8 6 = 0#6 := (fld_sub h2 8 6 (by decide) (by decide)).trans (by decide)
  have g3 : fld (encode (.trap a)) 20 6 = 0#6 := (fld_sub h0 20 6 (by decide) (by decide)).trans (by decide)
  refine (decodeWord_ctrl g0).trans ?_
  generalize encode (.trap a) = w at *
  unfold decCtrl
  rw [g1, g2, g3, h1]
  exact unlessSet_wf hwf rfl

theorem tret : Statement .tret := by
  intro hwf
  have h0 := parts_32 _ (w := encode .tret) rfl
  have g0 : fld (encode .tret) 26 6 = 27#6 := (fld_sub h0 26 6 (by decide) (by decide)).trans (by decide)
  have g1 : fld (encode .tret) 0 8 = 1#8 := (fld_sub h0 0 8 (by decide) (by decide)).trans (by decide)
  have g2 : fld (encode .tret) 8 18 = 0#18 := (fld_sub h0 8 18 (by decide) (by decide)).trans (by decide)
  refine (decodeWord_ctrl g0).trans ?_
  generalize encode .tret = w at *
  unfold decCtrl
  rw [g1, g2]
  exact unlessSet_wf hwf rfl

theorem wait (d : BitVec 6) (a : BitVec 6) (b : BitVec 6) : Statement (.wait d a b) := by
  intro hwf
  obtain ⟨h0, h1, h2, h3, h4⟩ := parts_6_6_6_6_8 _ _ _ _ _ (w := encode (.wait d a b)) rfl
  refine (decodeWord_ctrl h0).trans ?_
  generalize encode (.wait d a b) = w at *
  unfold decCtrl
  rw [h4, h1, h2, h3]
  exact unlessSet_wf hwf rfl

theorem yield : Statement .yield := by
  intro hwf
  have h0 := parts_32 _ (w := encode .yield) rfl
  have g0 : fld (encode .yield) 26 6 = 27#6 := (fld_sub h0 26 6 (by decide) (by decide)).trans (by decide)
  have g1 : fld (encode .yield) 0 8 = 3#8 := (fld_sub h0 0 8 (by decide) (by decide)).trans (by decide)
  have g2 : fld (encode .yield) 8 18 = 0#18 := (fld_sub h0 8 18 (by decide) (by decide)).trans (by decide)
  refine (decodeWord_ctrl g0).trans ?_
  generalize encode .yield = w at *
  unfold decCtrl
  rw [g1, g2]
  exact unlessSet_wf hwf rfl

theorem halt : Statement .halt := by
  intro hwf
  have h0 := parts_32 _ (w := encode .halt) rfl
  have g0 : fld (encode .halt) 26 6 = 27#6 := (fld_sub h0 26 6 (by decide) (by decide)).trans (by decide)
  have g1 : fld (encode .halt) 0 8 = 4#8 := (fld_sub h0 0 8 (by decide) (by decide)).trans (by decide)
  have g2 : fld (encode .halt) 8 18 = 0#18 := (fld_sub h0 8 18 (by decide) (by decide)).trans (by decide)
  refine (decodeWord_ctrl g0).trans ?_
  generalize encode .halt = w at *
  unfold decCtrl
  rw [g1, g2]
  exact unlessSet_wf hwf rfl

theorem time (d : BitVec 6) : Statement (.time d) := by
  intro hwf
  obtain ⟨h0, h1, h2⟩ := parts_6_6_20 _ _ _ (w := encode (.time d)) rfl
  have g0 : fld (encode (.time d)) 0 8 = 5#8 := (fld_sub h2 0 8 (by decide) (by decide)).trans (by decide)
  have g1 : fld (encode (.time d)) 8 12 = 0#12 := (fld_sub h2 8 12 (by decide) (by decide)).trans (by decide)
  refine (decodeWord_ctrl h0).trans ?_
  generalize encode (.time d) = w at *
  unfold decCtrl
  rw [g0, g1, h1]
  exact unlessSet_wf hwf rfl

theorem hint (i : BitVec 26) : Statement (.hint i) := by
  intro hwf
  obtain ⟨h0, h1⟩ := parts_6_26 _ _ (w := encode (.hint i)) rfl
  have hn := word_ne h0 (by decide) (by decide)
  generalize encode (.hint i) = w at *
  unfold decodeWord
  rw [if_neg hn.1, if_neg hn.2, h0, h1]
  exact unlessSet_wf hwf rfl

theorem illegalWord (w : IWord) (sub : Nat) : Statement (.illegalWord w sub) := fun h => nomatch h

theorem vsetl (c : Bool) (d : BitVec 6) (a : BitVec 6) : Statement (.vsetl c d a) := by
  intro hwf
  obtain ⟨h0, h1, h2, h3, h4, h5⟩ := parts_6_1_3_6_6_10 _ _ _ _ _ _ (w := encode (.vsetl c d a)) rfl
  have hc := cbit_fld h1
  refine (decodeWord_vcfg h0).trans ?_
  generalize encode (.vsetl c d a) = w at *
  unfold decVcfg
  rw [h2, h5, h3, h4, hc]
  exact unlessSet_wf hwf rfl

theorem vsett (c : Bool) (v : BitVec 5) (n : BitVec 5) (t : BitVec 5) (s : BitVec 3) : Statement (.vsett c v n t s) := by
  intro hwf
  obtain ⟨h0, h1, h2, h3, h4, h5, h6, h7⟩ := parts_6_1_3_5_5_5_3_4 _ _ _ _ _ _ _ _ (w := encode (.vsett c v n t s)) rfl
  have hc := cbit_fld h1
  refine (decodeWord_vcfg h0).trans ?_
  generalize encode (.vsett c v n t s) = w at *
  unfold decVcfg
  rw [h2, h7, h3, h4, h5, h6, hc]
  exact unlessSet_wf hwf rfl

theorem vsetg (c : Bool) (g : BitVec 2) : Statement (.vsetg c g) := by
  intro hwf
  obtain ⟨h0, h1, h2, h3⟩ := parts_6_1_23_2 _ _ _ _ (w := encode (.vsetg c g)) rfl
  have g0 : fld (encode (.vsetg c g)) 22 3 = 2#3 := (fld_sub h2 22 3 (by decide) (by decide)).trans (by decide)
  have g1 : fld (encode (.vsetg c g)) 2 20 = 0#20 := (fld_sub h2 2 20 (by decide) (by decide)).trans (by decide)
  have hc := cbit_fld h1
  refine (decodeWord_vcfg h0).trans ?_
  generalize encode (.vsetg c g) = w at *
  unfold decVcfg
  rw [g0, g1, h3, hc]
  exact unlessSet_wf hwf rfl

theorem vaddVv (c : Bool) (d : BitVec 5) (a : BitVec 5) (b : BitVec 5) (p : BitVec 3) : Statement (.vaddVv c d a b p) := by
  intro hwf
  obtain ⟨h0, h1, h2, h3, h4, h5, h6⟩ := parts_6_1_5_5_5_3_7 _ _ _ _ _ _ _ (w := encode (.vaddVv c d a b p)) rfl
  have hc := cbit_fld h1
  refine (decodeWord_vopVv h0).trans ?_
  generalize encode (.vaddVv c d a b p) = w at *
  unfold decVopVv
  rw [h6, h2, h3, h4, h5, hc]
  exact unlessSet_wf hwf rfl

theorem vaddVx (c : Bool) (d : BitVec 5) (a : BitVec 5) (s : BitVec 6) (p : BitVec 3) : Statement (.vaddVx c d a s p) := by
  intro hwf
  obtain ⟨h0, h1, h2, h3, h4, h5, h6⟩ := parts_6_1_5_5_6_3_6 _ _ _ _ _ _ _ (w := encode (.vaddVx c d a s p)) rfl
  have hc := cbit_fld h1
  refine (decodeWord_vopVx h0).trans ?_
  generalize encode (.vaddVx c d a s p) = w at *
  unfold decVopVx
  rw [h6, h2, h3, h4, h5, hc]
  exact unlessSet_wf hwf rfl

theorem vsubVv (c : Bool) (d : BitVec 5) (a : BitVec 5) (b : BitVec 5) (p : BitVec 3) : Statement (.vsubVv c d a b p) := by
  intro hwf
  obtain ⟨h0, h1, h2, h3, h4, h5, h6⟩ := parts_6_1_5_5_5_3_7 _ _ _ _ _ _ _ (w := encode (.vsubVv c d a b p)) rfl
  have hc := cbit_fld h1
  refine (decodeWord_vopVv h0).trans ?_
  generalize encode (.vsubVv c d a b p) = w at *
  unfold decVopVv
  rw [h6, h2, h3, h4, h5, hc]
  exact unlessSet_wf hwf rfl

theorem vsubVx (c : Bool) (d : BitVec 5) (a : BitVec 5) (s : BitVec 6) (p : BitVec 3) : Statement (.vsubVx c d a s p) := by
  intro hwf
  obtain ⟨h0, h1, h2, h3, h4, h5, h6⟩ := parts_6_1_5_5_6_3_6 _ _ _ _ _ _ _ (w := encode (.vsubVx c d a s p)) rfl
  have hc := cbit_fld h1
  refine (decodeWord_vopVx h0).trans ?_
  generalize encode (.vsubVx c d a s p) = w at *
  unfold decVopVx
  rw [h6, h2, h3, h4, h5, hc]
  exact unlessSet_wf hwf rfl

theorem vmulVv (c : Bool) (d : BitVec 5) (a : BitVec 5) (b : BitVec 5) (p : BitVec 3) : Statement (.vmulVv c d a b p) := by
  intro hwf
  obtain ⟨h0, h1, h2, h3, h4, h5, h6⟩ := parts_6_1_5_5_5_3_7 _ _ _ _ _ _ _ (w := encode (.vmulVv c d a b p)) rfl
  have hc := cbit_fld h1
  refine (decodeWord_vopVv h0).trans ?_
  generalize encode (.vmulVv c d a b p) = w at *
  unfold decVopVv
  rw [h6, h2, h3, h4, h5, hc]
  exact unlessSet_wf hwf rfl

theorem vmulVx (c : Bool) (d : BitVec 5) (a : BitVec 5) (s : BitVec 6) (p : BitVec 3) : Statement (.vmulVx c d a s p) := by
  intro hwf
  obtain ⟨h0, h1, h2, h3, h4, h5, h6⟩ := parts_6_1_5_5_6_3_6 _ _ _ _ _ _ _ (w := encode (.vmulVx c d a s p)) rfl
  have hc := cbit_fld h1
  refine (decodeWord_vopVx h0).trans ?_
  generalize encode (.vmulVx c d a s p) = w at *
  unfold decVopVx
  rw [h6, h2, h3, h4, h5, hc]
  exact unlessSet_wf hwf rfl

theorem vmulhVv (c : Bool) (d : BitVec 5) (a : BitVec 5) (b : BitVec 5) (p : BitVec 3) : Statement (.vmulhVv c d a b p) := by
  intro hwf
  obtain ⟨h0, h1, h2, h3, h4, h5, h6⟩ := parts_6_1_5_5_5_3_7 _ _ _ _ _ _ _ (w := encode (.vmulhVv c d a b p)) rfl
  have hc := cbit_fld h1
  refine (decodeWord_vopVv h0).trans ?_
  generalize encode (.vmulhVv c d a b p) = w at *
  unfold decVopVv
  rw [h6, h2, h3, h4, h5, hc]
  exact unlessSet_wf hwf rfl

theorem vmulhVx (c : Bool) (d : BitVec 5) (a : BitVec 5) (s : BitVec 6) (p : BitVec 3) : Statement (.vmulhVx c d a s p) := by
  intro hwf
  obtain ⟨h0, h1, h2, h3, h4, h5, h6⟩ := parts_6_1_5_5_6_3_6 _ _ _ _ _ _ _ (w := encode (.vmulhVx c d a s p)) rfl
  have hc := cbit_fld h1
  refine (decodeWord_vopVx h0).trans ?_
  generalize encode (.vmulhVx c d a s p) = w at *
  unfold decVopVx
  rw [h6, h2, h3, h4, h5, hc]
  exact unlessSet_wf hwf rfl

theorem vdivVv (c : Bool) (d : BitVec 5) (a : BitVec 5) (b : BitVec 5) (p : BitVec 3) : Statement (.vdivVv c d a b p) := by
  intro hwf
  obtain ⟨h0, h1, h2, h3, h4, h5, h6⟩ := parts_6_1_5_5_5_3_7 _ _ _ _ _ _ _ (w := encode (.vdivVv c d a b p)) rfl
  have hc := cbit_fld h1
  refine (decodeWord_vopVv h0).trans ?_
  generalize encode (.vdivVv c d a b p) = w at *
  unfold decVopVv
  rw [h6, h2, h3, h4, h5, hc]
  exact unlessSet_wf hwf rfl

theorem vdivVx (c : Bool) (d : BitVec 5) (a : BitVec 5) (s : BitVec 6) (p : BitVec 3) : Statement (.vdivVx c d a s p) := by
  intro hwf
  obtain ⟨h0, h1, h2, h3, h4, h5, h6⟩ := parts_6_1_5_5_6_3_6 _ _ _ _ _ _ _ (w := encode (.vdivVx c d a s p)) rfl
  have hc := cbit_fld h1
  refine (decodeWord_vopVx h0).trans ?_
  generalize encode (.vdivVx c d a s p) = w at *
  unfold decVopVx
  rw [h6, h2, h3, h4, h5, hc]
  exact unlessSet_wf hwf rfl

theorem vremVv (c : Bool) (d : BitVec 5) (a : BitVec 5) (b : BitVec 5) (p : BitVec 3) : Statement (.vremVv c d a b p) := by
  intro hwf
  obtain ⟨h0, h1, h2, h3, h4, h5, h6⟩ := parts_6_1_5_5_5_3_7 _ _ _ _ _ _ _ (w := encode (.vremVv c d a b p)) rfl
  have hc := cbit_fld h1
  refine (decodeWord_vopVv h0).trans ?_
  generalize encode (.vremVv c d a b p) = w at *
  unfold decVopVv
  rw [h6, h2, h3, h4, h5, hc]
  exact unlessSet_wf hwf rfl

theorem vremVx (c : Bool) (d : BitVec 5) (a : BitVec 5) (s : BitVec 6) (p : BitVec 3) : Statement (.vremVx c d a s p) := by
  intro hwf
  obtain ⟨h0, h1, h2, h3, h4, h5, h6⟩ := parts_6_1_5_5_6_3_6 _ _ _ _ _ _ _ (w := encode (.vremVx c d a s p)) rfl
  have hc := cbit_fld h1
  refine (decodeWord_vopVx h0).trans ?_
  generalize encode (.vremVx c d a s p) = w at *
  unfold decVopVx
  rw [h6, h2, h3, h4, h5, hc]
  exact unlessSet_wf hwf rfl

theorem vminVv (c : Bool) (d : BitVec 5) (a : BitVec 5) (b : BitVec 5) (p : BitVec 3) : Statement (.vminVv c d a b p) := by
  intro hwf
  obtain ⟨h0, h1, h2, h3, h4, h5, h6⟩ := parts_6_1_5_5_5_3_7 _ _ _ _ _ _ _ (w := encode (.vminVv c d a b p)) rfl
  have hc := cbit_fld h1
  refine (decodeWord_vopVv h0).trans ?_
  generalize encode (.vminVv c d a b p) = w at *
  unfold decVopVv
  rw [h6, h2, h3, h4, h5, hc]
  exact unlessSet_wf hwf rfl

theorem vminVx (c : Bool) (d : BitVec 5) (a : BitVec 5) (s : BitVec 6) (p : BitVec 3) : Statement (.vminVx c d a s p) := by
  intro hwf
  obtain ⟨h0, h1, h2, h3, h4, h5, h6⟩ := parts_6_1_5_5_6_3_6 _ _ _ _ _ _ _ (w := encode (.vminVx c d a s p)) rfl
  have hc := cbit_fld h1
  refine (decodeWord_vopVx h0).trans ?_
  generalize encode (.vminVx c d a s p) = w at *
  unfold decVopVx
  rw [h6, h2, h3, h4, h5, hc]
  exact unlessSet_wf hwf rfl

theorem vmaxVv (c : Bool) (d : BitVec 5) (a : BitVec 5) (b : BitVec 5) (p : BitVec 3) : Statement (.vmaxVv c d a b p) := by
  intro hwf
  obtain ⟨h0, h1, h2, h3, h4, h5, h6⟩ := parts_6_1_5_5_5_3_7 _ _ _ _ _ _ _ (w := encode (.vmaxVv c d a b p)) rfl
  have hc := cbit_fld h1
  refine (decodeWord_vopVv h0).trans ?_
  generalize encode (.vmaxVv c d a b p) = w at *
  unfold decVopVv
  rw [h6, h2, h3, h4, h5, hc]
  exact unlessSet_wf hwf rfl

theorem vmaxVx (c : Bool) (d : BitVec 5) (a : BitVec 5) (s : BitVec 6) (p : BitVec 3) : Statement (.vmaxVx c d a s p) := by
  intro hwf
  obtain ⟨h0, h1, h2, h3, h4, h5, h6⟩ := parts_6_1_5_5_6_3_6 _ _ _ _ _ _ _ (w := encode (.vmaxVx c d a s p)) rfl
  have hc := cbit_fld h1
  refine (decodeWord_vopVx h0).trans ?_
  generalize encode (.vmaxVx c d a s p) = w at *
  unfold decVopVx
  rw [h6, h2, h3, h4, h5, hc]
  exact unlessSet_wf hwf rfl

theorem vandVv (c : Bool) (d : BitVec 5) (a : BitVec 5) (b : BitVec 5) (p : BitVec 3) : Statement (.vandVv c d a b p) := by
  intro hwf
  obtain ⟨h0, h1, h2, h3, h4, h5, h6⟩ := parts_6_1_5_5_5_3_7 _ _ _ _ _ _ _ (w := encode (.vandVv c d a b p)) rfl
  have hc := cbit_fld h1
  refine (decodeWord_vopVv h0).trans ?_
  generalize encode (.vandVv c d a b p) = w at *
  unfold decVopVv
  rw [h6, h2, h3, h4, h5, hc]
  exact unlessSet_wf hwf rfl

theorem vandVx (c : Bool) (d : BitVec 5) (a : BitVec 5) (s : BitVec 6) (p : BitVec 3) : Statement (.vandVx c d a s p) := by
  intro hwf
  obtain ⟨h0, h1, h2, h3, h4, h5, h6⟩ := parts_6_1_5_5_6_3_6 _ _ _ _ _ _ _ (w := encode (.vandVx c d a s p)) rfl
  have hc := cbit_fld h1
  refine (decodeWord_vopVx h0).trans ?_
  generalize encode (.vandVx c d a s p) = w at *
  unfold decVopVx
  rw [h6, h2, h3, h4, h5, hc]
  exact unlessSet_wf hwf rfl

theorem vorVv (c : Bool) (d : BitVec 5) (a : BitVec 5) (b : BitVec 5) (p : BitVec 3) : Statement (.vorVv c d a b p) := by
  intro hwf
  obtain ⟨h0, h1, h2, h3, h4, h5, h6⟩ := parts_6_1_5_5_5_3_7 _ _ _ _ _ _ _ (w := encode (.vorVv c d a b p)) rfl
  have hc := cbit_fld h1
  refine (decodeWord_vopVv h0).trans ?_
  generalize encode (.vorVv c d a b p) = w at *
  unfold decVopVv
  rw [h6, h2, h3, h4, h5, hc]
  exact unlessSet_wf hwf rfl

theorem vorVx (c : Bool) (d : BitVec 5) (a : BitVec 5) (s : BitVec 6) (p : BitVec 3) : Statement (.vorVx c d a s p) := by
  intro hwf
  obtain ⟨h0, h1, h2, h3, h4, h5, h6⟩ := parts_6_1_5_5_6_3_6 _ _ _ _ _ _ _ (w := encode (.vorVx c d a s p)) rfl
  have hc := cbit_fld h1
  refine (decodeWord_vopVx h0).trans ?_
  generalize encode (.vorVx c d a s p) = w at *
  unfold decVopVx
  rw [h6, h2, h3, h4, h5, hc]
  exact unlessSet_wf hwf rfl

theorem vxorVv (c : Bool) (d : BitVec 5) (a : BitVec 5) (b : BitVec 5) (p : BitVec 3) : Statement (.vxorVv c d a b p) := by
  intro hwf
  obtain ⟨h0, h1, h2, h3, h4, h5, h6⟩ := parts_6_1_5_5_5_3_7 _ _ _ _ _ _ _ (w := encode (.vxorVv c d a b p)) rfl
  have hc := cbit_fld h1
  refine (decodeWord_vopVv h0).trans ?_
  generalize encode (.vxorVv c d a b p) = w at *
  unfold decVopVv
  rw [h6, h2, h3, h4, h5, hc]
  exact unlessSet_wf hwf rfl

theorem vxorVx (c : Bool) (d : BitVec 5) (a : BitVec 5) (s : BitVec 6) (p : BitVec 3) : Statement (.vxorVx c d a s p) := by
  intro hwf
  obtain ⟨h0, h1, h2, h3, h4, h5, h6⟩ := parts_6_1_5_5_6_3_6 _ _ _ _ _ _ _ (w := encode (.vxorVx c d a s p)) rfl
  have hc := cbit_fld h1
  refine (decodeWord_vopVx h0).trans ?_
  generalize encode (.vxorVx c d a s p) = w at *
  unfold decVopVx
  rw [h6, h2, h3, h4, h5, hc]
  exact unlessSet_wf hwf rfl

theorem vandnVv (c : Bool) (d : BitVec 5) (a : BitVec 5) (b : BitVec 5) (p : BitVec 3) : Statement (.vandnVv c d a b p) := by
  intro hwf
  obtain ⟨h0, h1, h2, h3, h4, h5, h6⟩ := parts_6_1_5_5_5_3_7 _ _ _ _ _ _ _ (w := encode (.vandnVv c d a b p)) rfl
  have hc := cbit_fld h1
  refine (decodeWord_vopVv h0).trans ?_
  generalize encode (.vandnVv c d a b p) = w at *
  unfold decVopVv
  rw [h6, h2, h3, h4, h5, hc]
  exact unlessSet_wf hwf rfl

theorem vandnVx (c : Bool) (d : BitVec 5) (a : BitVec 5) (s : BitVec 6) (p : BitVec 3) : Statement (.vandnVx c d a s p) := by
  intro hwf
  obtain ⟨h0, h1, h2, h3, h4, h5, h6⟩ := parts_6_1_5_5_6_3_6 _ _ _ _ _ _ _ (w := encode (.vandnVx c d a s p)) rfl
  have hc := cbit_fld h1
  refine (decodeWord_vopVx h0).trans ?_
  generalize encode (.vandnVx c d a s p) = w at *
  unfold decVopVx
  rw [h6, h2, h3, h4, h5, hc]
  exact unlessSet_wf hwf rfl

theorem vshlVv (c : Bool) (d : BitVec 5) (a : BitVec 5) (b : BitVec 5) (p : BitVec 3) : Statement (.vshlVv c d a b p) := by
  intro hwf
  obtain ⟨h0, h1, h2, h3, h4, h5, h6⟩ := parts_6_1_5_5_5_3_7 _ _ _ _ _ _ _ (w := encode (.vshlVv c d a b p)) rfl
  have hc := cbit_fld h1
  refine (decodeWord_vopVv h0).trans ?_
  generalize encode (.vshlVv c d a b p) = w at *
  unfold decVopVv
  rw [h6, h2, h3, h4, h5, hc]
  exact unlessSet_wf hwf rfl

theorem vshlVx (c : Bool) (d : BitVec 5) (a : BitVec 5) (s : BitVec 6) (p : BitVec 3) : Statement (.vshlVx c d a s p) := by
  intro hwf
  obtain ⟨h0, h1, h2, h3, h4, h5, h6⟩ := parts_6_1_5_5_6_3_6 _ _ _ _ _ _ _ (w := encode (.vshlVx c d a s p)) rfl
  have hc := cbit_fld h1
  refine (decodeWord_vopVx h0).trans ?_
  generalize encode (.vshlVx c d a s p) = w at *
  unfold decVopVx
  rw [h6, h2, h3, h4, h5, hc]
  exact unlessSet_wf hwf rfl

theorem vshrVv (c : Bool) (d : BitVec 5) (a : BitVec 5) (b : BitVec 5) (p : BitVec 3) : Statement (.vshrVv c d a b p) := by
  intro hwf
  obtain ⟨h0, h1, h2, h3, h4, h5, h6⟩ := parts_6_1_5_5_5_3_7 _ _ _ _ _ _ _ (w := encode (.vshrVv c d a b p)) rfl
  have hc := cbit_fld h1
  refine (decodeWord_vopVv h0).trans ?_
  generalize encode (.vshrVv c d a b p) = w at *
  unfold decVopVv
  rw [h6, h2, h3, h4, h5, hc]
  exact unlessSet_wf hwf rfl

theorem vshrVx (c : Bool) (d : BitVec 5) (a : BitVec 5) (s : BitVec 6) (p : BitVec 3) : Statement (.vshrVx c d a s p) := by
  intro hwf
  obtain ⟨h0, h1, h2, h3, h4, h5, h6⟩ := parts_6_1_5_5_6_3_6 _ _ _ _ _ _ _ (w := encode (.vshrVx c d a s p)) rfl
  have hc := cbit_fld h1
  refine (decodeWord_vopVx h0).trans ?_
  generalize encode (.vshrVx c d a s p) = w at *
  unfold decVopVx
  rw [h6, h2, h3, h4, h5, hc]
  exact unlessSet_wf hwf rfl

theorem vshaVv (c : Bool) (d : BitVec 5) (a : BitVec 5) (b : BitVec 5) (p : BitVec 3) : Statement (.vshaVv c d a b p) := by
  intro hwf
  obtain ⟨h0, h1, h2, h3, h4, h5, h6⟩ := parts_6_1_5_5_5_3_7 _ _ _ _ _ _ _ (w := encode (.vshaVv c d a b p)) rfl
  have hc := cbit_fld h1
  refine (decodeWord_vopVv h0).trans ?_
  generalize encode (.vshaVv c d a b p) = w at *
  unfold decVopVv
  rw [h6, h2, h3, h4, h5, hc]
  exact unlessSet_wf hwf rfl

theorem vshaVx (c : Bool) (d : BitVec 5) (a : BitVec 5) (s : BitVec 6) (p : BitVec 3) : Statement (.vshaVx c d a s p) := by
  intro hwf
  obtain ⟨h0, h1, h2, h3, h4, h5, h6⟩ := parts_6_1_5_5_6_3_6 _ _ _ _ _ _ _ (w := encode (.vshaVx c d a s p)) rfl
  have hc := cbit_fld h1
  refine (decodeWord_vopVx h0).trans ?_
  generalize encode (.vshaVx c d a s p) = w at *
  unfold decVopVx
  rw [h6, h2, h3, h4, h5, hc]
  exact unlessSet_wf hwf rfl

theorem vfmaVv (c : Bool) (d : BitVec 5) (a : BitVec 5) (b : BitVec 5) (p : BitVec 3) : Statement (.vfmaVv c d a b p) := by
  intro hwf
  obtain ⟨h0, h1, h2, h3, h4, h5, h6⟩ := parts_6_1_5_5_5_3_7 _ _ _ _ _ _ _ (w := encode (.vfmaVv c d a b p)) rfl
  have hc := cbit_fld h1
  refine (decodeWord_vopVv h0).trans ?_
  generalize encode (.vfmaVv c d a b p) = w at *
  unfold decVopVv
  rw [h6, h2, h3, h4, h5, hc]
  exact unlessSet_wf hwf rfl

theorem vfmaVx (c : Bool) (d : BitVec 5) (a : BitVec 5) (s : BitVec 6) (p : BitVec 3) : Statement (.vfmaVx c d a s p) := by
  intro hwf
  obtain ⟨h0, h1, h2, h3, h4, h5, h6⟩ := parts_6_1_5_5_6_3_6 _ _ _ _ _ _ _ (w := encode (.vfmaVx c d a s p)) rfl
  have hc := cbit_fld h1
  refine (decodeWord_vopVx h0).trans ?_
  generalize encode (.vfmaVx c d a s p) = w at *
  unfold decVopVx
  rw [h6, h2, h3, h4, h5, hc]
  exact unlessSet_wf hwf rfl

theorem vfmsVv (c : Bool) (d : BitVec 5) (a : BitVec 5) (b : BitVec 5) (p : BitVec 3) : Statement (.vfmsVv c d a b p) := by
  intro hwf
  obtain ⟨h0, h1, h2, h3, h4, h5, h6⟩ := parts_6_1_5_5_5_3_7 _ _ _ _ _ _ _ (w := encode (.vfmsVv c d a b p)) rfl
  have hc := cbit_fld h1
  refine (decodeWord_vopVv h0).trans ?_
  generalize encode (.vfmsVv c d a b p) = w at *
  unfold decVopVv
  rw [h6, h2, h3, h4, h5, hc]
  exact unlessSet_wf hwf rfl

theorem vfmsVx (c : Bool) (d : BitVec 5) (a : BitVec 5) (s : BitVec 6) (p : BitVec 3) : Statement (.vfmsVx c d a s p) := by
  intro hwf
  obtain ⟨h0, h1, h2, h3, h4, h5, h6⟩ := parts_6_1_5_5_6_3_6 _ _ _ _ _ _ _ (w := encode (.vfmsVx c d a s p)) rfl
  have hc := cbit_fld h1
  refine (decodeWord_vopVx h0).trans ?_
  generalize encode (.vfmsVx c d a s p) = w at *
  unfold decVopVx
  rw [h6, h2, h3, h4, h5, hc]
  exact unlessSet_wf hwf rfl

theorem vfnmaVv (c : Bool) (d : BitVec 5) (a : BitVec 5) (b : BitVec 5) (p : BitVec 3) : Statement (.vfnmaVv c d a b p) := by
  intro hwf
  obtain ⟨h0, h1, h2, h3, h4, h5, h6⟩ := parts_6_1_5_5_5_3_7 _ _ _ _ _ _ _ (w := encode (.vfnmaVv c d a b p)) rfl
  have hc := cbit_fld h1
  refine (decodeWord_vopVv h0).trans ?_
  generalize encode (.vfnmaVv c d a b p) = w at *
  unfold decVopVv
  rw [h6, h2, h3, h4, h5, hc]
  exact unlessSet_wf hwf rfl

theorem vfnmaVx (c : Bool) (d : BitVec 5) (a : BitVec 5) (s : BitVec 6) (p : BitVec 3) : Statement (.vfnmaVx c d a s p) := by
  intro hwf
  obtain ⟨h0, h1, h2, h3, h4, h5, h6⟩ := parts_6_1_5_5_6_3_6 _ _ _ _ _ _ _ (w := encode (.vfnmaVx c d a s p)) rfl
  have hc := cbit_fld h1
  refine (decodeWord_vopVx h0).trans ?_
  generalize encode (.vfnmaVx c d a s p) = w at *
  unfold decVopVx
  rw [h6, h2, h3, h4, h5, hc]
  exact unlessSet_wf hwf rfl

theorem vclampVv (c : Bool) (d : BitVec 5) (a : BitVec 5) (b : BitVec 5) (p : BitVec 3) : Statement (.vclampVv c d a b p) := by
  intro hwf
  obtain ⟨h0, h1, h2, h3, h4, h5, h6⟩ := parts_6_1_5_5_5_3_7 _ _ _ _ _ _ _ (w := encode (.vclampVv c d a b p)) rfl
  have hc := cbit_fld h1
  refine (decodeWord_vopVv h0).trans ?_
  generalize encode (.vclampVv c d a b p) = w at *
  unfold decVopVv
  rw [h6, h2, h3, h4, h5, hc]
  exact unlessSet_wf hwf rfl

theorem vclampVx (c : Bool) (d : BitVec 5) (a : BitVec 5) (s : BitVec 6) (p : BitVec 3) : Statement (.vclampVx c d a s p) := by
  intro hwf
  obtain ⟨h0, h1, h2, h3, h4, h5, h6⟩ := parts_6_1_5_5_6_3_6 _ _ _ _ _ _ _ (w := encode (.vclampVx c d a s p)) rfl
  have hc := cbit_fld h1
  refine (decodeWord_vopVx h0).trans ?_
  generalize encode (.vclampVx c d a s p) = w at *
  unfold decVopVx
  rw [h6, h2, h3, h4, h5, hc]
  exact unlessSet_wf hwf rfl

theorem vselVv (c : Bool) (d : BitVec 5) (a : BitVec 5) (b : BitVec 5) (p : BitVec 3) : Statement (.vselVv c d a b p) := by
  intro hwf
  obtain ⟨h0, h1, h2, h3, h4, h5, h6⟩ := parts_6_1_5_5_5_3_7 _ _ _ _ _ _ _ (w := encode (.vselVv c d a b p)) rfl
  have hc := cbit_fld h1
  refine (decodeWord_vopVv h0).trans ?_
  generalize encode (.vselVv c d a b p) = w at *
  unfold decVopVv
  rw [h6, h2, h3, h4, h5, hc]
  exact unlessSet_wf hwf rfl

theorem vselVx (c : Bool) (d : BitVec 5) (a : BitVec 5) (s : BitVec 6) (p : BitVec 3) : Statement (.vselVx c d a s p) := by
  intro hwf
  obtain ⟨h0, h1, h2, h3, h4, h5, h6⟩ := parts_6_1_5_5_6_3_6 _ _ _ _ _ _ _ (w := encode (.vselVx c d a s p)) rfl
  have hc := cbit_fld h1
  refine (decodeWord_vopVx h0).trans ?_
  generalize encode (.vselVx c d a s p) = w at *
  unfold decVopVx
  rw [h6, h2, h3, h4, h5, hc]
  exact unlessSet_wf hwf rfl

theorem vaddSatVv (c : Bool) (d : BitVec 5) (a : BitVec 5) (b : BitVec 5) (p : BitVec 3) : Statement (.vaddSatVv c d a b p) := by
  intro hwf
  obtain ⟨h0, h1, h2, h3, h4, h5, h6⟩ := parts_6_1_5_5_5_3_7 _ _ _ _ _ _ _ (w := encode (.vaddSatVv c d a b p)) rfl
  have hc := cbit_fld h1
  refine (decodeWord_vopVv h0).trans ?_
  generalize encode (.vaddSatVv c d a b p) = w at *
  unfold decVopVv
  rw [h6, h2, h3, h4, h5, hc]
  exact unlessSet_wf hwf rfl

theorem vaddSatVx (c : Bool) (d : BitVec 5) (a : BitVec 5) (s : BitVec 6) (p : BitVec 3) : Statement (.vaddSatVx c d a s p) := by
  intro hwf
  obtain ⟨h0, h1, h2, h3, h4, h5, h6⟩ := parts_6_1_5_5_6_3_6 _ _ _ _ _ _ _ (w := encode (.vaddSatVx c d a s p)) rfl
  have hc := cbit_fld h1
  refine (decodeWord_vopVx h0).trans ?_
  generalize encode (.vaddSatVx c d a s p) = w at *
  unfold decVopVx
  rw [h6, h2, h3, h4, h5, hc]
  exact unlessSet_wf hwf rfl

theorem vsubSatVv (c : Bool) (d : BitVec 5) (a : BitVec 5) (b : BitVec 5) (p : BitVec 3) : Statement (.vsubSatVv c d a b p) := by
  intro hwf
  obtain ⟨h0, h1, h2, h3, h4, h5, h6⟩ := parts_6_1_5_5_5_3_7 _ _ _ _ _ _ _ (w := encode (.vsubSatVv c d a b p)) rfl
  have hc := cbit_fld h1
  refine (decodeWord_vopVv h0).trans ?_
  generalize encode (.vsubSatVv c d a b p) = w at *
  unfold decVopVv
  rw [h6, h2, h3, h4, h5, hc]
  exact unlessSet_wf hwf rfl

theorem vsubSatVx (c : Bool) (d : BitVec 5) (a : BitVec 5) (s : BitVec 6) (p : BitVec 3) : Statement (.vsubSatVx c d a s p) := by
  intro hwf
  obtain ⟨h0, h1, h2, h3, h4, h5, h6⟩ := parts_6_1_5_5_6_3_6 _ _ _ _ _ _ _ (w := encode (.vsubSatVx c d a s p)) rfl
  have hc := cbit_fld h1
  refine (decodeWord_vopVx h0).trans ?_
  generalize encode (.vsubSatVx c d a s p) = w at *
  unfold decVopVx
  rw [h6, h2, h3, h4, h5, hc]
  exact unlessSet_wf hwf rfl

theorem vabs (c : Bool) (d : BitVec 5) (a : BitVec 5) (p : BitVec 3) : Statement (.vabs c d a p) := by
  intro hwf
  obtain ⟨h0, h1, h2, h3, h4, h5, h6⟩ := parts_6_1_5_5_5_3_7 _ _ _ _ _ _ _ (w := encode (.vabs c d a p)) rfl
  have hc := cbit_fld h1
  refine (decodeWord_vopVv h0).trans ?_
  generalize encode (.vabs c d a p) = w at *
  unfold decVopVv
  rw [h6, h4, h2, h3, h5, hc]
  exact unlessSet_wf hwf rfl

theorem vneg (c : Bool) (d : BitVec 5) (a : BitVec 5) (p : BitVec 3) : Statement (.vneg c d a p) := by
  intro hwf
  obtain ⟨h0, h1, h2, h3, h4, h5, h6⟩ := parts_6_1_5_5_5_3_7 _ _ _ _ _ _ _ (w := encode (.vneg c d a p)) rfl
  have hc := cbit_fld h1
  refine (decodeWord_vopVv h0).trans ?_
  generalize encode (.vneg c d a p) = w at *
  unfold decVopVv
  rw [h6, h4, h2, h3, h5, hc]
  exact unlessSet_wf hwf rfl

theorem vmov (c : Bool) (d : BitVec 5) (a : BitVec 5) (p : BitVec 3) : Statement (.vmov c d a p) := by
  intro hwf
  obtain ⟨h0, h1, h2, h3, h4, h5, h6⟩ := parts_6_1_5_5_5_3_7 _ _ _ _ _ _ _ (w := encode (.vmov c d a p)) rfl
  have hc := cbit_fld h1
  refine (decodeWord_vopVv h0).trans ?_
  generalize encode (.vmov c d a p) = w at *
  unfold decVopVv
  rw [h6, h4, h2, h3, h5, hc]
  exact unlessSet_wf hwf rfl

theorem vcvt (c : Bool) (d : BitVec 5) (a : BitVec 5) (p : BitVec 3) : Statement (.vcvt c d a p) := by
  intro hwf
  obtain ⟨h0, h1, h2, h3, h4, h5, h6⟩ := parts_6_1_5_5_5_3_7 _ _ _ _ _ _ _ (w := encode (.vcvt c d a p)) rfl
  have hc := cbit_fld h1
  refine (decodeWord_vopVv h0).trans ?_
  generalize encode (.vcvt c d a p) = w at *
  unfold decVopVv
  rw [h6, h4, h2, h3, h5, hc]
  exact unlessSet_wf hwf rfl

theorem vcvtSat (c : Bool) (d : BitVec 5) (a : BitVec 5) (p : BitVec 3) : Statement (.vcvtSat c d a p) := by
  intro hwf
  obtain ⟨h0, h1, h2, h3, h4, h5, h6⟩ := parts_6_1_5_5_5_3_7 _ _ _ _ _ _ _ (w := encode (.vcvtSat c d a p)) rfl
  have hc := cbit_fld h1
  refine (decodeWord_vopVv h0).trans ?_
  generalize encode (.vcvtSat c d a p) = w at *
  unfold decVopVv
  rw [h6, h4, h2, h3, h5, hc]
  exact unlessSet_wf hwf rfl

theorem vsplat (c : Bool) (d : BitVec 5) (s : BitVec 6) (p : BitVec 3) : Statement (.vsplat c d s p) := by
  intro hwf
  obtain ⟨h0, h1, h2, h3, h4, h5, h6⟩ := parts_6_1_5_5_6_3_6 _ _ _ _ _ _ _ (w := encode (.vsplat c d s p)) rfl
  have hc := cbit_fld h1
  refine (decodeWord_vopVx h0).trans ?_
  generalize encode (.vsplat c d s p) = w at *
  unfold decVopVx
  rw [h6, h3, h2, h4, h5, hc]
  exact unlessSet_wf hwf rfl

theorem vext (c : Bool) (a : BitVec 5) (s : BitVec 6) : Statement (.vext c a s) := by
  intro hwf
  obtain ⟨h0, h1, h2, h3, h4, h5⟩ := parts_6_1_5_5_6_9 _ _ _ _ _ _ (w := encode (.vext c a s)) rfl
  have g0 : fld (encode (.vext c a s)) 0 6 = 33#6 := (fld_sub h5 0 6 (by decide) (by decide)).trans (by decide)
  have g1 : fld (encode (.vext c a s)) 6 3 = 0#3 := (fld_sub h5 6 3 (by decide) (by decide)).trans (by decide)
  have hc := cbit_fld h1
  refine (decodeWord_vopVx h0).trans ?_
  generalize encode (.vext c a s) = w at *
  unfold decVopVx
  rw [g0, g1, h2, h3, h4, hc]
  exact unlessSet_wf hwf rfl

theorem viota (c : Bool) (d : BitVec 5) (p : BitVec 3) (i : BitVec 9) (j : BitVec 8) : Statement (.viota c d p i j) := by
  intro hwf
  obtain ⟨h0, h1, h2, h3, h4, h5⟩ := parts_6_1_5_3_9_8 _ _ _ _ _ _ (w := encode (.viota c d p i j)) rfl
  have hc := cbit_fld h1
  have hn := word_ne h0 (by decide) (by decide)
  generalize encode (.viota c d p i j) = w at *
  unfold decodeWord
  rw [if_neg hn.1, if_neg hn.2, h0, h2, h3, h4, h5, hc]
  exact unlessSet_wf hwf rfl

theorem vwaddVx (c : Bool) (d : BitVec 5) (a : BitVec 5) (s : BitVec 6) (p : BitVec 3) : Statement (.vwaddVx c d a s p) := by
  intro hwf
  obtain ⟨h0, h1, h2, h3, h4, h5, h6⟩ := parts_6_1_5_5_6_3_6 _ _ _ _ _ _ _ (w := encode (.vwaddVx c d a s p)) rfl
  have hc := cbit_fld h1
  refine (decodeWord_vwide h0).trans ?_
  generalize encode (.vwaddVx c d a s p) = w at *
  unfold decVwide
  rw [h6, h2, h3, h4, h5, hc]
  exact unlessSet_wf hwf rfl

theorem vwaddVv (c : Bool) (d : BitVec 5) (a : BitVec 5) (b : BitVec 5) (p : BitVec 3) : Statement (.vwaddVv c d a b p) := by
  intro hwf
  obtain ⟨h0, h1, h2, h3, h4, h5, h6, h7⟩ := parts_6_1_5_5_1_5_3_6 _ _ _ _ _ _ _ _ (w := encode (.vwaddVv c d a b p)) rfl
  have hc := cbit_fld h1
  refine (decodeWord_vwide h0).trans ?_
  generalize encode (.vwaddVv c d a b p) = w at *
  unfold decVwide
  rw [h7, h4, h2, h3, h5, h6, hc]
  exact unlessSet_wf hwf rfl

theorem vwsubVx (c : Bool) (d : BitVec 5) (a : BitVec 5) (s : BitVec 6) (p : BitVec 3) : Statement (.vwsubVx c d a s p) := by
  intro hwf
  obtain ⟨h0, h1, h2, h3, h4, h5, h6⟩ := parts_6_1_5_5_6_3_6 _ _ _ _ _ _ _ (w := encode (.vwsubVx c d a s p)) rfl
  have hc := cbit_fld h1
  refine (decodeWord_vwide h0).trans ?_
  generalize encode (.vwsubVx c d a s p) = w at *
  unfold decVwide
  rw [h6, h2, h3, h4, h5, hc]
  exact unlessSet_wf hwf rfl

theorem vwsubVv (c : Bool) (d : BitVec 5) (a : BitVec 5) (b : BitVec 5) (p : BitVec 3) : Statement (.vwsubVv c d a b p) := by
  intro hwf
  obtain ⟨h0, h1, h2, h3, h4, h5, h6, h7⟩ := parts_6_1_5_5_1_5_3_6 _ _ _ _ _ _ _ _ (w := encode (.vwsubVv c d a b p)) rfl
  have hc := cbit_fld h1
  refine (decodeWord_vwide h0).trans ?_
  generalize encode (.vwsubVv c d a b p) = w at *
  unfold decVwide
  rw [h7, h4, h2, h3, h5, h6, hc]
  exact unlessSet_wf hwf rfl

theorem vwmulVx (c : Bool) (d : BitVec 5) (a : BitVec 5) (s : BitVec 6) (p : BitVec 3) : Statement (.vwmulVx c d a s p) := by
  intro hwf
  obtain ⟨h0, h1, h2, h3, h4, h5, h6⟩ := parts_6_1_5_5_6_3_6 _ _ _ _ _ _ _ (w := encode (.vwmulVx c d a s p)) rfl
  have hc := cbit_fld h1
  refine (decodeWord_vwide h0).trans ?_
  generalize encode (.vwmulVx c d a s p) = w at *
  unfold decVwide
  rw [h6, h2, h3, h4, h5, hc]
  exact unlessSet_wf hwf rfl

theorem vwmulVv (c : Bool) (d : BitVec 5) (a : BitVec 5) (b : BitVec 5) (p : BitVec 3) : Statement (.vwmulVv c d a b p) := by
  intro hwf
  obtain ⟨h0, h1, h2, h3, h4, h5, h6, h7⟩ := parts_6_1_5_5_1_5_3_6 _ _ _ _ _ _ _ _ (w := encode (.vwmulVv c d a b p)) rfl
  have hc := cbit_fld h1
  refine (decodeWord_vwide h0).trans ?_
  generalize encode (.vwmulVv c d a b p) = w at *
  unfold decVwide
  rw [h7, h4, h2, h3, h5, h6, hc]
  exact unlessSet_wf hwf rfl

theorem vwmacVx (c : Bool) (d : BitVec 5) (a : BitVec 5) (s : BitVec 6) (p : BitVec 3) : Statement (.vwmacVx c d a s p) := by
  intro hwf
  obtain ⟨h0, h1, h2, h3, h4, h5, h6⟩ := parts_6_1_5_5_6_3_6 _ _ _ _ _ _ _ (w := encode (.vwmacVx c d a s p)) rfl
  have hc := cbit_fld h1
  refine (decodeWord_vwide h0).trans ?_
  generalize encode (.vwmacVx c d a s p) = w at *
  unfold decVwide
  rw [h6, h2, h3, h4, h5, hc]
  exact unlessSet_wf hwf rfl

theorem vwmacVv (c : Bool) (d : BitVec 5) (a : BitVec 5) (b : BitVec 5) (p : BitVec 3) : Statement (.vwmacVv c d a b p) := by
  intro hwf
  obtain ⟨h0, h1, h2, h3, h4, h5, h6, h7⟩ := parts_6_1_5_5_1_5_3_6 _ _ _ _ _ _ _ _ (w := encode (.vwmacVv c d a b p)) rfl
  have hc := cbit_fld h1
  refine (decodeWord_vwide h0).trans ?_
  generalize encode (.vwmacVv c d a b p) = w at *
  unfold decVwide
  rw [h7, h4, h2, h3, h5, h6, hc]
  exact unlessSet_wf hwf rfl

theorem vnshrVx (c : Bool) (d : BitVec 5) (a : BitVec 5) (s : BitVec 6) (p : BitVec 3) : Statement (.vnshrVx c d a s p) := by
  intro hwf
  obtain ⟨h0, h1, h2, h3, h4, h5, h6⟩ := parts_6_1_5_5_6_3_6 _ _ _ _ _ _ _ (w := encode (.vnshrVx c d a s p)) rfl
  have hc := cbit_fld h1
  refine (decodeWord_vwide h0).trans ?_
  generalize encode (.vnshrVx c d a s p) = w at *
  unfold decVwide
  rw [h6, h2, h3, h4, h5, hc]
  exact unlessSet_wf hwf rfl

theorem vnshrVv (c : Bool) (d : BitVec 5) (a : BitVec 5) (b : BitVec 5) (p : BitVec 3) : Statement (.vnshrVv c d a b p) := by
  intro hwf
  obtain ⟨h0, h1, h2, h3, h4, h5, h6, h7⟩ := parts_6_1_5_5_1_5_3_6 _ _ _ _ _ _ _ _ (w := encode (.vnshrVv c d a b p)) rfl
  have hc := cbit_fld h1
  refine (decodeWord_vwide h0).trans ?_
  generalize encode (.vnshrVv c d a b p) = w at *
  unfold decVwide
  rw [h7, h4, h2, h3, h5, h6, hc]
  exact unlessSet_wf hwf rfl

theorem vncvt (c : Bool) (d : BitVec 5) (a : BitVec 5) (p : BitVec 3) : Statement (.vncvt c d a p) := by
  intro hwf
  obtain ⟨h0, h1, h2, h3, h4, h5, h6⟩ := parts_6_1_5_5_6_3_6 _ _ _ _ _ _ _ (w := encode (.vncvt c d a p)) rfl
  have hc := cbit_fld h1
  refine (decodeWord_vwide h0).trans ?_
  generalize encode (.vncvt c d a p) = w at *
  unfold decVwide
  rw [h6, h4, h2, h3, h5, hc]
  exact unlessSet_wf hwf rfl

theorem vsqrt (c : Bool) (d : BitVec 5) (a : BitVec 5) (p : BitVec 3) : Statement (.vsqrt c d a p) := by
  intro hwf
  obtain ⟨h0, h1, h2, h3, h4, h5, h6⟩ := parts_6_1_5_5_5_3_7 _ _ _ _ _ _ _ (w := encode (.vsqrt c d a p)) rfl
  have hc := cbit_fld h1
  refine (decodeWord_vsfu h0).trans ?_
  generalize encode (.vsqrt c d a p) = w at *
  unfold decVsfu
  rw [h6, h4, h2, h3, h5, hc]
  exact unlessSet_wf hwf rfl

theorem vrcp (c : Bool) (d : BitVec 5) (a : BitVec 5) (p : BitVec 3) : Statement (.vrcp c d a p) := by
  intro hwf
  obtain ⟨h0, h1, h2, h3, h4, h5, h6⟩ := parts_6_1_5_5_5_3_7 _ _ _ _ _ _ _ (w := encode (.vrcp c d a p)) rfl
  have hc := cbit_fld h1
  refine (decodeWord_vsfu h0).trans ?_
  generalize encode (.vrcp c d a p) = w at *
  unfold decVsfu
  rw [h6, h4, h2, h3, h5, hc]
  exact unlessSet_wf hwf rfl

theorem vrsq (c : Bool) (d : BitVec 5) (a : BitVec 5) (p : BitVec 3) : Statement (.vrsq c d a p) := by
  intro hwf
  obtain ⟨h0, h1, h2, h3, h4, h5, h6⟩ := parts_6_1_5_5_5_3_7 _ _ _ _ _ _ _ (w := encode (.vrsq c d a p)) rfl
  have hc := cbit_fld h1
  refine (decodeWord_vsfu h0).trans ?_
  generalize encode (.vrsq c d a p) = w at *
  unfold decVsfu
  rw [h6, h4, h2, h3, h5, hc]
  exact unlessSet_wf hwf rfl

theorem vexp2 (c : Bool) (d : BitVec 5) (a : BitVec 5) (p : BitVec 3) : Statement (.vexp2 c d a p) := by
  intro hwf
  obtain ⟨h0, h1, h2, h3, h4, h5, h6⟩ := parts_6_1_5_5_5_3_7 _ _ _ _ _ _ _ (w := encode (.vexp2 c d a p)) rfl
  have hc := cbit_fld h1
  refine (decodeWord_vsfu h0).trans ?_
  generalize encode (.vexp2 c d a p) = w at *
  unfold decVsfu
  rw [h6, h4, h2, h3, h5, hc]
  exact unlessSet_wf hwf rfl

theorem vlog2 (c : Bool) (d : BitVec 5) (a : BitVec 5) (p : BitVec 3) : Statement (.vlog2 c d a p) := by
  intro hwf
  obtain ⟨h0, h1, h2, h3, h4, h5, h6⟩ := parts_6_1_5_5_5_3_7 _ _ _ _ _ _ _ (w := encode (.vlog2 c d a p)) rfl
  have hc := cbit_fld h1
  refine (decodeWord_vsfu h0).trans ?_
  generalize encode (.vlog2 c d a p) = w at *
  unfold decVsfu
  rw [h6, h4, h2, h3, h5, hc]
  exact unlessSet_wf hwf rfl

theorem vcmpEq (c : Bool) (d : BitVec 7) (a : BitVec 5) (b : BitVec 5) (p : BitVec 3) : Statement (.vcmpEq c d a b p) := by
  intro hwf
  obtain ⟨h0, h1, h2, h3, h4, h5, h6⟩ := parts_6_1_7_5_5_3_5 _ _ _ _ _ _ _ (w := encode (.vcmpEq c d a b p)) rfl
  have hc := cbit_fld h1
  refine (decodeWord_vcmp h0).trans ?_
  generalize encode (.vcmpEq c d a b p) = w at *
  unfold decVcmp
  rw [h6, h2, h3, h4, h5, hc]
  exact unlessSet_wf hwf rfl

theorem vcmpNe (c : Bool) (d : BitVec 7) (a : BitVec 5) (b : BitVec 5) (p : BitVec 3) : Statement (.vcmpNe c d a b p) := by
  intro hwf
  obtain ⟨h0, h1, h2, h3, h4, h5, h6⟩ := parts_6_1_7_5_5_3_5 _ _ _ _ _ _ _ (w := encode (.vcmpNe c d a b p)) rfl
  have hc := cbit_fld h1
  refine (decodeWord_vcmp h0).trans ?_
  generalize encode (.vcmpNe c d a b p) = w at *
  unfold decVcmp
  rw [h6, h2, h3, h4, h5, hc]
  exact unlessSet_wf hwf rfl

theorem vcmpLt (c : Bool) (d : BitVec 7) (a : BitVec 5) (b : BitVec 5) (p : BitVec 3) : Statement (.vcmpLt c d a b p) := by
  intro hwf
  obtain ⟨h0, h1, h2, h3, h4, h5, h6⟩ := parts_6_1_7_5_5_3_5 _ _ _ _ _ _ _ (w := encode (.vcmpLt c d a b p)) rfl
  have hc := cbit_fld h1
  refine (decodeWord_vcmp h0).trans ?_
  generalize encode (.vcmpLt c d a b p) = w at *
  unfold decVcmp
  rw [h6, h2, h3, h4, h5, hc]
  exact unlessSet_wf hwf rfl

theorem vcmpLe (c : Bool) (d : BitVec 7) (a : BitVec 5) (b : BitVec 5) (p : BitVec 3) : Statement (.vcmpLe c d a b p) := by
  intro hwf
  obtain ⟨h0, h1, h2, h3, h4, h5, h6⟩ := parts_6_1_7_5_5_3_5 _ _ _ _ _ _ _ (w := encode (.vcmpLe c d a b p)) rfl
  have hc := cbit_fld h1
  refine (decodeWord_vcmp h0).trans ?_
  generalize encode (.vcmpLe c d a b p) = w at *
  unfold decVcmp
  rw [h6, h2, h3, h4, h5, hc]
  exact unlessSet_wf hwf rfl

theorem vcmpGt (c : Bool) (d : BitVec 7) (a : BitVec 5) (b : BitVec 5) (p : BitVec 3) : Statement (.vcmpGt c d a b p) := by
  intro hwf
  obtain ⟨h0, h1, h2, h3, h4, h5, h6⟩ := parts_6_1_7_5_5_3_5 _ _ _ _ _ _ _ (w := encode (.vcmpGt c d a b p)) rfl
  have hc := cbit_fld h1
  refine (decodeWord_vcmp h0).trans ?_
  generalize encode (.vcmpGt c d a b p) = w at *
  unfold decVcmp
  rw [h6, h2, h3, h4, h5, hc]
  exact unlessSet_wf hwf rfl

theorem vcmpGe (c : Bool) (d : BitVec 7) (a : BitVec 5) (b : BitVec 5) (p : BitVec 3) : Statement (.vcmpGe c d a b p) := by
  intro hwf
  obtain ⟨h0, h1, h2, h3, h4, h5, h6⟩ := parts_6_1_7_5_5_3_5 _ _ _ _ _ _ _ (w := encode (.vcmpGe c d a b p)) rfl
  have hc := cbit_fld h1
  refine (decodeWord_vcmp h0).trans ?_
  generalize encode (.vcmpGe c d a b p) = w at *
  unfold decVcmp
  rw [h6, h2, h3, h4, h5, hc]
  exact unlessSet_wf hwf rfl

theorem vcmpUn (c : Bool) (d : BitVec 7) (a : BitVec 5) (b : BitVec 5) (p : BitVec 3) : Statement (.vcmpUn c d a b p) := by
  intro hwf
  obtain ⟨h0, h1, h2, h3, h4, h5, h6⟩ := parts_6_1_7_5_5_3_5 _ _ _ _ _ _ _ (w := encode (.vcmpUn c d a b p)) rfl
  have hc := cbit_fld h1
  refine (decodeWord_vcmp h0).trans ?_
  generalize encode (.vcmpUn c d a b p) = w at *
  unfold decVcmp
  rw [h6, h2, h3, h4, h5, hc]
  exact unlessSet_wf hwf rfl

theorem vclass (c : Bool) (d : BitVec 7) (a : BitVec 5) (k : BitVec 5) (p : BitVec 3) : Statement (.vclass c d a k p) := by
  intro hwf
  obtain ⟨h0, h1, h2, h3, h4, h5, h6⟩ := parts_6_1_7_5_5_3_5 _ _ _ _ _ _ _ (w := encode (.vclass c d a k p)) rfl
  have hc := cbit_fld h1
  refine (decodeWord_vcmp h0).trans ?_
  generalize encode (.vclass c d a k p) = w at *
  unfold decVcmp
  rw [h6, h2, h3, h4, h5, hc]
  exact unlessSet_wf hwf rfl

theorem pand (d : BitVec 7) (a : BitVec 7) (b : BitVec 7) : Statement (.pand d a b) := by
  intro hwf
  obtain ⟨h0, h1, h2, h3, h4⟩ := parts_6_7_7_7_5 _ _ _ _ _ (w := encode (.pand d a b)) rfl
  refine (decodeWord_pred h0).trans ?_
  generalize encode (.pand d a b) = w at *
  unfold decPred
  rw [h4, h1, h2, h3]
  exact unlessSet_wf hwf rfl

theorem por (d : BitVec 7) (a : BitVec 7) (b : BitVec 7) : Statement (.por d a b) := by
  intro hwf
  obtain ⟨h0, h1, h2, h3, h4⟩ := parts_6_7_7_7_5 _ _ _ _ _ (w := encode (.por d a b)) rfl
  refine (decodeWord_pred h0).trans ?_
  generalize encode (.por d a b) = w at *
  unfold decPred
  rw [h4, h1, h2, h3]
  exact unlessSet_wf hwf rfl

theorem pxor (d : BitVec 7) (a : BitVec 7) (b : BitVec 7) : Statement (.pxor d a b) := by
  intro hwf
  obtain ⟨h0, h1, h2, h3, h4⟩ := parts_6_7_7_7_5 _ _ _ _ _ (w := encode (.pxor d a b)) rfl
  refine (decodeWord_pred h0).trans ?_
  generalize encode (.pxor d a b) = w at *
  unfold decPred
  rw [h4, h1, h2, h3]
  exact unlessSet_wf hwf rfl

theorem pandn (d : BitVec 7) (a : BitVec 7) (b : BitVec 7) : Statement (.pandn d a b) := by
  intro hwf
  obtain ⟨h0, h1, h2, h3, h4⟩ := parts_6_7_7_7_5 _ _ _ _ _ (w := encode (.pandn d a b)) rfl
  refine (decodeWord_pred h0).trans ?_
  generalize encode (.pandn d a b) = w at *
  unfold decPred
  rw [h4, h1, h2, h3]
  exact unlessSet_wf hwf rfl

theorem pnot (d : BitVec 7) (a : BitVec 7) : Statement (.pnot d a) := by
  intro hwf
  obtain ⟨h0, h1, h2, h3⟩ := parts_6_7_7_12 _ _ _ _ (w := encode (.pnot d a)) rfl
  have g0 : fld (encode (.pnot d a)) 0 5 = 4#5 := (fld_sub h3 0 5 (by decide) (by decide)).trans (by decide)
  have g1 : fld (encode (.pnot d a)) 5 7 = 0#7 := (fld_sub h3 5 7 (by decide) (by decide)).trans (by decide)
  refine (decodeWord_pred h0).trans ?_
  generalize encode (.pnot d a) = w at *
  unfold decPred
  rw [g0, g1, h1, h2]
  exact unlessSet_wf hwf rfl

theorem pmov (d : BitVec 7) (a : BitVec 7) : Statement (.pmov d a) := by
  intro hwf
  obtain ⟨h0, h1, h2, h3⟩ := parts_6_7_7_12 _ _ _ _ (w := encode (.pmov d a)) rfl
  have g0 : fld (encode (.pmov d a)) 0 5 = 5#5 := (fld_sub h3 0 5 (by decide) (by decide)).trans (by decide)
  have g1 : fld (encode (.pmov d a)) 5 7 = 0#7 := (fld_sub h3 5 7 (by decide) (by decide)).trans (by decide)
  refine (decodeWord_pred h0).trans ?_
  generalize encode (.pmov d a) = w at *
  unfold decPred
  rw [g0, g1, h1, h2]
  exact unlessSet_wf hwf rfl

theorem pset (d : BitVec 7) (v : BitVec 7) : Statement (.pset d v) := by
  intro hwf
  obtain ⟨h0, h1, h2, h3⟩ := parts_6_7_7_12 _ _ _ _ (w := encode (.pset d v)) rfl
  have g0 : fld (encode (.pset d v)) 0 5 = 6#5 := (fld_sub h3 0 5 (by decide) (by decide)).trans (by decide)
  have g1 : fld (encode (.pset d v)) 5 7 = 0#7 := (fld_sub h3 5 7 (by decide) (by decide)).trans (by decide)
  refine (decodeWord_pred h0).trans ?_
  generalize encode (.pset d v) = w at *
  unfold decPred
  rw [g0, g1, h1, h2]
  exact unlessSet_wf hwf rfl

theorem pcnt (d : BitVec 6) (a : BitVec 7) : Statement (.pcnt d a) := by
  intro hwf
  obtain ⟨h0, h1, h2, h3, h4⟩ := parts_6_6_1_7_12 _ _ _ _ _ (w := encode (.pcnt d a)) rfl
  have g0 : fld (encode (.pcnt d a)) 0 5 = 7#5 := (fld_sub h4 0 5 (by decide) (by decide)).trans (by decide)
  have g1 : fld (encode (.pcnt d a)) 5 7 = 0#7 := (fld_sub h4 5 7 (by decide) (by decide)).trans (by decide)
  refine (decodeWord_pred h0).trans ?_
  generalize encode (.pcnt d a) = w at *
  unfold decPred
  rw [g0, g1, h2, h1, h3]
  exact unlessSet_wf hwf rfl

theorem pfirst (d : BitVec 6) (a : BitVec 7) : Statement (.pfirst d a) := by
  intro hwf
  obtain ⟨h0, h1, h2, h3, h4⟩ := parts_6_6_1_7_12 _ _ _ _ _ (w := encode (.pfirst d a)) rfl
  have g0 : fld (encode (.pfirst d a)) 0 5 = 8#5 := (fld_sub h4 0 5 (by decide) (by decide)).trans (by decide)
  have g1 : fld (encode (.pfirst d a)) 5 7 = 0#7 := (fld_sub h4 5 7 (by decide) (by decide)).trans (by decide)
  refine (decodeWord_pred h0).trans ?_
  generalize encode (.pfirst d a) = w at *
  unfold decPred
  rw [g0, g1, h2, h1, h3]
  exact unlessSet_wf hwf rfl

theorem plast (d : BitVec 6) (a : BitVec 7) : Statement (.plast d a) := by
  intro hwf
  obtain ⟨h0, h1, h2, h3, h4⟩ := parts_6_6_1_7_12 _ _ _ _ _ (w := encode (.plast d a)) rfl
  have g0 : fld (encode (.plast d a)) 0 5 = 9#5 := (fld_sub h4 0 5 (by decide) (by decide)).trans (by decide)
  have g1 : fld (encode (.plast d a)) 5 7 = 0#7 := (fld_sub h4 5 7 (by decide) (by decide)).trans (by decide)
  refine (decodeWord_pred h0).trans ?_
  generalize encode (.plast d a) = w at *
  unfold decPred
  rw [g0, g1, h2, h1, h3]
  exact unlessSet_wf hwf rfl

theorem pbrk (d : BitVec 7) (a : BitVec 7) : Statement (.pbrk d a) := by
  intro hwf
  obtain ⟨h0, h1, h2, h3⟩ := parts_6_7_7_12 _ _ _ _ (w := encode (.pbrk d a)) rfl
  have g0 : fld (encode (.pbrk d a)) 0 5 = 10#5 := (fld_sub h3 0 5 (by decide) (by decide)).trans (by decide)
  have g1 : fld (encode (.pbrk d a)) 5 7 = 0#7 := (fld_sub h3 5 7 (by decide) (by decide)).trans (by decide)
  refine (decodeWord_pred h0).trans ?_
  generalize encode (.pbrk d a) = w at *
  unfold decPred
  rw [g0, g1, h1, h2]
  exact unlessSet_wf hwf rfl

theorem pld (d : BitVec 7) (s : BitVec 6) : Statement (.pld d s) := by
  intro hwf
  obtain ⟨h0, h1, h2, h3⟩ := parts_6_7_6_13 _ _ _ _ (w := encode (.pld d s)) rfl
  have g0 : fld (encode (.pld d s)) 0 5 = 11#5 := (fld_sub h3 0 5 (by decide) (by decide)).trans (by decide)
  have g1 : fld (encode (.pld d s)) 5 8 = 0#8 := (fld_sub h3 5 8 (by decide) (by decide)).trans (by decide)
  refine (decodeWord_pred h0).trans ?_
  generalize encode (.pld d s) = w at *
  unfold decPred
  rw [g0, g1, h1, h2]
  exact unlessSet_wf hwf rfl

theorem pst (s : BitVec 6) (a : BitVec 7) : Statement (.pst s a) := by
  intro hwf
  obtain ⟨h0, h1, h2, h3, h4⟩ := parts_6_6_1_7_12 _ _ _ _ _ (w := encode (.pst s a)) rfl
  have g0 : fld (encode (.pst s a)) 0 5 = 12#5 := (fld_sub h4 0 5 (by decide) (by decide)).trans (by decide)
  have g1 : fld (encode (.pst s a)) 5 7 = 0#7 := (fld_sub h4 5 7 (by decide) (by decide)).trans (by decide)
  refine (decodeWord_pred h0).trans ?_
  generalize encode (.pst s a) = w at *
  unfold decPred
  rw [g0, g1, h2, h1, h3]
  exact unlessSet_wf hwf rfl

theorem vfetch (o : BitVec 16) : Statement (.vfetch o) := by
  intro hwf
  obtain ⟨h0, h1⟩ := parts_16_16 _ _ (w := encode (.vfetch o)) rfl
  have g0 : fld (encode (.vfetch o)) 26 6 = 40#6 := (fld_sub h0 26 6 (by decide) (by decide)).trans (by decide)
  have g1 : fld (encode (.vfetch o)) 23 2 = 0#2 := (fld_sub h0 23 2 (by decide) (by decide)).trans (by decide)
  have g2 : fld (encode (.vfetch o)) 16 7 = 0#7 := (fld_sub h0 16 7 (by decide) (by decide)).trans (by decide)
  have g3 : fld (encode (.vfetch o)) 25 1 = 1#1 := (fld_sub h0 25 1 (by decide) (by decide)).trans (by decide)
  refine (decodeWord_vpctl g0).trans ?_
  generalize encode (.vfetch o) = w at *
  unfold decVpctl
  rw [g1, g2, g3, h1]
  exact unlessSet_wf hwf rfl

theorem vpbr (c : Bool) (a : BitVec 7) (o : BitVec 16) : Statement (.vpbr c a o) := by
  intro hwf
  obtain ⟨h0, h1, h2, h3, h4⟩ := parts_6_1_2_7_16 _ _ _ _ _ (w := encode (.vpbr c a o)) rfl
  have hc := cbit_fld h1
  refine (decodeWord_vpctl h0).trans ?_
  generalize encode (.vpbr c a o) = w at *
  unfold decVpctl
  rw [h2, h3, h4, hc]
  exact unlessSet_wf hwf rfl

theorem vpjoin (c : Bool) : Statement (.vpjoin c) := by
  intro hwf
  obtain ⟨h0, h1, h2⟩ := parts_6_1_25 _ _ _ (w := encode (.vpjoin c)) rfl
  have g0 : fld (encode (.vpjoin c)) 23 2 = 2#2 := (fld_sub h2 23 2 (by decide) (by decide)).trans (by decide)
  have g1 : fld (encode (.vpjoin c)) 0 23 = 0#23 := (fld_sub h2 0 23 (by decide) (by decide)).trans (by decide)
  have hc := cbit_fld h1
  refine (decodeWord_vpctl h0).trans ?_
  generalize encode (.vpjoin c) = w at *
  unfold decVpctl
  rw [g0, g1, hc]
  exact unlessSet_wf hwf rfl

theorem vpend (c : Bool) : Statement (.vpend c) := by
  intro hwf
  obtain ⟨h0, h1, h2⟩ := parts_6_1_25 _ _ _ (w := encode (.vpend c)) rfl
  have g0 : fld (encode (.vpend c)) 23 2 = 3#2 := (fld_sub h2 23 2 (by decide) (by decide)).trans (by decide)
  have g1 : fld (encode (.vpend c)) 0 23 = 0#23 := (fld_sub h2 0 23 (by decide) (by decide)).trans (by decide)
  have hc := cbit_fld h1
  refine (decodeWord_vpctl h0).trans ?_
  generalize encode (.vpend c) = w at *
  unfold decVpctl
  rw [g0, g1, hc]
  exact unlessSet_wf hwf rfl

theorem vld (c : Bool) (d : BitVec 5) (a : BitVec 6) (p : BitVec 3) : Statement (.vld c d a p) := by
  intro hwf
  obtain ⟨h0, h1, h2, h3, h4, h5, h6⟩ := parts_6_1_5_6_6_3_5 _ _ _ _ _ _ _ (w := encode (.vld c d a p)) rfl
  have hc := cbit_fld h1
  refine (decodeWord_vld h0).trans ?_
  generalize encode (.vld c d a p) = w at *
  unfold decVld
  rw [h6, h4, h2, h3, h5, hc]
  exact unlessSet_wf hwf rfl

theorem vldS (c : Bool) (d : BitVec 5) (a : BitVec 6) (x : BitVec 6) (p : BitVec 3) : Statement (.vldS c d a x p) := by
  intro hwf
  obtain ⟨h0, h1, h2, h3, h4, h5, h6⟩ := parts_6_1_5_6_6_3_5 _ _ _ _ _ _ _ (w := encode (.vldS c d a x p)) rfl
  have hc := cbit_fld h1
  refine (decodeWord_vld h0).trans ?_
  generalize encode (.vldS c d a x p) = w at *
  unfold decVld
  rw [h6, h2, h3, h4, h5, hc]
  exact unlessSet_wf hwf rfl

theorem vldX (c : Bool) (d : BitVec 5) (a : BitVec 6) (i : BitVec 5) (p : BitVec 3) : Statement (.vldX c d a i p) := by
  intro hwf
  obtain ⟨h0, h1, h2, h3, h4, h5, h6, h7⟩ := parts_6_1_5_6_1_5_3_5 _ _ _ _ _ _ _ _ (w := encode (.vldX c d a i p)) rfl
  have hc := cbit_fld h1
  refine (decodeWord_vld h0).trans ?_
  generalize encode (.vldX c d a i p) = w at *
  unfold decVld
  rw [h7, h4, h2, h3, h5, h6, hc]
  exact unlessSet_wf hwf rfl

theorem vldff (c : Bool) (d : BitVec 5) (a : BitVec 6) (p : BitVec 3) : Statement (.vldff c d a p) := by
  intro hwf
  obtain ⟨h0, h1, h2, h3, h4, h5, h6⟩ := parts_6_1_5_6_6_3_5 _ _ _ _ _ _ _ (w := encode (.vldff c d a p)) rfl
  have hc := cbit_fld h1
  refine (decodeWord_vld h0).trans ?_
  generalize encode (.vldff c d a p) = w at *
  unfold decVld
  rw [h6, h4, h2, h3, h5, hc]
  exact unlessSet_wf hwf rfl

theorem vldseg (c : Bool) (d : BitVec 5) (a : BitVec 6) (p : BitVec 3) (f : BitVec 5) : Statement (.vldseg c d a p f) := by
  intro hwf
  obtain ⟨h0, h1, h2, h3, h4, h5, h6⟩ := parts_6_1_5_6_6_3_5 _ _ _ _ _ _ _ (w := encode (.vldseg c d a p f)) rfl
  have hc := cbit_fld h1
  refine (decodeWord_vld h0).trans ?_
  generalize encode (.vldseg c d a p f) = w at *
  unfold decVld
  rw [h6, h4, h2, h3, h5, hc]
  have hf : f = 4#5 ∨ f = 5#5 ∨ f = 6#5 ∨ f = 7#5 ∨ f = 8#5 ∨ f = 9#5 ∨ f = 10#5 := by
    have all : ∀ f : BitVec 5, (!decide (f.toNat < 4 ∨ 10 < f.toNat)) = true →
        (f = 4#5 ∨ f = 5#5 ∨ f = 6#5 ∨ f = 7#5 ∨ f = 8#5 ∨ f = 9#5 ∨ f = 10#5) := by decide
    refine all f ?_
    simp only [Instr.wf, Bool.and_eq_true] at hwf
    exact hwf.1.2
  obtain rfl | rfl | rfl | rfl | rfl | rfl | rfl := hf <;>
    exact (if_pos (by decide)).trans (unlessSet_wf hwf rfl)

theorem vst (c : Bool) (d : BitVec 5) (a : BitVec 6) (p : BitVec 3) : Statement (.vst c d a p) := by
  intro hwf
  obtain ⟨h0, h1, h2, h3, h4, h5, h6⟩ := parts_6_1_5_6_6_3_5 _ _ _ _ _ _ _ (w := encode (.vst c d a p)) rfl
  have hc := cbit_fld h1
  refine (decodeWord_vst h0).trans ?_
  generalize encode (.vst c d a p) = w at *
  unfold decVst
  rw [h6, h4, h2, h3, h5, hc]
  exact unlessSet_wf hwf rfl

theorem vstS (c : Bool) (d : BitVec 5) (a : BitVec 6) (x : BitVec 6) (p : BitVec 3) : Statement (.vstS c d a x p) := by
  intro hwf
  obtain ⟨h0, h1, h2, h3, h4, h5, h6⟩ := parts_6_1_5_6_6_3_5 _ _ _ _ _ _ _ (w := encode (.vstS c d a x p)) rfl
  have hc := cbit_fld h1
  refine (decodeWord_vst h0).trans ?_
  generalize encode (.vstS c d a x p) = w at *
  unfold decVst
  rw [h6, h2, h3, h4, h5, hc]
  exact unlessSet_wf hwf rfl

theorem vstX (c : Bool) (d : BitVec 5) (a : BitVec 6) (i : BitVec 5) (p : BitVec 3) : Statement (.vstX c d a i p) := by
  intro hwf
  obtain ⟨h0, h1, h2, h3, h4, h5, h6, h7⟩ := parts_6_1_5_6_1_5_3_5 _ _ _ _ _ _ _ _ (w := encode (.vstX c d a i p)) rfl
  have hc := cbit_fld h1
  refine (decodeWord_vst h0).trans ?_
  generalize encode (.vstX c d a i p) = w at *
  unfold decVst
  rw [h7, h4, h2, h3, h5, h6, hc]
  exact unlessSet_wf hwf rfl

theorem vsto (c : Bool) (d : BitVec 5) (a : BitVec 6) (p : BitVec 3) : Statement (.vsto c d a p) := by
  intro hwf
  obtain ⟨h0, h1, h2, h3, h4, h5, h6⟩ := parts_6_1_5_6_6_3_5 _ _ _ _ _ _ _ (w := encode (.vsto c d a p)) rfl
  have hc := cbit_fld h1
  refine (decodeWord_vst h0).trans ?_
  generalize encode (.vsto c d a p) = w at *
  unfold decVst
  rw [h6, h4, h2, h3, h5, hc]
  exact unlessSet_wf hwf rfl

theorem vstseg (c : Bool) (d : BitVec 5) (a : BitVec 6) (p : BitVec 3) (f : BitVec 5) : Statement (.vstseg c d a p f) := by
  intro hwf
  obtain ⟨h0, h1, h2, h3, h4, h5, h6⟩ := parts_6_1_5_6_6_3_5 _ _ _ _ _ _ _ (w := encode (.vstseg c d a p f)) rfl
  have hc := cbit_fld h1
  refine (decodeWord_vst h0).trans ?_
  generalize encode (.vstseg c d a p f) = w at *
  unfold decVst
  rw [h6, h4, h2, h3, h5, hc]
  have hf : f = 4#5 ∨ f = 5#5 ∨ f = 6#5 ∨ f = 7#5 ∨ f = 8#5 ∨ f = 9#5 ∨ f = 10#5 := by
    have all : ∀ f : BitVec 5, (!decide (f.toNat < 4 ∨ 10 < f.toNat)) = true →
        (f = 4#5 ∨ f = 5#5 ∨ f = 6#5 ∨ f = 7#5 ∨ f = 8#5 ∨ f = 9#5 ∨ f = 10#5) := by decide
    refine all f ?_
    simp only [Instr.wf, Bool.and_eq_true] at hwf
    exact hwf.1.2
  obtain rfl | rfl | rfl | rfl | rfl | rfl | rfl := hf <;>
    exact (if_pos (by decide)).trans (unlessSet_wf hwf rfl)

theorem vstoStrided (c : Bool) (d : BitVec 5) (a : BitVec 6) (x : BitVec 6) (p : BitVec 3) : Statement (.vstoStrided c d a x p) := by
  intro hwf
  obtain ⟨h0, h1, h2, h3, h4, h5, h6⟩ := parts_6_1_5_6_6_3_5 _ _ _ _ _ _ _ (w := encode (.vstoStrided c d a x p)) rfl
  have hc := cbit_fld h1
  refine (decodeWord_vst h0).trans ?_
  generalize encode (.vstoStrided c d a x p) = w at *
  unfold decVst
  rw [h6, h2, h3, h4, h5, hc]
  exact unlessSet_wf hwf rfl

theorem vamoAdd (c : Bool) (d : BitVec 5) (a : BitVec 6) (i : BitVec 5) (p : BitVec 3) : Statement (.vamoAdd c d a i p) := by
  intro hwf
  obtain ⟨h0, h1, h2, h3, h4, h5, h6, h7⟩ := parts_6_1_5_6_1_5_3_5 _ _ _ _ _ _ _ _ (w := encode (.vamoAdd c d a i p)) rfl
  have hc := cbit_fld h1
  refine (decodeWord_vamo h0).trans ?_
  generalize encode (.vamoAdd c d a i p) = w at *
  unfold decVamo
  rw [h7, h4, h2, h3, h5, h6, hc]
  exact unlessSet_wf hwf rfl

theorem vamoSwap (c : Bool) (d : BitVec 5) (a : BitVec 6) (i : BitVec 5) (p : BitVec 3) : Statement (.vamoSwap c d a i p) := by
  intro hwf
  obtain ⟨h0, h1, h2, h3, h4, h5, h6, h7⟩ := parts_6_1_5_6_1_5_3_5 _ _ _ _ _ _ _ _ (w := encode (.vamoSwap c d a i p)) rfl
  have hc := cbit_fld h1
  refine (decodeWord_vamo h0).trans ?_
  generalize encode (.vamoSwap c d a i p) = w at *
  unfold decVamo
  rw [h7, h4, h2, h3, h5, h6, hc]
  exact unlessSet_wf hwf rfl

theorem vamoAnd (c : Bool) (d : BitVec 5) (a : BitVec 6) (i : BitVec 5) (p : BitVec 3) : Statement (.vamoAnd c d a i p) := by
  intro hwf
  obtain ⟨h0, h1, h2, h3, h4, h5, h6, h7⟩ := parts_6_1_5_6_1_5_3_5 _ _ _ _ _ _ _ _ (w := encode (.vamoAnd c d a i p)) rfl
  have hc := cbit_fld h1
  refine (decodeWord_vamo h0).trans ?_
  generalize encode (.vamoAnd c d a i p) = w at *
  unfold decVamo
  rw [h7, h4, h2, h3, h5, h6, hc]
  exact unlessSet_wf hwf rfl

theorem vamoOr (c : Bool) (d : BitVec 5) (a : BitVec 6) (i : BitVec 5) (p : BitVec 3) : Statement (.vamoOr c d a i p) := by
  intro hwf
  obtain ⟨h0, h1, h2, h3, h4, h5, h6, h7⟩ := parts_6_1_5_6_1_5_3_5 _ _ _ _ _ _ _ _ (w := encode (.vamoOr c d a i p)) rfl
  have hc := cbit_fld h1
  refine (decodeWord_vamo h0).trans ?_
  generalize encode (.vamoOr c d a i p) = w at *
  unfold decVamo
  rw [h7, h4, h2, h3, h5, h6, hc]
  exact unlessSet_wf hwf rfl

theorem vamoXor (c : Bool) (d : BitVec 5) (a : BitVec 6) (i : BitVec 5) (p : BitVec 3) : Statement (.vamoXor c d a i p) := by
  intro hwf
  obtain ⟨h0, h1, h2, h3, h4, h5, h6, h7⟩ := parts_6_1_5_6_1_5_3_5 _ _ _ _ _ _ _ _ (w := encode (.vamoXor c d a i p)) rfl
  have hc := cbit_fld h1
  refine (decodeWord_vamo h0).trans ?_
  generalize encode (.vamoXor c d a i p) = w at *
  unfold decVamo
  rw [h7, h4, h2, h3, h5, h6, hc]
  exact unlessSet_wf hwf rfl

theorem vamoMin (c : Bool) (d : BitVec 5) (a : BitVec 6) (i : BitVec 5) (p : BitVec 3) : Statement (.vamoMin c d a i p) := by
  intro hwf
  obtain ⟨h0, h1, h2, h3, h4, h5, h6, h7⟩ := parts_6_1_5_6_1_5_3_5 _ _ _ _ _ _ _ _ (w := encode (.vamoMin c d a i p)) rfl
  have hc := cbit_fld h1
  refine (decodeWord_vamo h0).trans ?_
  generalize encode (.vamoMin c d a i p) = w at *
  unfold decVamo
  rw [h7, h4, h2, h3, h5, h6, hc]
  exact unlessSet_wf hwf rfl

theorem vamoMax (c : Bool) (d : BitVec 5) (a : BitVec 6) (i : BitVec 5) (p : BitVec 3) : Statement (.vamoMax c d a i p) := by
  intro hwf
  obtain ⟨h0, h1, h2, h3, h4, h5, h6, h7⟩ := parts_6_1_5_6_1_5_3_5 _ _ _ _ _ _ _ _ (w := encode (.vamoMax c d a i p)) rfl
  have hc := cbit_fld h1
  refine (decodeWord_vamo h0).trans ?_
  generalize encode (.vamoMax c d a i p) = w at *
  unfold decVamo
  rw [h7, h4, h2, h3, h5, h6, hc]
  exact unlessSet_wf hwf rfl

theorem vpermVv (c : Bool) (d : BitVec 5) (a : BitVec 5) (b : BitVec 5) (p : BitVec 3) : Statement (.vpermVv c d a b p) := by
  intro hwf
  obtain ⟨h0, h1, h2, h3, h4, h5, h6, h7⟩ := parts_6_1_5_5_1_5_3_6 _ _ _ _ _ _ _ _ (w := encode (.vpermVv c d a b p)) rfl
  have hc := cbit_fld h1
  refine (decodeWord_vlane h0).trans ?_
  generalize encode (.vpermVv c d a b p) = w at *
  unfold decVlane
  rw [h7, h4, h2, h3, h5, h6, hc]
  exact unlessSet_wf hwf rfl

theorem vpermVx (c : Bool) (d : BitVec 5) (a : BitVec 5) (s : BitVec 6) (p : BitVec 3) : Statement (.vpermVx c d a s p) := by
  intro hwf
  obtain ⟨h0, h1, h2, h3, h4, h5, h6⟩ := parts_6_1_5_5_6_3_6 _ _ _ _ _ _ _ (w := encode (.vpermVx c d a s p)) rfl
  have hc := cbit_fld h1
  refine (decodeWord_vlane h0).trans ?_
  generalize encode (.vpermVx c d a s p) = w at *
  unfold decVlane
  rw [h6, h2, h3, h4, h5, hc]
  exact unlessSet_wf hwf rfl

theorem vslup (c : Bool) (d : BitVec 5) (a : BitVec 5) (s : BitVec 6) (p : BitVec 3) : Statement (.vslup c d a s p) := by
  intro hwf
  obtain ⟨h0, h1, h2, h3, h4, h5, h6⟩ := parts_6_1_5_5_6_3_6 _ _ _ _ _ _ _ (w := encode (.vslup c d a s p)) rfl
  have hc := cbit_fld h1
  refine (decodeWord_vlane h0).trans ?_
  generalize encode (.vslup c d a s p) = w at *
  unfold decVlane
  rw [h6, h2, h3, h4, h5, hc]
  exact unlessSet_wf hwf rfl

theorem vsldn (c : Bool) (d : BitVec 5) (a : BitVec 5) (s : BitVec 6) (p : BitVec 3) : Statement (.vsldn c d a s p) := by
  intro hwf
  obtain ⟨h0, h1, h2, h3, h4, h5, h6⟩ := parts_6_1_5_5_6_3_6 _ _ _ _ _ _ _ (w := encode (.vsldn c d a s p)) rfl
  have hc := cbit_fld h1
  refine (decodeWord_vlane h0).trans ?_
  generalize encode (.vsldn c d a s p) = w at *
  unfold decVlane
  rw [h6, h2, h3, h4, h5, hc]
  exact unlessSet_wf hwf rfl

theorem vcompr (c : Bool) (d : BitVec 5) (a : BitVec 5) (p : BitVec 3) : Statement (.vcompr c d a p) := by
  intro hwf
  obtain ⟨h0, h1, h2, h3, h4, h5, h6⟩ := parts_6_1_5_5_6_3_6 _ _ _ _ _ _ _ (w := encode (.vcompr c d a p)) rfl
  have hc := cbit_fld h1
  refine (decodeWord_vlane h0).trans ?_
  generalize encode (.vcompr c d a p) = w at *
  unfold decVlane
  rw [h6, h4, h2, h3, h5, hc]
  exact unlessSet_wf hwf rfl

theorem vexpnd (c : Bool) (d : BitVec 5) (a : BitVec 5) (p : BitVec 3) : Statement (.vexpnd c d a p) := by
  intro hwf
  obtain ⟨h0, h1, h2, h3, h4, h5, h6⟩ := parts_6_1_5_5_6_3_6 _ _ _ _ _ _ _ (w := encode (.vexpnd c d a p)) rfl
  have hc := cbit_fld h1
  refine (decodeWord_vlane h0).trans ?_
  generalize encode (.vexpnd c d a p) = w at *
  unfold decVlane
  rw [h6, h4, h2, h3, h5, hc]
  exact unlessSet_wf hwf rfl

theorem vredsum (c : Bool) (a : BitVec 5) (s : BitVec 6) (p : BitVec 3) : Statement (.vredsum c a s p) := by
  intro hwf
  obtain ⟨h0, h1, h2, h3, h4, h5, h6⟩ := parts_6_1_5_5_6_3_6 _ _ _ _ _ _ _ (w := encode (.vredsum c a s p)) rfl
  have hc := cbit_fld h1
  refine (decodeWord_vred h0).trans ?_
  generalize encode (.vredsum c a s p) = w at *
  unfold decVred
  rw [h6, h2, h3, h4, h5, hc]
  exact unlessSet_wf hwf rfl

theorem vredmax (c : Bool) (a : BitVec 5) (s : BitVec 6) (p : BitVec 3) : Statement (.vredmax c a s p) := by
  intro hwf
  obtain ⟨h0, h1, h2, h3, h4, h5, h6⟩ := parts_6_1_5_5_6_3_6 _ _ _ _ _ _ _ (w := encode (.vredmax c a s p)) rfl
  have hc := cbit_fld h1
  refine (decodeWord_vred h0).trans ?_
  generalize encode (.vredmax c a s p) = w at *
  unfold decVred
  rw [h6, h2, h3, h4, h5, hc]
  exact unlessSet_wf hwf rfl

theorem vredmin (c : Bool) (a : BitVec 5) (s : BitVec 6) (p : BitVec 3) : Statement (.vredmin c a s p) := by
  intro hwf
  obtain ⟨h0, h1, h2, h3, h4, h5, h6⟩ := parts_6_1_5_5_6_3_6 _ _ _ _ _ _ _ (w := encode (.vredmin c a s p)) rfl
  have hc := cbit_fld h1
  refine (decodeWord_vred h0).trans ?_
  generalize encode (.vredmin c a s p) = w at *
  unfold decVred
  rw [h6, h2, h3, h4, h5, hc]
  exact unlessSet_wf hwf rfl

theorem vscan (c : Bool) (d : BitVec 5) (a : BitVec 5) (s : BitVec 6) (p : BitVec 3) : Statement (.vscan c d a s p) := by
  intro hwf
  obtain ⟨h0, h1, h2, h3, h4, h5, h6⟩ := parts_6_1_5_5_6_3_6 _ _ _ _ _ _ _ (w := encode (.vscan c d a s p)) rfl
  have hc := cbit_fld h1
  refine (decodeWord_vred h0).trans ?_
  generalize encode (.vscan c d a s p) = w at *
  unfold decVred
  rw [h6, h2, h3, h4, h5, hc]
  exact unlessSet_wf hwf rfl

theorem vsoftmax (c : Bool) (d : BitVec 5) (a : BitVec 5) (s : BitVec 6) (p : BitVec 3) : Statement (.vsoftmax c d a s p) := by
  intro hwf
  obtain ⟨h0, h1, h2, h3, h4, h5, h6⟩ := parts_6_1_5_5_6_3_6 _ _ _ _ _ _ _ (w := encode (.vsoftmax c d a s p)) rfl
  have hc := cbit_fld h1
  refine (decodeWord_vred h0).trans ?_
  generalize encode (.vsoftmax c d a s p) = w at *
  unfold decVred
  rw [h6, h2, h3, h4, h5, hc]
  exact unlessSet_wf hwf rfl

theorem binz (c : Bool) (n : BitVec 5) (t : BitVec 5) : Statement (.binz c n t) := by
  intro hwf
  obtain ⟨h0, h1, h2, h3, h4⟩ := parts_6_1_5_5_15 _ _ _ _ _ (w := encode (.binz c n t)) rfl
  have g0 : fld (encode (.binz c n t)) 0 6 = 5#6 := (fld_sub h4 0 6 (by decide) (by decide)).trans (by decide)
  have g1 : fld (encode (.binz c n t)) 6 9 = 0#9 := (fld_sub h4 6 9 (by decide) (by decide)).trans (by decide)
  have hc := cbit_fld h1
  refine (decodeWord_vred h0).trans ?_
  generalize encode (.binz c n t) = w at *
  unfold decVred
  rw [g0, g1, h2, h3, hc]
  exact unlessSet_wf hwf rfl

theorem vbinacc (c : Bool) (n : BitVec 5) (a : BitVec 5) (p : BitVec 3) : Statement (.vbinacc c n a p) := by
  intro hwf
  obtain ⟨h0, h1, h2, h3, h4, h5, h6⟩ := parts_6_1_5_5_6_3_6 _ _ _ _ _ _ _ (w := encode (.vbinacc c n a p)) rfl
  have hc := cbit_fld h1
  refine (decodeWord_vred h0).trans ?_
  generalize encode (.vbinacc c n a p) = w at *
  unfold decVred
  rw [h6, h4, h2, h3, h5, hc]
  exact unlessSet_wf hwf rfl

theorem vbinmacVx (c : Bool) (n : BitVec 5) (a : BitVec 5) (s : BitVec 6) (p : BitVec 3) : Statement (.vbinmacVx c n a s p) := by
  intro hwf
  obtain ⟨h0, h1, h2, h3, h4, h5, h6⟩ := parts_6_1_5_5_6_3_6 _ _ _ _ _ _ _ (w := encode (.vbinmacVx c n a s p)) rfl
  have hc := cbit_fld h1
  refine (decodeWord_vred h0).trans ?_
  generalize encode (.vbinmacVx c n a s p) = w at *
  unfold decVred
  rw [h6, h2, h3, h4, h5, hc]
  exact unlessSet_wf hwf rfl

theorem vbinmacVv (c : Bool) (n : BitVec 5) (a : BitVec 5) (b : BitVec 5) (p : BitVec 3) : Statement (.vbinmacVv c n a b p) := by
  intro hwf
  obtain ⟨h0, h1, h2, h3, h4, h5, h6, h7⟩ := parts_6_1_5_5_1_5_3_6 _ _ _ _ _ _ _ _ (w := encode (.vbinmacVv c n a b p)) rfl
  have hc := cbit_fld h1
  refine (decodeWord_vred h0).trans ?_
  generalize encode (.vbinmacVv c n a b p) = w at *
  unfold decVred
  rw [h7, h4, h2, h3, h5, h6, hc]
  exact unlessSet_wf hwf rfl

theorem binfold (c : Bool) (n : BitVec 5) (s : BitVec 6) : Statement (.binfold c n s) := by
  intro hwf
  obtain ⟨h0, h1, h2, h3, h4, h5⟩ := parts_6_1_5_5_6_9 _ _ _ _ _ _ (w := encode (.binfold c n s)) rfl
  have g0 : fld (encode (.binfold c n s)) 0 6 = 8#6 := (fld_sub h5 0 6 (by decide) (by decide)).trans (by decide)
  have g1 : fld (encode (.binfold c n s)) 6 3 = 0#3 := (fld_sub h5 6 3 (by decide) (by decide)).trans (by decide)
  have hc := cbit_fld h1
  refine (decodeWord_vred h0).trans ?_
  generalize encode (.binfold c n s) = w at *
  unfold decVred
  rw [g0, g1, h3, h2, h4, hc]
  exact unlessSet_wf hwf rfl

theorem vmark (c : Bool) (s : BitVec 6) : Statement (.vmark c s) := by
  intro hwf
  obtain ⟨h0, h1, h2, h3, h4⟩ := parts_6_1_10_6_9 _ _ _ _ _ (w := encode (.vmark c s)) rfl
  have g0 : fld (encode (.vmark c s)) 0 6 = 9#6 := (fld_sub h4 0 6 (by decide) (by decide)).trans (by decide)
  have g1 : fld (encode (.vmark c s)) 6 3 = 0#3 := (fld_sub h4 6 3 (by decide) (by decide)).trans (by decide)
  have hc := cbit_fld h1
  refine (decodeWord_vred h0).trans ?_
  generalize encode (.vmark c s) = w at *
  unfold decVred
  rw [g0, g1, h2, h3, hc]
  exact unlessSet_wf hwf rfl

theorem vstrip (c : Bool) : Statement (.vstrip c) := by
  intro hwf
  obtain ⟨h0, h1, h2⟩ := parts_6_1_25 _ _ _ (w := encode (.vstrip c)) rfl
  have g0 : fld (encode (.vstrip c)) 0 6 = 10#6 := (fld_sub h2 0 6 (by decide) (by decide)).trans (by decide)
  have g1 : fld (encode (.vstrip c)) 6 19 = 0#19 := (fld_sub h2 6 19 (by decide) (by decide)).trans (by decide)
  have hc := cbit_fld h1
  refine (decodeWord_vred h0).trans ?_
  generalize encode (.vstrip c) = w at *
  unfold decVred
  rw [g0, g1, hc]
  exact unlessSet_wf hwf rfl

theorem fbind (c : Bool) (d : BitVec 5) (s : BitVec 6) : Statement (.fbind c d s) := by
  intro hwf
  obtain ⟨h0, h1, h2, h3, h4, h5⟩ := parts_6_1_5_5_6_9 _ _ _ _ _ _ (w := encode (.fbind c d s)) rfl
  have g0 : fld (encode (.fbind c d s)) 0 6 = 0#6 := (fld_sub h5 0 6 (by decide) (by decide)).trans (by decide)
  have g1 : fld (encode (.fbind c d s)) 6 3 = 0#3 := (fld_sub h5 6 3 (by decide) (by decide)).trans (by decide)
  have hc := cbit_fld h1
  refine (decodeWord_feed h0).trans ?_
  generalize encode (.fbind c d s) = w at *
  unfold decFeed
  rw [g0, g1, h3, h2, h4, hc]
  exact unlessSet_wf hwf rfl

theorem fchain (c : Bool) (d : BitVec 5) (o : BitVec 5) (s : BitVec 6) : Statement (.fchain c d o s) := by
  intro hwf
  obtain ⟨h0, h1, h2, h3, h4, h5⟩ := parts_6_1_5_5_6_9 _ _ _ _ _ _ (w := encode (.fchain c d o s)) rfl
  have g0 : fld (encode (.fchain c d o s)) 0 6 = 1#6 := (fld_sub h5 0 6 (by decide) (by decide)).trans (by decide)
  have g1 : fld (encode (.fchain c d o s)) 6 3 = 0#3 := (fld_sub h5 6 3 (by decide) (by decide)).trans (by decide)
  have hc := cbit_fld h1
  refine (decodeWord_feed h0).trans ?_
  generalize encode (.fchain c d o s) = w at *
  unfold decFeed
  rw [g0, g1, h2, h3, h4, hc]
  exact unlessSet_wf hwf rfl

theorem funbind (c : Bool) (d : BitVec 5) : Statement (.funbind c d) := by
  intro hwf
  obtain ⟨h0, h1, h2, h3⟩ := parts_6_1_5_20 _ _ _ _ (w := encode (.funbind c d)) rfl
  have g0 : fld (encode (.funbind c d)) 0 6 = 2#6 := (fld_sub h3 0 6 (by decide) (by decide)).trans (by decide)
  have g1 : fld (encode (.funbind c d)) 6 14 = 0#14 := (fld_sub h3 6 14 (by decide) (by decide)).trans (by decide)
  have hc := cbit_fld h1
  refine (decodeWord_feed h0).trans ?_
  generalize encode (.funbind c d) = w at *
  unfold decFeed
  rw [g0, g1, h2, hc]
  exact unlessSet_wf hwf rfl

theorem fstat (c : Bool) (d : BitVec 5) (l : BitVec 5) (s : BitVec 6) : Statement (.fstat c d l s) := by
  intro hwf
  obtain ⟨h0, h1, h2, h3, h4, h5⟩ := parts_6_1_5_5_6_9 _ _ _ _ _ _ (w := encode (.fstat c d l s)) rfl
  have g0 : fld (encode (.fstat c d l s)) 0 6 = 3#6 := (fld_sub h5 0 6 (by decide) (by decide)).trans (by decide)
  have g1 : fld (encode (.fstat c d l s)) 6 3 = 0#3 := (fld_sub h5 6 3 (by decide) (by decide)).trans (by decide)
  have hc := cbit_fld h1
  refine (decodeWord_feed h0).trans ?_
  generalize encode (.fstat c d l s) = w at *
  unfold decFeed
  rw [g0, g1, h2, h3, h4, hc]
  exact unlessSet_wf hwf rfl

theorem feedFetch (reg : BitVec 4) (n : Nat) : Statement (.feedFetch reg n) := fun h => nomatch h

theorem fpcvt (c : Bool) (d : BitVec 5) (a : BitVec 5) (s : BitVec 6) (p : BitVec 3) : Statement (.fpcvt c d a s p) := by
  intro hwf
  obtain ⟨h0, h1, h2, h3, h4, h5, h6⟩ := parts_6_1_5_5_6_3_6 _ _ _ _ _ _ _ (w := encode (.fpcvt c d a s p)) rfl
  have hc := cbit_fld h1
  refine (decodeWord_frame h0).trans ?_
  generalize encode (.fpcvt c d a s p) = w at *
  unfold decFrame
  rw [h6, h2, h3, h4, h5, hc]
  exact unlessSet_wf hwf rfl

theorem fplen2 (c : Bool) (d : BitVec 5) (a : BitVec 5) (p : BitVec 3) : Statement (.fplen2 c d a p) := by
  intro hwf
  obtain ⟨h0, h1, h2, h3, h4, h5, h6⟩ := parts_6_1_5_5_6_3_6 _ _ _ _ _ _ _ (w := encode (.fplen2 c d a p)) rfl
  have hc := cbit_fld h1
  refine (decodeWord_frame h0).trans ?_
  generalize encode (.fplen2 c d a p) = w at *
  unfold decFrame
  rw [h6, h4, h2, h3, h5, hc]
  exact unlessSet_wf hwf rfl

theorem fpgtag (c : Bool) (d : BitVec 5) (a : BitVec 5) (p : BitVec 3) : Statement (.fpgtag c d a p) := by
  intro hwf
  obtain ⟨h0, h1, h2, h3, h4, h5, h6⟩ := parts_6_1_5_5_6_3_6 _ _ _ _ _ _ _ (w := encode (.fpgtag c d a p)) rfl
  have hc := cbit_fld h1
  refine (decodeWord_frame h0).trans ?_
  generalize encode (.fpgtag c d a p) = w at *
  unfold decFrame
  rw [h6, h4, h2, h3, h5, hc]
  exact unlessSet_wf hwf rfl

theorem fpstagVx (c : Bool) (d : BitVec 5) (a : BitVec 5) (s : BitVec 6) (p : BitVec 3) : Statement (.fpstagVx c d a s p) := by
  intro hwf
  obtain ⟨h0, h1, h2, h3, h4, h5, h6⟩ := parts_6_1_5_5_6_3_6 _ _ _ _ _ _ _ (w := encode (.fpstagVx c d a s p)) rfl
  have hc := cbit_fld h1
  refine (decodeWord_frame h0).trans ?_
  generalize encode (.fpstagVx c d a s p) = w at *
  unfold decFrame
  rw [h6, h2, h3, h4, h5, hc]
  exact unlessSet_wf hwf rfl

theorem fpstagVv (c : Bool) (d : BitVec 5) (a : BitVec 5) (b : BitVec 5) (p : BitVec 3) : Statement (.fpstagVv c d a b p) := by
  intro hwf
  obtain ⟨h0, h1, h2, h3, h4, h5, h6, h7⟩ := parts_6_1_5_5_1_5_3_6 _ _ _ _ _ _ _ _ (w := encode (.fpstagVv c d a b p)) rfl
  have hc := cbit_fld h1
  refine (decodeWord_frame h0).trans ?_
  generalize encode (.fpstagVv c d a b p) = w at *
  unfold decFrame
  rw [h7, h4, h2, h3, h5, h6, hc]
  exact unlessSet_wf hwf rfl

theorem frset (d : BitVec 6) (a : BitVec 6) (b : BitVec 6) : Statement (.frset d a b) := by
  intro hwf
  obtain ⟨h0, h1, h2, h3, h4⟩ := parts_6_6_6_6_8 _ _ _ _ _ (w := encode (.frset d a b)) rfl
  refine (decodeWord_trellis h0).trans ?_
  generalize encode (.frset d a b) = w at *
  unfold decTrellis
  rw [h4, h1, h2, h3]
  exact unlessSet_wf hwf rfl

theorem frdel (d : BitVec 6) (a : BitVec 6) (b : BitVec 6) : Statement (.frdel d a b) := by
  intro hwf
  obtain ⟨h0, h1, h2, h3, h4⟩ := parts_6_6_6_6_8 _ _ _ _ _ (w := encode (.frdel d a b)) rfl
  refine (decodeWord_trellis h0).trans ?_
  generalize encode (.frdel d a b) = w at *
  unfold decTrellis
  rw [h4, h1, h2, h3]
  exact unlessSet_wf hwf rfl

theorem frfence : Statement .frfence := by
  intro hwf
  have h0 := parts_32 _ (w := encode .frfence) rfl
  have g0 : fld (encode .frfence) 26 6 = 48#6 := (fld_sub h0 26 6 (by decide) (by decide)).trans (by decide)
  have g1 : fld (encode .frfence) 0 8 = 2#8 := (fld_sub h0 0 8 (by decide) (by decide)).trans (by decide)
  have g2 : fld (encode .frfence) 8 18 = 0#18 := (fld_sub h0 8 18 (by decide) (by decide)).trans (by decide)
  refine (decodeWord_trellis g0).trans ?_
  generalize encode .frfence = w at *
  unfold decTrellis
  rw [g1, g2]
  exact unlessSet_wf hwf rfl

theorem frlook (d : BitVec 6) (a : BitVec 6) (b : BitVec 6) : Statement (.frlook d a b) := by
  intro hwf
  obtain ⟨h0, h1, h2, h3, h4⟩ := parts_6_6_6_6_8 _ _ _ _ _ (w := encode (.frlook d a b)) rfl
  refine (decodeWord_trellis h0).trans ?_
  generalize encode (.frlook d a b) = w at *
  unfold decTrellis
  rw [h4, h1, h2, h3]
  exact unlessSet_wf hwf rfl

theorem chainCacheInvalidationAck (core : Nat) (node : Nat) : Statement (.chainCacheInvalidationAck core node) := fun h => nomatch h

theorem retentionWake (core : Nat) : Statement (.retentionWake core) := fun h => nomatch h

theorem mstl (c : Bool) (x : BitVec 6) (y : BitVec 6) : Statement (.mstl c x y) := by
  intro hwf
  obtain ⟨h0, h1, h2, h3, h4⟩ := parts_6_1_13_6_6 _ _ _ _ _ (w := encode (.mstl c x y)) rfl
  have g0 : fld (encode (.mstl c x y)) 21 4 = 0#4 := (fld_sub h2 21 4 (by decide) (by decide)).trans (by decide)
  have g1 : fld (encode (.mstl c x y)) 12 9 = 0#9 := (fld_sub h2 12 9 (by decide) (by decide)).trans (by decide)
  have hc := cbit_fld h1
  refine (decodeWord_matrix h0).trans ?_
  generalize encode (.mstl c x y) = w at *
  unfold decMatrix
  rw [g0, g1, h3, h4, hc]
  exact unlessSet_wf hwf rfl

theorem mlds (c : Bool) (v : BitVec 5) (x : BitVec 6) (y : BitVec 6) : Statement (.mlds c v x y) := by
  intro hwf
  obtain ⟨h0, h1, h2, h3, h4, h5⟩ := parts_6_1_8_5_6_6 _ _ _ _ _ _ (w := encode (.mlds c v x y)) rfl
  have g0 : fld (encode (.mlds c v x y)) 21 4 = 1#4 := (fld_sub h2 21 4 (by decide) (by decide)).trans (by decide)
  have g1 : fld (encode (.mlds c v x y)) 17 4 = 0#4 := (fld_sub h2 17 4 (by decide) (by decide)).trans (by decide)
  have hc := cbit_fld h1
  refine (decodeWord_matrix h0).trans ?_
  generalize encode (.mlds c v x y) = w at *
  unfold decMatrix
  rw [g0, g1, h3, h4, h5, hc]
  exact unlessSet_wf hwf rfl

theorem msow (c : Bool) (v : BitVec 5) (x : BitVec 6) : Statement (.msow c v x) := by
  intro hwf
  obtain ⟨h0, h1, h2, h3, h4, h5⟩ := parts_6_1_8_5_6_6 _ _ _ _ _ _ (w := encode (.msow c v x)) rfl
  have g0 : fld (encode (.msow c v x)) 21 4 = 2#4 := (fld_sub h2 21 4 (by decide) (by decide)).trans (by decide)
  have g1 : fld (encode (.msow c v x)) 17 4 = 0#4 := (fld_sub h2 17 4 (by decide) (by decide)).trans (by decide)
  have hc := cbit_fld h1
  refine (decodeWord_matrix h0).trans ?_
  generalize encode (.msow c v x) = w at *
  unfold decMatrix
  rw [g0, h5, g1, h3, h4, hc]
  exact unlessSet_wf hwf rfl

theorem mswap (c : Bool) : Statement (.mswap c) := by
  intro hwf
  obtain ⟨h0, h1, h2⟩ := parts_6_1_25 _ _ _ (w := encode (.mswap c)) rfl
  have g0 : fld (encode (.mswap c)) 21 4 = 3#4 := (fld_sub h2 21 4 (by decide) (by decide)).trans (by decide)
  have g1 : fld (encode (.mswap c)) 0 21 = 0#21 := (fld_sub h2 0 21 (by decide) (by decide)).trans (by decide)
  have hc := cbit_fld h1
  refine (decodeWord_matrix h0).trans ?_
  generalize encode (.mswap c) = w at *
  unfold decMatrix
  rw [g0, g1, hc]
  exact unlessSet_wf hwf rfl

theorem mmac (c : Bool) (k : BitVec 4) (v : BitVec 5) (x : BitVec 6) : Statement (.mmac c k v x) := by
  intro hwf
  obtain ⟨h0, h1, h2, h3, h4, h5, h6⟩ := parts_6_1_4_4_5_6_6 _ _ _ _ _ _ _ (w := encode (.mmac c k v x)) rfl
  have hc := cbit_fld h1
  refine (decodeWord_matrix h0).trans ?_
  generalize encode (.mmac c k v x) = w at *
  unfold decMatrix
  rw [h2, h6, h3, h4, h5, hc]
  exact unlessSet_wf hwf rfl

theorem mmacM (c : Bool) (k : BitVec 4) (v : BitVec 5) (x : BitVec 6) (p : BitVec 3) : Statement (.mmacM c k v x p) := by
  intro hwf
  obtain ⟨h0, h1, h2, h3, h4, h5, h6, h7⟩ := parts_6_1_4_4_5_6_3_3 _ _ _ _ _ _ _ _ (w := encode (.mmacM c k v x p)) rfl
  have hc := cbit_fld h1
  refine (decodeWord_matrix h0).trans ?_
  generalize encode (.mmacM c k v x p) = w at *
  unfold decMatrix
  rw [h2, h6, h3, h4, h5, h7, hc]
  exact unlessSet_wf hwf rfl

theorem macz (c : Bool) (k : BitVec 4) : Statement (.macz c k) := by
  intro hwf
  obtain ⟨h0, h1, h2, h3, h4⟩ := parts_6_1_4_4_17 _ _ _ _ _ (w := encode (.macz c k)) rfl
  have hc := cbit_fld h1
  refine (decodeWord_matrix h0).trans ?_
  generalize encode (.macz c k) = w at *
  unfold decMatrix
  rw [h2, h4, h3, hc]
  exact unlessSet_wf hwf rfl

theorem macld (c : Bool) (k : BitVec 4) (v : BitVec 5) (x : BitVec 6) (y : BitVec 6) : Statement (.macld c k v x y) := by
  intro hwf
  obtain ⟨h0, h1, h2, h3, h4, h5, h6⟩ := parts_6_1_4_4_5_6_6 _ _ _ _ _ _ _ (w := encode (.macld c k v x y)) rfl
  have hc := cbit_fld h1
  refine (decodeWord_matrix h0).trans ?_
  generalize encode (.macld c k v x y) = w at *
  unfold decMatrix
  rw [h2, h3, h4, h5, h6, hc]
  exact unlessSet_wf hwf rfl

theorem macst (c : Bool) (k : BitVec 4) (v : BitVec 5) (x : BitVec 6) (y : BitVec 6) : Statement (.macst c k v x y) := by
  intro hwf
  obtain ⟨h0, h1, h2, h3, h4, h5, h6⟩ := parts_6_1_4_4_5_6_6 _ _ _ _ _ _ _ (w := encode (.macst c k v x y)) rfl
  have hc := cbit_fld h1
  refine (decodeWord_matrix h0).trans ?_
  generalize encode (.macst c k v x y) = w at *
  unfold decMatrix
  rw [h2, h3, h4, h5, h6, hc]
  exact unlessSet_wf hwf rfl

theorem macin (c : Bool) (k : BitVec 4) (v : BitVec 5) (x : BitVec 6) : Statement (.macin c k v x) := by
  intro hwf
  obtain ⟨h0, h1, h2, h3, h4, h5, h6⟩ := parts_6_1_4_4_5_6_6 _ _ _ _ _ _ _ (w := encode (.macin c k v x)) rfl
  have hc := cbit_fld h1
  refine (decodeWord_matrix h0).trans ?_
  generalize encode (.macin c k v x) = w at *
  unfold decMatrix
  rw [h2, h6, h3, h4, h5, hc]
  exact unlessSet_wf hwf rfl

theorem mseedgen (c : Bool) (v : BitVec 5) (x : BitVec 6) (y : BitVec 6) : Statement (.mseedgen c v x y) := by
  intro hwf
  obtain ⟨h0, h1, h2, h3, h4, h5⟩ := parts_6_1_8_5_6_6 _ _ _ _ _ _ (w := encode (.mseedgen c v x y)) rfl
  have g0 : fld (encode (.mseedgen c v x y)) 21 4 = 10#4 := (fld_sub h2 21 4 (by decide) (by decide)).trans (by decide)
  have g1 : fld (encode (.mseedgen c v x y)) 17 4 = 0#4 := (fld_sub h2 17 4 (by decide) (by decide)).trans (by decide)
  have hc := cbit_fld h1
  refine (decodeWord_matrix h0).trans ?_
  generalize encode (.mseedgen c v x y) = w at *
  unfold decMatrix
  rw [g0, g1, h3, h4, h5, hc]
  exact unlessSet_wf hwf rfl

theorem mseedscan (c : Bool) (v : BitVec 5) (x : BitVec 6) (y : BitVec 6) : Statement (.mseedscan c v x y) := by
  intro hwf
  obtain ⟨h0, h1, h2, h3, h4, h5⟩ := parts_6_1_8_5_6_6 _ _ _ _ _ _ (w := encode (.mseedscan c v x y)) rfl
  have g0 : fld (encode (.mseedscan c v x y)) 21 4 = 11#4 := (fld_sub h2 21 4 (by decide) (by decide)).trans (by decide)
  have g1 : fld (encode (.mseedscan c v x y)) 17 4 = 0#4 := (fld_sub h2 17 4 (by decide) (by decide)).trans (by decide)
  have hc := cbit_fld h1
  refine (decodeWord_matrix h0).trans ?_
  generalize encode (.mseedscan c v x y) = w at *
  unfold decMatrix
  rw [g0, g1, h3, h4, h5, hc]
  exact unlessSet_wf hwf rfl

theorem cpy (d : BitVec 6) (a : BitVec 6) (b : BitVec 6) (p : BitVec 2) (s : BitVec 3) : Statement (.cpy d a b p s) := by
  intro hwf
  obtain ⟨h0, h1, h2, h3, h4, h5⟩ := parts_9_6_6_6_2_3 _ _ _ _ _ _ (w := encode (.cpy d a b p s)) rfl
  have g0 : fld (encode (.cpy d a b p s)) 26 6 = 50#6 := (fld_sub h0 26 6 (by decide) (by decide)).trans (by decide)
  have g1 : fld (encode (.cpy d a b p s)) 23 3 = 0#3 := (fld_sub h0 23 3 (by decide) (by decide)).trans (by decide)
  refine (decodeWord_engine g0).trans ?_
  generalize encode (.cpy d a b p s) = w at *
  unfold decEngine
  rw [g1, h1, h2, h3, h4, h5]
  exact unlessSet_wf hwf rfl

theorem cpyq (d : BitVec 6) (a : BitVec 6) (s : BitVec 3) : Statement (.cpyq d a s) := by
  intro hwf
  obtain ⟨h0, h1, h2, h3, h4⟩ := parts_9_6_6_8_3 _ _ _ _ _ (w := encode (.cpyq d a s)) rfl
  have g0 : fld (encode (.cpyq d a s)) 26 6 = 50#6 := (fld_sub h0 26 6 (by decide) (by decide)).trans (by decide)
  have g1 : fld (encode (.cpyq d a s)) 23 3 = 1#3 := (fld_sub h0 23 3 (by decide) (by decide)).trans (by decide)
  refine (decodeWord_engine g0).trans ?_
  generalize encode (.cpyq d a s) = w at *
  unfold decEngine
  rw [g1, h3, h1, h2, h4]
  exact unlessSet_wf hwf rfl

theorem cpyw (d : BitVec 6) (a : BitVec 6) : Statement (.cpyw d a) := by
  intro hwf
  obtain ⟨h0, h1, h2, h3⟩ := parts_9_6_6_11 _ _ _ _ (w := encode (.cpyw d a)) rfl
  have g0 : fld (encode (.cpyw d a)) 26 6 = 50#6 := (fld_sub h0 26 6 (by decide) (by decide)).trans (by decide)
  have g1 : fld (encode (.cpyw d a)) 23 3 = 2#3 := (fld_sub h0 23 3 (by decide) (by decide)).trans (by decide)
  have g2 : fld (encode (.cpyw d a)) 0 5 = 0#5 := (fld_sub h3 0 5 (by decide) (by decide)).trans (by decide)
  have g3 : fld (encode (.cpyw d a)) 5 6 = 0#6 := (fld_sub h3 5 6 (by decide) (by decide)).trans (by decide)
  refine (decodeWord_engine g0).trans ?_
  generalize encode (.cpyw d a) = w at *
  unfold decEngine
  rw [g1, g2, g3, h1, h2]
  exact unlessSet_wf hwf rfl

theorem cpywP (d : BitVec 6) (a : BitVec 6) : Statement (.cpywP d a) := by
  intro hwf
  obtain ⟨h0, h1, h2, h3⟩ := parts_9_6_6_11 _ _ _ _ (w := encode (.cpywP d a)) rfl
  have g0 : fld (encode (.cpywP d a)) 26 6 = 50#6 := (fld_sub h0 26 6 (by decide) (by decide)).trans (by decide)
  have g1 : fld (encode (.cpywP d a)) 23 3 = 2#3 := (fld_sub h0 23 3 (by decide) (by decide)).trans (by decide)
  have g2 : fld (encode (.cpywP d a)) 0 5 = 1#5 := (fld_sub h3 0 5 (by decide) (by decide)).trans (by decide)
  have g3 : fld (encode (.cpywP d a)) 5 6 = 0#6 := (fld_sub h3 5 6 (by decide) (by decide)).trans (by decide)
  refine (decodeWord_engine g0).trans ?_
  generalize encode (.cpywP d a) = w at *
  unfold decEngine
  rw [g1, g2, g3, h1, h2]
  exact unlessSet_wf hwf rfl

theorem wdqry (a : BitVec 6) : Statement (.wdqry a) := by
  intro hwf
  obtain ⟨h0, h1, h2⟩ := parts_15_6_11 _ _ _ (w := encode (.wdqry a)) rfl
  have g0 : fld (encode (.wdqry a)) 26 6 = 50#6 := (fld_sub h0 26 6 (by decide) (by decide)).trans (by decide)
  have g1 : fld (encode (.wdqry a)) 23 3 = 3#3 := (fld_sub h0 23 3 (by decide) (by decide)).trans (by decide)
  have g2 : fld (encode (.wdqry a)) 17 6 = 0#6 := (fld_sub h0 17 6 (by decide) (by decide)).trans (by decide)
  refine (decodeWord_engine g0).trans ?_
  generalize encode (.wdqry a) = w at *
  unfold decEngine
  rw [g1, h2, g2, h1]
  exact unlessSet_wf hwf rfl

theorem wmbind (a : BitVec 6) (b : BitVec 6) (k : BitVec 2) : Statement (.wmbind a b k) := by
  intro hwf
  obtain ⟨h0, h1, h2, h3, h4⟩ := parts_15_6_6_3_2 _ _ _ _ _ (w := encode (.wmbind a b k)) rfl
  have g0 : fld (encode (.wmbind a b k)) 26 6 = 50#6 := (fld_sub h0 26 6 (by decide) (by decide)).trans (by decide)
  have g1 : fld (encode (.wmbind a b k)) 23 3 = 4#3 := (fld_sub h0 23 3 (by decide) (by decide)).trans (by decide)
  have g2 : fld (encode (.wmbind a b k)) 17 6 = 0#6 := (fld_sub h0 17 6 (by decide) (by decide)).trans (by decide)
  refine (decodeWord_engine g0).trans ?_
  generalize encode (.wmbind a b k) = w at *
  unfold decEngine
  rw [g1, h3, g2, h1, h2, h4]
  exact unlessSet_wf hwf rfl

theorem wmpub (a : BitVec 6) (b : BitVec 6) : Statement (.wmpub a b) := by
  intro hwf
  obtain ⟨h0, h1, h2, h3⟩ := parts_15_6_6_5 _ _ _ _ (w := encode (.wmpub a b)) rfl
  have g0 : fld (encode (.wmpub a b)) 26 6 = 50#6 := (fld_sub h0 26 6 (by decide) (by decide)).trans (by decide)
  have g1 : fld (encode (.wmpub a b)) 23 3 = 5#3 := (fld_sub h0 23 3 (by decide) (by decide)).trans (by decide)
  have g2 : fld (encode (.wmpub a b)) 17 6 = 0#6 := (fld_sub h0 17 6 (by decide) (by decide)).trans (by decide)
  refine (decodeWord_engine g0).trans ?_
  generalize encode (.wmpub a b) = w at *
  unfold decEngine
  rw [g1, h3, g2, h1, h2]
  exact unlessSet_wf hwf rfl

theorem copyComplete (plot : Nat) (ctx : Nat) (ticket : Nat) : Statement (.copyComplete plot ctx ticket) := fun h => nomatch h

theorem wdqryAnswer (ctids : List (BitVec 10)) : Statement (.wdqryAnswer ctids) := fun h => nomatch h

theorem watermarkVisible (slot : Nat) : Statement (.watermarkVisible slot) := fun h => nomatch h

theorem launch (d : BitVec 6) (a : BitVec 6) : Statement (.launch d a) := by
  intro hwf
  obtain ⟨h0, h1, h2, h3⟩ := parts_9_6_6_11 _ _ _ _ (w := encode (.launch d a)) rfl
  have g0 : fld (encode (.launch d a)) 26 6 = 51#6 := (fld_sub h0 26 6 (by decide) (by decide)).trans (by decide)
  have g1 : fld (encode (.launch d a)) 23 3 = 0#3 := (fld_sub h0 23 3 (by decide) (by decide)).trans (by decide)
  refine (decodeWord_launch g0).trans ?_
  generalize encode (.launch d a) = w at *
  unfold decLaunch
  rw [g1, h3, h1, h2]
  exact unlessSet_wf hwf rfl

theorem lspec (d : BitVec 6) (a : BitVec 6) : Statement (.lspec d a) := by
  intro hwf
  obtain ⟨h0, h1, h2, h3⟩ := parts_9_6_6_11 _ _ _ _ (w := encode (.lspec d a)) rfl
  have g0 : fld (encode (.lspec d a)) 26 6 = 51#6 := (fld_sub h0 26 6 (by decide) (by decide)).trans (by decide)
  have g1 : fld (encode (.lspec d a)) 23 3 = 1#3 := (fld_sub h0 23 3 (by decide) (by decide)).trans (by decide)
  refine (decodeWord_launch g0).trans ?_
  generalize encode (.lspec d a) = w at *
  unfold decLaunch
  rw [g1, h3, h1, h2]
  exact unlessSet_wf hwf rfl

theorem shpub (a : BitVec 6) (b : BitVec 6) : Statement (.shpub a b) := by
  intro hwf
  obtain ⟨h0, h1, h2, h3⟩ := parts_15_6_6_5 _ _ _ _ (w := encode (.shpub a b)) rfl
  have g0 : fld (encode (.shpub a b)) 26 6 = 51#6 := (fld_sub h0 26 6 (by decide) (by decide)).trans (by decide)
  have g1 : fld (encode (.shpub a b)) 23 3 = 2#3 := (fld_sub h0 23 3 (by decide) (by decide)).trans (by decide)
  have g2 : fld (encode (.shpub a b)) 17 6 = 0#6 := (fld_sub h0 17 6 (by decide) (by decide)).trans (by decide)
  refine (decodeWord_launch g0).trans ?_
  generalize encode (.shpub a b) = w at *
  unfold decLaunch
  rw [g1, h3, g2, h1, h2]
  exact unlessSet_wf hwf rfl

theorem allocr (d : BitVec 6) (a : BitVec 6) (b : BitVec 6) : Statement (.allocr d a b) := by
  intro hwf
  obtain ⟨h0, h1, h2, h3, h4⟩ := parts_9_6_6_6_5 _ _ _ _ _ (w := encode (.allocr d a b)) rfl
  have g0 : fld (encode (.allocr d a b)) 26 6 = 51#6 := (fld_sub h0 26 6 (by decide) (by decide)).trans (by decide)
  have g1 : fld (encode (.allocr d a b)) 23 3 = 3#3 := (fld_sub h0 23 3 (by decide) (by decide)).trans (by decide)
  refine (decodeWord_launch g0).trans ?_
  generalize encode (.allocr d a b) = w at *
  unfold decLaunch
  rw [g1, h4, h1, h2, h3]
  exact unlessSet_wf hwf rfl

theorem retract (a : BitVec 6) (b : BitVec 6) : Statement (.retract a b) := by
  intro hwf
  obtain ⟨h0, h1, h2, h3⟩ := parts_15_6_6_5 _ _ _ _ (w := encode (.retract a b)) rfl
  have g0 : fld (encode (.retract a b)) 26 6 = 51#6 := (fld_sub h0 26 6 (by decide) (by decide)).trans (by decide)
  have g1 : fld (encode (.retract a b)) 23 3 = 4#3 := (fld_sub h0 23 3 (by decide) (by decide)).trans (by decide)
  have g2 : fld (encode (.retract a b)) 17 6 = 0#6 := (fld_sub h0 17 6 (by decide) (by decide)).trans (by decide)
  refine (decodeWord_launch g0).trans ?_
  generalize encode (.retract a b) = w at *
  unfold decLaunch
  rw [g1, h3, g2, h1, h2]
  exact unlessSet_wf hwf rfl

theorem lstat (d : BitVec 6) (a : BitVec 6) (l : BitVec 5) : Statement (.lstat d a l) := by
  intro hwf
  obtain ⟨h0, h1, h2, h3, h4⟩ := parts_9_6_6_6_5 _ _ _ _ _ (w := encode (.lstat d a l)) rfl
  have g0 : fld (encode (.lstat d a l)) 26 6 = 51#6 := (fld_sub h0 26 6 (by decide) (by decide)).trans (by decide)
  have g1 : fld (encode (.lstat d a l)) 23 3 = 5#3 := (fld_sub h0 23 3 (by decide) (by decide)).trans (by decide)
  refine (decodeWord_launch g0).trans ?_
  generalize encode (.lstat d a l) = w at *
  unfold decLaunch
  rw [g1, h3, h1, h2, h4]
  exact unlessSet_wf hwf rfl

theorem gangCommit (launch : Nat) (gang : Nat) : Statement (.gangCommit launch gang) := fun h => nomatch h

theorem gangPlace (launch : Nat) (places : List (Nat × Nat × Nat)) : Statement (.gangPlace launch places) := fun h => nomatch h

theorem agePromotion (launch : Nat) : Statement (.agePromotion launch) := fun h => nomatch h

theorem launchComplete (launch : Nat) : Statement (.launchComplete launch) := fun h => nomatch h

theorem barg (c : Bool) (n : BitVec 5) : Statement (.barg c n) := by
  intro hwf
  obtain ⟨h0, h1, h2, h3, h4⟩ := parts_6_1_5_5_15 _ _ _ _ _ (w := encode (.barg c n)) rfl
  have g0 : fld (encode (.barg c n)) 0 6 = 0#6 := (fld_sub h4 0 6 (by decide) (by decide)).trans (by decide)
  have g1 : fld (encode (.barg c n)) 6 9 = 0#9 := (fld_sub h4 6 9 (by decide) (by decide)).trans (by decide)
  have hc := cbit_fld h1
  refine (decodeWord_sync h0).trans ?_
  generalize encode (.barg c n) = w at *
  unfold decSync
  rw [g0, g1, h2, h3, hc]
  exact unlessSet_wf hwf rfl

theorem barw (c : Bool) (n : BitVec 5) : Statement (.barw c n) := by
  intro hwf
  obtain ⟨h0, h1, h2, h3, h4⟩ := parts_6_1_5_5_15 _ _ _ _ _ (w := encode (.barw c n)) rfl
  have g0 : fld (encode (.barw c n)) 0 6 = 1#6 := (fld_sub h4 0 6 (by decide) (by decide)).trans (by decide)
  have g1 : fld (encode (.barw c n)) 6 9 = 0#9 := (fld_sub h4 6 9 (by decide) (by decide)).trans (by decide)
  have hc := cbit_fld h1
  refine (decodeWord_sync h0).trans ?_
  generalize encode (.barw c n) = w at *
  unfold decSync
  rw [g0, g1, h2, h3, hc]
  exact unlessSet_wf hwf rfl

theorem barrierMarkerFire (ctid : BitVec 10) (n : BitVec 2) : Statement (.barrierMarkerFire ctid n) := fun h => nomatch h

theorem vsave (c : Bool) (a : BitVec 6) : Statement (.vsave c a) := by
  intro hwf
  obtain ⟨h0, h1, h2, h3, h4⟩ := parts_6_1_5_6_14 _ _ _ _ _ (w := encode (.vsave c a)) rfl
  have g0 : fld (encode (.vsave c a)) 0 5 = 0#5 := (fld_sub h4 0 5 (by decide) (by decide)).trans (by decide)
  have g1 : fld (encode (.vsave c a)) 5 9 = 0#9 := (fld_sub h4 5 9 (by decide) (by decide)).trans (by decide)
  have hc := cbit_fld h1
  refine (decodeWord_vctx h0).trans ?_
  generalize encode (.vsave c a) = w at *
  unfold decVctx
  rw [g0, g1, h2, h3, hc]
  exact unlessSet_wf hwf rfl

theorem vrestore (c : Bool) (a : BitVec 6) : Statement (.vrestore c a) := by
  intro hwf
  obtain ⟨h0, h1, h2, h3, h4⟩ := parts_6_1_5_6_14 _ _ _ _ _ (w := encode (.vrestore c a)) rfl
  have g0 : fld (encode (.vrestore c a)) 0 5 = 1#5 := (fld_sub h4 0 5 (by decide) (by decide)).trans (by decide)
  have g1 : fld (encode (.vrestore c a)) 5 9 = 0#9 := (fld_sub h4 5 9 (by decide) (by decide)).trans (by decide)
  have hc := cbit_fld h1
  refine (decodeWord_vctx h0).trans ?_
  generalize encode (.vrestore c a) = w at *
  unfold decVctx
  rw [g0, g1, h2, h3, hc]
  exact unlessSet_wf hwf rfl

theorem msave (c : Bool) (a : BitVec 6) : Statement (.msave c a) := by
  intro hwf
  obtain ⟨h0, h1, h2, h3, h4⟩ := parts_6_1_5_6_14 _ _ _ _ _ (w := encode (.msave c a)) rfl
  have g0 : fld (encode (.msave c a)) 0 5 = 2#5 := (fld_sub h4 0 5 (by decide) (by decide)).trans (by decide)
  have g1 : fld (encode (.msave c a)) 5 9 = 0#9 := (fld_sub h4 5 9 (by decide) (by decide)).trans (by decide)
  have hc := cbit_fld h1
  refine (decodeWord_vctx h0).trans ?_
  generalize encode (.msave c a) = w at *
  unfold decVctx
  rw [g0, g1, h2, h3, hc]
  exact unlessSet_wf hwf rfl

theorem mrestore (c : Bool) (a : BitVec 6) : Statement (.mrestore c a) := by
  intro hwf
  obtain ⟨h0, h1, h2, h3, h4⟩ := parts_6_1_5_6_14 _ _ _ _ _ (w := encode (.mrestore c a)) rfl
  have g0 : fld (encode (.mrestore c a)) 0 5 = 3#5 := (fld_sub h4 0 5 (by decide) (by decide)).trans (by decide)
  have g1 : fld (encode (.mrestore c a)) 5 9 = 0#9 := (fld_sub h4 5 9 (by decide) (by decide)).trans (by decide)
  have hc := cbit_fld h1
  refine (decodeWord_vctx h0).trans ?_
  generalize encode (.mrestore c a) = w at *
  unfold decVctx
  rw [g0, g1, h2, h3, hc]
  exact unlessSet_wf hwf rfl

theorem uopIssue (ctid : BitVec 10) (busy : Bool) : Statement (.uopIssue ctid busy) := fun h => nomatch h

theorem uopComplete (ctid : BitVec 10) : Statement (.uopComplete ctid) := fun h => nomatch h

theorem pageWalk (plot : Walker) (aspace : Nat) (va : Word) : Statement (.pageWalk plot aspace va) := fun h => nomatch h

theorem ownershipTrap (ctid : BitVec 10) (matrix : Bool) : Statement (.ownershipTrap ctid matrix) := fun h => nomatch h

theorem faultRecordPost (ctid : BitVec 10) : Statement (.faultRecordPost ctid) := fun h => nomatch h

theorem waitLineWrite (line : Nat) : Statement (.waitLineWrite line) := fun h => nomatch h

theorem waitDeadline (ctid : BitVec 10) (acc : Bool) : Statement (.waitDeadline ctid acc) := fun h => nomatch h

theorem directoryRead (agent : Nat) (line : Nat) : Statement (.directoryRead agent line) := fun h => nomatch h

theorem directoryWrite (agent : Nat) (line : Nat) : Statement (.directoryWrite agent line) := fun h => nomatch h

theorem directoryEviction (agent : Nat) (line : Nat) : Statement (.directoryEviction agent line) := fun h => nomatch h

theorem directoryAtomic (line : Nat) : Statement (.directoryAtomic line) := fun h => nomatch h

theorem migrationLineCopy : Statement (.migrationLineCopy) := fun h => nomatch h

theorem eccPoison (line : Nat) (src : ErrorUnit) : Statement (.eccPoison line src) := fun h => nomatch h

theorem scrub (line : Nat) (found : ScrubFound) : Statement (.scrub line found) := fun h => nomatch h

theorem logMove (n : Bool) (v : Word) : Statement (.logMove n v) := fun h => nomatch h

theorem registerWrite (offset : Nat) (v : Word) : Statement (.registerWrite offset v) := fun h => nomatch h

theorem plotMake (tva : Word) : Statement (.plotMake tva) := fun h => nomatch h

theorem plotFree : Statement (.plotFree) := fun h => nomatch h

theorem corecfg : Statement (.corecfg) := fun h => nomatch h

theorem resume : Statement (.resume) := fun h => nomatch h

theorem preempt : Statement (.preempt) := fun h => nomatch h

theorem abandon : Statement (.abandon) := fun h => nomatch h

theorem inval : Statement (.inval) := fun h => nomatch h

theorem migrate : Statement (.migrate) := fun h => nomatch h

theorem sweep : Statement (.sweep) := fun h => nomatch h

theorem cancel : Statement (.cancel) := fun h => nomatch h

theorem queue : Statement (.queue) := fun h => nomatch h

theorem collect (parts : List CollectPart) : Statement (.collect parts) := fun h => nomatch h

theorem collectMemberTimeout : Statement (.collectMemberTimeout) := fun h => nomatch h

theorem grant : Statement (.grant) := fun h => nomatch h

theorem trellisRepair : Statement (.trellisRepair) := fun h => nomatch h

theorem hostwin : Statement (.hostwin) := fun h => nomatch h

theorem addrwin : Statement (.addrwin) := fun h => nomatch h

theorem coordinatorBadCode : Statement (.coordinatorBadCode) := fun h => nomatch h

theorem queueKick (offset : Nat) (write : Option Word) : Statement (.queueKick offset write) := fun h => nomatch h

theorem launchPacket (q : BitVec 6) : Statement (.launchPacket q) := fun h => nomatch h

theorem graphLoad (q : BitVec 6) : Statement (.graphLoad q) := fun h => nomatch h

theorem graphUnload (q : BitVec 6) : Statement (.graphUnload q) := fun h => nomatch h

theorem graphRun (q : BitVec 6) : Statement (.graphRun q) := fun h => nomatch h

theorem waitPacket (q : BitVec 6) : Statement (.waitPacket q) := fun h => nomatch h

theorem signal (q : BitVec 6) : Statement (.signal q) := fun h => nomatch h

theorem packetStampRetry (q : BitVec 6) : Statement (.packetStampRetry q) := fun h => nomatch h

theorem queueStale (q : BitVec 6) : Statement (.queueStale q) := fun h => nomatch h

theorem interrupt (core : BitVec 4) (src : BitVec 3) : Statement (.interrupt core src) := fun h => nomatch h

theorem timerInterrupt (core : BitVec 4) : Statement (.timerInterrupt core) := fun h => nomatch h

theorem boot : Statement .boot := fun h => nomatch h

theorem leaseRenew (die : BitVec 3) : Statement (.leaseRenew die) := fun h => nomatch h

theorem leasePoll (die : BitVec 3) : Statement (.leasePoll die) := fun h => nomatch h

theorem heartbeatWrite (die : BitVec 3) : Statement (.heartbeatWrite die) := fun h => nomatch h

theorem heartbeatCheck (leader : BitVec 3) (die : BitVec 3) : Statement (.heartbeatCheck leader die) := fun h => nomatch h

theorem firmwareEccHalt (die : BitVec 3) : Statement (.firmwareEccHalt die) := fun h => nomatch h

theorem sensorRead (die : BitVec 3) (reading : Reading) : Statement (.sensorRead die reading) := fun h => nomatch h

theorem clockStep (die : BitVec 3) : Statement (.clockStep die) := fun h => nomatch h

theorem getVersion : Statement (.getVersion) := fun h => nomatch h

theorem getCapabilities : Statement (.getCapabilities) := fun h => nomatch h

theorem negotiateAlgorithms : Statement (.negotiateAlgorithms) := fun h => nomatch h

theorem getDigests : Statement (.getDigests) := fun h => nomatch h

theorem getCertificate : Statement (.getCertificate) := fun h => nomatch h

theorem challenge : Statement (.challenge) := fun h => nomatch h

theorem getMeasurements (index : BitVec 8) (nonce : BitVec 256) : Statement (.getMeasurements index nonce) := fun h => nomatch h

theorem hostBar2Access (offset : Nat) (n : Nat) (write : Option Nat) : Statement (.hostBar2Access offset n write) := fun h => nomatch h

theorem cxlMemRead (offset : Nat) (n : Nat) : Statement (.cxlMemRead offset n) := fun h => nomatch h

theorem cxlMemWrite (offset : Nat) (n : Nat) (x : Nat) : Statement (.cxlMemWrite offset n x) := fun h => nomatch h

theorem dataFlit (port : BitVec 4) (flit : BitVec 2048) : Statement (.dataFlit port flit) := fun h => nomatch h

theorem nakFlit (port : BitVec 4) (flit : BitVec 2048) : Statement (.nakFlit port flit) := fun h => nomatch h

theorem pauseFlit (port : BitVec 4) (flit : BitVec 2048) : Statement (.pauseFlit port flit) := fun h => nomatch h

theorem resumeFlit (port : BitVec 4) (flit : BitVec 2048) : Statement (.resumeFlit port flit) := fun h => nomatch h

theorem idleFlit (port : BitVec 4) (flit : BitVec 2048) : Statement (.idleFlit port flit) := fun h => nomatch h

theorem capabilityFlit (port : BitVec 4) (flit : BitVec 2048) : Statement (.capabilityFlit port flit) := fun h => nomatch h

theorem linkRetrain (port : BitVec 4) (ok : Bool) (bad : BitVec 8) : Statement (.linkRetrain port ok bad) := fun h => nomatch h

theorem remoteRequest (src : BitVec 5) (plot : BitVec 3) (pa : Nat) (n : Nat) (op : RemoteOp) : Statement (.remoteRequest src plot pa n op) := fun h => nomatch h

theorem remoteResponse (key : Nat) (ok : Bool) (x : Nat) : Statement (.remoteResponse key ok x) := fun h => nomatch h

theorem remoteTimeout (key : Nat) : Statement (.remoteTimeout key) := fun h => nomatch h

theorem timeSyncExchange (t1 : Word) (t2 : Word) (t3 : Word) (t4 : Word) (hops : Nat) : Statement (.timeSyncExchange t1 t2 t3 t4 hops) := fun h => nomatch h

theorem retentionSleep (core : Nat) : Statement (.retentionSleep core) := fun h => nomatch h

end Sys2Proof.Laws.RoundTrip
end

