-- ==== Sys2Proof/Laws/State.lean ====
section
/-! SUPPORT. The fields of State under its updates: one lemma per field per update. -/
namespace Sys2Proof.Laws
open Sys2Proof.Machine

@[simp] theorem setSys_who (s : State) (n : Nat) (c : SysCore) : (s.setSys n c).who = s.who := rfl
@[simp] theorem setSys_ir (s : State) (n : Nat) (c : SysCore) : (s.setSys n c).ir = s.ir := rfl
@[simp] theorem setSys_ct (s : State) (n : Nat) (c : SysCore) : (s.setSys n c).ct = s.ct := rfl
@[simp] theorem setSys_others (s : State) (n : Nat) (c : SysCore) : (s.setSys n c).others = s.others := rfl
@[simp] theorem setSys_mem (s : State) (n : Nat) (c : SysCore) : (s.setSys n c).mem = s.mem := rfl
@[simp] theorem setSys_sram (s : State) (n : Nat) (c : SysCore) : (s.setSys n c).sram = s.sram := rfl
@[simp] theorem setSys_pkg (s : State) (n : Nat) (c : SysCore) : (s.setSys n c).pkg = s.pkg := rfl
@[simp] theorem setSys_time (s : State) (n : Nat) (c : SysCore) : (s.setSys n c).time = s.time := rfl
@[simp] theorem setSys_events (s : State) (n : Nat) (c : SysCore) : (s.setSys n c).events = s.events := rfl
@[simp] theorem setSys_plan (s : State) (n : Nat) (c : SysCore) : (s.setSys n c).plan = s.plan := rfl
@[simp] theorem setSys_ticks (s : State) (n : Nat) (c : SysCore) : (s.setSys n c).ticks = s.ticks := rfl
@[simp] theorem setSys_draws (s : State) (n : Nat) (c : SysCore) : (s.setSys n c).draws = s.draws := rfl
@[simp] theorem setSys_powered (s : State) (n : Nat) (c : SysCore) : (s.setSys n c).powered = s.powered := rfl

@[simp] theorem setPlot_who (s : State) (p : Plot) : (s.setPlot p).who = s.who := rfl
@[simp] theorem setPlot_ir (s : State) (p : Plot) : (s.setPlot p).ir = s.ir := rfl
@[simp] theorem setPlot_ct (s : State) (p : Plot) : (s.setPlot p).ct = s.ct := rfl
@[simp] theorem setPlot_others (s : State) (p : Plot) : (s.setPlot p).others = s.others := rfl
@[simp] theorem setPlot_sys (s : State) (p : Plot) : (s.setPlot p).sys = s.sys := rfl
@[simp] theorem setPlot_mem (s : State) (p : Plot) : (s.setPlot p).mem = s.mem := rfl
@[simp] theorem setPlot_sram (s : State) (p : Plot) : (s.setPlot p).sram = s.sram := rfl
@[simp] theorem setPlot_time (s : State) (p : Plot) : (s.setPlot p).time = s.time := rfl
@[simp] theorem setPlot_events (s : State) (p : Plot) : (s.setPlot p).events = s.events := rfl
@[simp] theorem setPlot_plan (s : State) (p : Plot) : (s.setPlot p).plan = s.plan := rfl
@[simp] theorem setPlot_ticks (s : State) (p : Plot) : (s.setPlot p).ticks = s.ticks := rfl
@[simp] theorem setPlot_draws (s : State) (p : Plot) : (s.setPlot p).draws = s.draws := rfl
@[simp] theorem setPlot_powered (s : State) (p : Plot) : (s.setPlot p).powered = s.powered := rfl

@[simp] theorem setLaunch_who (s : State) (l : Launch) : (s.setLaunch l).who = s.who := rfl
@[simp] theorem setLaunch_ir (s : State) (l : Launch) : (s.setLaunch l).ir = s.ir := rfl
@[simp] theorem setLaunch_ct (s : State) (l : Launch) : (s.setLaunch l).ct = s.ct := rfl
@[simp] theorem setLaunch_others (s : State) (l : Launch) : (s.setLaunch l).others = s.others := rfl
@[simp] theorem setLaunch_sys (s : State) (l : Launch) : (s.setLaunch l).sys = s.sys := rfl
@[simp] theorem setLaunch_mem (s : State) (l : Launch) : (s.setLaunch l).mem = s.mem := rfl
@[simp] theorem setLaunch_sram (s : State) (l : Launch) : (s.setLaunch l).sram = s.sram := rfl
@[simp] theorem setLaunch_time (s : State) (l : Launch) : (s.setLaunch l).time = s.time := rfl
@[simp] theorem setLaunch_events (s : State) (l : Launch) : (s.setLaunch l).events = s.events := rfl
@[simp] theorem setLaunch_plan (s : State) (l : Launch) : (s.setLaunch l).plan = s.plan := rfl
@[simp] theorem setLaunch_ticks (s : State) (l : Launch) : (s.setLaunch l).ticks = s.ticks := rfl
@[simp] theorem setLaunch_draws (s : State) (l : Launch) : (s.setLaunch l).draws = s.draws := rfl
@[simp] theorem setLaunch_powered (s : State) (l : Launch) : (s.setLaunch l).powered = s.powered := rfl

@[simp] theorem onCt_who (s : State) (id : BitVec 10) (f : Ct → Ct) : (s.onCt id f).who = s.who := rfl
@[simp] theorem onCt_ir (s : State) (id : BitVec 10) (f : Ct → Ct) : (s.onCt id f).ir = s.ir := rfl
@[simp] theorem onCt_sys (s : State) (id : BitVec 10) (f : Ct → Ct) : (s.onCt id f).sys = s.sys := rfl
@[simp] theorem onCt_mem (s : State) (id : BitVec 10) (f : Ct → Ct) : (s.onCt id f).mem = s.mem := rfl
@[simp] theorem onCt_sram (s : State) (id : BitVec 10) (f : Ct → Ct) : (s.onCt id f).sram = s.sram := rfl
@[simp] theorem onCt_pkg (s : State) (id : BitVec 10) (f : Ct → Ct) : (s.onCt id f).pkg = s.pkg := rfl
@[simp] theorem onCt_time (s : State) (id : BitVec 10) (f : Ct → Ct) : (s.onCt id f).time = s.time := rfl
@[simp] theorem onCt_events (s : State) (id : BitVec 10) (f : Ct → Ct) : (s.onCt id f).events = s.events := rfl
@[simp] theorem onCt_plan (s : State) (id : BitVec 10) (f : Ct → Ct) : (s.onCt id f).plan = s.plan := rfl
@[simp] theorem onCt_ticks (s : State) (id : BitVec 10) (f : Ct → Ct) : (s.onCt id f).ticks = s.ticks := rfl
@[simp] theorem onCt_draws (s : State) (id : BitVec 10) (f : Ct → Ct) : (s.onCt id f).draws = s.draws := rfl
@[simp] theorem onCt_powered (s : State) (id : BitVec 10) (f : Ct → Ct) : (s.onCt id f).powered = s.powered := rfl

@[simp] theorem wakeLine_who (s : State) (n : Nat) (w : Option Who) : (s.wakeLine n w).who = s.who := rfl
@[simp] theorem wakeLine_ir (s : State) (n : Nat) (w : Option Who) : (s.wakeLine n w).ir = s.ir := rfl
@[simp] theorem wakeLine_mem (s : State) (n : Nat) (w : Option Who) : (s.wakeLine n w).mem = s.mem := rfl
@[simp] theorem wakeLine_sram (s : State) (n : Nat) (w : Option Who) : (s.wakeLine n w).sram = s.sram := rfl
@[simp] theorem wakeLine_pkg (s : State) (n : Nat) (w : Option Who) : (s.wakeLine n w).pkg = s.pkg := rfl
@[simp] theorem wakeLine_time (s : State) (n : Nat) (w : Option Who) : (s.wakeLine n w).time = s.time := rfl
@[simp] theorem wakeLine_events (s : State) (n : Nat) (w : Option Who) : (s.wakeLine n w).events = s.events := rfl
@[simp] theorem wakeLine_plan (s : State) (n : Nat) (w : Option Who) : (s.wakeLine n w).plan = s.plan := rfl
@[simp] theorem wakeLine_ticks (s : State) (n : Nat) (w : Option Who) : (s.wakeLine n w).ticks = s.ticks := rfl
@[simp] theorem wakeLine_draws (s : State) (n : Nat) (w : Option Who) : (s.wakeLine n w).draws = s.draws := rfl
@[simp] theorem wakeLine_powered (s : State) (n : Nat) (w : Option Who) : (s.wakeLine n w).powered = s.powered := rfl

@[simp] theorem wakeGang_who (s : State) (n : Nat) (w : Option Who) : (s.wakeGang n w).who = s.who := rfl
@[simp] theorem wakeGang_ir (s : State) (n : Nat) (w : Option Who) : (s.wakeGang n w).ir = s.ir := rfl
@[simp] theorem wakeGang_sys (s : State) (n : Nat) (w : Option Who) : (s.wakeGang n w).sys = s.sys := rfl
@[simp] theorem wakeGang_mem (s : State) (n : Nat) (w : Option Who) : (s.wakeGang n w).mem = s.mem := rfl
@[simp] theorem wakeGang_sram (s : State) (n : Nat) (w : Option Who) : (s.wakeGang n w).sram = s.sram := rfl
@[simp] theorem wakeGang_pkg (s : State) (n : Nat) (w : Option Who) : (s.wakeGang n w).pkg = s.pkg := rfl
@[simp] theorem wakeGang_time (s : State) (n : Nat) (w : Option Who) : (s.wakeGang n w).time = s.time := rfl
@[simp] theorem wakeGang_events (s : State) (n : Nat) (w : Option Who) : (s.wakeGang n w).events = s.events := rfl
@[simp] theorem wakeGang_plan (s : State) (n : Nat) (w : Option Who) : (s.wakeGang n w).plan = s.plan := rfl
@[simp] theorem wakeGang_ticks (s : State) (n : Nat) (w : Option Who) : (s.wakeGang n w).ticks = s.ticks := rfl
@[simp] theorem wakeGang_draws (s : State) (n : Nat) (w : Option Who) : (s.wakeGang n w).draws = s.draws := rfl
@[simp] theorem wakeGang_powered (s : State) (n : Nat) (w : Option Who) : (s.wakeGang n w).powered = s.powered := rfl

@[simp] theorem wakeOthers_who (s : State) (n l g : Nat) : (s.wakeOthers n l g).who = s.who := rfl
@[simp] theorem wakeOthers_ir (s : State) (n l g : Nat) : (s.wakeOthers n l g).ir = s.ir := rfl
@[simp] theorem wakeOthers_sys (s : State) (n l g : Nat) : (s.wakeOthers n l g).sys = (s.wakeLine n none).sys := rfl
@[simp] theorem wakeOthers_mem (s : State) (n l g : Nat) : (s.wakeOthers n l g).mem = s.mem := rfl
@[simp] theorem wakeOthers_sram (s : State) (n l g : Nat) : (s.wakeOthers n l g).sram = s.sram := rfl
@[simp] theorem wakeOthers_pkg (s : State) (n l g : Nat) : (s.wakeOthers n l g).pkg = s.pkg := rfl
@[simp] theorem wakeOthers_time (s : State) (n l g : Nat) : (s.wakeOthers n l g).time = s.time := rfl
@[simp] theorem wakeOthers_events (s : State) (n l g : Nat) : (s.wakeOthers n l g).events = s.events := rfl
@[simp] theorem wakeOthers_plan (s : State) (n l g : Nat) : (s.wakeOthers n l g).plan = s.plan := rfl
@[simp] theorem wakeOthers_ticks (s : State) (n l g : Nat) : (s.wakeOthers n l g).ticks = s.ticks := rfl
@[simp] theorem wakeOthers_draws (s : State) (n l g : Nat) : (s.wakeOthers n l g).draws = s.draws := rfl
@[simp] theorem wakeOthers_powered (s : State) (n l g : Nat) : (s.wakeOthers n l g).powered = s.powered := rfl

@[simp] theorem interrupt_who (s : State) (n : Nat) : (s.interrupt n).who = s.who := rfl
@[simp] theorem interrupt_ir (s : State) (n : Nat) : (s.interrupt n).ir = s.ir := rfl
@[simp] theorem interrupt_ct (s : State) (n : Nat) : (s.interrupt n).ct = s.ct := rfl
@[simp] theorem interrupt_others (s : State) (n : Nat) : (s.interrupt n).others = s.others := rfl
@[simp] theorem interrupt_mem (s : State) (n : Nat) : (s.interrupt n).mem = s.mem := rfl
@[simp] theorem interrupt_sram (s : State) (n : Nat) : (s.interrupt n).sram = s.sram := rfl
@[simp] theorem interrupt_pkg (s : State) (n : Nat) : (s.interrupt n).pkg = s.pkg := rfl
@[simp] theorem interrupt_time (s : State) (n : Nat) : (s.interrupt n).time = s.time := rfl
@[simp] theorem interrupt_events (s : State) (n : Nat) : (s.interrupt n).events = s.events := rfl
@[simp] theorem interrupt_plan (s : State) (n : Nat) : (s.interrupt n).plan = s.plan := rfl
@[simp] theorem interrupt_ticks (s : State) (n : Nat) : (s.interrupt n).ticks = s.ticks := rfl
@[simp] theorem interrupt_draws (s : State) (n : Nat) : (s.interrupt n).draws = s.draws := rfl
@[simp] theorem interrupt_powered (s : State) (n : Nat) : (s.interrupt n).powered = s.powered := rfl

@[simp] theorem unitStore_who (s : State) (pa n x : Nat) : (s.unitStore pa n x).who = s.who := rfl
@[simp] theorem unitStore_ir (s : State) (pa n x : Nat) : (s.unitStore pa n x).ir = s.ir := rfl
@[simp] theorem unitStore_sram (s : State) (pa n x : Nat) : (s.unitStore pa n x).sram = s.sram := rfl
@[simp] theorem unitStore_pkg (s : State) (pa n x : Nat) : (s.unitStore pa n x).pkg = s.pkg := rfl
@[simp] theorem unitStore_time (s : State) (pa n x : Nat) : (s.unitStore pa n x).time = s.time := rfl
@[simp] theorem unitStore_events (s : State) (pa n x : Nat) : (s.unitStore pa n x).events = s.events := rfl
@[simp] theorem unitStore_plan (s : State) (pa n x : Nat) : (s.unitStore pa n x).plan = s.plan := rfl
@[simp] theorem unitStore_ticks (s : State) (pa n x : Nat) : (s.unitStore pa n x).ticks = s.ticks := rfl
@[simp] theorem unitStore_draws (s : State) (pa n x : Nat) : (s.unitStore pa n x).draws = s.draws := rfl
@[simp] theorem unitStore_powered (s : State) (pa n x : Nat) : (s.unitStore pa n x).powered = s.powered := rfl

@[simp] theorem stopCt_who (s : State) (r : FaultRec) : (stopCt s r).who = s.who := rfl
@[simp] theorem stopCt_ir (s : State) (r : FaultRec) : (stopCt s r).ir = s.ir := rfl
@[simp] theorem stopCt_others (s : State) (r : FaultRec) : (stopCt s r).others = s.others := rfl
@[simp] theorem stopCt_sys (s : State) (r : FaultRec) : (stopCt s r).sys = s.sys := rfl
@[simp] theorem stopCt_mem (s : State) (r : FaultRec) : (stopCt s r).mem = s.mem := rfl
@[simp] theorem stopCt_sram (s : State) (r : FaultRec) : (stopCt s r).sram = s.sram := rfl
@[simp] theorem stopCt_time (s : State) (r : FaultRec) : (stopCt s r).time = s.time := rfl
@[simp] theorem stopCt_events (s : State) (r : FaultRec) : (stopCt s r).events = s.events := rfl
@[simp] theorem stopCt_plan (s : State) (r : FaultRec) : (stopCt s r).plan = s.plan := rfl
@[simp] theorem stopCt_ticks (s : State) (r : FaultRec) : (stopCt s r).ticks = s.ticks := rfl
@[simp] theorem stopCt_powered (s : State) (r : FaultRec) : (stopCt s r).powered = s.powered := rfl

@[simp] theorem provWait_who (s : State) : (provWait s).who = s.who := rfl
@[simp] theorem provWait_ir (s : State) : (provWait s).ir = s.ir := rfl
@[simp] theorem provWait_others (s : State) : (provWait s).others = s.others := rfl
@[simp] theorem provWait_sys (s : State) : (provWait s).sys = s.sys := rfl
@[simp] theorem provWait_mem (s : State) : (provWait s).mem = s.mem := rfl
@[simp] theorem provWait_sram (s : State) : (provWait s).sram = s.sram := rfl
@[simp] theorem provWait_pkg (s : State) : (provWait s).pkg = s.pkg := rfl
@[simp] theorem provWait_time (s : State) : (provWait s).time = s.time := rfl
@[simp] theorem provWait_events (s : State) : (provWait s).events = s.events := rfl
@[simp] theorem provWait_plan (s : State) : (provWait s).plan = s.plan := rfl
@[simp] theorem provWait_ticks (s : State) : (provWait s).ticks = s.ticks := rfl
@[simp] theorem provWait_draws (s : State) : (provWait s).draws = s.draws := rfl
@[simp] theorem provWait_powered (s : State) : (provWait s).powered = s.powered := rfl

@[simp] theorem setSys_sys (s : State) (n : Nat) (c : SysCore) : (s.setSys n c).sys = s.sys.setIfInBounds n c := rfl
@[simp] theorem unitStore_mem (s : State) (pa n x : Nat) : (s.unitStore pa n x).mem = s.mem.writeN pa n x := rfl
@[simp] theorem stopCt_draws (s : State) (r : FaultRec) : (stopCt s r).draws = s.draws + 1 := rfl

@[simp] theorem setCur_who (s : State) (t : Stream) : (s.setCur t).who = s.who := by unfold State.setCur; split <;> rfl
@[simp] theorem setCur_ir (s : State) (t : Stream) : (s.setCur t).ir = s.ir := by unfold State.setCur; split <;> rfl
@[simp] theorem setCur_others (s : State) (t : Stream) : (s.setCur t).others = s.others := by unfold State.setCur; split <;> rfl
@[simp] theorem setCur_mem (s : State) (t : Stream) : (s.setCur t).mem = s.mem := by unfold State.setCur; split <;> rfl
@[simp] theorem setCur_sram (s : State) (t : Stream) : (s.setCur t).sram = s.sram := by unfold State.setCur; split <;> rfl
@[simp] theorem setCur_pkg (s : State) (t : Stream) : (s.setCur t).pkg = s.pkg := by unfold State.setCur; split <;> rfl
@[simp] theorem setCur_time (s : State) (t : Stream) : (s.setCur t).time = s.time := by unfold State.setCur; split <;> rfl
@[simp] theorem setCur_events (s : State) (t : Stream) : (s.setCur t).events = s.events := by unfold State.setCur; split <;> rfl
@[simp] theorem setCur_plan (s : State) (t : Stream) : (s.setCur t).plan = s.plan := by unfold State.setCur; split <;> rfl
@[simp] theorem setCur_ticks (s : State) (t : Stream) : (s.setCur t).ticks = s.ticks := by unfold State.setCur; split <;> rfl
@[simp] theorem setCur_draws (s : State) (t : Stream) : (s.setCur t).draws = s.draws := by unfold State.setCur; split <;> rfl
@[simp] theorem setCur_powered (s : State) (t : Stream) : (s.setCur t).powered = s.powered := by unfold State.setCur; split <;> rfl

@[simp] theorem setSysA_who (s : State) (a : SysA) : (s.setSysA a).who = s.who := by unfold State.setSysA; split <;> rfl
@[simp] theorem setSysA_ir (s : State) (a : SysA) : (s.setSysA a).ir = s.ir := by unfold State.setSysA; split <;> rfl
@[simp] theorem setSysA_others (s : State) (a : SysA) : (s.setSysA a).others = s.others := by unfold State.setSysA; split <;> rfl
@[simp] theorem setSysA_mem (s : State) (a : SysA) : (s.setSysA a).mem = s.mem := by unfold State.setSysA; split <;> rfl
@[simp] theorem setSysA_sram (s : State) (a : SysA) : (s.setSysA a).sram = s.sram := by unfold State.setSysA; split <;> rfl
@[simp] theorem setSysA_pkg (s : State) (a : SysA) : (s.setSysA a).pkg = s.pkg := by unfold State.setSysA; split <;> rfl
@[simp] theorem setSysA_time (s : State) (a : SysA) : (s.setSysA a).time = s.time := by unfold State.setSysA; split <;> rfl
@[simp] theorem setSysA_events (s : State) (a : SysA) : (s.setSysA a).events = s.events := by unfold State.setSysA; split <;> rfl
@[simp] theorem setSysA_plan (s : State) (a : SysA) : (s.setSysA a).plan = s.plan := by unfold State.setSysA; split <;> rfl
@[simp] theorem setSysA_ticks (s : State) (a : SysA) : (s.setSysA a).ticks = s.ticks := by unfold State.setSysA; split <;> rfl
@[simp] theorem setSysA_draws (s : State) (a : SysA) : (s.setSysA a).draws = s.draws := by unfold State.setSysA; split <;> rfl
@[simp] theorem setSysA_powered (s : State) (a : SysA) : (s.setSysA a).powered = s.powered := by unfold State.setSysA; split <;> rfl

@[simp] theorem stored_who (s : State) (v : Via) (l : Loc) (w : Option Who) : (s.stored v l w).who = s.who := by
  unfold State.stored; split <;> (try split) <;> rfl
@[simp] theorem stored_ir (s : State) (v : Via) (l : Loc) (w : Option Who) : (s.stored v l w).ir = s.ir := by
  unfold State.stored; split <;> (try split) <;> rfl
@[simp] theorem stored_mem (s : State) (v : Via) (l : Loc) (w : Option Who) : (s.stored v l w).mem = s.mem := by
  unfold State.stored; split <;> (try split) <;> rfl
@[simp] theorem stored_sram (s : State) (v : Via) (l : Loc) (w : Option Who) : (s.stored v l w).sram = s.sram := by
  unfold State.stored; split <;> (try split) <;> rfl
@[simp] theorem stored_pkg (s : State) (v : Via) (l : Loc) (w : Option Who) : (s.stored v l w).pkg = s.pkg := by
  unfold State.stored; split <;> (try split) <;> rfl
@[simp] theorem stored_time (s : State) (v : Via) (l : Loc) (w : Option Who) : (s.stored v l w).time = s.time := by
  unfold State.stored; split <;> (try split) <;> rfl
@[simp] theorem stored_events (s : State) (v : Via) (l : Loc) (w : Option Who) : (s.stored v l w).events = s.events := by
  unfold State.stored; split <;> (try split) <;> rfl
@[simp] theorem stored_plan (s : State) (v : Via) (l : Loc) (w : Option Who) : (s.stored v l w).plan = s.plan := by
  unfold State.stored; split <;> (try split) <;> rfl
@[simp] theorem stored_ticks (s : State) (v : Via) (l : Loc) (w : Option Who) : (s.stored v l w).ticks = s.ticks := by
  unfold State.stored; split <;> (try split) <;> rfl
@[simp] theorem stored_draws (s : State) (v : Via) (l : Loc) (w : Option Who) : (s.stored v l w).draws = s.draws := by
  unfold State.stored; split <;> (try split) <;> rfl
@[simp] theorem stored_powered (s : State) (v : Via) (l : Loc) (w : Option Who) : (s.stored v l w).powered = s.powered := by
  unfold State.stored; split <;> (try split) <;> rfl

@[simp] theorem poke_who (s : State) (v : Via) (l : Loc) (n x : Nat) : (s.poke v l n x).who = s.who := by
  unfold State.poke; split <;> (try split) <;> rfl
@[simp] theorem poke_ir (s : State) (v : Via) (l : Loc) (n x : Nat) : (s.poke v l n x).ir = s.ir := by
  unfold State.poke; split <;> (try split) <;> rfl
@[simp] theorem poke_ct (s : State) (v : Via) (l : Loc) (n x : Nat) : (s.poke v l n x).ct = s.ct := by
  unfold State.poke; split <;> (try split) <;> rfl
@[simp] theorem poke_others (s : State) (v : Via) (l : Loc) (n x : Nat) : (s.poke v l n x).others = s.others := by
  unfold State.poke; split <;> (try split) <;> rfl
@[simp] theorem poke_sys (s : State) (v : Via) (l : Loc) (n x : Nat) : (s.poke v l n x).sys = s.sys := by
  unfold State.poke; split <;> (try split) <;> rfl
@[simp] theorem poke_time (s : State) (v : Via) (l : Loc) (n x : Nat) : (s.poke v l n x).time = s.time := by
  unfold State.poke; split <;> (try split) <;> rfl
@[simp] theorem poke_events (s : State) (v : Via) (l : Loc) (n x : Nat) : (s.poke v l n x).events = s.events := by
  unfold State.poke; split <;> (try split) <;> rfl
@[simp] theorem poke_plan (s : State) (v : Via) (l : Loc) (n x : Nat) : (s.poke v l n x).plan = s.plan := by
  unfold State.poke; split <;> (try split) <;> rfl
@[simp] theorem poke_ticks (s : State) (v : Via) (l : Loc) (n x : Nat) : (s.poke v l n x).ticks = s.ticks := by
  unfold State.poke; split <;> (try split) <;> rfl
@[simp] theorem poke_draws (s : State) (v : Via) (l : Loc) (n x : Nat) : (s.poke v l n x).draws = s.draws := by
  unfold State.poke; split <;> (try split) <;> rfl
@[simp] theorem poke_powered (s : State) (v : Via) (l : Loc) (n x : Nat) : (s.poke v l n x).powered = s.powered := by
  unfold State.poke; split <;> (try split) <;> rfl

@[simp] theorem wakeLine_ct_v (s : State) (n : Nat) (w : Option Who) : (s.wakeLine n w).ct.v = s.ct.v := rfl
@[simp] theorem wakeLine_ct_p (s : State) (n : Nat) (w : Option Who) : (s.wakeLine n w).ct.p = s.ct.p := rfl
@[simp] theorem wakeLine_ct_bins (s : State) (n : Nat) (w : Option Who) : (s.wakeLine n w).ct.bins = s.ct.bins := rfl
@[simp] theorem wakeLine_ct_feeds (s : State) (n : Nat) (w : Option Who) : (s.wakeLine n w).ct.feeds = s.ct.feeds := rfl
@[simp] theorem wakeLine_ct_mark (s : State) (n : Nat) (w : Option Who) : (s.wakeLine n w).ct.mark = s.ct.mark := rfl
@[simp] theorem wakeLine_ct_viq (s : State) (n : Nat) (w : Option Who) : (s.wakeLine n w).ct.viq = s.ct.viq := rfl
@[simp] theorem wakeLine_ct_hold (s : State) (n : Nat) (w : Option Who) : (s.wakeLine n w).ct.hold = s.ct.hold := rfl
@[simp] theorem wakeLine_ct_sbuf (s : State) (n : Nat) (w : Option Who) : (s.wakeLine n w).ct.sbuf = s.ct.sbuf := rfl
@[simp] theorem wakeLine_ct_lag (s : State) (n : Nat) (w : Option Who) : (s.wakeLine n w).ct.lag = s.ct.lag := rfl
@[simp] theorem wakeLine_ct_blk (s : State) (n : Nat) (w : Option Who) : (s.wakeLine n w).ct.blk = s.ct.blk := rfl
@[simp] theorem wakeLine_ct_mx (s : State) (n : Nat) (w : Option Who) : (s.wakeLine n w).ct.mx = s.ct.mx := rfl
@[simp] theorem wakeLine_ct_vown (s : State) (n : Nat) (w : Option Who) : (s.wakeLine n w).ct.vown = s.ct.vown := rfl
@[simp] theorem wakeLine_ct_mown (s : State) (n : Nat) (w : Option Who) : (s.wakeLine n w).ct.mown = s.ct.mown := rfl
@[simp] theorem wakeLine_ct_vl (s : State) (n : Nat) (w : Option Who) : (s.wakeLine n w).ct.vl = s.ct.vl := rfl
@[simp] theorem wakeLine_ct_vsw (s : State) (n : Nat) (w : Option Who) : (s.wakeLine n w).ct.vsw = s.ct.vsw := rfl
@[simp] theorem wakeLine_ct_g (s : State) (n : Nat) (w : Option Who) : (s.wakeLine n w).ct.g = s.ct.g := rfl
@[simp] theorem wakeLine_ct_grantM (s : State) (n : Nat) (w : Option Who) : (s.wakeLine n w).ct.grantM = s.ct.grantM := rfl
@[simp] theorem wakeLine_ct_grantN (s : State) (n : Nat) (w : Option Who) : (s.wakeLine n w).ct.grantN = s.ct.grantN := rfl
@[simp] theorem wakeLine_ct_grantK (s : State) (n : Nat) (w : Option Who) : (s.wakeLine n w).ct.grantK = s.ct.grantK := rfl
@[simp] theorem wakeLine_ct_vtype (s : State) (n : Nat) (w : Option Who) : (s.wakeLine n w).ct.vtype = s.ct.vtype := rfl
@[simp] theorem wakeLine_ct_vstart (s : State) (n : Nat) (w : Option Who) : (s.wakeLine n w).ct.vstart = s.ct.vstart := rfl
@[simp] theorem wakeLine_ct_fmask (s : State) (n : Nat) (w : Option Who) : (s.wakeLine n w).ct.fmask = s.ct.fmask := rfl
@[simp] theorem wakeLine_ct_conv (s : State) (n : Nat) (w : Option Who) : (s.wakeLine n w).ct.conv = s.ct.conv := rfl
@[simp] theorem wakeLine_ct_id (s : State) (n : Nat) (w : Option Who) : (s.wakeLine n w).ct.id = s.ct.id := rfl
@[simp] theorem wakeLine_ct_lg (s : State) (n : Nat) (w : Option Who) : (s.wakeLine n w).ct.lg = s.ct.lg := rfl
@[simp] theorem wakeLine_ct_status (s : State) (n : Nat) (w : Option Who) : (s.wakeLine n w).ct.status = s.ct.status := rfl
@[simp] theorem wakeLine_ct_dual (s : State) (n : Nat) (w : Option Who) : (s.wakeLine n w).ct.dual = s.ct.dual := rfl
@[simp] theorem wakeLine_ct_aend (s : State) (n : Nat) (w : Option Who) : (s.wakeLine n w).ct.aend = s.ct.aend := rfl
@[simp] theorem wakeLine_ct_q (s : State) (n : Nat) (w : Option Who) : (s.wakeLine n w).ct.q = s.ct.q := rfl
@[simp] theorem wakeLine_ct_bq (s : State) (n : Nat) (w : Option Who) : (s.wakeLine n w).ct.bq = s.ct.bq := rfl
@[simp] theorem wakeLine_ct_a (s : State) (n : Nat) (w : Option Who) : (s.wakeLine n w).ct.a = s.ct.a := rfl
@[simp] theorem wakeLine_ct_gang (s : State) (n : Nat) (w : Option Who) : (s.wakeLine n w).ct.gang = s.ct.gang := rfl
@[simp] theorem wakeLine_ct_size (s : State) (n : Nat) (w : Option Who) : (s.wakeLine n w).ct.size = s.ct.size := rfl
@[simp] theorem wakeLine_ct_rank (s : State) (n : Nat) (w : Option Who) : (s.wakeLine n w).ct.rank = s.ct.rank := rfl
@[simp] theorem wakeLine_ct_launch (s : State) (n : Nat) (w : Option Who) : (s.wakeLine n w).ct.launch = s.ct.launch := rfl
@[simp] theorem wakeLine_ct_plot (s : State) (n : Nat) (w : Option Who) : (s.wakeLine n w).ct.plot = s.ct.plot := rfl
@[simp] theorem wakeLine_ct_aspace (s : State) (n : Nat) (w : Option Who) : (s.wakeLine n w).ct.aspace = s.ct.aspace := rfl
@[simp] theorem wakeLine_ct_ctx (s : State) (n : Nat) (w : Option Who) : (s.wakeLine n w).ct.ctx = s.ct.ctx := rfl
@[simp] theorem wakeLine_ct_scratch (s : State) (n : Nat) (w : Option Who) : (s.wakeLine n w).ct.scratch = s.ct.scratch := rfl
@[simp] theorem wakeLine_ct_copies (s : State) (n : Nat) (w : Option Who) : (s.wakeLine n w).ct.copies = s.ct.copies := rfl
@[simp] theorem wakeLine_ct_ticket (s : State) (n : Nat) (w : Option Who) : (s.wakeLine n w).ct.ticket = s.ct.ticket := rfl
@[simp] theorem wakeLine_ct_wmb (s : State) (n : Nat) (w : Option Who) : (s.wakeLine n w).ct.wmb = s.ct.wmb := rfl
@[simp] theorem wakeLine_ct_bar (s : State) (n : Nat) (w : Option Who) : (s.wakeLine n w).ct.bar = s.ct.bar := rfl
@[simp] theorem wakeLine_ct_wdq (s : State) (n : Nat) (w : Option Who) : (s.wakeLine n w).ct.wdq = s.ct.wdq := rfl
@[simp] theorem wakeLine_ct_prov (s : State) (n : Nat) (w : Option Who) : (s.wakeLine n w).ct.prov = s.ct.prov := rfl
@[simp] theorem wakeLine_ct_stalled (s : State) (n : Nat) (w : Option Who) : (s.wakeLine n w).ct.stalled = s.ct.stalled := rfl
@[simp] theorem wakeLine_ct_frec (s : State) (n : Nat) (w : Option Who) : (s.wakeLine n w).ct.frec = s.ct.frec := rfl
@[simp] theorem wakeLine_ct_posted (s : State) (n : Nat) (w : Option Who) : (s.wakeLine n w).ct.posted = s.ct.posted := rfl
@[simp] theorem wakeLine_ct_next (s : State) (n : Nat) (w : Option Who) : (s.wakeLine n w).ct.next = s.ct.next := rfl

@[simp] theorem wakeLine_ct_looks (s : State) (n : Nat) (w : Option Who) : (s.wakeLine n w).ct.looks = s.ct.looks := rfl
@[simp] theorem wakeLine_ct_early (s : State) (n : Nat) (w : Option Who) : (s.wakeLine n w).ct.early = s.ct.early := rfl
@[simp] theorem wakeLine_ct_floors (s : State) (n : Nat) (w : Option Who) : (s.wakeLine n w).ct.floors = s.ct.floors := rfl
@[simp] theorem wakeLine_ct_frE (s : State) (n : Nat) (w : Option Who) : (s.wakeLine n w).ct.frE = s.ct.frE := rfl
@[simp] theorem wakeLine_ct_frA (s : State) (n : Nat) (w : Option Who) : (s.wakeLine n w).ct.frA = s.ct.frA := rfl
@[simp] theorem wakeLine_ct_sbn (s : State) (n : Nat) (w : Option Who) : (s.wakeLine n w).ct.sbn = s.ct.sbn := rfl
@[simp] theorem wakeLine_ct_qAt (s : State) (n : Nat) (w : Option Who) : (s.wakeLine n w).ct.qAt = s.ct.qAt := rfl
@[simp] theorem wakeLine_ct_bqAt (s : State) (n : Nat) (w : Option Who) : (s.wakeLine n w).ct.bqAt = s.ct.bqAt := rfl

@[simp] theorem wakeSaved_who (s : State) (v : Via) (n : Nat) : (s.wakeSaved v n).who = s.who := rfl
@[simp] theorem wakeSaved_ir (s : State) (v : Via) (n : Nat) : (s.wakeSaved v n).ir = s.ir := rfl
@[simp] theorem wakeSaved_sys (s : State) (v : Via) (n : Nat) : (s.wakeSaved v n).sys = s.sys := rfl
@[simp] theorem wakeSaved_mem (s : State) (v : Via) (n : Nat) : (s.wakeSaved v n).mem = s.mem := rfl
@[simp] theorem wakeSaved_sram (s : State) (v : Via) (n : Nat) : (s.wakeSaved v n).sram = s.sram := rfl
@[simp] theorem wakeSaved_pkg (s : State) (v : Via) (n : Nat) : (s.wakeSaved v n).pkg = s.pkg := rfl
@[simp] theorem wakeSaved_time (s : State) (v : Via) (n : Nat) : (s.wakeSaved v n).time = s.time := rfl
@[simp] theorem wakeSaved_events (s : State) (v : Via) (n : Nat) : (s.wakeSaved v n).events = s.events := rfl
@[simp] theorem wakeSaved_plan (s : State) (v : Via) (n : Nat) : (s.wakeSaved v n).plan = s.plan := rfl
@[simp] theorem wakeSaved_ticks (s : State) (v : Via) (n : Nat) : (s.wakeSaved v n).ticks = s.ticks := rfl
@[simp] theorem wakeSaved_draws (s : State) (v : Via) (n : Nat) : (s.wakeSaved v n).draws = s.draws := rfl
@[simp] theorem wakeSaved_powered (s : State) (v : Via) (n : Nat) : (s.wakeSaved v n).powered = s.powered := rfl

@[simp] theorem note_who (s : State) (d : Side) (t : Nat) (l : Loc) (n : Nat) : (s.note d t l n).who = s.who := rfl
@[simp] theorem note_ir (s : State) (d : Side) (t : Nat) (l : Loc) (n : Nat) : (s.note d t l n).ir = s.ir := rfl
@[simp] theorem note_others (s : State) (d : Side) (t : Nat) (l : Loc) (n : Nat) : (s.note d t l n).others = s.others := rfl
@[simp] theorem note_sys (s : State) (d : Side) (t : Nat) (l : Loc) (n : Nat) : (s.note d t l n).sys = s.sys := rfl
@[simp] theorem note_mem (s : State) (d : Side) (t : Nat) (l : Loc) (n : Nat) : (s.note d t l n).mem = s.mem := rfl
@[simp] theorem note_sram (s : State) (d : Side) (t : Nat) (l : Loc) (n : Nat) : (s.note d t l n).sram = s.sram := rfl
@[simp] theorem note_pkg (s : State) (d : Side) (t : Nat) (l : Loc) (n : Nat) : (s.note d t l n).pkg = s.pkg := rfl
@[simp] theorem note_time (s : State) (d : Side) (t : Nat) (l : Loc) (n : Nat) : (s.note d t l n).time = s.time := rfl
@[simp] theorem note_events (s : State) (d : Side) (t : Nat) (l : Loc) (n : Nat) : (s.note d t l n).events = s.events := rfl
@[simp] theorem note_plan (s : State) (d : Side) (t : Nat) (l : Loc) (n : Nat) : (s.note d t l n).plan = s.plan := rfl
@[simp] theorem note_ticks (s : State) (d : Side) (t : Nat) (l : Loc) (n : Nat) : (s.note d t l n).ticks = s.ticks := rfl
@[simp] theorem note_draws (s : State) (d : Side) (t : Nat) (l : Loc) (n : Nat) : (s.note d t l n).draws = s.draws := rfl
@[simp] theorem note_powered (s : State) (d : Side) (t : Nat) (l : Loc) (n : Nat) : (s.note d t l n).powered = s.powered := rfl

@[simp] theorem delay_who (s : State) (e : SbEnt) : (s.delay e).who = s.who := rfl
@[simp] theorem delay_ir (s : State) (e : SbEnt) : (s.delay e).ir = s.ir := rfl
@[simp] theorem delay_others (s : State) (e : SbEnt) : (s.delay e).others = s.others := rfl
@[simp] theorem delay_sys (s : State) (e : SbEnt) : (s.delay e).sys = s.sys := rfl
@[simp] theorem delay_mem (s : State) (e : SbEnt) : (s.delay e).mem = s.mem := rfl
@[simp] theorem delay_sram (s : State) (e : SbEnt) : (s.delay e).sram = s.sram := rfl
@[simp] theorem delay_pkg (s : State) (e : SbEnt) : (s.delay e).pkg = s.pkg := rfl
@[simp] theorem delay_time (s : State) (e : SbEnt) : (s.delay e).time = s.time := rfl
@[simp] theorem delay_events (s : State) (e : SbEnt) : (s.delay e).events = s.events := rfl
@[simp] theorem delay_plan (s : State) (e : SbEnt) : (s.delay e).plan = s.plan := rfl
@[simp] theorem delay_ticks (s : State) (e : SbEnt) : (s.delay e).ticks = s.ticks := rfl
@[simp] theorem delay_draws (s : State) (e : SbEnt) : (s.delay e).draws = s.draws := rfl
@[simp] theorem delay_powered (s : State) (e : SbEnt) : (s.delay e).powered = s.powered := rfl

@[simp] theorem takeLook_who (s : State) (d : Side) : (s.takeLook d).who = s.who := rfl
@[simp] theorem takeLook_ir (s : State) (d : Side) : (s.takeLook d).ir = s.ir := rfl
@[simp] theorem takeLook_others (s : State) (d : Side) : (s.takeLook d).others = s.others := rfl
@[simp] theorem takeLook_sys (s : State) (d : Side) : (s.takeLook d).sys = s.sys := rfl
@[simp] theorem takeLook_mem (s : State) (d : Side) : (s.takeLook d).mem = s.mem := rfl
@[simp] theorem takeLook_sram (s : State) (d : Side) : (s.takeLook d).sram = s.sram := rfl
@[simp] theorem takeLook_pkg (s : State) (d : Side) : (s.takeLook d).pkg = s.pkg := rfl
@[simp] theorem takeLook_time (s : State) (d : Side) : (s.takeLook d).time = s.time := rfl
@[simp] theorem takeLook_events (s : State) (d : Side) : (s.takeLook d).events = s.events := rfl
@[simp] theorem takeLook_plan (s : State) (d : Side) : (s.takeLook d).plan = s.plan := rfl
@[simp] theorem takeLook_ticks (s : State) (d : Side) : (s.takeLook d).ticks = s.ticks := rfl
@[simp] theorem takeLook_draws (s : State) (d : Side) : (s.takeLook d).draws = s.draws := rfl
@[simp] theorem takeLook_powered (s : State) (d : Side) : (s.takeLook d).powered = s.powered := rfl

@[simp] theorem acquireAt_who (s : State) (t : Nat) : (s.acquireAt t).who = s.who := by unfold State.acquireAt; split <;> rfl
@[simp] theorem acquireAt_ir (s : State) (t : Nat) : (s.acquireAt t).ir = s.ir := by unfold State.acquireAt; split <;> rfl
@[simp] theorem acquireAt_others (s : State) (t : Nat) : (s.acquireAt t).others = s.others := by unfold State.acquireAt; split <;> rfl
@[simp] theorem acquireAt_sys (s : State) (t : Nat) : (s.acquireAt t).sys = s.sys := by unfold State.acquireAt; split <;> rfl
@[simp] theorem acquireAt_mem (s : State) (t : Nat) : (s.acquireAt t).mem = s.mem := by unfold State.acquireAt; split <;> rfl
@[simp] theorem acquireAt_sram (s : State) (t : Nat) : (s.acquireAt t).sram = s.sram := by unfold State.acquireAt; split <;> rfl
@[simp] theorem acquireAt_pkg (s : State) (t : Nat) : (s.acquireAt t).pkg = s.pkg := by unfold State.acquireAt; split <;> rfl
@[simp] theorem acquireAt_time (s : State) (t : Nat) : (s.acquireAt t).time = s.time := by unfold State.acquireAt; split <;> rfl
@[simp] theorem acquireAt_events (s : State) (t : Nat) : (s.acquireAt t).events = s.events := by unfold State.acquireAt; split <;> rfl
@[simp] theorem acquireAt_plan (s : State) (t : Nat) : (s.acquireAt t).plan = s.plan := by unfold State.acquireAt; split <;> rfl
@[simp] theorem acquireAt_ticks (s : State) (t : Nat) : (s.acquireAt t).ticks = s.ticks := by unfold State.acquireAt; split <;> rfl
@[simp] theorem acquireAt_draws (s : State) (t : Nat) : (s.acquireAt t).draws = s.draws := by unfold State.acquireAt; split <;> rfl
@[simp] theorem acquireAt_powered (s : State) (t : Nat) : (s.acquireAt t).powered = s.powered := by unfold State.acquireAt; split <;> rfl

@[simp] theorem note_ct_sbuf (s : State) (d : Side) (t : Nat) (l : Loc) (n : Nat) : (s.note d t l n).ct.sbuf = s.ct.sbuf := rfl
@[simp] theorem acquireAt_ct_sbuf (s : State) (t : Nat) : (s.acquireAt t).ct.sbuf = s.ct.sbuf := by unfold State.acquireAt; split <;> rfl
@[simp] theorem takeLook_ct_sbuf (s : State) (d : Side) : (s.takeLook d).ct.sbuf = s.ct.sbuf := rfl
@[simp] theorem note_ct_sbn (s : State) (d : Side) (t : Nat) (l : Loc) (n : Nat) : (s.note d t l n).ct.sbn = s.ct.sbn := rfl
@[simp] theorem acquireAt_ct_sbn (s : State) (t : Nat) : (s.acquireAt t).ct.sbn = s.ct.sbn := by unfold State.acquireAt; split <;> rfl
@[simp] theorem takeLook_ct_sbn (s : State) (d : Side) : (s.takeLook d).ct.sbn = s.ct.sbn := rfl
@[simp] theorem acquireAt_ct_looks (s : State) (t : Nat) : (s.acquireAt t).ct.looks = s.ct.looks := by unfold State.acquireAt; split <;> rfl
@[simp] theorem note_ct_early (s : State) (d : Side) (t : Nat) (l : Loc) (n : Nat) : (s.note d t l n).ct.early = s.ct.early := rfl
@[simp] theorem acquireAt_ct_early (s : State) (t : Nat) : (s.acquireAt t).ct.early = s.ct.early := by unfold State.acquireAt; split <;> rfl
@[simp] theorem takeLook_ct_early (s : State) (d : Side) : (s.takeLook d).ct.early = s.ct.early := rfl
@[simp] theorem note_ct_lag (s : State) (d : Side) (t : Nat) (l : Loc) (n : Nat) : (s.note d t l n).ct.lag = s.ct.lag := rfl
@[simp] theorem acquireAt_ct_lag (s : State) (t : Nat) : (s.acquireAt t).ct.lag = s.ct.lag := by unfold State.acquireAt; split <;> rfl
@[simp] theorem takeLook_ct_lag (s : State) (d : Side) : (s.takeLook d).ct.lag = s.ct.lag := rfl
@[simp] theorem note_ct_status (s : State) (d : Side) (t : Nat) (l : Loc) (n : Nat) : (s.note d t l n).ct.status = s.ct.status := rfl
@[simp] theorem acquireAt_ct_status (s : State) (t : Nat) : (s.acquireAt t).ct.status = s.ct.status := by unfold State.acquireAt; split <;> rfl
@[simp] theorem takeLook_ct_status (s : State) (d : Side) : (s.takeLook d).ct.status = s.ct.status := rfl
@[simp] theorem note_ct_prov (s : State) (d : Side) (t : Nat) (l : Loc) (n : Nat) : (s.note d t l n).ct.prov = s.ct.prov := rfl
@[simp] theorem acquireAt_ct_prov (s : State) (t : Nat) : (s.acquireAt t).ct.prov = s.ct.prov := by unfold State.acquireAt; split <;> rfl
@[simp] theorem takeLook_ct_prov (s : State) (d : Side) : (s.takeLook d).ct.prov = s.ct.prov := rfl
@[simp] theorem note_ct_id (s : State) (d : Side) (t : Nat) (l : Loc) (n : Nat) : (s.note d t l n).ct.id = s.ct.id := rfl
@[simp] theorem acquireAt_ct_id (s : State) (t : Nat) : (s.acquireAt t).ct.id = s.ct.id := by unfold State.acquireAt; split <;> rfl
@[simp] theorem takeLook_ct_id (s : State) (d : Side) : (s.takeLook d).ct.id = s.ct.id := rfl
@[simp] theorem note_ct_plot (s : State) (d : Side) (t : Nat) (l : Loc) (n : Nat) : (s.note d t l n).ct.plot = s.ct.plot := rfl
@[simp] theorem acquireAt_ct_plot (s : State) (t : Nat) : (s.acquireAt t).ct.plot = s.ct.plot := by unfold State.acquireAt; split <;> rfl
@[simp] theorem takeLook_ct_plot (s : State) (d : Side) : (s.takeLook d).ct.plot = s.ct.plot := rfl
@[simp] theorem note_ct_launch (s : State) (d : Side) (t : Nat) (l : Loc) (n : Nat) : (s.note d t l n).ct.launch = s.ct.launch := rfl
@[simp] theorem acquireAt_ct_launch (s : State) (t : Nat) : (s.acquireAt t).ct.launch = s.ct.launch := by unfold State.acquireAt; split <;> rfl
@[simp] theorem takeLook_ct_launch (s : State) (d : Side) : (s.takeLook d).ct.launch = s.ct.launch := rfl
@[simp] theorem note_ct_gang (s : State) (d : Side) (t : Nat) (l : Loc) (n : Nat) : (s.note d t l n).ct.gang = s.ct.gang := rfl
@[simp] theorem acquireAt_ct_gang (s : State) (t : Nat) : (s.acquireAt t).ct.gang = s.ct.gang := by unfold State.acquireAt; split <;> rfl
@[simp] theorem takeLook_ct_gang (s : State) (d : Side) : (s.takeLook d).ct.gang = s.ct.gang := rfl

end Sys2Proof.Laws
end

