-- ==== Sys2Proof/Laws/Regs.lean ====
section
/-! SUPPORT. The stream in focus: what writing a register, moving on, jumping and taking an exception leave. -/
namespace Sys2Proof.Laws
open Sys2Proof Sys2Proof.Machine

/-- A system core in focus is one of the sixteen. -/
def Focus (s : State) : Prop := ∀ n, s.who = .sys n → n < 16

theorem sysCore_setSys (s : State) (n m : Nat) (c : SysCore) (h : m < 16) :
    (s.setSys n c).sysCore m = if m = n then c else s.sysCore m := by
  simp only [State.sysCore, State.setSys, Vector.toList, List.getD_eq_getElem?_getD, Array.getElem?_toList, Vector.getElem?_toArray]
  by_cases hm : m = n
  · subst hm; simp [h]
  · simp [hm, Ne.symm hm]

theorem setSys_setSys (s : State) (n : Nat) (c d : SysCore) : (s.setSys n c).setSys n d = s.setSys n d := by
  simp only [State.setSys]
  congr 1
  ext i hi
  simp only [Vector.getElem_setIfInBounds]
  split <;> rfl

theorem setSys_self (s : State) (n : Nat) : s.setSys n (s.sysCore n) = s := by
  have : s.sys.setIfInBounds n (s.sysCore n) = s.sys := by
    ext i hi
    simp only [Vector.getElem_setIfInBounds]
    split
    · rename_i h
      subst h
      simp [State.sysCore, Vector.toList, List.getD_eq_getElem?_getD, hi]
    · rfl
  simp only [State.setSys, this]

theorem cur_setCur (s : State) (t : Stream) (h : Focus s) : (s.setCur t).cur = t := by
  unfold State.setCur State.cur
  cases hw : s.who with
  | exec => simp
  | access => simp
  | sys n => simp only [setSys_who, hw, sysCore_setSys s n n _ (h n hw), if_true]

theorem setCur_setCur (s : State) (t u : Stream) : (s.setCur t).setCur u = s.setCur u := by
  unfold State.setCur
  cases hw : s.who with
  | exec => rfl
  | access => rfl
  | sys n =>
    simp only [setSys_who, hw]
    rw [setSys_setSys]
    by_cases hn : n < 16
    · rw [sysCore_setSys s n n _ hn, if_pos rfl]
    · simp only [State.setSys]
      congr 1
      ext i hi
      simp only [Vector.getElem_setIfInBounds]
      split
      · omega
      · rfl

theorem setCur_cur (s : State) : s.setCur s.cur = s := by
  cases s with
  | mk who =>
    cases who with
    | exec => rfl
    | access => rfl
    | sys n => exact setSys_self _ n

@[simp] theorem setCur_group (s : State) (t : Stream) : (s.setCur t).group = s.group := by
  unfold State.setCur State.group Ct.curGroup
  cases hw : s.who with
  | exec => simp
  | access => simp
  | sys n => simp [hw]

@[simp] theorem setCur_isSys (s : State) (t : Stream) : (s.setCur t).isSys = s.isSys := by
  unfold State.isSys
  rw [setCur_who]

theorem pc_of_outside {s : State} (h : s.group = none) : s.pc = s.cur.pc := by
  simp only [State.pc, h]
theorem jump_of_outside {s : State} (h : s.group = none) (a : Word) : s.jump a = s.setCur { s.cur with pc := a } := by
  simp only [State.jump, h]
theorem advance_of_outside {s : State} (h : s.group = none) : s.advance = s.setCur { s.cur with pc := s.cur.pc + 4 } := by
  simp only [State.advance, jump_of_outside h, pc_of_outside h]

/-- An update of the stream in focus that ignores the register file's bounds: both sides agree with or without a core. -/
theorem setCur_congr_cur (s : State) (t : Stream) (f : Stream → Stream) : (s.setCur t).setCur (f (s.setCur t).cur) = s.setCur (f t) := by
  rw [setCur_setCur]
  unfold State.setCur State.cur
  cases hw : s.who with
  | exec => simp
  | access => simp
  | sys n =>
    simp only [setSys_who, hw]
    by_cases hn : n < 16
    · rw [sysCore_setSys s n n _ hn, if_pos rfl]
    · simp only [State.setSys]
      congr 1
      ext i hi
      simp only [Vector.getElem_setIfInBounds]
      split
      · omega
      · rfl

/-- A word outside a block that writes one register and moves on changes the stream in focus, there the register and the pc,
and nothing else. -/
theorem put_of_outside {s : State} (h : s.group = none) (d : SReg) (v : Word) :
    put s d v = s.setCur { s.cur with x := if d = 0 then s.cur.x else s.cur.x.set d.toNat v, pc := s.cur.pc + 4 } := by
  have hg : (s.wr d v).group = none := by simp [State.wr, h]
  simp only [put, advance_of_outside hg]
  simp only [State.wr]
  rw [setCur_congr_cur s _ fun t => { t with pc := t.pc + 4 }]
  unfold Stream.wr
  split <;> rfl

/-- A link word: the register and the pc. -/
theorem jump_wr_of_outside {s : State} (h : s.group = none) (d : SReg) (v a : Word) :
    (s.wr d v).jump a = s.setCur { s.cur with x := if d = 0 then s.cur.x else s.cur.x.set d.toNat v, pc := a } := by
  have hg : (s.wr d v).group = none := by simp [State.wr, h]
  rw [jump_of_outside hg]
  simp only [State.wr]
  rw [setCur_congr_cur s _ fun t => { t with pc := a }]
  unfold Stream.wr
  split <;> rfl

theorem scal_of_outside {s : State} (h : s.group = none) (f : State → State) : scal s f = .next (f s) := by
  simp [scal, h]
/-- In a VP block a scalar-class word raises ILL PLACE (R115). -/
theorem scal_of_block {s : State} (h : s.group.isSome = true) (f : State → State) : scal s f = .next (raise s (trapIll 9)) := by
  simp [scal, h]

/-! ### Taking an exception -/

/-- On a system core: one core changes, and a free value has been drawn. -/
theorem raise_sys {s : State} {n : Nat} (h : s.who = .sys n) (t : Trap) :
    raise s t = { s.setSys n (sysTrap (s.sysCore n) (if t.code = 7 then (s.sysCore n).st.pc + 4 else (s.sysCore n).st.pc)
      (BitVec.ofNat 64 t.code) (infoOf s t)) with draws := s.draws + 1 } := by
  simp only [raise, h]
theorem raise_exec {s : State} (h : s.who = .exec) (t : Trap) :
    raise s t = stopCt s (faultRec s t s.ir s.pc false s.group.isSome false) := by
  simp only [raise, h]
theorem raise_access {s : State} (h : s.who = .access) (t : Trap) :
    raise s t = stopCt s (faultRec s t s.ir s.pc false false true) := by
  simp only [raise, h]

/-- An exception leaves memory, device time, the events and the plan. -/
theorem raise_mem (s : State) (t : Trap) : (raise s t).mem = s.mem := by unfold raise; split <;> rfl
theorem raise_sram (s : State) (t : Trap) : (raise s t).sram = s.sram := by unfold raise; split <;> rfl
theorem raise_others (s : State) (t : Trap) : (raise s t).others = s.others := by unfold raise; split <;> rfl
theorem raise_who (s : State) (t : Trap) : (raise s t).who = s.who := by unfold raise; split <;> rfl
theorem raise_time (s : State) (t : Trap) : (raise s t).time = s.time := by unfold raise; split <;> rfl

/-- A trap at any level leaves a legal level; the handler addresses and the other set stay (R343). -/
theorem sysTrap_legal {c : SysCore} (pc cause info : Word) (h : c.pl ≤ 2 ∧ c.xs.ppl ≤ 2 ∧ c.fs.ppl ≤ 2) :
    (sysTrap c pc cause info).pl ≤ 2 ∧ (sysTrap c pc cause info).xs.ppl ≤ 2 ∧ (sysTrap c pc cause info).fs.ppl ≤ 2 := by
  unfold sysTrap
  split <;> simp only <;> omega
/-- A return takes the level that the trap saved (R343). -/
theorem sysReturn_pl (c : SysCore) : (sysReturn c).pl = if c.pl = 2 then c.fs.ppl else c.xs.ppl := by
  unfold sysReturn
  split <;> rfl

end Sys2Proof.Laws
end

