-- ==== Sys2Proof/Laws/Stores.lean ====
section
/-! SUPPORT. Delayed stores: which of them an ordering event performs, what a store and a performed store can do, and that each keeps
the canonical form of both byte memories; reads; and the other operations of the shared tables. -/
namespace Sys2Proof.Laws
open Sys2Proof.Machine

/-! ### The stores that a set needs -/

theorem needed_sub (p : SbEnt → Bool) : ∀ (es : List SbEnt), ∀ e ∈ needed p es, e ∈ es
  | [], _, h => h
  | d :: es, e, h => by
    simp only [needed, List.foldr_cons] at h
    split at h
    · rcases List.mem_cons.mp h with rfl | h
      · simp
      · exact List.mem_cons_of_mem _ (needed_sub p es e h)
    · exact List.mem_cons_of_mem _ (needed_sub p es e h)
/-- Every store of the set is among them. -/
theorem mem_needed {p : SbEnt → Bool} : ∀ {es : List SbEnt} {e : SbEnt}, e ∈ es → p e = true → e ∈ needed p es
  | d :: es, e, h, hp => by
    simp only [needed, List.foldr_cons]
    rcases List.mem_cons.mp h with rfl | h
    · simp [hp]
    · have := mem_needed h hp
      split
      · exact List.mem_cons_of_mem _ this
      · exact this
theorem needed_of_none {p : SbEnt → Bool} : ∀ {es : List SbEnt}, (∀ e ∈ es, p e = false) → needed p es = []
  | [], _ => rfl
  | d :: es, h => by
    have ih : needed p es = [] := needed_of_none fun e he => h e (List.mem_cons_of_mem _ he)
    simp only [needed, List.foldr_cons] at ih ⊢
    rw [ih, h d (by simp)]
    rfl
theorem needed_of_all {p : SbEnt → Bool} : ∀ {es : List SbEnt}, (∀ e ∈ es, p e = true) → needed p es = es
  | [], _ => rfl
  | d :: es, h => by
    have ih : needed p es = es := needed_of_all fun e he => h e (List.mem_cons_of_mem _ he)
    simp only [needed, List.foldr_cons] at ih ⊢
    rw [ih, h d (by simp)]
    rfl
@[simp] theorem needed_nil (p : SbEnt → Bool) : needed p [] = [] := rfl

/-! ### Performing stores -/

theorem memOk_performEnt {s : State} (e : SbEnt) (h : s.memOk) : State.memOk (s.performEnt e) := by
  have := memOk_poke s.ct.via e.loc e.n (e.val (s.peek s.ct.via e.loc e.n)) h
  unfold State.memOk State.performEnt
  split <;> simpa only [stored_mem, stored_sram] using this

theorem memOk_foldl_performEnt : ∀ (es : List SbEnt) (s : State), s.memOk → State.memOk (es.foldl State.performEnt s)
  | [], _, h => h
  | e :: es, _, h => memOk_foldl_performEnt es _ (memOk_performEnt e h)

/-- Where no store of the set is delayed there is nothing to perform. -/
theorem flush_of_none {s : State} {p : SbEnt → Bool} (h : ∀ e ∈ s.ct.sbuf, p e = false) : s.flush p = s := by
  simp [State.flush, needed_of_none h]
theorem flush_of_empty {s : State} (h : s.ct.sbuf = []) (p : SbEnt → Bool) : s.flush p = s := flush_of_none (by simp [h])
theorem canFlush_of_none {s : State} {c : Ct} {p : SbEnt → Bool} (h : ∀ e ∈ c.sbuf, p e = false) : s.canFlush c p = true := by
  simp [State.canFlush, needed_of_none h]
theorem canFlush_of_empty {s : State} {c : Ct} (h : c.sbuf = []) (p : SbEnt → Bool) : s.canFlush c p = true :=
  canFlush_of_none (by simp [h])
/-- What performing a set does: nothing, or every store of the set and what it may not overtake, oldest first; these are delayed no
more, and all others still are. -/
theorem flush_cases (s : State) (p : SbEnt → Bool) :
    (∀ e ∈ s.ct.sbuf, p e = false) ∧ s.flush p = s ∨
    ∃ es, es = needed p s.ct.sbuf ∧ (∀ e ∈ s.ct.sbuf, p e = true → e ∈ es) ∧
      s.flush p = { es.foldl State.performEnt s with
        ct := { (es.foldl State.performEnt s).ct with sbuf := s.ct.sbuf.filter fun e => !es.any fun f => f.id == e.id } } := by
  unfold State.flush
  split
  · rename_i h
    refine .inl ⟨fun e he => ?_, rfl⟩
    cases hp : p e
    · rfl
    · exact absurd (mem_needed he hp) (by simp [h])
  · exact .inr ⟨_, rfl, fun e he hp => mem_needed he hp, rfl⟩
theorem memOk_flush {s : State} (p : SbEnt → Bool) (h : s.memOk) : (s.flush p).memOk := by
  unfold State.flush
  split
  · exact h
  · exact memOk_foldl_performEnt _ s h
/-- With all of them performed none is delayed. -/
theorem flush_all (s : State) : (s.flush fun _ => true).ct.sbuf = [] := by
  unfold State.flush
  rw [needed_of_all (by simp)]
  split
  · assumption
  · simp only [List.filter_eq_nil_iff]
    intro e he
    simpa using ⟨e, he, rfl⟩

/-- What follows the stores of a set goes on with these performed, or waits for what holds one of them back. -/
theorem afterStores_cases (s : State) (p : SbEnt → Bool) (f : State → State) :
    (∀ e ∈ needed p s.ct.sbuf, s.free s.ct.via e = true) ∧ s.afterStores p f = f (s.flush p) ∨
    (∃ e ∈ needed p s.ct.sbuf, s.free s.ct.via e = false) ∧ s.afterStores p f = s := by
  unfold State.afterStores State.canFlush
  cases h : (needed p s.ct.sbuf).all (s.free s.ct.via)
  · exact .inr ⟨by simpa using h, by simp⟩
  · exact .inl ⟨by simpa using h, by simp⟩
theorem memOk_afterStores {s : State} {p : SbEnt → Bool} {f : State → State} (h : s.memOk) (hf : ∀ t : State, t.memOk → (f t).memOk) :
    (s.afterStores p f).memOk := by
  obtain ⟨-, e⟩ | ⟨-, e⟩ := afterStores_cases s p f <;> rw [e]
  · exact hf _ (memOk_flush p h)
  · exact h
theorem afterStores_of_none {s : State} {p : SbEnt → Bool} (h : ∀ e ∈ s.ct.sbuf, p e = false) (f : State → State) :
    s.afterStores p f = f s := by simp [State.afterStores, canFlush_of_none h, flush_of_none h]
theorem ordered_of_empty {s : State} (h : s.ct.sbuf = []) (f : State → State) : s.ordered f = f s :=
  afterStores_of_none (by simp [h]) f

/-! ### Stores -/

theorem memOk_note {s : State} (d : Side) (t : Nat) (l : Loc) (n : Nat) (h : s.memOk) : (s.note d t l n).memOk := h
theorem memOk_storeNow {s : State} (e : SbEnt) (h : s.memOk) : State.memOk (s.storeNow e) :=
  memOk_note _ _ _ _ (memOk_performEnt e (memOk_flush _ h))
/-- A store of a CT stands last among the delayed ones, or is performed after those that it may not overtake. -/
theorem storeBy_cases (s : State) (d : Side) (rel : Bool) (l : Loc) (n : Nat) (mask : Option Nat) (x : Nat) :
    s.delays l = true ∧ s.storeBy d rel l n mask x = s.delay ⟨d, s.ct.sbn, rel, none, l, n, mask, x⟩ ∨
    s.delays l = false ∧ s.storeBy d rel l n mask x = s.storeNow ⟨d, s.ct.sbn, rel, none, l, n, mask, x⟩ := by
  cases h : s.delays l <;> simp [State.storeBy, h]
theorem memOk_storeBy {s : State} (d : Side) (rel : Bool) (l : Loc) (n : Nat) (mask : Option Nat) (x : Nat) (h : s.memOk) :
    State.memOk (s.storeBy d rel l n mask x) := by
  obtain ⟨-, e⟩ | ⟨-, e⟩ := storeBy_cases s d rel l n mask x <;> rw [e]
  · exact h
  · exact memOk_storeNow _ h
theorem memOk_storeAt {s : State} (l : Loc) (n x : Nat) (rel : Bool) (h : s.memOk) : State.memOk (s.storeAt l n x rel) := by
  unfold State.storeAt
  split
  · exact memOk_storeBy _ _ _ _ _ _ h
  · have := memOk_poke s.via l n x h
    unfold State.memOk
    simpa only [stored_mem, stored_sram] using this

/-! ### Reads -/

/-- Where no store is delayed and no moment is kept, a read of the agent in focus gives the bytes as they stand and leaves the state. -/
theorem readNow_still {s : State} (l : Loc) (n : Nat) (hb : s.ct.sbuf = []) (hl : s.ct.looks = []) :
    s.readNow l n = (s.peek s.via l n, s.moment, s) := by
  unfold State.readNow
  rw [flush_of_empty hb]
  have note : ∀ d t, s.note d t l n = s := fun d t => by
    unfold State.note
    rw [hl, List.map_nil, ← hl]
  cases hw : s.who <;> simp only [State.side, hw, note] <;> simp [State.via, State.isSys, hw]

theorem memOk_readNow {s : State} (l : Loc) (n : Nat) (h : s.memOk) : State.memOk (s.readNow l n).2.2 := by
  unfold State.readNow
  dsimp only
  split
  · exact memOk_flush _ h
  · exact h
/-- What a read event gives: the bytes as they stand, or, of a kept moment that nothing orders before it, those of that moment. -/
theorem readEvent_cases (s : State) (d : Side) (floor : Nat) (l : Loc) (n : Nat) :
    s.lookFor d floor l n = none ∧ (s.readEvent d floor l n).1 = s.peek s.ct.via l n ∨
    ∃ k ∈ s.ct.looks, k.side = d ∧ floor ≤ k.time ∧ k.open l n = true ∧ (s.readEvent d floor l n).2.1 = k.time ∧
      (s.readEvent d floor l n).1 =
        ({ s with mem := k.mem, sram := k.sram, pkg := { s.pkg with prov := k.prov } } : State).peek s.ct.via l n := by
  unfold State.readEvent
  cases h : s.lookFor d floor l n with
  | none => exact .inl ⟨rfl, rfl⟩
  | some k =>
    refine .inr ⟨k, ?_, ?_⟩
    · unfold State.lookFor at h
      split at h
      · split at h
        · rename_i hk
          split at h
          · simp only [Option.some.injEq] at h; subst h
            exact List.mem_of_getElem? hk
          · simp at h
        · simp at h
      · simp at h
    · unfold State.lookFor at h
      split at h
      · split at h
        · split at h
          · rename_i hc
            simp only [Option.some.injEq] at h; subst h
            exact ⟨hc.1, hc.2.1, hc.2.2, rfl, rfl⟩
          · simp at h
        · simp at h
      · simp at h
/-- Where the next loads have chosen no earlier moment, a read takes the bytes as they stand. -/
theorem lookFor_of_none {s : State} (h : s.ct.early = []) (d : Side) (floor : Nat) (l : Loc) (n : Nat) :
    s.lookFor d floor l n = none := by simp [State.lookFor, h]
theorem readEvent_now {s : State} (h : s.ct.early = []) (d : Side) (floor : Nat) (l : Loc) (n : Nat) :
    (s.readEvent d floor l n).1 = s.peek s.ct.via l n := by simp [State.readEvent, lookFor_of_none h]

/-! ### Turns that move no agent -/

/-- A delayed store that a turn performs: nothing happens, or it is performed with what it may not overtake. -/
theorem performOne_cases (s : State) (k : Nat) :
    s.performOne k = s ∨ ∃ e, s.ct.sbuf[k]? = some e ∧ (∀ f ∈ needed (fun f => f.id == e.id) s.ct.sbuf, s.free s.ct.via f = true) ∧
      s.performOne k = (List.range 4).foldl (fun t n => if t.ct.ripe n then t.tryFire n else t) (s.flush fun f => f.id == e.id) := by
  unfold State.performOne
  split
  · exact .inl rfl
  · rename_i e he
    obtain ⟨hf, h⟩ | ⟨-, h⟩ := afterStores_cases s (fun f => f.id == e.id) fun s =>
      (List.range 4).foldl (fun t n => if t.ct.ripe n then t.tryFire n else t) s
    · exact .inr ⟨e, he, hf, h⟩
    · exact .inl h
theorem memOk_tryFire {s : State} (n : Nat) (h : s.memOk) : (s.tryFire n).memOk := by
  unfold State.tryFire
  split
  · exact memOk_afterStores h fun _ h => h
  · exact h
theorem memOk_performOne {s : State} (k : Nat) (h : s.memOk) : (s.performOne k).memOk := by
  obtain e | ⟨e, -, -, he⟩ := performOne_cases s k
  · rw [e]; exact h
  · rw [he]
    have step : ∀ (ns : List Nat) (t : State), t.memOk → (ns.foldl (fun t n => if t.ct.ripe n then t.tryFire n else t) t).memOk := by
      intro ns
      induction ns with
      | nil => exact fun _ h => h
      | cons n ns ih =>
        intro t h
        refine ih _ ?_
        dsimp only
        split
        · exact memOk_tryFire n h
        · exact h
    exact step _ _ (memOk_flush _ h)

/-! ### A unit's write through the pages in migration (R260) -/

@[simp] theorem writeHome_sram : ∀ (n : Nat) (s : State) (pa x : Nat), (s.writeHome pa n x).sram = s.sram
  | 0, _, _, _ => rfl
  | n + 1, s, pa, x => writeHome_sram n _ (pa + 1) (x / 256)
@[simp] theorem writeHome_ct : ∀ (n : Nat) (s : State) (pa x : Nat), (s.writeHome pa n x).ct = s.ct
  | 0, _, _, _ => rfl
  | n + 1, s, pa, x => writeHome_ct n _ (pa + 1) (x / 256)
@[simp] theorem writeHome_pkg : ∀ (n : Nat) (s : State) (pa x : Nat), (s.writeHome pa n x).pkg = s.pkg
  | 0, _, _, _ => rfl
  | n + 1, s, pa, x => writeHome_pkg n _ (pa + 1) (x / 256)
theorem memOk_writeHome : ∀ (n : Nat) {s : State} (pa x : Nat), s.memOk → State.memOk (s.writeHome pa n x)
  | 0, _, _, _, h => h
  | n + 1, _, pa, x, h => memOk_writeHome n (pa + 1) (x / 256) ⟨wf_write _ _ h.1, h.2⟩

/-! ### Tables -/

/-- A slice never holds more than 512 translations once one is added (R153). -/
theorem fillTlb_slice (s : State) (e : TlbEnt) :
    ((s.fillTlb e).pkg.tlb.filter (fun t => t.core = e.core && t.slice = e.slice)).length ≤ 512 := by
  have h0 : (s.pkg.tlb.filter (fun t => !(t.core = e.core && t.slice = e.slice))).filter (fun t => t.core = e.core && t.slice = e.slice) = [] := by
    simp only [List.filter_eq_nil_iff, List.mem_filter]
    rintro t ⟨-, h⟩ hh
    rw [hh] at h; exact Bool.noConfusion h
  simp only [State.fillTlb, List.filter_cons, List.filter_append, decide_true, Bool.and_self, if_true, h0, List.append_nil,
    List.length_cons]
  have := List.length_filter_le (fun (t : TlbEnt) => t.core = e.core && t.slice = e.slice)
    ((s.pkg.tlb.filter (fun t => t.core = e.core && t.slice = e.slice)).take 511)
  have := List.length_take_le 511 (s.pkg.tlb.filter (fun t => t.core = e.core && t.slice = e.slice))
  omega
/-- With no request waiting, none is tried again. -/
theorem retryInbound_of_empty {s : State} (h : s.pkg.inbound = []) : s.retryInbound = s := by simp [State.retryInbound, h]

end Sys2Proof.Laws
end

