-- ==== Sys2Proof/Tests/Slice0.lean ====
section
/-! SUPPORT. Tests: ill-formed terms refused, words written out from the spec's encodings, single words with results worked out from
the spec's rules, and for every statement states and operands that meet its hypotheses. -/
namespace Sys2Proof.Tests
open Sys2Proof Sys2Proof.Machine Sys2Proof.Stmt

section
set_option Elab.async false
set_option maxRecDepth 20000

/-! ### Well-formedness and decoding -/

/-- One ill-formed term for each sub-field that may hold an unassigned value (R13): refused. -/
theorem test_wf_refuses_unassigned_values :
    ([.amoadd 1 2 3 0 5, .amoswap 1 2 3 1 6, .amoand 1 2 3 0 7, .amoor 1 2 3 0 5, .amoxor 1 2 3 0 5, .amomin 1 2 3 0 5,
      .amomax 1 2 3 0 5, .amominu 1 2 3 0 5, .amomaxu 1 2 3 0 5, .amocas 1 2 3 0 5, .lda 1 2 0 5, .stl 1 2 0 5,
      .fence 1 5, .vldseg false 1 2 0 3, .vldseg false 1 2 0 11, .vstseg false 1 2 0 3, .vstseg false 1 2 0 11, .cpy 1 2 4 3 0,
      .cpy 1 2 4 0 5, .cpyq 1 2 5, .lstat 1 2 6] : List Instr).all (fun i => !i.wf) = true := by decide +kernel
/-- One for each field range (R12): refused, and the decoder refuses its word with ILL FIELD. -/
theorem test_wf_refuses_fields_out_of_range :
    ([.ldu 1 2 3 0 0, .vsett false 31 1 11 0, .vsett false 1 0 19 0, .vsett false 1 0 3 1, .vclass false 1 2 16 0, .pset 1 2,
      .vsoftmax false 1 2 0 0, .vsoftmax false 1 2 62 0, .binz false 8 9, .binz false 0 8, .vbinacc false 8 1 0, .vbinmacVx false 8 1 2 0,
      .vbinmacVv false 8 1 2 0, .binfold false 8 1, .fbind false 15 1, .fchain false 15 0 1, .fchain false 16 4 1, .funbind false 15,
      .fstat false 15 0 1, .fstat false 16 3 1, .mstl false 62 0, .mstl false 0 62, .mmac false 12 1 2, .mmacM false 12 1 2 0,
      .macz false 12, .macld false 12 1 2 3, .macst false 12 1 2 3, .macin false 12 1 2, .mseedscan false 1 62 0, .mseedscan false 1 0 63,
      .cpy 1 63 4 0 0, .wmbind 62 1 0, .barg false 4, .barw false 4] : List Instr).all
      (fun i => !i.wf && decodeWord (encode i) == .error 5) = true := by decide +kernel
/-- An event is no word; a word with every field in range is well formed. -/
theorem test_wf_refuses_events :
    ([.boot, .illegalWord 0 1, .pageWalk ⟨0, 0⟩ 0 0, .uopIssue 0 true, .collect []] : List Instr).all (fun i => !i.wf) = true ∧
    ([.add 1 2 3, .lda 1 2 1 4, .vsett false 30 1 11 7, .fbind true 16 63, .barg true 3, .cpy 1 62 4 2 4] : List Instr).all (fun i => i.wf) = true := by
  decide +kernel

theorem test_decode_major_01 :
    decodeWord 0x04525200#32 = .ok (.add 5 9 18) ∧
    decodeWord 0x04525201#32 = .ok (.sub 5 9 18) ∧
    decodeWord 0x04525202#32 = .ok (.mul 5 9 18) ∧
    decodeWord 0x04525203#32 = .ok (.mulh 5 9 18) ∧
    decodeWord 0x04525204#32 = .ok (.mulhu 5 9 18) ∧
    decodeWord 0x04525205#32 = .ok (.div 5 9 18) ∧
    decodeWord 0x04525206#32 = .ok (.divu 5 9 18) ∧
    decodeWord 0x04525207#32 = .ok (.rem 5 9 18) ∧
    decodeWord 0x04525208#32 = .ok (.remu 5 9 18) ∧
    decodeWord 0x04525210#32 = .ok (.and 5 9 18) ∧
    decodeWord 0x04525211#32 = .ok (.or 5 9 18) ∧
    decodeWord 0x04525212#32 = .ok (.xor 5 9 18) ∧
    decodeWord 0x04525213#32 = .ok (.andn 5 9 18) ∧
    decodeWord 0x04525218#32 = .ok (.shl 5 9 18) ∧
    decodeWord 0x04525219#32 = .ok (.shr 5 9 18) ∧
    decodeWord 0x0452521A#32 = .ok (.sha 5 9 18) ∧
    decodeWord 0x0452521B#32 = .ok (.rot 5 9 18) ∧
    decodeWord 0x04525220#32 = .ok (.slt 5 9 18) ∧
    decodeWord 0x04525221#32 = .ok (.sltu 5 9 18) ∧
    decodeWord 0x04525222#32 = .ok (.min 5 9 18) ∧
    decodeWord 0x04525223#32 = .ok (.max 5 9 18) ∧
    decodeWord 0x04525224#32 = .ok (.minu 5 9 18) ∧
    decodeWord 0x04525225#32 = .ok (.maxu 5 9 18) ∧
    decodeWord 0x04524028#32 = .ok (.clz 5 9) ∧
    decodeWord 0x04524029#32 = .ok (.ctz 5 9) ∧
    decodeWord 0x0452402A#32 = .ok (.popc 5 9) := by decide +kernel
theorem test_decode_major_02 :
    decodeWord 0x0852400B#32 = .ok (.addi 5 9 11) := by decide +kernel
theorem test_decode_major_03 :
    decodeWord 0x0C52400B#32 = .ok (.andi 5 9 11) := by decide +kernel
theorem test_decode_major_04 :
    decodeWord 0x1052400B#32 = .ok (.ori 5 9 11) := by decide +kernel
theorem test_decode_major_05 :
    decodeWord 0x1452400B#32 = .ok (.xori 5 9 11) := by decide +kernel
theorem test_decode_major_06 :
    decodeWord 0x1852400B#32 = .ok (.slti 5 9 11) := by decide +kernel
theorem test_decode_major_07 :
    decodeWord 0x1C524003#32 = .ok (.shli 5 9 3) ∧
    decodeWord 0x1C525003#32 = .ok (.shri 5 9 3) ∧
    decodeWord 0x1C526003#32 = .ok (.shai 5 9 3) := by decide +kernel
theorem test_decode_major_08 :
    decodeWord 0x2050000B#32 = .ok (.ldi 5 11) := by decide +kernel
theorem test_decode_major_09 :
    decodeWord 0x24500015#32 = .ok (.adpc 5 21) := by decide +kernel
theorem test_decode_major_0A :
    decodeWord 0x2852780B#32 = .ok (.ld 5 9 3 2 11) := by decide +kernel
theorem test_decode_major_0B :
    decodeWord 0x2C52640B#32 = .ok (.ldu 5 9 2 1 11) := by decide +kernel
theorem test_decode_major_0C :
    decodeWord 0x30524C0B#32 = .ok (.st 5 9 0 3 11) := by decide +kernel
theorem test_decode_major_0D :
    decodeWord 0x3452520A#32 = .ok (.amoadd 5 9 18 1 2) ∧
    decodeWord 0x3452521A#32 = .ok (.amoswap 5 9 18 1 2) ∧
    decodeWord 0x3452522A#32 = .ok (.amoand 5 9 18 1 2) ∧
    decodeWord 0x3452523A#32 = .ok (.amoor 5 9 18 1 2) ∧
    decodeWord 0x3452524A#32 = .ok (.amoxor 5 9 18 1 2) ∧
    decodeWord 0x3452525A#32 = .ok (.amomin 5 9 18 1 2) ∧
    decodeWord 0x3452526A#32 = .ok (.amomax 5 9 18 1 2) ∧
    decodeWord 0x3452527A#32 = .ok (.amominu 5 9 18 1 2) ∧
    decodeWord 0x3452528A#32 = .ok (.amomaxu 5 9 18 1 2) ∧
    decodeWord 0x3452529A#32 = .ok (.amocas 5 9 18 1 2) ∧
    decodeWord 0x345240AA#32 = .ok (.lda 5 9 1 2) ∧
    decodeWord 0x340252BA#32 = .ok (.stl 9 18 1 2) := by decide +kernel
theorem test_decode_major_0E :
    decodeWord 0x38000090#32 = .ok (.fence 2 2) := by decide +kernel
theorem test_decode_major_10 :
    decodeWord 0x40948015#32 = .ok (.beq 9 18 21) := by decide +kernel
theorem test_decode_major_11 :
    decodeWord 0x44948015#32 = .ok (.bne 9 18 21) := by decide +kernel
theorem test_decode_major_12 :
    decodeWord 0x48948015#32 = .ok (.blt 9 18 21) := by decide +kernel
theorem test_decode_major_13 :
    decodeWord 0x4C948015#32 = .ok (.bge 9 18 21) := by decide +kernel
theorem test_decode_major_14 :
    decodeWord 0x50948015#32 = .ok (.bltu 9 18 21) := by decide +kernel
theorem test_decode_major_15 :
    decodeWord 0x54948015#32 = .ok (.bgeu 9 18 21) := by decide +kernel
theorem test_decode_major_16 :
    decodeWord 0x58500015#32 = .ok (.jmp 5 21) := by decide +kernel
theorem test_decode_major_17 :
    decodeWord 0x5C52400B#32 = .ok (.jmpr 5 9 11) := by decide +kernel
theorem test_decode_major_18 :
    decodeWord 0x60525204#32 = .ok (.fadd 5 9 18 1) ∧
    decodeWord 0x60525214#32 = .ok (.fsub 5 9 18 1) ∧
    decodeWord 0x60525224#32 = .ok (.fmul 5 9 18 1) ∧
    decodeWord 0x60525234#32 = .ok (.fdiv 5 9 18 1) ∧
    decodeWord 0x60524044#32 = .ok (.fsqrt 5 9 1) ∧
    decodeWord 0x60525254#32 = .ok (.fma 5 9 18 1) ∧
    decodeWord 0x60525264#32 = .ok (.fmin 5 9 18 1) ∧
    decodeWord 0x60525274#32 = .ok (.fmax 5 9 18 1) ∧
    decodeWord 0x60525285#32 = .ok (.fcmp 5 9 18 1 1) ∧
    decodeWord 0x60524096#32 = .ok (.fcvtDS 5 9 1 2) ∧
    decodeWord 0x605240A4#32 = .ok (.fmv 5 9 1) ∧
    decodeWord 0x605240A5#32 = .ok (.fmvNeg 5 9 1) ∧
    decodeWord 0x605240A6#32 = .ok (.fmvAbs 5 9 1) ∧
    decodeWord 0x605240B6#32 = .ok (.fcvtFK 5 9 1 2) ∧
    decodeWord 0x605240C6#32 = .ok (.fcvtKF 5 9 1 2) ∧
    decodeWord 0x605240D6#32 = .ok (.fcvtRtz 5 9 1 2) := by decide +kernel
theorem test_decode_major_19 :
    decodeWord 0x64024800#32 = .ok (.qsend 9 2) ∧
    decodeWord 0x64501800#32 = .ok (.qrecv 5 2) ∧
    decodeWord 0x64026000#32 = .ok (.qbsend 9) ∧
    decodeWord 0x64003015#32 = .ok (.bq 21) := by decide +kernel
theorem test_decode_major_1A :
    decodeWord 0x68500004#32 = .ok (.sysr 5 1) ∧
    decodeWord 0x68024005#32 = .ok (.sysw 9 1) ∧
    decodeWord 0x68024006#32 = .ok (.sysset 9 1) ∧
    decodeWord 0x68024007#32 = .ok (.sysclr 9 1) := by decide +kernel
theorem test_decode_major_1B :
    decodeWord 0x6C024000#32 = .ok (.trap 9) ∧
    decodeWord 0x6C000001#32 = .ok (.tret) ∧
    decodeWord 0x6C525202#32 = .ok (.wait 5 9 18) ∧
    decodeWord 0x6C000003#32 = .ok (.yield) ∧
    decodeWord 0x6C000004#32 = .ok (.halt) ∧
    decodeWord 0x6C500005#32 = .ok (.time 5) := by decide +kernel
theorem test_decode_major_1C :
    decodeWord 0x7000000B#32 = .ok (.hint 11) := by decide +kernel
theorem test_decode_major_20 :
    decodeWord 0x82052400#32 = .ok (.vsetl true 5 9) ∧
    decodeWord 0x824625C0#32 = .ok (.vsett true 3 2 11 4) ∧
    decodeWord 0x82800001#32 = .ok (.vsetg true 1) := by decide +kernel
theorem test_decode_major_21 :
    decodeWord 0x8654C980#32 = .ok (.vaddVv true 5 9 18 3) ∧
    decodeWord 0x8654C981#32 = .ok (.vsubVv true 5 9 18 3) ∧
    decodeWord 0x8654C982#32 = .ok (.vmulVv true 5 9 18 3) ∧
    decodeWord 0x8654C983#32 = .ok (.vmulhVv true 5 9 18 3) ∧
    decodeWord 0x8654C984#32 = .ok (.vdivVv true 5 9 18 3) ∧
    decodeWord 0x8654C985#32 = .ok (.vremVv true 5 9 18 3) ∧
    decodeWord 0x8654C986#32 = .ok (.vminVv true 5 9 18 3) ∧
    decodeWord 0x8654C987#32 = .ok (.vmaxVv true 5 9 18 3) ∧
    decodeWord 0x8654C988#32 = .ok (.vandVv true 5 9 18 3) ∧
    decodeWord 0x8654C989#32 = .ok (.vorVv true 5 9 18 3) ∧
    decodeWord 0x8654C98A#32 = .ok (.vxorVv true 5 9 18 3) ∧
    decodeWord 0x8654C98B#32 = .ok (.vandnVv true 5 9 18 3) ∧
    decodeWord 0x8654C98C#32 = .ok (.vshlVv true 5 9 18 3) ∧
    decodeWord 0x8654C98D#32 = .ok (.vshrVv true 5 9 18 3) ∧
    decodeWord 0x8654C98E#32 = .ok (.vshaVv true 5 9 18 3) ∧
    decodeWord 0x8654C98F#32 = .ok (.vfmaVv true 5 9 18 3) ∧
    decodeWord 0x8654C990#32 = .ok (.vfmsVv true 5 9 18 3) ∧
    decodeWord 0x8654C991#32 = .ok (.vfnmaVv true 5 9 18 3) ∧
    decodeWord 0x8654C992#32 = .ok (.vclampVv true 5 9 18 3) ∧
    decodeWord 0x8654C993#32 = .ok (.vselVv true 5 9 18 3) ∧
    decodeWord 0x8654C994#32 = .ok (.vaddSatVv true 5 9 18 3) ∧
    decodeWord 0x8654C995#32 = .ok (.vsubSatVv true 5 9 18 3) ∧
    decodeWord 0x865481A0#32 = .ok (.vabs true 5 9 3) ∧
    decodeWord 0x865481A1#32 = .ok (.vneg true 5 9 3) ∧
    decodeWord 0x865481A2#32 = .ok (.vmov true 5 9 3) ∧
    decodeWord 0x865481A3#32 = .ok (.vcvt true 5 9 3) ∧
    decodeWord 0x865481A4#32 = .ok (.vcvtSat true 5 9 3) := by decide +kernel
theorem test_decode_major_22 :
    decodeWord 0x8A5484C0#32 = .ok (.vaddVx true 5 9 2 3) ∧
    decodeWord 0x8A5484C1#32 = .ok (.vsubVx true 5 9 2 3) ∧
    decodeWord 0x8A5484C2#32 = .ok (.vmulVx true 5 9 2 3) ∧
    decodeWord 0x8A5484C3#32 = .ok (.vmulhVx true 5 9 2 3) ∧
    decodeWord 0x8A5484C4#32 = .ok (.vdivVx true 5 9 2 3) ∧
    decodeWord 0x8A5484C5#32 = .ok (.vremVx true 5 9 2 3) ∧
    decodeWord 0x8A5484C6#32 = .ok (.vminVx true 5 9 2 3) ∧
    decodeWord 0x8A5484C7#32 = .ok (.vmaxVx true 5 9 2 3) ∧
    decodeWord 0x8A5484C8#32 = .ok (.vandVx true 5 9 2 3) ∧
    decodeWord 0x8A5484C9#32 = .ok (.vorVx true 5 9 2 3) ∧
    decodeWord 0x8A5484CA#32 = .ok (.vxorVx true 5 9 2 3) ∧
    decodeWord 0x8A5484CB#32 = .ok (.vandnVx true 5 9 2 3) ∧
    decodeWord 0x8A5484CC#32 = .ok (.vshlVx true 5 9 2 3) ∧
    decodeWord 0x8A5484CD#32 = .ok (.vshrVx true 5 9 2 3) ∧
    decodeWord 0x8A5484CE#32 = .ok (.vshaVx true 5 9 2 3) ∧
    decodeWord 0x8A5484CF#32 = .ok (.vfmaVx true 5 9 2 3) ∧
    decodeWord 0x8A5484D0#32 = .ok (.vfmsVx true 5 9 2 3) ∧
    decodeWord 0x8A5484D1#32 = .ok (.vfnmaVx true 5 9 2 3) ∧
    decodeWord 0x8A5484D2#32 = .ok (.vclampVx true 5 9 2 3) ∧
    decodeWord 0x8A5484D3#32 = .ok (.vselVx true 5 9 2 3) ∧
    decodeWord 0x8A5484D4#32 = .ok (.vaddSatVx true 5 9 2 3) ∧
    decodeWord 0x8A5484D5#32 = .ok (.vsubSatVx true 5 9 2 3) ∧
    decodeWord 0x8A5004E0#32 = .ok (.vsplat true 5 2 3) ∧
    decodeWord 0x8A048421#32 = .ok (.vext true 9 2) := by decide +kernel
theorem test_decode_major_23 :
    decodeWord 0x8E560B06#32 = .ok (.viota true 5 3 11 6) := by decide +kernel
theorem test_decode_major_24 :
    decodeWord 0x925484C0#32 = .ok (.vwaddVx true 5 9 2 3) ∧
    decodeWord 0x9254A4E0#32 = .ok (.vwaddVv true 5 9 18 3) ∧
    decodeWord 0x925484C1#32 = .ok (.vwsubVx true 5 9 2 3) ∧
    decodeWord 0x9254A4E1#32 = .ok (.vwsubVv true 5 9 18 3) ∧
    decodeWord 0x925484C2#32 = .ok (.vwmulVx true 5 9 2 3) ∧
    decodeWord 0x9254A4E2#32 = .ok (.vwmulVv true 5 9 18 3) ∧
    decodeWord 0x925484C3#32 = .ok (.vwmacVx true 5 9 2 3) ∧
    decodeWord 0x9254A4E3#32 = .ok (.vwmacVv true 5 9 18 3) ∧
    decodeWord 0x925484C4#32 = .ok (.vnshrVx true 5 9 2 3) ∧
    decodeWord 0x9254A4E4#32 = .ok (.vnshrVv true 5 9 18 3) ∧
    decodeWord 0x925480C5#32 = .ok (.vncvt true 5 9 3) := by decide +kernel
theorem test_decode_major_25 :
    decodeWord 0x96548180#32 = .ok (.vsqrt true 5 9 3) ∧
    decodeWord 0x96548181#32 = .ok (.vrcp true 5 9 3) ∧
    decodeWord 0x96548182#32 = .ok (.vrsq true 5 9 3) ∧
    decodeWord 0x96548183#32 = .ok (.vexp2 true 5 9 3) ∧
    decodeWord 0x96548184#32 = .ok (.vlog2 true 5 9 3) := by decide +kernel
theorem test_decode_major_26 :
    decodeWord 0x9A153260#32 = .ok (.vcmpEq true 5 9 18 3) ∧
    decodeWord 0x9A153261#32 = .ok (.vcmpNe true 5 9 18 3) ∧
    decodeWord 0x9A153262#32 = .ok (.vcmpLt true 5 9 18 3) ∧
    decodeWord 0x9A153263#32 = .ok (.vcmpLe true 5 9 18 3) ∧
    decodeWord 0x9A153264#32 = .ok (.vcmpGt true 5 9 18 3) ∧
    decodeWord 0x9A153265#32 = .ok (.vcmpGe true 5 9 18 3) ∧
    decodeWord 0x9A153266#32 = .ok (.vcmpUn true 5 9 18 3) ∧
    decodeWord 0x9A152570#32 = .ok (.vclass true 5 9 5 3) := by decide +kernel
theorem test_decode_major_27 :
    decodeWord 0x9C289240#32 = .ok (.pand 5 9 18) ∧
    decodeWord 0x9C289241#32 = .ok (.por 5 9 18) ∧
    decodeWord 0x9C289242#32 = .ok (.pxor 5 9 18) ∧
    decodeWord 0x9C289243#32 = .ok (.pandn 5 9 18) ∧
    decodeWord 0x9C289004#32 = .ok (.pnot 5 9) ∧
    decodeWord 0x9C289005#32 = .ok (.pmov 5 9) ∧
    decodeWord 0x9C281006#32 = .ok (.pset 5 1) ∧
    decodeWord 0x9C509007#32 = .ok (.pcnt 5 9) ∧
    decodeWord 0x9C509008#32 = .ok (.pfirst 5 9) ∧
    decodeWord 0x9C509009#32 = .ok (.plast 5 9) ∧
    decodeWord 0x9C28900A#32 = .ok (.pbrk 5 9) ∧
    decodeWord 0x9C28400B#32 = .ok (.pld 5 2) ∧
    decodeWord 0x9C20900C#32 = .ok (.pst 2 9) := by decide +kernel
theorem test_decode_major_28 :
    decodeWord 0xA2000015#32 = .ok (.vfetch 21) ∧
    decodeWord 0xA2890015#32 = .ok (.vpbr true 9 21) ∧
    decodeWord 0xA3000000#32 = .ok (.vpjoin true) ∧
    decodeWord 0xA3800000#32 = .ok (.vpend true) := by decide +kernel
theorem test_decode_major_29 :
    decodeWord 0xA6524060#32 = .ok (.vld true 5 9 3) ∧
    decodeWord 0xA6524761#32 = .ok (.vldS true 5 9 7 3) ∧
    decodeWord 0xA6524B62#32 = .ok (.vldX true 5 9 11 3) ∧
    decodeWord 0xA6524063#32 = .ok (.vldff true 5 9 3) ∧
    decodeWord 0xA6524066#32 = .ok (.vldseg true 5 9 3 6) := by decide +kernel
theorem test_decode_major_2A :
    decodeWord 0xAA524060#32 = .ok (.vst true 5 9 3) ∧
    decodeWord 0xAA524761#32 = .ok (.vstS true 5 9 7 3) ∧
    decodeWord 0xAA524B62#32 = .ok (.vstX true 5 9 11 3) ∧
    decodeWord 0xAA524063#32 = .ok (.vsto true 5 9 3) ∧
    decodeWord 0xAA524067#32 = .ok (.vstseg true 5 9 3 7) ∧
    decodeWord 0xAA52476B#32 = .ok (.vstoStrided true 5 9 7 3) := by decide +kernel
theorem test_decode_major_2B :
    decodeWord 0xAE524B60#32 = .ok (.vamoAdd true 5 9 11 3) ∧
    decodeWord 0xAE524B61#32 = .ok (.vamoSwap true 5 9 11 3) ∧
    decodeWord 0xAE524B62#32 = .ok (.vamoAnd true 5 9 11 3) ∧
    decodeWord 0xAE524B63#32 = .ok (.vamoOr true 5 9 11 3) ∧
    decodeWord 0xAE524B64#32 = .ok (.vamoXor true 5 9 11 3) ∧
    decodeWord 0xAE524B65#32 = .ok (.vamoMin true 5 9 11 3) ∧
    decodeWord 0xAE524B66#32 = .ok (.vamoMax true 5 9 11 3) := by decide +kernel
theorem test_decode_major_2C :
    decodeWord 0xB254A4E0#32 = .ok (.vpermVv true 5 9 18 3) ∧
    decodeWord 0xB25484C0#32 = .ok (.vpermVx true 5 9 2 3) ∧
    decodeWord 0xB25484C1#32 = .ok (.vslup true 5 9 2 3) ∧
    decodeWord 0xB25484C2#32 = .ok (.vsldn true 5 9 2 3) ∧
    decodeWord 0xB25480C3#32 = .ok (.vcompr true 5 9 3) ∧
    decodeWord 0xB25480C4#32 = .ok (.vexpnd true 5 9 3) := by decide +kernel
theorem test_decode_major_2D :
    decodeWord 0xB60484C0#32 = .ok (.vredsum true 9 2 3) ∧
    decodeWord 0xB60484C1#32 = .ok (.vredmax true 9 2 3) ∧
    decodeWord 0xB60484C2#32 = .ok (.vredmin true 9 2 3) ∧
    decodeWord 0xB65484C3#32 = .ok (.vscan true 5 9 2 3) ∧
    decodeWord 0xB6548EC4#32 = .ok (.vsoftmax true 5 9 7 3) ∧
    decodeWord 0xB6378005#32 = .ok (.binz true 3 15) ∧
    decodeWord 0xB63480C6#32 = .ok (.vbinacc true 3 9 3) ∧
    decodeWord 0xB63484C7#32 = .ok (.vbinmacVx true 3 9 2 3) ∧
    decodeWord 0xB634A4E7#32 = .ok (.vbinmacVv true 3 9 18 3) ∧
    decodeWord 0xB6300408#32 = .ok (.binfold true 3 2) ∧
    decodeWord 0xB6000409#32 = .ok (.vmark true 2) ∧
    decodeWord 0xB600000A#32 = .ok (.vstrip true) := by decide +kernel
theorem test_decode_major_2E :
    decodeWord 0xBB500400#32 = .ok (.fbind true 21 2) ∧
    decodeWord 0xBB610401#32 = .ok (.fchain true 22 2 2) ∧
    decodeWord 0xBB700002#32 = .ok (.funbind true 23) ∧
    decodeWord 0xBB810403#32 = .ok (.fstat true 24 2 2) := by decide +kernel
theorem test_decode_major_2F :
    decodeWord 0xBE5484C0#32 = .ok (.fpcvt true 5 9 2 3) ∧
    decodeWord 0xBE5480C1#32 = .ok (.fplen2 true 5 9 3) ∧
    decodeWord 0xBE5480C2#32 = .ok (.fpgtag true 5 9 3) ∧
    decodeWord 0xBE5484C3#32 = .ok (.fpstagVx true 5 9 2 3) ∧
    decodeWord 0xBE54A4C4#32 = .ok (.fpstagVv true 5 9 18 3) := by decide +kernel
theorem test_decode_major_30 :
    decodeWord 0xC0525200#32 = .ok (.frset 5 9 18) ∧
    decodeWord 0xC0525201#32 = .ok (.frdel 5 9 18) ∧
    decodeWord 0xC0000002#32 = .ok (.frfence) ∧
    decodeWord 0xC0525203#32 = .ok (.frlook 5 9 18) := by decide +kernel
theorem test_decode_major_31 :
    decodeWord 0xC60001CC#32 = .ok (.mstl true 7 12) ∧
    decodeWord 0xC62041CC#32 = .ok (.mlds true 4 7 12) ∧
    decodeWord 0xC64041C0#32 = .ok (.msow true 4 7) ∧
    decodeWord 0xC6600000#32 = .ok (.mswap true) ∧
    decodeWord 0xC68441C0#32 = .ok (.mmac true 2 4 7) ∧
    decodeWord 0xC6A441C3#32 = .ok (.mmacM true 2 4 7 3) ∧
    decodeWord 0xC6C40000#32 = .ok (.macz true 2) ∧
    decodeWord 0xC6E441CC#32 = .ok (.macld true 2 4 7 12) ∧
    decodeWord 0xC70441CC#32 = .ok (.macst true 2 4 7 12) ∧
    decodeWord 0xC72441C0#32 = .ok (.macin true 2 4 7) ∧
    decodeWord 0xC74041CC#32 = .ok (.mseedgen true 4 7 12) ∧
    decodeWord 0xC76041CC#32 = .ok (.mseedscan true 4 7 12) := by decide +kernel
theorem test_decode_major_32 :
    decodeWord 0xC80A4A54#32 = .ok (.cpy 5 9 18 2 4) ∧
    decodeWord 0xC88A4802#32 = .ok (.cpyq 5 9 2) ∧
    decodeWord 0xC90A4800#32 = .ok (.cpyw 5 9) ∧
    decodeWord 0xC90A4801#32 = .ok (.cpywP 5 9) ∧
    decodeWord 0xC9804800#32 = .ok (.wdqry 9) ∧
    decodeWord 0xCA004A42#32 = .ok (.wmbind 9 18 2) ∧
    decodeWord 0xCA804A40#32 = .ok (.wmpub 9 18) := by decide +kernel
theorem test_decode_major_33 :
    decodeWord 0xCC0A4800#32 = .ok (.launch 5 9) ∧
    decodeWord 0xCC8A4800#32 = .ok (.lspec 5 9) ∧
    decodeWord 0xCD004A40#32 = .ok (.shpub 9 18) ∧
    decodeWord 0xCD8A4A40#32 = .ok (.allocr 5 9 18) ∧
    decodeWord 0xCE004A40#32 = .ok (.retract 9 18) ∧
    decodeWord 0xCE8A4802#32 = .ok (.lstat 5 9 2) := by decide +kernel
theorem test_decode_major_34 :
    decodeWord 0xD2018000#32 = .ok (.barg true 3) ∧
    decodeWord 0xD2018001#32 = .ok (.barw true 3) := by decide +kernel
theorem test_decode_major_35 :
    decodeWord 0xD6024000#32 = .ok (.vsave true 9) ∧
    decodeWord 0xD6024001#32 = .ok (.vrestore true 9) ∧
    decodeWord 0xD6024002#32 = .ok (.msave true 9) ∧
    decodeWord 0xD6024003#32 = .ok (.mrestore true 9) := by decide +kernel

/-- Words worked out in the spec's own tables (chapters 1, 4 to 6). -/
theorem test_decode_worked_elements :
    decodeWord 0x08410008#32 = .ok (.addi 4 4 8) ∧
    decodeWord 0x8820920F#32 = .ok (.vfmaVx false 2 1 9 0) ∧
    decodeWord 0x98202202#32 = .ok (.vcmpLt false 8 1 2 0) ∧
    decodeWord 0x90411603#32 = .ok (.vwmacVx false 4 2 11 0) ∧
    decodeWord 0x8C500AFD#32 = .ok (.viota false 5 0 10 0xFD) ∧
    decodeWord 0x84308801#32 = .ok (.vsubVv false 3 1 2 0) ∧
    decodeWord 0xBC418001#32 = .ok (.fplen2 false 4 3 0) ∧
    decodeWord 0xBC308E00#32 = .ok (.fpcvt false 3 1 7 0) ∧
    decodeWord 0x9C488004#32 = .ok (.pnot 9 8) ∧
    decodeWord 0xA0880003#32 = .ok (.vpbr false 8 3) ∧
    decodeWord 0xA1000000#32 = .ok (.vpjoin false) ∧
    decodeWord 0xA1800000#32 = .ok (.vpend false) := by decide +kernel
/-- Chapters 8 to 10 and 12. -/
theorem test_decode_worked_core :
    decodeWord 0xA4110000#32 = .ok (.vld false 1 4 0) ∧
    decodeWord 0xAA214000#32 = .ok (.vst true 2 5 0) ∧
    decodeWord 0xA4110005#32 = .ok (.vldseg false 1 4 0 5) ∧
    decodeWord 0xA4310001#32 = .ok (.vldS false 3 4 0 0) ∧
    decodeWord 0xA8310001#32 = .ok (.vstS false 3 4 0 0) ∧
    decodeWord 0xB9000800#32 = .ok (.fbind false 16 4) ∧
    decodeWord 0xB9000001#32 = .ok (.fchain false 16 0 0) ∧
    decodeWord 0xB9000002#32 = .ok (.funbind false 16) ∧
    decodeWord 0xB0308420#32 = .ok (.vpermVv false 3 1 2 0) ∧
    decodeWord 0xB0208A02#32 = .ok (.vsldn false 2 1 5 0) ∧
    decodeWord 0xB4078005#32 = .ok (.binz false 0 15) ∧
    decodeWord 0xB4008006#32 = .ok (.vbinacc false 0 1 0) ∧
    decodeWord 0xB6009600#32 = .ok (.vredsum true 1 11 0) ∧
    decodeWord 0xB400000A#32 = .ok (.vstrip false) ∧
    decodeWord 0xB6001A08#32 = .ok (.binfold true 0 13) ∧
    decodeWord 0xB4008427#32 = .ok (.vbinmacVv false 0 1 2 0) ∧
    decodeWord 0xC4000205#32 = .ok (.mstl false 8 5) ∧
    decodeWord 0xC42082CC#32 = .ok (.mlds false 8 11 12) ∧
    decodeWord 0xC4408100#32 = .ok (.msow false 8 4) ∧
    decodeWord 0xC6600000#32 = .ok (.mswap true) ∧
    decodeWord 0xC4808000#32 = .ok (.mmac false 0 8 0) ∧
    decodeWord 0xC7009411#32 = .ok (.macst true 0 9 16 17) ∧
    decodeWord 0x88420E08#32 = .ok (.vandVx false 4 4 7 0) ∧
    decodeWord 0x84128023#32 = .ok (.vcvt false 1 5 0) ∧
    decodeWord 0x60E30D20#32 = .ok (.fmul 14 12 13 0) ∧
    decodeWord 0x60E38040#32 = .ok (.fsqrt 14 14 0) ∧
    decodeWord 0x60F2CE30#32 = .ok (.fdiv 15 11 14 0) ∧
    decodeWord 0x30F8A000#32 = .ok (.st 15 34 2 0 0) := by decide +kernel
/-- Chapters 13 to 21. -/
theorem test_decode_worked_die :
    decodeWord 0x3492880B#32 = .ok (.amoadd 9 10 8 1 3) ∧
    decodeWord 0x347180A9#32 = .ok (.lda 7 6 1 1) ∧
    decodeWord 0x340549BB#32 = .ok (.stl 21 9 1 3) ∧
    decodeWord 0x380000D8#32 = .ok (.fence 3 3) ∧
    decodeWord 0xAC310200#32 = .ok (.vamoAdd false 3 4 2 0) := by decide +kernel
theorem test_decode_worked_engines :
    decodeWord 0xD0000001#32 = .ok (.barw false 0) ∧
    decodeWord 0xC80E20C3#32 = .ok (.cpy 7 4 6 0 3) ∧
    decodeWord 0xC9123800#32 = .ok (.cpyw 9 7) ∧
    decodeWord 0xC9802000#32 = .ok (.wdqry 4) ∧
    decodeWord 0xCA805160#32 = .ok (.wmpub 10 11) ∧
    decodeWord 0xCA003980#32 = .ok (.wmbind 7 12 0) ∧
    decodeWord 0xCC124000#32 = .ok (.launch 9 8) ∧
    decodeWord 0xCC924000#32 = .ok (.lspec 9 8) ∧
    decodeWord 0xCD0039E0#32 = .ok (.shpub 7 15) ∧
    decodeWord 0xCD9869C0#32 = .ok (.allocr 12 13 14) ∧
    decodeWord 0xCE0069E0#32 = .ok (.retract 13 15) ∧
    decodeWord 0xCEA24804#32 = .ok (.lstat 17 9 4) ∧
    decodeWord 0xC091C800#32 = .ok (.frset 9 7 8) ∧
    decodeWord 0xC0B28901#32 = .ok (.frdel 11 10 9) ∧
    decodeWord 0xC0000002#32 = .ok .frfence ∧
    decodeWord 0xC0F30D03#32 = .ok (.frlook 15 12 13) ∧
    decodeWord 0x6CE24F02#32 = .ok (.wait 14 9 15) ∧
    decodeWord 0x30C27010#32 = .ok (.st 12 9 3 0 16) ∧
    decodeWord 0x1CD35030#32 = .ok (.shri 13 13 48) ∧
    decodeWord 0x98042300#32 = .ok (.vcmpEq false 1 1 3 0) ∧
    decodeWord 0xB0410043#32 = .ok (.vcompr false 4 2 1) ∧
    decodeWord 0x9CF01007#32 = .ok (.pcnt 15 1) ∧
    decodeWord 0x2D54E000#32 = .ok (.ldu 21 19 2 0 0) ∧
    decodeWord 0xC5408105#32 = .ok (.mseedgen false 8 4 5) := by decide +kernel

/-! ### States for the witnesses -/

/-- A CT that runs in slot 0 of core 0, in plot 0, address space 1; two elements, v0 to v16 of u32. -/
def ct0 : Ct := { Ct.fresh with
  status := .running, aend := false, plot := 0, aspace := 1, launch := 1, scratch := 0x40000, vl := 2, vsw := 32,
  vtype := (Vector.replicate 32 0).mapIdx fun i _ => if i ≤ 16 then 0x40 else 0 }
/-- Its plot: every resource; 16 frames of reserve at 0x300000, roots at 0x20000. -/
def plot0 : Plot := ⟨0, 0xFFFFFFFF, 0xFFFF, 0xFFFFFFFF, 0xFFFFFFFFFFFF, 0, 64, 0, 64, 0x100000, 4, 0, 0x300000, 16, 0x40000, 0x20000, 0x1000000, 8, [], [], 0⟩
def pkg0 : Pkg := { Pkg.zero with
  plots := [plot0], cores := [(0, ⟨8, 0x40000, 0x40000⟩)], tlb := [⟨0, 1, 0, 1, 1, 0x1003B⟩, ⟨0, 2, 0, 1, 2, 0x2003B⟩] }
/-- The execute stream of that CT is in focus. -/
def sE : State := { State.reset with who := .exec, ct := ct0, pkg := pkg0 }
/-- Its access stream. -/
def sA : State := { sE with who := .access }
/-- A system core at level 2. -/
def sS : State := { sE with who := .sys 0 }
/-- The execute stream of a CT changed. -/
def onE (f : Ct → Ct) : State := { sE with ct := f ct0 }
/-- With scalar registers set, and bytes in main memory and in scratch. -/
def regs (s : State) (l : List (SReg × Word)) : State := l.foldl (fun s p => s.wr p.1 p.2) s
def mems (s : State) (l : List (Nat × Nat × Nat)) : State := { s with mem := l.foldl (fun m p => m.writeN p.1 p.2.1 p.2.2) s.mem }
def pkgs (s : State) (f : Pkg → Pkg) : State := { s with pkg := f s.pkg }
/-- An address in the window of a CT's own scratch, and its place. -/
def scr (o : Nat) : Word := BitVec.ofNat 64 (0xFFFFFF0000000000 + o)
def scrLoc (a : Word) : Loc := .sram (a.toNat - 0xFFFFFF0000000000)

theorem ready_of {s : State} {a : Word} {n : Nat} {k : Kind} {l : Loc}
    (h : (!s.walkHeldNow a && decide (s.place a n k = .ok l) && decide (s.beyond s.via l n k = none) && !s.claimed s.via l n k &&
      !provStalls s s.via a l k && (decide (k ≠ .load) || !wmWaitsN s a n) && (decide (k = .store) || !s.readsBad s.via l n)) = true) :
    Ready s a n k l := by
  simp only [Bool.and_eq_true, Bool.or_eq_true, Bool.not_eq_true', decide_eq_true_eq] at h
  obtain ⟨⟨⟨⟨⟨⟨h0, h1⟩, h2⟩, h3⟩, h4⟩, h5⟩, h6⟩ := h
  exact ⟨h0, h1, h2, h3, h4, fun e => h5.resolve_left (· e), fun e => h6.resolve_left e⟩

/-- A condition on a place's address and memory type. -/
theorem phys_of {l : Loc} {P : Nat → Nat → Prop} (h : match l with | .phys pa ty => P pa ty | _ => True) :
    ∀ pa ty, l = .phys pa ty → P pa ty := by
  rintro pa ty rfl
  exact h

theorem vready_of {s : State}
    (h : s.who = .exec ∧ s.ct.status = .running ∧ s.ct.blk = none ∧ s.ct.viq = [] ∧ s.ct.hold = false ∧ s.ct.vown = true ∧ s.pkg.reqs = [] ∧
      (s.ct.lg = 1 ∨ s.ct.lg = 2 ∨ s.ct.lg = 4 ∨ s.ct.lg = 8) ∧ s.ct.g ≤ 3 ∧ s.ct.vl ≤ s.ct.vlen / 2) : VReady s :=
  ⟨h.1, h.2.1, h.2.2.1, h.2.2.2.1, h.2.2.2.2.1, h.2.2.2.2.2.1, h.2.2.2.2.2.2.1, h.2.2.2.2.2.2.2.1, h.2.2.2.2.2.2.2.2.1, h.2.2.2.2.2.2.2.2.2⟩

theorem noFeeds_of {s : State} (h : (List.range 16).all (fun i => (s.ct.feeds[i]?).join = none) = true) : NoFeeds s := by
  intro r
  unfold Ct.feed
  split
  · by_cases hr : r - 16 < 16
    · exact of_decide_eq_true (List.all_eq_true.1 h _ (List.mem_range.2 hr))
    · rw [Vector.getElem?_eq_none (by omega)]; rfl
  · rfl

/-- An access that reaches a scratch byte or main memory. -/
def reachB (s : State) (n : Nat) (k : Kind) (ok : Nat → Bool) (a : Word) (l : Loc) : Bool :=
  !s.walkHeld s.ct.via a && decide (s.resolve s.ct.via a n k = .ok l) &&
    (match l with | .phys pa ty => ok ty && decide (pa < mainEnd) | _ => true) &&
    !s.claimed s.ct.via l n k && (decide (k = .store) || !s.poisonedAt l) && (decide (k ≠ .load) || !wmHolds s s.ct.wmb a n)
theorem reaches_of {s : State} {n : Nat} {k : Kind} {ok : Nat → Bool} {a : Word} {l : Loc} (h : reachB s n k ok a l = true) :
    Reaches s n k ok a l := by
  simp only [reachB, Bool.and_eq_true, Bool.or_eq_true, Bool.not_eq_true', decide_eq_true_eq] at h
  obtain ⟨⟨⟨⟨⟨h0, h1⟩, h2⟩, h3⟩, h4⟩, h5⟩ := h
  refine ⟨h0, h1, ?_, h3, fun e => h4.resolve_left e, fun e => h5.resolve_left (· e)⟩
  rintro pa ty rfl
  simpa using h2
/-- A property of every element below vl that computes. -/
theorem elems_of {s : State} {on : Nat → Bool} {P : Nat → Prop} {b : Nat → Bool} (hl : ∀ e, on e = true → e < s.ct.vl)
    (hp : ∀ e, b e = true → P e) (h : ((List.range s.ct.vl).all fun e => !on e || b e) = true) : ∀ e, on e = true → P e := by
  intro e he
  have := List.all_eq_true.1 h e (List.mem_range.2 (hl e he))
  rw [he] at this
  exact hp e (by simpa using this)
theorem onAt_lt {s : State} {p : PGov} : ∀ e, onAt s p e = true → e < s.ct.vl := by
  intro e h
  simp only [onAt, Bool.and_eq_true, decide_eq_true_eq] at h
  exact h.1.2
theorem allAt_lt {s : State} : ∀ e, allAt s e = true → e < s.ct.vl := by
  intro e h
  simp only [allAt, Bool.and_eq_true, decide_eq_true_eq] at h
  exact h.2
/-- The tags of some registers set. -/
def tags (l : List (Nat × BitVec 8)) : State := onE fun c => { c with vtype := l.foldl (fun v p => v.setIfInBounds p.1 p.2) c.vtype }
/-- A convoy that is open with both memory places taken (a word with C = 1 begins another), and a fresh one. -/
def cv1 : Convoy := ⟨true, 0, 0, 0, false⟩
/-- The execute stream inside a block. -/
def g0 : Group := ⟨0x1000, 3, 0, [], .run, .clear⟩
def b0 : Block := ⟨[g0], 0, [(0, 0x800)], 1⟩
def sB : State := onE fun c => { c with blk := some b0 }
/-- A posted word. -/
def y0 : Ventry := ⟨.mswap, 0, 0x40, none, 2, 0, 0, .rne, 0, 0, 0, 0, none, false, [], {}, Vector.replicate 4 none, 0, 0, []⟩
theorem sE_ready : VReady sE := vready_of (by decide +kernel)
theorem sE_noFeeds : NoFeeds sE := noFeeds_of (by decide +kernel)
theorem some_and {α : Type} {x : Option α} {P : α → Prop} [DecidablePred P] (h : (match x with | some q => decide (P q) | none => false) = true) :
    ∃ q, x = some q ∧ P q := by
  cases x with
  | none => cases h
  | some q => exact ⟨q, rfl, of_decide_eq_true h⟩
theorem none_of {α : Type} {x : Option α} (h : x.isNone = true) : x = none := Option.isNone_iff_eq_none.1 h
theorem some_of {α : Type} {x : Option α} (h : x.isSome = true) : ∃ y, x = some y := Option.isSome_iff_exists.1 h
/-- Bytes beyond every listed cell are 0. -/
theorem readN_none {m : Memory} {a : Nat} (h : ∀ c ∈ m, c.1 < a) : ∀ n, m.readN a n = 0 := by
  have byte : ∀ b, a ≤ b → m.read b = fillByte := by
    intro b hb
    induction m with
    | nil => rfl
    | cons c m ih =>
      obtain ⟨x, v⟩ := c
      have := h (x, v) (List.mem_cons_self ..)
      simp only [Memory.read]
      rw [if_neg (by simp only at this; omega)]
      exact ih fun c hc => h c (List.mem_cons_of_mem _ hc)
  intro n
  suffices ∀ n b, a ≤ b → m.readN b n = 0 from this n a (Nat.le_refl _)
  intro n
  induction n with
  | zero => intro b _; rfl
  | succ n ih => intro b hb; rw [Memory.readN, byte b hb, ih (b + 1) (by omega)]; rfl

/-! ### Witnesses: each shows states and operands that meet a statement's hypotheses -/

theorem witness_StepKeepsMemoryForm : State.memOk State.reset ∧ ∃ t, step State.reset = .next t := ⟨by unfold State.memOk; decide +kernel, _, rfl⟩
theorem witness_StepKeepsTrapStateLegal : (∀ n, n < 16 → (State.reset.sysCore n).legal) ∧ ∃ t, step State.reset = .next t :=
  ⟨by unfold SysCore.legal; decide +kernel, _, rfl⟩
theorem witness_DecodeEncodeRoundTrip : ([.ldi 63 0x1FFFF, .vldseg true 31 63 7 10, .cpy 1 62 4 2 4] : List Instr).all (·.wf) = true := by decide +kernel
theorem witness_UnassignedWordsRefused :
    ([0#32, 0x3FFFFFF#32, 0x3C000000#32, 0x74000000#32, 0x7FFFFFFF#32, 0xD8000000#32, 0xFFFFFFFE#32] : List IWord).map
      (fun w => (fld w 26 6).toNat) = [0, 0, 0x0F, 0x1D, 0x1F, 0x36, 0x3F] ∧
    -- a word of an assigned major: a function field without a value; a field out of range
    (¬ noMajor 0x040000FF#32 ∧ ¬ fnAssigned 0x040000FF#32) ∧ (¬ noMajor 0x6BFF0000#32 ∧ fnAssigned 0x6BFF0000#32 ∧ (decode 0x6BFF0000#32).wf = false) := by
  unfold noMajor fnAssigned
  decide +kernel
/-- A word of a CT, and one of a system core. -/
theorem witness_StepRunsDecodedWord :
    (let s := State.reset.withFetchWord 32 0x04525200
     s.powered = true ∧ s.events = [] ∧ s.who = .exec ∧ s.ct.status = .running ∧ s.pausing = false ∧ s.ct.stalled = false ∧
       s.cur.halted = false ∧ s.cur.wait = none ∧ s.ct.viq = [] ∧ s.group = none ∧ s.pc.toNat % 4 = 0 ∧
       ∃ t, s.memLoad s.pc 4 .fetch = .ok (0x04525200, t)) ∧
    (let s := mems { sS with sys := sS.sys.set 0 { SysCore.zero with st := { Stream.zero with pc := 0x100 } } } [(0x100, 4, 0x04525200)]
     s.powered = true ∧ s.events = [] ∧ s.who = .sys 0 ∧ (s.sysCore 0).waiting = false ∧ s.cur.halted = false ∧ s.cur.wait = none ∧
       s.pc.toNat % 4 = 0 ∧ ∃ t, s.memLoad s.pc 4 .fetch = .ok (0x04525200, t)) := by
  refine ⟨⟨by decide +kernel, by decide +kernel, by decide +kernel, by decide +kernel, (by decide +kernel), by decide +kernel, by decide +kernel, by decide +kernel, by decide +kernel, (by decide +kernel), by decide +kernel, _, rfl⟩,
    by decide +kernel, by decide +kernel, by decide +kernel, by decide +kernel, (by decide +kernel), by decide +kernel, by decide +kernel, _, rfl⟩
theorem witness_AluWords : (∃ f, aluOf (.div 0 5 5) = some (0, 5, 5, f)) ∧ (∃ f, immOf (.addi 63 1 0x2000) = some (63, 1, f)) ∧
    sE.group = none ∧ sA.group = none ∧ sS.group = none := ⟨⟨_, rfl⟩, ⟨_, rfl⟩, by decide +kernel⟩
theorem witness_BranchesAndJumps : (∃ f, branchOf (.bltu 1 2 0x2000) = some (1, 2, 0x2000, f)) ∧ sE.group = none ∧
    (regs sE [(3, 6)]).rd 3 + BitVec.signExtend 64 (2#14) &&& 3 = 0 ∧ (regs sE [(3, 6)]).rd 3 + BitVec.signExtend 64 (1#14) &&& 3 ≠ 0 :=
  ⟨⟨_, rfl⟩, by decide +kernel⟩
theorem witness_HintIsNoOperation : fld 0x73FFFFFF#32 26 6 = 0x1C#6 ∧ sE.group = none ∧ sB.who = .exec ∧ sB.ct.blk = some b0 ∧
    b0.ring[b0.cur]? = some g0 := by decide +kernel
theorem witness_RegisterFileLaws : (∀ n, sE.who = .sys n → n < 16) ∧ (∀ n, ({ sS with who := .sys 15 } : State).who = .sys n → n < 16) ∧
    (63 : SReg) ≠ 0 := ⟨nofun, fun _ h => by cases h; decide +kernel, by decide +kernel⟩

/-- A CT whose stores are delayed, one of the execute stream's still to be performed, at an address of scratch; a copy claims a line. -/
def sLag (line a : Nat) : State := onE fun c => { c with
  lag := true, sbuf := [⟨.exec, 0, false, none, .sram a, 4, none, 7⟩], copies := [⟨1, 0, false, none, [], [], [(line, true)], [], []⟩] }
def scrLine : Nat := (Loc.line (.sram 0)).getD 0
/-- A moment kept for the execute stream's loads, which has accessed the bytes from 0x200 on since; its next load is to take it. -/
def look0 : Look := ⟨.exec, 3, [(0x100, 1)], [], [], [], [(0x200, 8)]⟩
def sLook : State := onE fun c => { c with looks := [look0], early := [some 0] }
/-- A load from scratch at its last bytes, and from main memory with an acquiring word. -/
theorem witness_LoadsReadTheirBytes :
    (let s := regs sE [(4, scr 0x3FFFC)]
     (∃ f, loadOf (.ld 5 4 2 0 0) = some (5, f)) ∧ accessOf s (.ld 5 4 2 0 0) = some (scr 0x3FFFC, 4, .load) ∧ s.group = none ∧
       (scr 0x3FFFC).toNat % 4 = 0 ∧ Ready s (scr 0x3FFFC) 4 .load (scrLoc (scr 0x3FFFC))) ∧
    (let s := regs sE [(4, 0x1FFF8)]
     (∃ f, loadOf (.lda 5 4 1 4) = some (5, f)) ∧ accessOf s (.lda 5 4 1 4) = some (0x1FFF8, 8, .load) ∧ s.ct.prov = false ∧
       Ready s 0x1FFF8 8 .load (.phys 0x1FFF8 0)) ∧
    -- the load's own older store goes, or is held back by a copy's claim
    (sLag (scrLine + 1) 0).canFlush (sLag 0 0).ct ((sLag 0 0).own (.sram 0) 4) = true ∧ (sLag scrLine 0).canFlush (sLag scrLine 0).ct ((sLag 0 0).own (.sram 0) 4) = false ∧
    -- nothing delayed, no moment chosen; the stream's own last store; a moment that the load may take, and one that an acquire, or an
    -- access of the bytes since, rules out
    (∀ e ∈ sLook.ct.sbuf, sLook.own (.sram 0) 4 e = false) ∧ sE.ct.sbuf = [] ∧ sE.ct.early = [] ∧ sE.ct.looks = [] ∧ sE.side = some .exec ∧
    (sLag 0 0).ct.sbuf = [] ++ [entry (sLag 0 0) .exec false (.sram 0) 4 7] ∧ sE.via.prov = false ∧
    sLook.side = some .exec ∧ wmBound sLook.ct.wmb 0x100 4 = false ∧ sLook.ct.early = [some 0] ∧ sLook.ct.looks[0]? = some look0 ∧ look0.side = .exec ∧
    sLook.ct.floors.get .exec ≤ look0.time ∧ look0.open (.phys 0x100 0) 4 = true ∧ look0.open (.phys 0x200 0) 4 = false ∧
    look0.time < (5 : Nat) ∧
    -- a byte that a provisional gang has stored, and one that it has not
    (let s := pkgs sE fun k => { k with prov := [⟨1, 0, 0, [(0x100, 9)]⟩] }
     let p : ProvLines := ⟨1, 0, 0, [(0x100, 9)]⟩
     s.pkg.prov.find? (fun p => p.launch = 1 ∧ p.gang = 0) = some p ∧ p.cells.find? (fun c => c.1 = 0x100) = some (0x100, 9) ∧
       p.cells.find? (fun c => c.1 = 0x101) = none) := by
  refine ⟨⟨⟨_, rfl⟩, by decide +kernel, by decide +kernel, by decide +kernel, ready_of (by decide +kernel)⟩,
    ⟨⟨_, rfl⟩, by decide +kernel, by decide +kernel, ready_of (by decide +kernel)⟩, ?_⟩
  and_intros <;> decide +kernel
theorem witness_StoresWriteTheirBytes :
    (let s := regs sE [(4, scr 0x40000)]
     storeOf (.st 5 4 0 0 0x3FF) = some 5 ∧ accessOf s (.st 5 4 0 0 0x3FF) = some (scr 0x3FFFF, 1, .store) ∧ s.group = none ∧
       Ready s (scr 0x3FFFF) 1 .store (scrLoc (scr 0x3FFFF)) ∧ storeGoes s false (scrLoc (scr 0x3FFFF)) 1 = true) ∧
    (let s := regs sS [(4, 0xBFFFFFFFFC)]
     storeOf (.stl 4 5 0 2) = some 5 ∧ accessOf s (.stl 4 5 0 2) = some (0xBFFFFFFFFC, 4, .store) ∧ s.isSys = true ∧
       Ready s 0xBFFFFFFFFC 4 .store (.phys 0xBFFFFFFFFC 0) ∧ storeGoes s true (.phys 0xBFFFFFFFFC 0) 4 = true) ∧
    -- a release that waits for an older store, which a copy's claim holds back; one of a device page, not delayed, that does not wait
    storeGoes (pkgs (sLag scrLine 0) fun k => { k with poison := [(2, 0)] }) true (.phys 0x100 0) 8 = false ∧
    storeGoes (sLag scrLine 0) false (.sram 0) 4 = true ∧
    (sE.via.prov = false ∧ sE.side = some .exec ∧ Loc.at_ (.phys 0x100 0) = some (true, 0x100) ∧ Loc.at_ (.sram 8) = some (false, 8) ∧
      sE.delays (.phys 0x100 0) = false ∧ (sLag 0 0).delays (.sram 8) = true ∧ (sLag 0 0).side = some .exec ∧
      (∀ e ∈ sE.ct.sbuf, (entry sE .exec false (.phys 0x100 0) 8 1).follows e = false)) ∧
    -- two delayed stores to one byte, and nothing that holds them back
    (let s := onE fun c => { c with lag := true, sbuf := [⟨.exec, 0, false, none, .sram 0, 4, none, 7⟩, ⟨.exec, 1, false, none, .sram 0, 4, none, 8⟩] }
     (∀ f ∈ s.ct.sbuf, s.free s.ct.via f = true) ∧
       (⟨.exec, 1, false, none, .sram 0, 4, none, 8⟩ : SbEnt).follows ⟨.exec, 0, false, none, .sram 0, 4, none, 7⟩ = true) :=
  ⟨⟨by decide +kernel, by decide +kernel, by decide +kernel, ready_of (by decide +kernel), by decide +kernel⟩,
    ⟨by decide +kernel, by decide +kernel, by decide +kernel, ready_of (by decide +kernel), by decide +kernel⟩, by and_intros <;> decide +kernel⟩
/-- AMOCAS that swaps and one that does not; AMOADD of the access stream in main memory. -/
theorem witness_AtomicsReadModifyWrite :
    (let s := regs sE [(4, scr 8)]
     (∃ f, amoOf (.amocas 5 4 6 1 0) = some (5, 6, 64, f) ∧ f 0 1 0 = some 1 ∧ f 0 1 2 = none) ∧ accessOf s (.amocas 5 4 6 1 0) = some (scr 8, 8, .atomic) ∧
       s.group = none ∧ s.ct.prov = false ∧ Ready s (scr 8) 8 .atomic (scrLoc (scr 8)) ∧ s.canFlush s.ct s.mine = true) ∧
    (sLag scrLine 0).canFlush (sLag scrLine 0).ct (sLag scrLine 0).mine = false ∧
    (let s := regs sA [(4, 0x10000)]
     (∃ f, amoOf (.amoadd 5 4 6 0 1) = some (5, 6, 32, f)) ∧ accessOf s (.amoadd 5 4 6 0 1) = some (0x10000, 4, .atomic) ∧
       Ready s 0x10000 4 .atomic (.phys 0x10000 0)) :=
  ⟨⟨⟨_, rfl, rfl, rfl⟩, by decide +kernel, by decide +kernel, by decide +kernel, ready_of (by decide +kernel), by decide +kernel⟩, by decide +kernel,
    ⟨_, rfl⟩, by decide +kernel, ready_of (by decide +kernel)⟩
/-- A copy is to write the line of the root table; that line is poisoned. -/
def sWalk : State := onE fun c => { c with copies := [⟨1, 0, false, none, [], [], [(0x20008 / 128, true)], [], []⟩] }
def sBad : State := pkgs sE fun k => { k with poison := [(0x20008 / 128, 0)] }
/-- A misaligned address, an address past scratch (WINDOW), an unmapped page (PAGE), a page without execute permission is none here. -/
theorem witness_ScalarAccessFaults :
    accessOf (regs sE [(4, 2)]) (.ld 5 4 2 0 0) = some (2, 4, .load) ∧ (2 : Word).toNat % 4 ≠ 0 ∧ sE.group = none ∧ sE.ct.prov = false ∧
    accessOf (regs sE [(4, scr 0x40000)]) (.ld 5 4 2 0 0) = some (scr 0x40000, 4, .load) ∧
    (regs sE [(4, scr 0x40000)]).place (scr 0x40000) 4 .load = .error 3 ∧ sE.place 0x500000 4 .store = .error 1 ∧
    sS.place 0x400000000000 4 .load = .ok (.phys 0x400000000000 2) ∧ sS.place 0xC000000000 4 .load = .error 2 ∧
    -- the root table's line poisoned (ECC), or a copy's destination
    sWalk.walkHeldNow 0x500000 = true ∧ sBad.walkHeldNow 0x500000 = false ∧ sBad.place 0x500000 4 .load = .error 4 ∧ sE.walkHeldNow 0x500000 = false := by
  decide +kernel

theorem witness_FenceWaitsForPostedWords :
    sE.group = none ∧ sE.ct.prov = false ∧ sA.who = .access ∧ (0 : BitVec 2) ≠ 3 ∧ sE.ct.viq = [] ∧ sS.who ≠ .access ∧
    (onE fun c => { c with viq := [y0] }).who = .exec ∧ (onE fun c => { c with viq := [y0] }).ct.viq ≠ [] ∧
    (onE fun c => { c with viq := [y0] }).group = none ∧ (1 : BitVec 3).toNat < 2 ∧
    -- delayed stores that may be performed, and that may not
    (sLag scrLine 0).group = none ∧ (sLag scrLine 0).ct.viq = [] ∧ (sLag scrLine 0).ct.prov = false ∧
    (sLag (scrLine + 1) 0).canFlush (sLag (scrLine + 1) 0).ct (fun e => decide (e.side ≠ .access)) = true ∧
    (sLag scrLine 0).canFlush (sLag scrLine 0).ct (fun e => decide (e.side ≠ .access)) = false ∧
    (sLag scrLine 0).canFlush (sLag scrLine 0).ct (fun e => decide (e.side = .vec)) = true ∧
    -- the fence at the head of a queue that is held: the stores before it go, or are held back
    (let s := fun line => { sLag line 0 with ct := { (sLag line 0).ct with hold := true } }
     (s scrLine).ct.hold = true ∧ (s (scrLine + 1)).canFlush (s (scrLine + 1)).ct (fun e => decide (e.side = .exec ∧ e.id < 1)) = true ∧
       (s scrLine).canFlush (s scrLine).ct (fun e => decide (e.side = .exec ∧ e.id < 1)) = false) ∧
    -- the access stream and a system core
    sA.group = none ∧ sA.ct.prov = false ∧ sA.canFlush sA.ct sA.mine = true ∧ sS.group = none ∧ sS.canFlush sS.ct sS.mine = true ∧
    (let s := { sLag scrLine 0 with who := .access, ct := { (sLag scrLine 0).ct with sbuf := [⟨.access, 0, false, none, .sram 0, 4, none, 7⟩] } }
     s.group = none ∧ s.canFlush s.ct s.mine = false) := by
  decide +kernel
theorem witness_ScalarFloatResults : sE.group = none ∧ (fpOf sE (.fdiv 1 2 3 2)).isSome = true ∧ (fpOf sE (.fcvtDS 1 2 3 0)).isSome = true ∧
    fpToInt sE (.fcvtRtz 1 2 0 3) = some (1, 2, 0, 3, .rtz) := by decide +kernel
/-- Queues empty, with room for one more, and full; the access stream at work and ended. -/
theorem witness_QueueWords :
    sA.who = .access ∧ sA.group = none ∧ (sA.ct.queue 3).length < 16 ∧ sA.ct.bq.length < 64 ∧ sE.who = .exec ∧
    (onE fun c => c.setQueue 3 [7]).ct.queue 3 = [7] ∧ (onE fun c => { c with bq := [true] }).ct.bq = [true] ∧
    16 ≤ (({ sA with ct := sA.ct.setQueue 0 (List.replicate 16 0) } : State).ct.queue 0).length ∧
    64 ≤ ({ sA with ct := { sA.ct with bq := List.replicate 64 false } } : State).ct.bq.length ∧
    sE.ct.bq = [] ∧ sE.ct.aend = false ∧ sE.ct.queue 0 = [] ∧ (onE fun c => { c with aend := true }).ct.aend = true ∧ sS.who ≠ .access ∧ sS.who ≠ .exec ∧
    -- a pop whose send followed a store of the access stream that a copy's claim holds back, and one that follows none
    (let s := onE fun c => { c.setQueue 3 [7] with
        qAt := c.qAt.set 3 [⟨1, 0⟩], bq := [true], bqAt := [⟨1, 0⟩],
        sbuf := [⟨.access, 0, false, none, .sram 0, 4, none, 7⟩], copies := (sLag scrLine 0).ct.copies }
     s.ct.qAt[3].headD ⟨0, 0⟩ = ⟨1, 0⟩ ∧ s.canFlush s.ct (fun e => decide (e.side = .access ∧ e.id < 1)) = false ∧
       s.canFlush s.ct (fun e => decide (e.side = .access ∧ e.id < 0)) = true) := by
  decide +kernel
theorem sysReady_of {s : State} {c : Nat} {w : Bool} {g : CsrGroup}
    (h : s.group = none ∧ s.csr c = some g ∧ (w = true → s.who = .access → g ≠ .v ∧ g ≠ .a) ∧ (g = .p → csrLevel c ≤ s.level) ∧
      (csrResult c = true → s.isSys = false → s.ct.viq = []) ∧ (g = .v → s.ct.viq.any Ventry.fixes = false)) : SysReady s c w g :=
  ⟨h.1, h.2.1, h.2.2.1, h.2.2.2.1, h.2.2.2.2.1, h.2.2.2.2.2⟩
theorem witness_SystemRegisterWords :
    (sysOf (.sysr 1 0x010) = some (0x010, 1, none)) ∧ (∃ f, sysOf (.sysset 1 0x011) = some (0x011, 1, some f)) ∧
    SysReady sE 0x010 false .a ∧ SysReady sS 0x100 true .p ∧ sE.csr 0xFFF = none ∧ sB.csr 0x011 = some .a ∧ sB.group.isSome = true ∧
    sA.csr 0x011 = some .a ∧
    (let s := { sS with sys := sS.sys.set 0 { SysCore.zero with pl := 1 } }
     s.csr 0x100 = some .p ∧ s.level < csrLevel 0x108 ∧ s.group = none ∧ s.csr 0x108 = some .p) ∧
    -- what a write leaves
    (∀ n, sS.who = .sys n → n < 16) ∧ (∀ n, n < 16 → (sS.sysCore n).legal) ∧ sS.csr 0x108 = some .p ∧ sS.csr 0x103 = some .p ∧ sE.csr 0x003 = some .v ∧
    (∃ x, csrField (sS.csrRead 0x108) 0x108 0xFF = some x) ∧ csrField (sS.csrRead 0x103) 0x103 1 = none ∧
    (csrField (sE.csrRead 0x003) 0x003 0xFFFFFFFFFF = some 0xFFFFFFFF) :=
  ⟨by decide +kernel, ⟨_, rfl⟩, sysReady_of (by decide +kernel), sysReady_of (by decide +kernel), by decide +kernel, by decide +kernel, by decide +kernel,
    by decide +kernel, by decide +kernel, fun _ h => by cases h; decide, by unfold SysCore.legal; decide +kernel, by decide +kernel, by decide +kernel, by decide +kernel,
    ⟨_, rfl⟩, by decide +kernel⟩
theorem witness_SystemCoreTraps : sS.who = .sys 0 ∧ (trapAlign 2).info ≠ none ∧ (sS.sysCore 0).pl = 2 ∧
    ({ sS with who := .sys 15, sys := sS.sys.set 15 { SysCore.zero with pl := 1 } } : State).who = .sys 15 ∧
    (({ sS with sys := sS.sys.set 0 { SysCore.zero with pl := 1 } } : State).sysCore 0).pl = 1 ∧
    (({ sS with sys := sS.sys.set 0 { SysCore.zero with pl := 0 } } : State).sysCore 0).pl = 0 := by decide +kernel
theorem witness_StopLeavesTheCtAsItWas : sE.who = .exec ∧ sA.who = .access ∧ sE.group = none := by decide +kernel
/-- The page at 0x10000 is a register page. -/
def sTy2 : State := pkgs sE fun k => { k with tlb := [⟨0, ownerGroup 8 0x10000, 0, 1, 1, 0x4000000200BB⟩] }
theorem witness_WaitYieldTimeHalt :
    sE.group = none ∧ sE.cur.wait = none ∧ sS.group = none ∧ sS.cur.wait = none ∧
    sE.place (scr 4) 1 .load = .ok (scrLoc (scr 4)) ∧ sE.poisonedAt (scrLoc (scr 4)) = false ∧
    sE.place 0x10000 1 .load = .ok (.phys 0x10000 0) ∧ sE.poisonedAt (.phys 0x10000 0) = false ∧ (0x10000 : Nat) < mainEnd ∧
    sE.who = .exec ∧ sE.ct.viq = [] ∧ sE.ct.copies = [] ∧ sE.canFlush sE.ct (fun _ => true) = true ∧
    (let s := onE fun c => { c with sbuf := (sLag 0 0).ct.sbuf, copies := [⟨1, 0, true, none, [], [], [(scrLine, true)], [], []⟩] }
     s.canFlush s.ct (fun _ => true) = false) ∧
    sWalk.walkHeldNow 0x500000 = true ∧ sE.walkHeldNow 0x10000 = false ∧ sE.walkHeldNow (scr 4) = false ∧ sE.place 0x500000 1 .load = .error 1 ∧
    sE.readsBad sE.via (scrLoc (scr 4)) 1 = false ∧
    sE.place 0x30000 1 .load = .error 1 ∧ sTy2.place 0x10000 1 .load = .ok (.phys 0x400000020000 2) ∧ sTy2.walkHeldNow 0x10000 = false ∧ sA.who = .access ∧ sS.who = .sys 0 ∧ (sS.sysCore 0).pl ≠ 0 ∧
    (sS.sysCore 0).pending 0 = true ∧
    (({ sS with sys := sS.sys.set 0 { SysCore.zero with pl := 1, xtimecmp := 1 } } : State).sysCore 0).pending 0 = false ∧
    (({ sS with sys := sS.sys.set 0 { SysCore.zero with pl := 0 } } : State).sysCore 0).pl = 0 := by decide +kernel


theorem witness_VectorFileLaws : (ct0.lg = 8) ∧ (128 = 2 ^ 7) ∧ 0 + 32 ≤ 32 ∧ 511 * 128 < ct0.vlen * 32 ∧ 1023 < predBits := by decide +kernel
theorem witness_IntegerElementResults : (⟨64, true⟩ : ITag).w = 64 ∧ (2 ^ 64 - 1 : Nat) < 2 ^ 64 ∧ (⟨2, false⟩ : ITag).w = 2 ∧
    intOf ⟨2, true⟩ 0 = 0 ∧ intOf ⟨2, true⟩ 3 ≠ 0 := by decide +kernel
/-- A posted VADD of f32 and f64 registers; the vector side lags, a word posted, that one alone. -/
def yAdd : Ventry := { y0 with op := .bin .add false 1 (.fp 0x80 fmtF64 64) 2 (.fp 0x78 fmtF32 32) (.vec 3) (.fp 0x80 fmtF64 64), pg := some 0 }
def sPost (l : List Ventry) : State :=
  let s := tags [(2, 0x78), (3, 0x80), (4, 0x80)]
  { s with ct := { s.ct with hold := true, viq := l } }
/-- u32 plus f32 registers: a promoting add, posted behind another word, and run from the queue; a three-operand form with a scalar. -/
theorem witness_TwoSourceVectorWords :
    (let s := sPost [y0]
     s.who = .exec ∧ s.ct.blk = none ∧ s.ct.hold = true ∧ s.ct.vown = true ∧ s.ct.viq.length < 256 ∧ s.ct.viq.any Ventry.fixes = false ∧
       s.ct.idle = false ∧ (sPost []).ct.idle = true ∧ countConvoy s.ct.conv true {} = some cv1 ∧ s.grp 1 = true ∧ s.grp 2 = true ∧ s.grpB (.v 3) = true ∧
       s.opT 2 1 = some (.fp 0x78 fmtF32 32) ∧ s.bTy (.v 3) (.fp 0x78 fmtF32 32) = some (.fp 0x80 fmtF64 64) ∧ s.fits 64 1 = true) ∧
    ((sPost [yAdd]).ct.viq = yAdd :: [] ∧ NoFeeds (sPost [yAdd]) ∧ yAdd.vl ≤ (sPost [yAdd]).ct.vlen / 2 ∧ yAdd.vl * 64 ≤ (sPost [yAdd]).ct.vlen * 2 ^ yAdd.g ∧
      1 + 2 ^ yAdd.g ≤ 32 ∧ yAdd.members = none ∧ yAdd.pg = some 0 ∧ yAdd.popped = [] ∧ (sPost [yAdd]).pkg.reqs = [] ∧ (64 : Nat) = 2 ^ 6) ∧
    (let s := tags [(2, 0x78), (3, 0x80), (4, 0x80)]
     VReady s ∧ NoFeeds s ∧ binOf (.vaddVv true 1 2 3 5) = some (.add, true, 1, 2, .v 3, 5) ∧ countConvoy s.ct.conv true {} = some cv1 ∧
       s.grp 1 = true ∧ s.grp 2 = true ∧ s.grpB (.v 3) = true ∧ s.opT 2 1 = some (.fp 0x78 fmtF32 32) ∧
       s.bTy (.v 3) (.fp 0x78 fmtF32 32) = some (.fp 0x80 fmtF64 64) ∧ BinOp.add.intOnly = false ∧ BinOp.add.threeOp = false ∧
       promote (.fp 0x78 fmtF32 32) (.fp 0x80 fmtF64 64) = some (.fp 0x80 fmtF64 64) ∧ s.fits 64 1 = true) ∧
    (binOf (.vfmaVx false 1 2 4 0) = some (.fma, false, 1, 2, .x 4, 0) ∧ sE.grpB (.x 4) = true ∧ sE.opT 2 1 = some (.int 0x40 ⟨32, false⟩) ∧
       sE.bTy (.x 4) (.int 0x40 ⟨32, false⟩) = some (.int 0x40 ⟨32, false⟩) ∧ BinOp.fma.threeOp = true ∧
       sE.opT 1 1 = some (.int 0x40 ⟨32, false⟩)) ∧
    (binOf (.vshaVv false 1 2 2 0) = some (.sha, false, 1, 2, .v 2, 0) ∧ BinOp.sha.intOnly = true ∧ (Ty.int 0x40 ⟨32, false⟩).isInt = true ∧
       promote (.int 0x40 ⟨32, false⟩) (.int 0x40 ⟨32, false⟩) = some (.int 0x40 ⟨32, false⟩)) :=
  ⟨by and_intros <;> decide +kernel, ⟨by decide +kernel, noFeeds_of (by decide +kernel), by and_intros <;> decide +kernel⟩,
    ⟨vready_of (by decide +kernel), noFeeds_of (by decide +kernel), by and_intros <;> decide +kernel⟩, by and_intros <;> decide +kernel, by and_intros <;> decide +kernel⟩
theorem witness_WideningWords :
    (let s := tags [(30, 0x50), (31, 0x40)]
     VReady s ∧ NoFeeds s ∧ widenOf (.vwmacVv true 30 2 3 0) = some (.fma, true, 30, 2, .v 3, 0) ∧ s.grp2 30 = true ∧
       s.opT 2 1 = some (.int 0x40 ⟨32, false⟩) ∧ s.opT 30 2 = some (.int 0x50 ⟨64, false⟩) ∧
       s.bTy (.v 3) (.int 0x40 ⟨32, false⟩) = some (.int 0x40 ⟨32, false⟩) ∧ widenOk 8 10 = true ∧ (Ty.int 0x50 ⟨64, false⟩).code = 10) ∧
    (let s := tags [(30, 0x50), (31, 0x40)]
     nshrOf (.vnshrVx true 31 30 4 0) = some (true, 31, 30, .x 4, 0) ∧ s.grp 31 = true ∧ s.grp2 30 = true ∧
       s.opT 30 2 = some (.int 0x50 ⟨64, false⟩) ∧ s.opT 31 1 = some (.int 0x40 ⟨32, false⟩) ∧
       s.bTy (.x 4) (.int 0x40 ⟨32, false⟩) = some (.int 0x40 ⟨32, false⟩) ∧ narrowOk 8 10 = true) :=
  ⟨⟨vready_of (by decide +kernel), noFeeds_of (by decide +kernel), by and_intros <;> decide +kernel⟩, by decide +kernel⟩
theorem witness_OneSourceVectorWords :
    (let s := tags [(2, 0x78), (30, 0x50)]
     VReady s ∧ NoFeeds s ∧ countConvoy s.ct.conv false {} = some cv1 ∧ unOf (.vsqrt false 1 2 0) = some (.sqrt, false, 1, 2, 0) ∧
       s.opT 2 1 = some (.fp 0x78 fmtF32 32) ∧ (Ty.fp 0x78 fmtF32 32).isFp = true ∧ (Ty.fp 0x78 fmtF32 32).code ≠ 16 ∧
       unOf (.vabs false 1 3 0) = some (.abs, false, 1, 3, 0) ∧ special .abs = false ∧ s.opT 3 1 = some (.int 0x40 ⟨32, false⟩) ∧
       cvtOf (.vcvt false 1 2 0) = some (.cvt, false, 1, 2, 0) ∧ s.opT 1 1 = some (.int 0x40 ⟨32, false⟩) ∧
       cvtOf (.vncvt false 1 30 0) = some (.ncvt, false, 1, 30, 0) ∧ s.grp2 30 = true ∧ s.opT 30 2 = some (.int 0x50 ⟨64, false⟩) ∧
       narrowOk 8 10 = true) :=
  ⟨vready_of (by decide +kernel), noFeeds_of (by decide +kernel), by and_intros <;> decide +kernel⟩
theorem witness_MoveAndSelectWords :
    (let s := tags [(2, 0x78), (3, 0x78), (5, 0x90)]
     VReady s ∧ NoFeeds s ∧ countConvoy s.ct.conv false {} = some cv1 ∧ s.grp 1 = true ∧ s.opT 2 1 = some (.fp 0x78 fmtF32 32) ∧
       s.bTy (.v 3) (.fp 0x78 fmtF32 32) = some (.fp 0x78 fmtF32 32) ∧ s.bTy (.x 3) (.fp 0x78 fmtF32 32) = some (.fp 0x78 fmtF32 32) ∧
       s.opT 1 1 = some (.int 0x40 ⟨32, false⟩) ∧ s.opT 5 1 = some .fdisp) :=
  ⟨vready_of (by decide +kernel), noFeeds_of (by decide +kernel), by and_intros <;> decide +kernel⟩
theorem witness_ComparisonAndPredicateWords :
    (let s := tags [(2, 0x78), (3, 0x80)]
     VReady s ∧ NoFeeds s ∧ countConvoy s.ct.conv false {} = some cv1 ∧ cmpOf (.vcmpUn false 0 2 3 0) = some (.un, false, 0, 2, 3, 0) ∧
       s.opT 2 1 = some (.fp 0x78 fmtF32 32) ∧ s.opT 3 1 = some (.fp 0x80 fmtF64 64) ∧
       (promote (.fp 0x78 fmtF32 32) (.fp 0x80 fmtF64 64)).isSome = true ∧ (predOf s (.pbrk 1 2)).isSome = true ∧ (predOf s (.pnot 0 2)).isSome = true) :=
  ⟨vready_of (by decide +kernel), noFeeds_of (by decide +kernel), by and_intros <;> decide +kernel⟩
/-- VSOFTMAX with elements that compute, and with none (vl 0). -/
theorem witness_ScalarsFromVectors :
    (let s := tags [(2, 0x78), (3, 0x78)]
     VReady s ∧ NoFeeds s ∧ countConvoy s.ct.conv false {} = some cv1 ∧ countConvoy s.ct.conv false { ring := true } = some ⟨true, 0, 0, 1, false⟩ ∧
       s.opT 1 1 = some (.int 0x40 ⟨32, false⟩) ∧ redOf (.vredsum false 2 5 0) = some (.sum, false, 2, 5, 0) ∧ s.opT 2 1 = some (.fp 0x78 fmtF32 32) ∧
       s.opT 3 1 = some (.fp 0x78 fmtF32 32) ∧ (Ty.fp 0x78 fmtF32 32).code = 15 ∧ ons s (zeroAt s 0) ≠ []) ∧
    (let s := onE fun c => { (tags [(2, 0x78), (3, 0x78)]).ct with vl := 0, g := c.g }
     VReady s ∧ NoFeeds s ∧ ons s (zeroAt s 0) = [] ∧ s.opT 2 1 = some (.fp 0x78 fmtF32 32)) :=
  ⟨⟨vready_of (by decide +kernel), noFeeds_of (by decide +kernel), by and_intros <;> decide +kernel⟩,
    vready_of (by decide +kernel), noFeeds_of (by decide +kernel), by and_intros <;> decide +kernel⟩

/-- A CT whose s4 names the first byte of scratch and whose s5 is the stride 8. -/
def sM : State := regs (mems sE []) [(4, scr 0), (5, 8)]
theorem scr_reaches {s : State} {p : PGov} {d w : Nat} {m : VMode} {base : Word} {n : Nat} {k : Kind} {ok : Nat → Bool}
    (h : ((List.range s.ct.vl).all fun e => !onAt s p e || (accAt s d w m base e).all fun q => reachB s n k ok q.2 (scrLoc q.2)) = true) :
    ∀ e, onAt s p e = true → ∀ q ∈ accAt s d w m base e, Reaches s n k ok q.2 (scrLoc q.2) :=
  elems_of onAt_lt (fun _ he q hq => reaches_of (List.all_eq_true.1 he q hq)) h
theorem sM_calm : Calm sM := ⟨nofun, by decide +kernel⟩
/-- A moment kept for the vector side's loads. -/
def lookV : Look := { look0 with side := .vec }
def sLookV : State := onE fun c => { c with looks := [lookV], early := [some 0] }
/-- Each mode: unit, strided, indexed (the indices are v2's), segmented. -/
theorem witness_VectorLoads :
    VReady sM ∧ NoFeeds sM ∧ Calm sM ∧
    -- what a read gives: nothing delayed; the side's own store; a moment that it may take, and one that the floor, or an access since, rules out
    (sE.beyond sE.ct.via (.phys 0x100 0) 4 .load = none ∧ (∀ e ∈ sE.ct.sbuf, onSide .vec (.phys 0x100 0) 4 e = false) ∧ sE.ct.early = [] ∧ sE.ct.looks = [] ∧
      (onE fun c => { c with sbuf := [entry sE .vec false (.sram 8) 4 7] }).ct.sbuf = [] ++ [entry (onE fun c => { c with sbuf := [entry sE .vec false (.sram 8) 4 7] }) .vec false (.sram 8) 4 7] ∧
      sE.ct.via.prov = false ∧ sLookV.ct.early = some 0 :: [] ∧ sLookV.ct.looks[0]? = some lookV ∧ lookV.side = .vec ∧ (3 : Nat) ≤ lookV.time ∧
      lookV.open (.phys 0x100 0) 4 = true ∧ lookV.time < (4 : Nat) ∧ lookV.open (.phys 0x200 0) 4 = false) ∧
    (vmemOf sM (.vldff false 1 4 0)).isSome = true ∧
    (∃ x, vmemOf sM (.vld false 1 4 0) = some x ∧ x.load = true ∧ VMemReady sM x (.int 0x40 ⟨32, false⟩) ⟨true, 1, 0, 0, false⟩ ∧
      ∀ e, onAt sM x.p e = true → ∀ q ∈ accAt sM x.d.toNat 32 x.m (sM.rd x.a) e, Reaches sM 4 .load x.ok q.2 (scrLoc q.2)) ∧
    (∃ x, vmemOf sM (.vldS false 1 4 5 0) = some x ∧ x.load = true ∧ VMemReady sM x (.int 0x40 ⟨32, false⟩) ⟨true, 1, 0, 0, false⟩ ∧
      ∀ e, onAt sM x.p e = true → ∀ q ∈ accAt sM x.d.toNat 32 x.m (sM.rd x.a) e, Reaches sM 4 .load x.ok q.2 (scrLoc q.2)) ∧
    (∃ x, vmemOf sM (.vldX false 1 4 2 0) = some x ∧ x.load = true ∧ VMemReady sM x (.int 0x40 ⟨32, false⟩) ⟨true, 1, 0, 0, false⟩ ∧
      ∀ e, onAt sM x.p e = true → ∀ q ∈ accAt sM x.d.toNat 32 x.m (sM.rd x.a) e, Reaches sM 4 .load x.ok q.2 (scrLoc q.2)) ∧
    (∃ x, vmemOf sM (.vldseg false 1 4 0 10) = some x ∧ x.load = true ∧ VMemReady sM x (.int 0x40 ⟨32, false⟩) ⟨true, 1, 0, 0, false⟩ ∧
      ∀ e, onAt sM x.p e = true → ∀ q ∈ accAt sM x.d.toNat 32 x.m (sM.rd x.a) e, Reaches sM 4 .load x.ok q.2 (scrLoc q.2)) := by
  refine ⟨vready_of (by decide +kernel), noFeeds_of (by decide +kernel), sM_calm, by and_intros <;> decide +kernel, by decide +kernel, ⟨_, rfl, rfl, ?_, ?_⟩, ⟨_, rfl, rfl, ?_, ?_⟩, .intro _ (.intro rfl ⟨rfl, ?_, ?_⟩),
    ⟨_, rfl, rfl, ?_, ?_⟩⟩
  · exact ⟨by decide +kernel, by decide +kernel, by decide +kernel, by decide +kernel, trivial, .inr (by decide +kernel), by decide +kernel⟩
  · exact scr_reaches (by decide +kernel)
  · exact ⟨by decide +kernel, by decide +kernel, by decide +kernel, by decide +kernel, trivial, .inr (by decide +kernel), by decide +kernel⟩
  · exact scr_reaches (by decide +kernel)
  · refine ⟨by decide +kernel, by decide +kernel, by decide +kernel, by decide +kernel, (by decide +kernel : 2 % 2 ^ sM.ct.g = 0), .inr ?_, by decide +kernel⟩
    refine elems_of (P := fun e => ∀ q ∈ accAt sM 1 32 (.indexed 2 ⟨32, false⟩) (sM.rd 4) e, q.2.toNat % 4 = 0)
      (b := fun e => (accAt sM 1 32 (.indexed 2 ⟨32, false⟩) (sM.rd 4) e).all fun q => decide (q.2.toNat % 4 = 0)) onAt_lt ?_ (by decide +kernel)
    intro e he q hq
    exact of_decide_eq_true (List.all_eq_true.1 he q hq)
  · exact scr_reaches (by decide +kernel)
  · exact ⟨by decide +kernel, by decide +kernel, by decide +kernel, by decide +kernel, (by decide +kernel : 1 + 8 * 2 ^ sM.ct.g ≤ 32 ∧
      ∀ i, i < 8 → sM.ct.vtype[1 + i * 2 ^ sM.ct.g]? = sM.ct.vtype[1]?), .inr (by decide +kernel), by decide +kernel⟩
  · exact scr_reaches (by decide +kernel)

/-- The last legal segment of registers: v9 to v16; a store in order; PLD and PST of two elements. -/
theorem witness_VectorStores :
    sM.pkg.poison = [] ∧ Calm sM ∧ sM.ct.lag = false ∧
    -- a store of a CT whose stores are delayed
    (let s := { sM with ct := { sM.ct with lag := true } }
     ∃ x, vmemOf s (.vst false 1 4 0) = some x ∧ x.load = false ∧ x.seq = false ∧ VReady s ∧ NoFeeds s ∧ VMemReady s x (.int 0x40 ⟨32, false⟩) ⟨true, 1, 0, 0, false⟩ ∧
      (∀ e, onAt s x.p e = true → ∀ q ∈ accAt s x.d.toNat 32 x.m (s.rd x.a) e, Reaches s 4 .store x.ok q.2 (scrLoc q.2) ∧ s.delays (scrLoc q.2) = true)) ∧
    sM.ct.prov = false ∧ countConvoy sM.ct.conv false { mem := true } = some ⟨true, 1, 0, 0, false⟩ ∧
    (∃ x, vmemOf sM (.vsto false 1 4 0) = some x ∧ x.load = false ∧ x.seq = true ∧ VMemReady sM x (.int 0x40 ⟨32, false⟩) ⟨true, 1, 0, 0, false⟩ ∧
      (∀ e, onAt sM x.p e = true → ∀ q ∈ accAt sM x.d.toNat 32 x.m (sM.rd x.a) e, Fixed sM q.2) ∧
      ∀ e, onAt sM x.p e = true → ∀ q ∈ accAt sM x.d.toNat 32 x.m (sM.rd x.a) e, Reaches sM 4 .store x.ok q.2 (scrLoc q.2)) ∧
    (∃ x, vmemOf sM (.vstseg false 9 4 0 10) = some x ∧ x.load = false ∧ VMemReady sM x (.int 0x40 ⟨32, false⟩) ⟨true, 1, 0, 0, false⟩ ∧
      ∀ e, onAt sM x.p e = true → ∀ q ∈ accAt sM x.d.toNat 32 x.m (sM.rd x.a) e, Reaches sM 4 .store x.ok q.2 (scrLoc q.2)) ∧
    (∀ e, allAt sM e = true → Reaches sM 1 .load notOrdered (sM.rd 4 + BitVec.ofNat 64 (e / 8)) (scrLoc (sM.rd 4 + BitVec.ofNat 64 (e / 8)))) ∧
    (∀ e, allAt sM e = true → Reaches sM 1 .store notOrdered (sM.rd 4 + BitVec.ofNat 64 (e / 8)) (scrLoc (sM.rd 4 + BitVec.ofNat 64 (e / 8)))) := by
  refine ⟨by decide +kernel, sM_calm, by decide +kernel, ⟨_, rfl, rfl, rfl, vready_of (by decide +kernel), noFeeds_of (by decide +kernel),
      ⟨by decide +kernel, by decide +kernel, by decide +kernel, by decide +kernel, trivial, .inr (by decide +kernel), by decide +kernel⟩, ?_⟩,
    by decide +kernel, by decide +kernel, ⟨_, rfl, rfl, rfl, ?_, ?_, ?_⟩, ⟨_, rfl, rfl, ?_, ?_⟩, ?_, ?_⟩
  · exact elems_of (s := { sM with ct := { sM.ct with lag := true } }) (b := fun e => (accAt sM 1 32 .unit (sM.rd 4) e).all fun q =>
        reachB { sM with ct := { sM.ct with lag := true } } 4 .store notOrdered q.2 (scrLoc q.2) &&
          ({ sM with ct := { sM.ct with lag := true } } : State).delays (scrLoc q.2)) onAt_lt (fun _ he q hq => by
        have := List.all_eq_true.1 he q hq
        simp only [Bool.and_eq_true] at this
        exact ⟨reaches_of this.1, this.2⟩) (by decide +kernel)
  · exact ⟨by decide +kernel, by decide +kernel, by decide +kernel, by decide +kernel, trivial, .inr (by decide +kernel), by decide +kernel⟩
  · exact elems_of (b := fun e => (accAt sM 1 32 .unit (sM.rd 4) e).all fun q => decide (clusterBase ≤ va55 q.2)) onAt_lt
      (fun _ he q hq => .inl (of_decide_eq_true (List.all_eq_true.1 he q hq))) (by decide +kernel)
  · exact scr_reaches (by decide +kernel)
  · exact ⟨by decide +kernel, by decide +kernel, by decide +kernel, by decide +kernel, (by decide +kernel : 9 + 8 * 2 ^ sM.ct.g ≤ 32 ∧
      ∀ i, i < 8 → sM.ct.vtype[9 + i * 2 ^ sM.ct.g]? = sM.ct.vtype[9]?), .inr (by decide +kernel), by decide +kernel⟩
  · exact scr_reaches (by decide +kernel)
  · exact elems_of allAt_lt (fun e h => reaches_of (a := sM.rd 4 + BitVec.ofNat 64 (e / 8)) h) (by decide +kernel)
  · exact elems_of allAt_lt (fun e h => reaches_of (a := sM.rd 4 + BitVec.ofNat 64 (e / 8)) h) (by decide +kernel)

/-- The last bytes of scratch and those beyond them (WINDOW): element 0 is performed, element 1 faults; both fault; s5 is a stride. -/
def sF : State := regs sE [(4, scr 0x3FFFC), (5, 4)]
def sG : State := regs sE [(4, scr 0x40000)]
/-- The addresses that fault, and their cause. -/
def badF (a : Word) : Option Nat := if scr 0x40000 ≤ a then some 3 else none
/-- Each access reaches scratch, or faults with its cause. -/
def accsB (s : State) (x : VMem) (e : Nat) : Bool :=
  let k : Kind := if x.load then .load else .store
  (accAt s x.d.toNat 32 x.m (s.rd x.a) e).all fun q => !s.walkHeld s.ct.via q.2 && match badF q.2 with
    | none => reachB s 4 k x.ok q.2 (scrLoc q.2)
    | some c => decide (s.resolve s.ct.via q.2 4 k = .error c) && decide (c ≠ 4)
theorem accs_of {s : State} {x : VMem} {e : Nat} (h : accsB s x e = true) :
    ∀ q ∈ accAt s x.d.toNat 32 x.m (s.rd x.a) e, s.walkHeld s.ct.via q.2 = false ∧ match badF q.2 with
      | none => Reaches s (max 1 (32 / 8)) (if x.load then .load else .store) x.ok q.2 (scrLoc q.2)
      | some c => s.resolve s.ct.via q.2 (max 1 (32 / 8)) (if x.load then .load else .store) = .error c ∧ c ≠ 4 ∨
          c = 2 ∧ ∃ pa ty, s.resolve s.ct.via q.2 (max 1 (32 / 8)) (if x.load then .load else .store) = .ok (.phys pa ty) ∧ x.ok ty = false := by
  intro q hq
  have := List.all_eq_true.1 h q hq
  simp only [Bool.and_eq_true, Bool.not_eq_true'] at this
  refine ⟨this.1, ?_⟩
  cases hb : badF q.2 with
  | none => simp only [hb] at this; exact reaches_of this.2
  | some c =>
    simp only [hb, Bool.and_eq_true, decide_eq_true_eq] at this
    exact .inl this.2
/-- Element 0 of a word is performed, element 1 faults. -/
def FaultsAt (s : State) (i : Instr) : Prop := ∃ x, vmemOf s i = some x ∧ x.seq = false ∧
  VMemReady s x (.int 0x40 ⟨32, false⟩) ⟨true, 1, 0, 0, false⟩ ∧
  (∀ e, onAt s x.p e = true → ∀ q ∈ accAt s x.d.toNat 32 x.m (s.rd x.a) e, s.walkHeld s.ct.via q.2 = false ∧ match badF q.2 with
    | none => Reaches s (max 1 (32 / 8)) (if x.load then .load else .store) x.ok q.2 (scrLoc q.2)
    | some c => s.resolve s.ct.via q.2 (max 1 (32 / 8)) (if x.load then .load else .store) = .error c ∧ c ≠ 4 ∨
        c = 2 ∧ ∃ pa ty, s.resolve s.ct.via q.2 (max 1 (32 / 8)) (if x.load then .load else .store) = .ok (.phys pa ty) ∧ x.ok ty = false) ∧
  onAt s x.p 1 = true ∧ ((accAt s x.d.toNat 32 x.m (s.rd x.a) 1).any fun q => (badF q.2).isSome) = true
theorem sF_ready {x : VMem} (h : countConvoy sF.ct.conv x.c { mem := true } = some ⟨true, 1, 0, 0, false⟩ ∧ sF.grp x.d = true ∧
    sF.opT x.d.toNat 1 = some (.int 0x40 ⟨32, false⟩)) (hm : modeOk sF x.d x.m) (ha : vAligned sF x.d.toNat 32 x.m (sF.rd x.a) (onAt sF x.p)) :
    VMemReady sF x (.int 0x40 ⟨32, false⟩) ⟨true, 1, 0, 0, false⟩ :=
  ⟨h.1, h.2.1, h.2.2, .inr (by decide +kernel), hm, ha, by decide +kernel⟩
theorem witness_VectorFaultsMaskAndReissue :
    VReady sF ∧ NoFeeds sF ∧ Calm sF ∧ sF.ct.lag = false ∧ VReady sG ∧ NoFeeds sG ∧ Calm sG ∧
    -- a load and stores of each mode; VLDFF whose first element faults
    FaultsAt sF (.vld false 1 4 0) ∧ FaultsAt sF (.vst false 1 4 0) ∧ FaultsAt sF (.vldS false 1 4 5 0) ∧ FaultsAt sF (.vstseg false 1 4 0 3) ∧
    (FaultsAt sG (.vldff false 1 4 0) ∧ (ons sG (onAt sG 0)).head? = some 0 ∧ (badF (sG.rd 4)).isSome = true) ∧
    -- VLDFF whose first element loads
    VMemReady sF ⟨true, false, 1, 4, 0, .unit, true, fun ty => decide (ty ≤ 1), false⟩ (.int 0x40 ⟨32, false⟩) ⟨true, 1, 0, 0, false⟩ ∧
    onAt sF 0 0 = true ∧ onAt sF 0 1 = true ∧ onAt sF 0 2 = false ∧
    Reaches sF 4 .load (fun ty => decide (ty ≤ 1)) (sF.rd 4 + BitVec.ofNat 64 (0 * 32 / 8)) (scrLoc (scr 0x3FFFC)) ∧
    sF.walkHeld sF.ct.via (sF.rd 4 + BitVec.ofNat 64 (1 * 32 / 8)) = false ∧
    sF.resolve sF.ct.via (sF.rd 4 + BitVec.ofNat 64 (1 * 32 / 8)) 4 .load = .error 3 ∧
    -- VSTO whose element 1 faults
    (∃ x, vmemOf sF (.vsto false 1 4 0) = some x ∧ x.seq = true ∧ VMemReady sF x (.int 0x40 ⟨32, false⟩) ⟨true, 1, 0, 0, false⟩ ∧
      (∀ q ∈ accAt sF x.d.toNat 32 x.m (sF.rd x.a) 0, Reaches sF (32 / 8) .store x.ok q.2 (scrLoc q.2) ∧ Fixed sF q.2) ∧
      accAt sF x.d.toNat 32 x.m (sF.rd x.a) 1 = [(1, scr 0x40000)] ∧ Fixed sF (scr 0x40000) ∧
      sF.resolve sF.ct.via (scr 0x40000) (32 / 8) .store = .error 3) := by
  have all (x : VMem) (s : State) (h : ((List.range s.ct.vl).all fun e => !onAt s x.p e || accsB s x e) = true) :=
    elems_of (on := onAt s x.p) onAt_lt (fun e he => accs_of (s := s) (x := x) (e := e) he) h
  refine ⟨vready_of (by decide +kernel), noFeeds_of (by decide +kernel), ⟨nofun, by decide +kernel⟩, by decide +kernel, vready_of (by decide +kernel),
    noFeeds_of (by decide +kernel), ⟨nofun, by decide +kernel⟩,
    ⟨_, rfl, rfl, sF_ready (by decide +kernel) trivial (.inr (by decide +kernel)), all _ _ (by decide +kernel), by decide +kernel, by decide +kernel⟩,
    ⟨_, rfl, rfl, sF_ready (by decide +kernel) trivial (.inr (by decide +kernel)), all _ _ (by decide +kernel), by decide +kernel, by decide +kernel⟩,
    ⟨_, rfl, rfl, sF_ready (by decide +kernel) trivial (.inr (by decide +kernel)), all _ _ (by decide +kernel), by decide +kernel, by decide +kernel⟩,
    ⟨_, rfl, rfl, sF_ready (by decide +kernel) (by decide +kernel : 1 + 1 * 2 ^ sF.ct.g ≤ 32 ∧ ∀ i, i < 1 → sF.ct.vtype[1 + i * 2 ^ sF.ct.g]? = sF.ct.vtype[1]?)
      (.inr (by decide +kernel)), all _ _ (by decide +kernel), by decide +kernel, by decide +kernel⟩,
    ⟨⟨_, rfl, rfl, ⟨by decide +kernel, by decide +kernel, by decide +kernel, .inl rfl, trivial, .inr (by decide +kernel), by decide +kernel⟩,
      all _ _ (by decide +kernel), by decide +kernel, by decide +kernel⟩, by decide +kernel, by decide +kernel⟩,
    sF_ready (by decide +kernel) trivial (.inr (by decide +kernel)), by decide +kernel, by decide +kernel, by decide +kernel, reaches_of (by decide +kernel),
    by decide +kernel, by decide +kernel,
    ⟨_, rfl, rfl, sF_ready (by decide +kernel) trivial (.inr (by decide +kernel)), ?_, by decide +kernel, .inl (by decide +kernel), by decide +kernel⟩⟩
  intro q hq
  have e : accAt sF 1 32 .unit (sF.rd 4) 0 = [(1, scr 0x3FFFC)] := by decide +kernel
  obtain rfl := List.mem_singleton.1 (e ▸ (show q ∈ accAt sF 1 32 .unit (sF.rd 4) 0 from hq))
  exact ⟨reaches_of (by decide +kernel), .inl (by decide +kernel)⟩
theorem witness_VectorAtomics :
    VReady sM ∧ NoFeeds sM ∧ vamoOf (.vamoMax false 1 4 2 0) = some (.max, false, 1, 4, 2, 0) ∧
    (sM.ct.prov = false ∧ countConvoy sM.ct.conv false { mem := true } = some ⟨true, 1, 0, 0, false⟩ ∧ sM.grp 1 = true ∧ sM.grp 2 = true ∧
      sM.opT 1 1 = some (.int 0x40 ⟨32, false⟩) ∧ sM.opT 2 1 = some (.int 0x40 ⟨32, false⟩)) ∧
    ∀ e, onAt sM 0 e = true → (sM.rd 4 + BitVec.ofInt 64 (intOf ⟨32, false⟩ (sM.ct.vget 2 32 e))).toNat % (32 / 8) = 0 ∧
      Reaches sM (32 / 8) .atomic (fun ty => decide (ty ≤ 1)) (sM.rd 4 + BitVec.ofInt 64 (intOf ⟨32, false⟩ (sM.ct.vget 2 32 e))) (scrLoc (scr 0)) := by
  refine ⟨vready_of (by decide +kernel), noFeeds_of (by decide +kernel), by decide +kernel, by decide +kernel, ?_⟩
  intro e he
  have h : ∀ e, onAt sM 0 e = true → (sM.rd 4 + BitVec.ofInt 64 (intOf ⟨32, false⟩ (sM.ct.vget 2 32 e))) = scr 0 :=
    elems_of (b := fun e => decide ((sM.rd 4 + BitVec.ofInt 64 (intOf ⟨32, false⟩ (sM.ct.vget 2 32 e))) = scr 0)) onAt_lt
      (fun _ h => of_decide_eq_true h) (by decide +kernel)
  rw [h e he]
  exact ⟨by decide +kernel, reaches_of (by decide +kernel)⟩

theorem witness_LaneWords :
    (let s := tags [(2, 0x78)]
     VReady s ∧ NoFeeds s ∧ countConvoy s.ct.conv true { ring := true } = some ⟨true, 0, 0, 1, false⟩ ∧ s.grp 1 = true ∧ s.grp 2 = true ∧
       s.opT 2 1 = some (.fp 0x78 fmtF32 32) ∧ s.grp 3 = true ∧ s.opT 3 1 = some (.int 0x40 ⟨32, false⟩) ∧ (Ty.int 0x40 ⟨32, false⟩).isInt = true) :=
  ⟨vready_of (by decide +kernel), noFeeds_of (by decide +kernel), by decide +kernel⟩
/-- Bin 7 of type i64. -/
def sBin : State := regs (onE fun c => c.setBin 7 fun b => { b with ty := 9 }) [(4, 8), (5, 2)]
theorem witness_BinAndStripWords :
    VReady sBin ∧ NoFeeds sBin ∧ countConvoy sBin.ct.conv true {} = some cv1 ∧ (7 : BitVec 5).toNat < 8 ∧ (sBin.rd 4).toNat % 4 = 0 ∧
    (sBin.rd 5).toNat % 4 ≠ 0 ∧ countConvoy sBin.ct.conv true { ring := true } = some ⟨true, 0, 0, 1, false⟩ ∧
    (∃ bin, sBin.ct.bins[7]? = some bin ∧ bin.ty = 9) ∧ sBin.grp 1 = true ∧ sBin.opT 1 1 = some (.int 0x40 ⟨32, false⟩) ∧
    binOk 9 (.int 0x40 ⟨32, false⟩) = true ∧ sBin.bTy (.v 2) (.int 0x40 ⟨32, false⟩) = some (.int 0x40 ⟨32, false⟩) ∧
    sBin.bTy (.x 2) (.int 0x40 ⟨32, false⟩) = some (.int 0x40 ⟨32, false⟩) ∧ (9 : Nat) ≠ 0 :=
  ⟨vready_of (by decide +kernel), noFeeds_of (by decide +kernel), by decide +kernel, by decide +kernel, by decide +kernel, by decide +kernel,
    by decide +kernel, ⟨_, rfl, by decide +kernel⟩, by decide +kernel⟩
theorem witness_ShapeWords : VReady sE ∧ countConvoy sE.ct.conv false {} = some cv1 ∧ sE.ct.mown = true :=
  ⟨sE_ready, by decide +kernel⟩

/-- A pattern record in scratch: two u32 elements from 0x10000 on, 4 bytes apart. -/
def patRec : Nat := 0x10000 + 2 ^ 64 * 1 + 2 ^ 72 * 8 + 2 ^ 128 * 2 + 2 ^ 160 * 4
def sPat : State := regs { sE with sram := Memory.writeN [] 0x40 64 patRec } [(4, scr 0x40), (5, 0x78)]
def f0 : Feed := feedOfRec patRec 0 (Vector.replicate 4 none)
/-- v16 bound, the first element fetched; and both. -/
def sFeed (q : List (Nat × Fl)) : State := { sPat with ct := sPat.ct.setFeed 16 (some { f0 with queue := q }) }
/-- v16 bound to a feed, with v17 free. -/
def sFd (f : Feed) : State := { sPat with ct := sPat.ct.setFeed 16 (some f) }
def cStopped : Ct := { ct0 with status := .stopped }
theorem feedReaches_of {s : State} {w : WmBinds} {n : Nat} {a : Word} {l : Loc}
    (h : s.resolve s.ct.via a n .load = .ok l ∧ (match l with | .phys pa ty => ty < 2 ∧ pa < mainEnd | _ => True) ∧
      s.claimed s.ct.via l n .load = false ∧ s.poisonedAt l = false ∧ wmHolds s w a n = false ∧ s.ct.prov = false ∧
      s.walkHeld s.ct.via a = false ∧ s.ct.sbuf = []) : FeedReaches s w n a l := by
  obtain ⟨h1, h2, h3, h4, h5, h6, h7, h8⟩ := h
  refine ⟨h7, h1, ?_, h3, h4, h5, h6, ?_⟩
  · rintro pa ty rfl; exact h2
  · rw [h8]; nofun
theorem witness_FeedWords :
    16 ≤ (16 : VRegNo).toNat ∧ VReady sPat ∧ countConvoy sPat.ct.conv false {} = some cv1 ∧ (sPat.rd 4).toNat % 64 = 0 ∧
    FeedReaches sPat sPat.ct.wmb 64 (sPat.rd 4) (.sram 0x40) ∧ patternRecOk ((bytesOf sPat).get (.sram 0x40) 64) = true ∧
    VReady (sFeed []) ∧ (sFeed []).ct.feed 16 = some { f0 with queue := [] } ∧ f0.delivered = false ∧ f0.chain.length < 4 ∧
    chainOp f0 1 ((sFeed []).rd 5) (tyOf (sFeed []).ct.a.fmt 0x78) ⟨rmAt (sFeed []), 0, 0, 0⟩ =
      some (.convert (.fp 0x78 fmtF32 32) false ⟨rmAt (sFeed []), 0, 0, 0⟩) ∧
    (let s := sFeed [(7, {}), (8, {})]
     let f := { f0 with queue := [(7, {}), (8, {})] }
     VReady s ∧ NoFeeds { s with ct := s.ct.setFeed 16 none } ∧ s.ct.feed 16 = some f ∧ f.patternOk = true ∧ f.popped + s.ct.vl ≤ f.total ∧
       f.skip + s.ct.vl ≤ f.queue.length ∧ (Ty.int 0x40 ⟨32, false⟩).isFramed = false ∧ s.grp 1 = true ∧ s.grp 16 = true ∧ s.opT 16 1 = some (.int 0x40 ⟨32, false⟩) ∧
       (chainTy f.ty f.chain).w = 32 ∧ ∀ i, i < 2 ^ s.ct.g → 1 + i ≠ 16) ∧
    (let s := { sFeed [(7, {})] with who := .access }
     let f := { f0 with queue := [(7, {})] }
     s.who = .access ∧ s.pkg.reqs = [] ∧ s.ct.status = .running ∧ cStopped.status ≠ .running ∧ s.ct.feed 16 = some f ∧ f.patternOk = true ∧ f.chain = [] ∧
       f.err = none ∧ f.skip = 0 ∧ f.popped + f.queue.length < f.total ∧ FeedReaches s f.wmb 4 (seqAddr f.base f.count f.stride 1) (.phys 0x10004 0) ∧
       sPat.ct.feed 16 = none) := by
  have r : FeedReaches { sFeed [(7, {})] with who := .access } f0.wmb 4 (seqAddr f0.base f0.count f0.stride 1) (.phys 0x10004 0) :=
    feedReaches_of (by decide +kernel)
  have t : 1 < f0.total ∧ sPat.ct.feed 16 = none := by decide +kernel
  refine ⟨by decide, vready_of (by decide +kernel), by decide +kernel, by decide +kernel, feedReaches_of (by decide +kernel), by decide +kernel,
    vready_of (by decide +kernel), by decide +kernel, by decide +kernel, by decide +kernel, by decide +kernel,
    ⟨vready_of (by decide +kernel), noFeeds_of (by decide +kernel), by and_intros <;> decide +kernel⟩, ?_⟩
  exact ⟨rfl, rfl, rfl, by decide, rfl, by decide +kernel, rfl, rfl, rfl, t.1, r, t.2⟩

/-- What the feed words refuse, and what stops a word that reads or writes a bound register. -/
theorem witness_feed_refusals :
    -- a record of zeros, a misaligned one; operators: none bound, delivered, a chain of four, outside the table; in both streams
    ((regs sPat [(7, scr 0x80)]).rd 7 = scr 0x80 ∧ (scr 0x80).toNat % 64 = 0 ∧ FeedReaches (regs sPat [(7, scr 0x80)]) sPat.ct.wmb 64 (scr 0x80) (.sram 0x80) ∧
      patternRecOk ((bytesOf (regs sPat [(7, scr 0x80)])).get (.sram 0x80) 64) = false ∧ (sPat.rd 5).toNat % 64 ≠ 0) ∧
    (sPat.ct.feed 16 = none ∧ (sFd { f0 with delivered := true }).ct.feed 16 = some { f0 with delivered := true } ∧
      4 ≤ ({ f0 with chain := List.replicate 4 .expand } : Feed).chain.length ∧ chainOp f0 15 0 none ⟨.rne, 0, 0, 0⟩ = none) ∧
    (let s := regs { sFd f0 with who := .access } [(4, scr 0x40), (5, 0x78)]
     s.who = .access ∧ s.pkg.reqs = [] ∧ (s.rd 4).toNat % 64 = 0 ∧ FeedReaches s s.ct.wmb 64 (s.rd 4) (.sram 0x40) ∧
       patternRecOk ((bytesOf s).get (.sram 0x40) 64) = true ∧ s.ct.feed 16 = some f0 ∧ f0.delivered = false ∧ f0.chain.length < 4 ∧
       chainOp f0 1 (s.rd 5) (tyOf s.ct.a.fmt (BitVec.ofNat 8 (s.rd 5).toNat)) ⟨rmAt s, s.ct.a.vseed, s.ct.a.vsrn.toNat, s.ct.a.sbase⟩ =
         some (.convert (.fp 0x78 fmtF32 32) false ⟨rmAt s, 0, 0, 0⟩)) ∧
    -- PATTERN, EXHAUST, WIDTH, DECODE; a bound register written
    (NoFeeds { (sFd f0) with ct := (sFd f0).ct.setFeed 16 none } ∧ VReady (sFd f0) ∧ (sFd f0).ct.g = 0 ∧ (1 : Nat) + 0 ≠ 16 ∧ (16 : Nat) + 0 = 16 ∧
      (sFd f0).opT 16 1 = some (.int 0x40 ⟨32, false⟩) ∧ (sFd f0).ct.vl = 2 ∧ (sFd f0).ct.feed 16 ≠ none ∧
      { f0 with base := 1 }.patternOk = false ∧ f0.patternOk = true ∧ f0.total < { f0 with popped := 1 }.popped + 2 ∧ f0.popped + 2 ≤ f0.total ∧
      (chainTy (.int 0x50 ⟨64, false⟩) []).w ≠ 32 ∧ (chainTy f0.ty f0.chain).w = 32 ∧ f0.queue.length < f0.skip + 2 ∧
      { f0 with err := some ⟨1, 0, 0⟩ }.err = some ⟨1, 0, 0⟩) :=
  ⟨⟨by decide +kernel, by decide +kernel, feedReaches_of (by decide +kernel), by decide +kernel, by decide +kernel⟩, by and_intros <;> decide +kernel,
    ⟨by decide +kernel, by decide +kernel, by decide +kernel, feedReaches_of (by decide +kernel), by and_intros <;> decide +kernel⟩,
    noFeeds_of (by decide +kernel), vready_of (by decide +kernel), by and_intros <;> decide +kernel⟩

/-- Whether a computation gives v. -/
def gives {ε α : Type} [DecidableEq α] (v : α) : Except ε α → Bool
  | .ok r => decide (r = v)
  | .error _ => false
theorem ok_of {ε α : Type} [DecidableEq α] {x : Except ε α} {v : α} (h : gives v x = true) : x = .ok v := by
  cases x with
  | error _ => cases h
  | ok r => exact congrArg _ (of_decide_eq_true h)
theorem err_of {ε α : Type} {x : Except ε α} (h : (match x with | .ok _ => false | .error _ => true) = true) : ∃ f, x = .error f := by
  cases x with
  | error f => exact ⟨f, rfl⟩
  | ok _ => cases h

theorem elems_ok {s : State} {β : Type} [DecidableEq β] {f : Nat → Except FrameFault β} {v : β}
    (h : ∀ e, e < s.ct.vl → gives v (f e) = true) : ∀ e, onAt s 0 e = true → f e = .ok v :=
  fun e he => ok_of (h e (onAt_lt e he))
/-! Numbers: the magnitude 1 in a format that holds it and in one that it overflows. -/
def one : Mag := ⟨0, fun k => if k ≤ 0 then (2 ^ (-k).toNat, false) else (0, true)⟩
theorem one_is : MagIs one 1 := by
  have pos : ∀ k : ℤ, k ≤ 0 → (1 : ℝ) / 2 ^ k = ((2 ^ (-k).toNat : ℕ) : ℝ) := by
    intro k h
    obtain ⟨n, rfl⟩ : ∃ n : ℕ, k = -(n : ℤ) := ⟨(-k).toNat, by omega⟩
    simp
  have above : ∀ k : ℤ, ¬ k ≤ 0 → ⌊(1 : ℝ) / 2 ^ k⌋₊ = 0 := by
    intro k h
    rw [Nat.floor_eq_zero, div_lt_one (by positivity)]
    exact one_lt_zpow₀ (by norm_num) (by omega)
  refine ⟨by simp [one], by norm_num [one], fun k => ?_, fun k => ?_⟩ <;> by_cases h : k ≤ 0
  · rw [pos k h, Nat.floor_natCast]; simp [one, h]
  · rw [above k h]; simp [one, h]
  · rw [pos k h, Nat.floor_natCast]; simp [one, h]
  · rw [above k h]
    have : (0 : ℝ) ≠ 1 / 2 ^ k := (by positivity : (0 : ℝ) < 1 / 2 ^ k).ne
    simpa [one, h] using this
theorem units_one (k : ℤ) (h : k ≤ 0) : (unitsOf .rtz false 0 1 k : ℝ) * (2 : ℝ) ^ k = 1 := by
  obtain ⟨n, rfl⟩ : ∃ n : ℕ, k = -(n : ℤ) := ⟨(-k).toNat, by omega⟩
  have : (1 : ℝ) / 2 ^ (-(n : ℤ)) = ((2 ^ n : ℕ) : ℝ) := by simp
  rw [unitsOf, this, Nat.floor_natCast]
  simp [GoesUp]
theorem witness_RoundingOperation :
    MagIs one 1 ∧ fmtF16.s ≤ 1 ∧ 1 ≤ fmtF16.e ∧ (0 : Nat) < 2 ^ 32 ∧ (⟨0, 2, 1, 10, .ieee⟩ : Fmt).s = 0 ∧
    (unitsOf .rtz false 0 1 (max (one.ilog - fmtF16.m) (1 - (fmtF16.bias : ℤ) - fmtF16.m)) : ℝ) *
      (2 : ℝ) ^ (max (one.ilog - fmtF16.m) (1 - (fmtF16.bias : ℤ) - fmtF16.m)) ≤ magOf fmtF16 fmtF16.maxCode ∧
    (let f : Fmt := ⟨1, 2, 1, 10, .ieee⟩
     f.s ≤ 1 ∧ 1 ≤ f.e ∧ magOf f f.maxCode < (unitsOf .rtz false 0 1 (max (one.ilog - f.m) (1 - (f.bias : ℤ) - f.m)) : ℝ) *
       (2 : ℝ) ^ (max (one.ilog - f.m) (1 - (f.bias : ℤ) - f.m))) ∧
    (3 : Nat) ≠ 0 ∧ IsNumber (.fin true 0 0) ∧ IsNumber (.fin false 3 (-2)) := by
  refine ⟨one_is, by decide, by decide, by decide, rfl, ?_, ⟨by decide, by decide, ?_⟩, by decide, ⟨rfl, rfl⟩, rfl, rfl⟩
  · rw [units_one _ (by decide)]
    norm_num [magOf, fmtF16, Fmt.maxCode, Fmt.allOnes]
  · rw [units_one _ (by decide)]
    norm_num [magOf, Fmt.maxCode, Fmt.allOnes]
/-- Each kind of operand: NaN, infinite, zero, negative, a whole number, a power of two; the operands of a dot product. -/
theorem witness_FloatingArithmeticAndConversions :
    fmtF32.s ≤ 1 ∧ (⟨0, 4, 3, 7, .finOnly⟩ : Fmt).s = 0 ∧ (FVal.nan true).isNan = true ∧ IsNumber (.fin true 0 0) ∧ (FVal.fin true 0 0).isZero = true ∧
    IsNumber (.fin false 4 0) ∧ (FVal.fin false 4 0).isZero = false ∧ badProduct (.inf false) (.fin true 0 0) = true ∧
    badProduct (.inf false) (.fin false 4 0) = false ∧ (FVal.inf false).isInf = true ∧ (FVal.fin true 3 1).neg = true ∧
    ((4 : ℤ).natAbs < 2 ^ 16 ∧ realOf (.fin false 4 0) = (4 : ℤ) ∧ realOf (.fin false 4 0) = (2 : ℝ) ^ (2 : ℤ)) ∧
    ((⟨2, true⟩ : ITag).w = 2 ∧ (⟨64, false⟩ : ITag).w = 64) ∧ (0x78 : BitVec 8) ≠ 0x80 ∧
    ((0x7FC00001 : Nat) < 2 ^ fmtF32.width ∧ (decodeVal fmtF32 0x7FC00001).isNan = true ∧ (decodeVal fmtF32 0x3F800000).isNan = false) ∧
    (decodeVal ⟨0, 4, 3, 7, .finOnly⟩ 0x7F).isNan = false ∧
    (let infinite := fun (ps : List (FVal × FVal)) (n : Bool) => ps.any fun p => (p.1.isInf || p.2.isInf) && !p.1.isNan && !p.2.isNan &&
        !badProduct p.1 p.2 && ((p.1.neg != p.2.neg) == n)
     (infinite [(.inf true, .fin false 1 0), (.inf false, .fin false 1 0)] true && infinite [(.inf true, .fin false 1 0), (.inf false, .fin false 1 0)] false)
       = true ∧ infinite [(.inf true, .fin false 1 0)] true = true ∧ infinite [(.inf true, .fin false 1 0)] false = false) ∧
    (∀ p ∈ [((FVal.fin true 0 0), (FVal.fin false 4 0))], IsNumber p.1 ∧ IsNumber p.2) := by
  refine ⟨by decide, rfl, rfl, ⟨rfl, rfl⟩, rfl, ⟨rfl, rfl⟩, rfl, rfl, rfl, rfl, rfl, ⟨by decide, ?_, ?_⟩, ?_⟩
  · norm_num [realOf]
  · norm_num [realOf]
  · refine ⟨⟨rfl, rfl⟩, by decide, by decide, by decide, by decide, ?_⟩
    intro p hp
    rw [List.mem_singleton.1 hp]
    exact ⟨⟨rfl, rfl⟩, rfl, rfl⟩

/-- A plot whose trellis of 16 nodes lies at 0x10000: node 1 is a root, 2 its child, 3 its own parent, 4 has no parent, 5 is retired, 6 is
another root, 7 a child of 1 that lies 2^63 - 1 counts away. -/
def node (parent flags : Nat) (x : Nat := 0) : Node := parent + 2 ^ 32 * flags + 2 ^ 64 * x + 2 ^ 256 * 0x3F800000
def sTr : State := { sE with
  pkg := { pkg0 with plots := [{ plot0 with trellisVa := 0x10000 }] }
  mem := [(1, node 0 9), (2, node 0x100 3), (3, node 0x300 3), (4, node 0 3), (5, node 0 0x11), (6, node 0 9), (7, node 0x100 3 (2 ^ 63 - 1))].foldl
    (fun m p => Memory.writeN m (0x10000 + 64 * p.1) 64 p.2) ([] : Memory) }
theorem nodeOk_of {s : State} {tag : Nat} {n : Node} (r : s.nodeNow (tag / 256) = .ok n)
    (h : tag / 256 < 2 ^ s.tsz ∧ n.gen = tag % 256 ∧ n.retired = false ∧ (n.valid = true ∨ n.tomb = true)) : NodeOk s tag n := ⟨h.1, r, h.2⟩
theorem sTr_walks : sTr.pkg.oldNodes = [] ∧ NodeOk sTr 0x100 (node 0 9) ∧ NodeOk sTr 0x200 (node 0x100 3) ∧ NodeOk sTr 0x300 (node 0x300 3) ∧
    NodeOk sTr 0x400 (node 0 3) ∧ NodeOk sTr 0x600 (node 0 9) ∧ NodeOk sTr 0x700 (node 0x100 3 (2 ^ 63 - 1)) := by
  refine ⟨by decide +kernel, nodeOk_of (ok_of ?_) ?_, nodeOk_of (ok_of ?_) (?_), nodeOk_of (ok_of ?_) ?_, nodeOk_of (ok_of ?_) ?_,
    nodeOk_of (ok_of ?_) ?_, nodeOk_of (ok_of ?_) ?_⟩ <;> decide +kernel
/-- The first publish has replaced node 2, which had no parent; a fence has put it before every word. -/
def sOld : State := pkgs sTr fun k => { k with pubs := 1, oldNodes := [⟨0, 2, node 0 3, 1⟩] }
/-- Sixty-three steps from node 3 to itself. -/
theorem sTr_loop : ∀ n, Walk sTr 0x300 (List.replicate n (0x300, node 0x300 3)) 0x300
  | 0 => rfl
  | n + 1 => ⟨rfl, sTr_walks.2.2.2.1, by decide +kernel, by decide +kernel, sTr_loop n⟩
theorem witness_FramedConversions :
    (∀ i, sTr.olderNodes 0 i = []) ∧
    -- a node that a publish has replaced, which a word without a later fence may still read
    (∃ n, sOld.nodeAt 0 0 2 = .ok n) ∧ (⟨0, 2, node 0 3, 1⟩ : OldNode) ∈ sOld.pkg.oldNodes ∧ sOld.olderNodes 0 2 = [node 0 3] ∧ sOld.olderNodes 1 2 = [] ∧
    -- chains: to a root, of 64 nodes, to no parent; a tag beyond the table, a node retired, a table that cannot be read
    (Walk sTr 0x200 [(0x200, node 0x100 3)] 0x100 ∧ NodeOk sTr 0x100 (node 0 9) ∧ (node 0 9).root = true) ∧
    (Walk sTr 0x300 (List.replicate 63 (0x300, node 0x300 3)) 0x300 ∧ NodeOk sTr 0x300 (node 0x300 3) ∧ (node 0x300 3).root = false ∧
      (node 0x300 3).parent / 256 ≠ 0 ∧ (List.replicate 63 (0x300, node 0x300 3)).length = 63) ∧
    (Walk sTr 0x400 [] 0x400 ∧ NodeOk sTr 0x400 (node 0 3) ∧ (node 0 3).root = false ∧ (node 0 3).parent / 256 = 0) ∧
    2 ^ sTr.tsz ≤ 0x1000 / 256 ∧ (sTr.nodeNow (0x500 / 256) = .ok (node 0 0x11) ∧ ¬ NodeOk sTr 0x500 (node 0 0x11)) ∧ (∃ f, sE.nodeNow (0x100 / 256) = .error f) ∧
    -- conversions: two roots; up and down through the common node, in range and out of it; a chain that fails on either side, or on both
    (sTr.chain 0 0 64 0x200 = .ok [(0x200, node 0x100 3), (0x100, node 0 9)] ∧ sTr.chain 0 1 64 0x700 = .ok [(0x700, node 0x100 3 (2 ^ 63 - 1)), (0x100, node 0 9)] ∧
      sTr.chain 0 1 64 0x600 = .ok [(0x600, node 0 9)] ∧ sTr.chain 0 1 64 0x100 = .ok [(0x100, node 0 9)] ∧ (∃ f, sTr.chain 0 0 64 0x1000 = .error f) ∧
      ∃ f, sTr.chain 0 1 64 0x1000 = .error f) ∧
    (let start := three (transitOfF32 0x3F800000) (transitOfF32 0) (transitOfF32 0)
     climb true start (node 0x100 3) = some ([2 ^ 64, 0, 0], false) ∧ descend true (climb true start (node 0x100 3)) (node 0x100 3 (2 ^ 63 - 1)) = some ([2 ^ 64 - (2 ^ 63 - 1) * 2 ^ 40, 0, 0], false) ∧
       climb true (three (transitOfF32 0x7F800000) (transitOfF32 0) (transitOfF32 0)) (node 0x100 3) = none) ∧
    -- transit values
    ((decodeVal fmtF32 0x7F800000).isInf = true ∧ IsNumber (decodeVal fmtF32 0x5F000000) ∧ (2 : ℝ) ^ 63 ≤ |realOf (decodeVal fmtF32 0x5F000000)| ∧
      IsNumber (decodeVal fmtF32 0x3F800000) ∧ |realOf (decodeVal fmtF32 0x3F800000)| < (2 : ℝ) ^ 63 ∧
      (2 : ℝ) ^ (-41 : ℤ) ≤ |realOf (decodeVal fmtF32 0x3F800000)| ∧ |(-1 : ℤ)| < 2 ^ 127) := by
  obtain ⟨h0, h1, h2, h3, h4, h6, h7⟩ := sTr_walks
  have big : decodeVal fmtF32 0x5F000000 = .fin false (2 ^ 23) 40 := by decide +kernel
  have one : decodeVal fmtF32 0x3F800000 = .fin false (2 ^ 23) (-23) := by decide +kernel
  have old : ∃ n, sOld.nodeAt 0 0 2 = .ok n := by
    have h : sOld.nodeNow 2 = .ok (node 0x100 3) := ok_of (by decide +kernel)
    obtain ⟨f, e, -⟩ | ⟨n, m, -, e, -⟩ := Laws.nodeAt_cases sOld 0 0 2
    · rw [h] at e; cases e
    · exact ⟨m, e⟩
  refine ⟨fun i => Laws.olderNodes_of_empty h0 0 i, old, by decide +kernel, by decide +kernel, by decide +kernel, ⟨⟨rfl, h2, by decide +kernel, by decide +kernel, rfl⟩, h1, by decide +kernel⟩,
    ⟨sTr_loop 63, h3, by decide +kernel, by decide +kernel, by decide +kernel⟩, ⟨rfl, h4, by decide +kernel, by decide +kernel⟩, by decide +kernel,
    ⟨ok_of (by decide +kernel), ?_⟩, err_of (by decide +kernel), ?_, by decide +kernel, ?_⟩
  · rintro ⟨-, -, -, h, -⟩
    exact absurd h (by decide +kernel)
  · have root : ∀ o tag n, NodeOk sTr tag n → n.root = true → sTr.chain 0 o 64 tag = .ok [(tag, n)] ∧ sTr.chain 0 o 63 tag = .ok [(tag, n)] := by
      rintro o tag n ⟨hi, hn, hg, hr, hv⟩ ht
      rcases hv with hv | hv <;> simp [State.chain, Laws.nodeAt_now (Laws.olderNodes_of_empty h0 _ _), hn, hr, hg, hv, ht, Nat.not_le.2 hi]
    refine ⟨?_, ?_, (root _ _ _ h6 (by decide +kernel)).1, (root _ _ _ h1 (by decide +kernel)).1, err_of (by decide +kernel), err_of (by decide +kernel)⟩
    · rw [Laws.chain_succ (Laws.olderNodes_of_empty h0 _ _) (by decide +kernel) h2.2.1 (by decide +kernel) (by decide +kernel) (by decide +kernel) (by decide),
        (show Node.parent (node 0x100 3) = 0x100 by decide +kernel), (root _ _ _ h1 (by decide +kernel)).2]
    · rw [Laws.chain_succ (Laws.olderNodes_of_empty h0 _ _) (by decide +kernel) h7.2.1 (by decide +kernel) (by decide +kernel) (by decide +kernel) (by decide),
        (show Node.parent (node 0x100 3 (2 ^ 63 - 1)) = 0x100 by decide +kernel), (root _ _ _ h1 (by decide +kernel)).2]
  · rw [big, one]
    refine ⟨by decide +kernel, ⟨rfl, rfl⟩, ?_, ⟨rfl, rfl⟩, ?_, ?_, by decide⟩ <;> norm_num [realOf, abs_of_nonneg]

/-- v1 to v5 of that trellis: v1 a displacement of no frame, v2 and v3 positions of frame 1, v4 positions of frames beyond the table, v5
of f32. -/
def sFr : State := regs { sTr with ct := { ct0 with
  vtype := ((((ct0.vtype.set 1 0x90).set 2 0x88).set 3 0x88).set 4 0x88).set 5 0x78
  v := ((ct0.v.set 2 (2 ^ 96 * 0x100 + 2 ^ 224 * 0x100)).set 3 (2 ^ 96 * 0x100 + 2 ^ 224 * 0x100)).set 4 (2 ^ 96 * 0x1000 + 2 ^ 224 * 0x1100) } }
  [(4, 0x100), (5, 0x3F800000), (6, 0x1000)]
theorem sFr_converts : ∀ e, onAt sFr 0 e = true →
    sFr.convert sFr.ct.frE (2 * e) (sFr.ct.vget 2 128 e) true (ftag (sFr.ct.vget 2 128 e)) 0x100 = .ok ([0, 0, 0], {}) := elems_ok (by decide +kernel)
theorem sFr_meets : ∀ e, onAt sFr 0 e = true →
    sFr.bothIn sFr.ct.frE (2 * e) (sFr.ct.vget 2 128 e) true (sFr.ct.vget 3 128 e) true = .ok ([0, 0, 0], [0, 0, 0], 0x100, {}) := elems_ok (by decide +kernel)
theorem sFr_free : ∀ e, e < sFr.ct.vl → nullTag (ftag (sFr.ct.vget 1 128 e)) = true := by decide +kernel
theorem witness_FramedWords :
    VReady sFr ∧ NoFeeds sFr ∧ countConvoy sFr.ct.conv false {} = some cv1 ∧ sFr.grp 1 = true ∧ sFr.nodesHeld = false ∧
    sFr.opT 1 1 = some .fdisp ∧ sFr.opT 2 1 = some .fpos ∧ sFr.opT 3 1 = some .fpos ∧ Ty.fpos.isFramed = true ∧ sFr.fits 32 1 = true ∧
    sFr.opT 6 1 = some (.int 0x40 ⟨32, false⟩) ∧ (Ty.int 0x40 ⟨32, false⟩).code = 8 ∧
    sFr.opT 5 1 = some (.fp 0x78 fmtF32 32) ∧ (Ty.fp 0x78 fmtF32 32).isFp = true ∧ (Ty.fp 0x78 fmtF32 32).code = 15 ∧
    nullTag ((sFr.rd 4).toNat % 2 ^ 32) = false ∧ nullTag ((sFr.rd 0).toNat % 2 ^ 32) = true ∧ onAt sFr 0 0 = true ∧ (∀ j, j < 0 → onAt sFr 0 j = false) ∧
    (∀ e, onAt sFr 0 e = true → nullTag (ftag (sFr.ct.vget 1 128 e)) = true) ∧
    (∀ e, onAt sFr 0 e = true → sFr.convert sFr.ct.frE (2 * e) (sFr.ct.vget 2 128 e) true (ftag (sFr.ct.vget 2 128 e)) 0x100 = .ok ([0, 0, 0], {})) ∧
    framedResult .sub .fpos .fpos = some .fdisp ∧
    (∀ e, onAt sFr 0 e = true →
      sFr.bothIn sFr.ct.frE (2 * e) (sFr.ct.vget 2 128 e) true (sFr.ct.vget 3 128 e) true = .ok ([0, 0, 0], [0, 0, 0], 0x100, {})) ∧
    -- v4: element 0 converts, element 1 does not
    (onAt sFr 0 1 = true ∧ nullTag (ftag (sFr.ct.vget 4 128 1)) = false ∧ (sFr.rd 6).toNat % 2 ^ 32 = 0x1000 ∧
      (∃ f, sFr.convert sFr.ct.frE (2 * 1) (sFr.ct.vget 4 128 1) true (ftag (sFr.ct.vget 4 128 1)) 0x1000 = .error f) ∧
      ∀ j, j < 1 → onAt sFr 0 j = true → nullTag (ftag (sFr.ct.vget 4 128 j)) = false ∧
        sFr.convert sFr.ct.frE (2 * j) (sFr.ct.vget 4 128 j) true (ftag (sFr.ct.vget 4 128 j)) 0x1000 = .ok ([0, 0, 0], {})) := by
  refine ⟨vready_of (by decide +kernel), noFeeds_of (by decide +kernel), ?_⟩
  refine ⟨by decide +kernel, by decide +kernel, by decide +kernel, by decide +kernel, by decide +kernel, by decide +kernel, (by decide +kernel),
    by decide +kernel, by decide +kernel, by decide +kernel, by decide +kernel, by decide +kernel, (by decide +kernel), by decide +kernel,
    by decide +kernel, by decide +kernel, nofun, fun e h => sFr_free e (onAt_lt e h), sFr_converts, by decide +kernel, sFr_meets,
    by decide +kernel, by decide +kernel, by decide +kernel, err_of (by decide +kernel), ?_⟩
  intro j hj _
  obtain rfl : j = 0 := by omega
  exact ⟨by decide +kernel, ok_of (by decide +kernel)⟩

/-- A block with one group, its last register state given; the group at work and others. -/
def sBlk (b : Block) : State := onE fun c => { c with blk := some b, p := c.p.set 1 1 }
theorem bready {b : Block} {g : Group} (h : b.ring[b.cur]? = some g ∧ g.wait = .run ∧ (countConvoy g.conv false {}).isSome = true) : BReady (sBlk b) b g :=
  ⟨rfl, rfl, rfl, rfl, rfl, h.1, h.2.1, h.2.2⟩
/-- The two sides of split 1, the one in turn and the other; a group of the level that has ended. -/
def gT : Group := { g0 with members := 1, path := [1] }
def gJ : Group := { g0 with members := 2, path := [1], wait := .join 0x1000 }
def gX : Group := { g0 with members := 2, wait := .end_ 0x1000 }
theorem witness_BlockWords :
    VReady sE ∧ countConvoy sE.ct.conv true {} = some cv1 ∧ sE.ct.vl ≠ 0 ∧ VReady (onE fun c => { c with vl := 0 }) ∧
    (countConvoy sE.ct.conv false {}).isSome = true ∧
    -- one group: it goes on, splits, ends the last level
    (BReady (sBlk b0) b0 g0 ∧ b0.levels.length < 4 ∧ b0.ring.length < 16 ∧ BitVec.allOnes predBits &&& g0.members = g0.members ∧
      (sBlk b0).ct.p[2] &&& g0.members = 0 ∧ (sBlk b0).ct.p[1] &&& g0.members ≠ g0.members ∧ (sBlk b0).ct.p[1] &&& g0.members ≠ 0 ∧
      b0.hasSibling g0 = false ∧ g0.path = [] ∧ b0.levels = [(g0.level, 0x800)] ∧ (∀ h ∈ b0.ring, h.level = g0.level) ∧
      (sBlk b0).group.isSome = true ∧ (aluOf (.add 1 2 3)).isSome = true) ∧
    -- sixteen groups: no split; another group still runs: VPEND waits
    (let b := { b0 with ring := List.replicate 16 g0 }
     BReady (sBlk b) b g0 ∧ 16 ≤ b.ring.length ∧ b.ring[1]? = some g0 ∧ 1 ≠ b.cur ∧ g0.wait.isEnd = false) ∧
    -- the sibling waits at the join; has split again
    (let b := { b0 with ring := [gT, gJ] }
     BReady (sBlk b) b gT ∧ b.hasSibling gT = true ∧ b.sibling gT = some 1 ∧ b.ring[1]? = some gJ ∧ gJ.wait = .join gT.pc) ∧
    (let b := { b0 with ring := [gT, { gJ with path := [2, 1] }] }
     BReady (sBlk b) b gT ∧ b.hasSibling gT = true ∧ b.sibling gT = none) ∧
    -- every other group has ended
    (let b := { b0 with ring := [g0, gX] }
     BReady (sBlk b) b g0 ∧ ∀ i h, b.ring[i]? = some h → i ≠ b.cur → h.wait.isEnd = true) := by
  refine ⟨sE_ready, by decide +kernel, by decide +kernel, vready_of (by decide +kernel), by decide +kernel,
    ⟨bready (by decide +kernel), by decide +kernel⟩, ⟨bready (by decide +kernel), by decide +kernel⟩, ⟨bready (by decide +kernel), by decide +kernel⟩,
    ⟨bready (by decide +kernel), by decide +kernel⟩, bready (by decide +kernel), ?_⟩
  intro i h hi hc
  match i with
  | 0 => exact absurd rfl hc
  | 1 => cases hi; rfl
  | n + 2 => cases hi
/-- The decode conditions of a word: field, types, convoy class admitted, admitted in a block. -/
def decOf (s : State) (i : Instr) : Option (Bool × Bool × Bool × Bool) :=
  (vdecOf s i).map fun x => (x.field, x.typed, (countConvoy s.conv x.c x.k).isSome, x.blk)
/-- One word of each family that meets each condition in turn: a group of two registers that is misaligned; a tag that is no type; a word
behind one of the Solo class; a block. -/
theorem witness_decode_families :
    (let s := onE fun c => { c with g := 1 }
     s.who = .exec ∧ s.ct.mown = true ∧
     ([.vldX false 2 4 3 0, .vstseg false 3 4 0 3, .vamoAdd false 2 4 3 0, .vscan false 3 2 4 0, .vsoftmax false 3 2 4 0, .vcvt false 3 2 0, .vwaddVv false 2 6 8 0,
       .vclass false 1 3 4 0, .fplen2 false 3 2 0, .vaddVx false 3 2 4 0, .macld false 0 3 4 5, .mmac false 0 3 4] : List Instr).map
       (fun i => (decOf s i).map (·.1)) = List.replicate 12 (some false)) ∧
    (let s := tags [(17, 0x98)]
     ([.vld false 17 4 0, .vredsum false 17 4 0, .vmov false 1 17 0, .vcmpEq false 1 17 2 0, .vnshrVv false 1 17 2 0, .msow false 17 4] : List Instr).map
       (fun i => (decOf s i).map fun x => (x.1, x.2.1)) = [some (true, false), some (true, false), some (true, false), some (true, false), some (false, false), some (true, false)]) ∧
    (let s := onE fun c => { c with conv := { cv1 with solo := true } }
     ([.pst 4 0, .vstrip false, .pand 1 2 3, .mswap false, .vsave false 4, .vaddVv false 1 2 3 0] : List Instr).map (decOf s) =
       [some (true, true, false, true), some (true, true, false, false), some (true, true, false, true), some (true, true, false, false),
        some (true, true, false, false), some (true, true, false, true)] ∧ countConvoy s.conv false {} = none) ∧
    (let s := sBlk b0
     s.group.isSome = true ∧ s.ct.mown = true ∧
     ([.vredsum false 2 5 0, .vsetl false 5 6, .mswap false, .vsave true 4, .vext false 2 5, .pcnt 5 0] : List Instr).map (decOf s) =
       List.replicate 6 (some (true, true, true, false)) ∧ (countConvoy s.conv false {}).isSome = true ∧ sS.isSys = true) := by
  and_intros <;> decide +kernel
theorem witness_VectorDecodeFaults :
    binOf (.vandVv false 1 2 3 0) = some (.and, false, 1, 2, .v 3, 0) ∧ sA.who ≠ .exec ∧ sE.who = .exec ∧ sE.ct.viq.any Ventry.fixes = false ∧
    sE.ct.vown = true ∧ (let s := onE fun c => { c with g := 1 }; (s.grp 1 && s.grp 2 && s.grpB (.v 3)) = false) ∧
    (sE.grp 17 && sE.grp 17 && sE.grpB (.v 17)) = true ∧ (tags [(17, 0x98)]).opT 17 1 = none ∧
    (tags [(17, 0x98)]).grp 17 = true ∧
    (tags [(2, 0x78)]).opT 2 1 = some (.fp 0x78 fmtF32 32) ∧ BinOp.and.intOnly = true ∧ (planBin .and 1 2 (.v 3) 0 sE).isSome = true ∧
    countConvoy ({ cv1 with solo := true } : Convoy) false {} = none ∧ (onE fun c => { c with conv := { cv1 with solo := true } }).conv = { cv1 with solo := true } ∧
    redOf (.vredmax false 2 5 0) = some (.max, false, 2, 5, 0) ∧ (sBlk b0).group.isSome = true ∧ (sBlk b0).opT 2 1 = some (.int 0x40 ⟨32, false⟩) ∧
    (countConvoy (sBlk b0).conv false { ring := true }).isSome = true ∧ (sBlk b0).ct.viq.any Ventry.fixes = false ∧ (sBlk b0).ct.vown = true := by
  and_intros <;> decide +kernel

/-- Accesses of a CT in slot 0 of core 0 to its own scratch: all are performed at once. -/
structure OwnScratch (s : State) (size : Nat) : Prop where
  who : s.isSys = false
  id : s.ct.via.id = 0
  here : s.ct.via.saved = false
  cfg : s.ssOf 0 0 = size
  claims : s.cts.any (fun c => c.copies.any fun y => !y.claims.isEmpty) = false
  far : s.pkg.farClaims = []
  poison : s.pkg.poison = []
  wm : s.ct.wmb.toList.all (·.isNone) = true
theorem scr_toNat {o : Nat} (h : o < 0x200000) : (scr o).toNat = 0xFFFFFF0000000000 + o := by
  rw [scr, BitVec.toNat_ofNat, Nat.mod_eq_of_lt (by omega)]
theorem own_reaches {s : State} {size o n : Nat} {k : Kind} {ok : Nat → Bool} (h : OwnScratch s size) (hs : size ≤ 0x200000) (ho : o + n ≤ size)
    (hn : 0 < n) : Reaches s n k ok (scr o) (.sram o) := by
  have e := scr_toNat (o := o) (by omega)
  have va : va55 (scr o) = scratchBase + o := by rw [va55, e]; simp only [scratchBase]; omega
  have ca : canonical (scr o) = true := by
    unfold canonical
    rw [e]
    simp only [decide_eq_true_eq]
    omega
  refine ⟨?_, ?_, nofun, ?_, fun _ => ?_, fun _ => ?_⟩
  · have : clusterBase ≤ scratchBase + o := by simp only [clusterBase, scratchBase]; omega
    simp [State.walkHeld, State.tableLines, va, this]
  · unfold State.resolve
    simp only [va, ca, h.id]
    have : s.ssOf (coreOf 0) (slotOf 0) = size := h.cfg
    simp only [this]
    have hsz : scratchSize = 0x200000 := rfl
    simp only [Bool.not_true, Bool.false_eq_true, if_false, Nat.le_add_right, if_true, Nat.add_sub_cancel_left]
    rw [if_pos ⟨ho, by omega⟩]
    simp [coreOf, slotOf, h.here]
  · have hc := h.claims
    have hl : s.lineClaimed (sramLine o) k = false := by
      unfold State.lineClaimed
      rw [h.far, List.any_nil, Bool.or_false]
      apply Bool.eq_false_iff.2
      intro hx
      rw [Bool.eq_false_iff] at hc
      apply hc
      obtain ⟨c, hc1, hc2⟩ := List.any_eq_true.1 hx
      obtain ⟨y, hy1, hy2⟩ := List.any_eq_true.1 hc2
      obtain ⟨z, hz, -⟩ := List.any_eq_true.1 hy2
      refine List.any_eq_true.2 ⟨c, hc1, List.any_eq_true.2 ⟨y, hy1, ?_⟩⟩
      cases hcl : y.claims with
      | nil => rw [hcl] at hz; cases hz
      | cons a b => rfl
    simpa [State.claimed, Loc.line] using hl
  · simp [State.poisonedAt, Loc.line, State.badLine, h.poison]
  · simp only [wmHolds, wmWaits]
    apply Bool.eq_false_iff.2
    intro hx
    obtain ⟨i, -, hi⟩ := List.any_eq_true.1 hx
    obtain ⟨x, hx1, hx2⟩ := List.any_eq_true.1 hi
    have := List.all_eq_true.1 h.wm x hx1
    cases x with
    | none => cases hx2
    | some _ => cases this

theorem scr_add (o d : Nat) : scr o + BitVec.ofNat 64 d = scr (o + d) := by
  simp only [scr, ← BitVec.ofNat_add, Nat.add_assoc]
/-- A row element's address in scratch. -/
theorem scr_row {o st w q j : Nat} : rowAddr (scr o) (BitVec.ofNat 64 st) w q j = scr (o + q * st + j * w / 8) := by
  have : BitVec.ofNat 64 q * BitVec.ofNat 64 st = BitVec.ofNat 64 (q * st) := by simp [BitVec.ofNat_mul]
  rw [rowAddr, this, scr_add, scr_add]

/-- f16 rows of two elements: grants 2, 2, 2; s4 a seed record, s8 the matrix at 0x1000, s6 the stride, s10 to s12 a scan. -/
def seedRec : Nat := 7 + 2 ^ 64 * 16 + 2 ^ 72 * 0x70
def sMx : State := regs { (onE fun c => { c with
    vtype := c.vtype.set 1 0x70, vl := 4, vsw := 16, grantM := 2, grantN := 2, grantK := 2,
    mx := { c.mx with actTag := ⟨0x70, 0⟩, shaTag := ⟨0x70, 0⟩ } }) with sram := Memory.writeN [] 0 64 seedRec }
  [(4, scr 0), (8, scr 0x1000), (6, 256), (10, scr 0x1000), (11, 3), (12, 0xFFFFFFFF), (14, scr 0x1000)]
theorem own_of {s : State} {size : Nat} (h : s.isSys = false ∧ s.ct.via.id = 0 ∧ s.ct.via.saved = false ∧ s.ssOf 0 0 = size ∧
    s.cts.any (fun c => c.copies.any fun y => !y.claims.isEmpty) = false ∧ s.pkg.farClaims = [] ∧ s.pkg.poison = [] ∧
    s.ct.wmb.toList.all (·.isNone) = true) : OwnScratch s size :=
  ⟨h.1, h.2.1, h.2.2.1, h.2.2.2.1, h.2.2.2.2.1, h.2.2.2.2.2.1, h.2.2.2.2.2.2.1, h.2.2.2.2.2.2.2⟩
theorem sMx_own : OwnScratch sMx 0x40000 := own_of (by decide +kernel)
theorem sMx_ready : MReady sMx :=
  ⟨vready_of (by decide +kernel), noFeeds_of (by decide +kernel), by decide +kernel⟩
theorem witness_MatrixRegisterWords :
    MReady sMx ∧ countConvoy sMx.ct.conv false { mat := true } = some ⟨true, 0, 1, 0, false⟩ ∧ (11 : BitVec 4).toNat < 12 ∧ sMx.grp 1 = true ∧
    sMx.opT 1 1 = some (.fp 0x70 fmtF16 16) ∧ planeTy sMx.ct.mx.actTag = some (.fp 0x70 fmtF16 16) ∧ mmacOk 14 14 = true ∧
    (Ty.fp 0x70 fmtF16 16).code = 14 ∧ rowAt sMx 2 0 2 none 1 1 = true ∧ grantsOf sMx = (2, 2, 2) :=
  ⟨sMx_ready, by and_intros <;> decide +kernel⟩
/-- The place of element j of row q of the matrix at 0x1000. -/
def mAt (q j : Nat) : Loc := .sram (0x1000 + q * 256 + j * 16 / 8)
theorem sMx_row {k : Kind} {ok : Nat → Bool} {q j : Nat} (hq : q < 128) (hj : j < 128) :
    Reaches sMx 2 k ok (rowAddr (scr 0x1000) (BitVec.ofNat 64 256) 16 q j) (mAt q j) := by
  rw [scr_row]
  exact own_reaches sMx_own (by decide) (by omega) (by decide)
theorem mAligned_of {w : Nat} {as : List Word} (h : (as.all fun a => decide (a.toNat % (w / 8) = 0)) = true) : mAligned w as :=
  .inr fun a ha => of_decide_eq_true (List.all_eq_true.1 h a ha)
theorem rowsTo_lt {s : State} {n q : Nat} (h : q ∈ rowsTo s n) : q < n := List.mem_range.1 (List.mem_of_mem_filter h)
theorem witness_MatrixMemoryWords :
    MReady sMx ∧ Calm sMx ∧ sMx.ct.lag = false ∧ sMx.grp 1 = true ∧ (let s := { sMx with ct := { sMx.ct with g := 1 } }; MReady s ∧ s.grp 1 = false ∧ s.ty 1 = some (.fp 0x70 fmtF16 16)) ∧
    sMx.ct.prov = false ∧ sMx.pkg.poison = [] ∧ countConvoy sMx.ct.conv false { mat := true, mem := true } = some ⟨true, 1, 1, 0, false⟩ ∧
    sMx.ty 1 = some (.fp 0x70 fmtF16 16) ∧ mAligned 16 [sMx.rd 8, sMx.rd 6] ∧ sMx.rd 8 = scr 0x1000 ∧ sMx.rd 6 = BitVec.ofNat 64 256 ∧
    (∀ k ok q j, q ∈ rowsTo sMx 2 → j < 2 → Reaches sMx 2 k ok (rowAddr (scr 0x1000) (BitVec.ofNat 64 256) 16 q j) (mAt q j)) ∧
    -- the seed words
    ((sMx.rd 4).toNat % 64 = 0 ∧ Reaches sMx 64 .load notOrdered (sMx.rd 4) (.sram 0) ∧ seedRecOk ((bytesOf sMx).get (.sram 0) 64) 0x70 = true) ∧
    (∀ k ok q j, q ∈ rowsTo sMx 128 → j < 128 → Reaches sMx 2 k ok (rowAddr (scr 0x1000) (BitVec.ofNat 64 (16 * 16)) 16 q j) (mAt q j)) ∧
    (sMx.rd 10 = scr 0x1000 ∧ sMx.rd (10 + 1) = 3 ∧ (sMx.rd (10 + 2)).toNat < 2 ^ 32 ∧ sMx.rd (10 + 2) ≠ 0 ∧ mAligned 16 [sMx.rd 10] ∧ (10 : SReg) ≠ 0) ∧
    -- a scan of no seeds
    (sMx.rd 14 = scr 0x1000 ∧ sMx.rd (14 + 2) = 0 ∧ (14 : SReg) ≠ 0) := by
  refine ⟨sMx_ready, ⟨nofun, by decide +kernel⟩, by decide +kernel, by decide +kernel,
    ⟨⟨vready_of (by decide +kernel), noFeeds_of (by decide +kernel), by decide +kernel⟩, by decide +kernel, by decide +kernel⟩,
    by decide +kernel, by decide +kernel, by decide +kernel, by decide +kernel, mAligned_of (by decide +kernel), by decide +kernel, by decide +kernel,
    fun k ok q j hq hj => ?_, ⟨by decide +kernel, reaches_of (by decide +kernel), by decide +kernel⟩, fun k ok q j hq hj => ?_,
    ⟨by decide +kernel, by decide +kernel, by decide +kernel, by decide +kernel, mAligned_of (by decide +kernel), by decide⟩, by decide +kernel⟩
  · have := rowsTo_lt hq
    exact sMx_row (by omega) (by omega)
  · exact sMx_row (rowsTo_lt hq) hj

/-- A core whose slot 0 has all 2 MiB of scratch; a vector image's header there, or a matrix image's. -/
def sImg (hdr : Nat) : State := regs { (pkgs sE fun p => { p with cores := [(0, ⟨8, 0x200000, 0⟩)] }) with sram := Memory.writeN [] 0x80 64 hdr }
  [(4, scr 0x80)]
def vHdr : Nat := 1 + 2 ^ 32 * 14 + 2 ^ (8 * 0x29) * 128 + 2 ^ (8 * 0x30) * 2 + 2 ^ (8 * 0x34) * 128
def mHdr : Nat := 1 + 2 ^ (8 * 9) * 128 + 2 ^ (8 * 0x10) * 0x68
theorem own_image {s : State} {a n : Nat} {k : Kind} (h : OwnScratch s 0x200000) (hp : s.ct.prov = false) (ha : a % 128 = 0) (hn : a + n ≤ 0x200000)
    (h0 : 0 < n) : ImageReaches s k (scr a) n fun i => .sram (a + 128 * i) := by
  refine ⟨?_, hp, h.poison, fun i hi => ?_⟩
  · rw [scr_toNat (by omega)]; omega
  · rw [scr_add]; exact own_reaches h (by decide) (by omega) (by decide)
theorem sImg_own (hdr : Nat) : OwnScratch (sImg hdr) 0x200000 := own_of ⟨rfl, rfl, rfl, rfl, rfl, rfl, rfl, rfl⟩
/-- Lines that hold nothing add nothing to an image. -/
theorem get_none {m : Bytes} {a : Nat} (h : ∀ c ∈ m.2, c.1 < a) (n : Nat) : m.get (.sram a) n = 0 := readN_none h n
theorem image_short {m : Bytes} {a : Nat} (h : ∀ c ∈ m.2, c.1 < a + 128) : ∀ k, imageAt (fun i => .sram (a + 128 * i)) m (k + 1) = imageAt (fun i => .sram (a + 128 * i)) m 1 := by
  intro k
  induction k with
  | zero => rfl
  | succ k ih =>
    have : m.get (.sram (a + 128 * (k + 1))) 128 = 0 := get_none (fun c hc => by have := h c hc; omega) 128
    rw [imageAt, this, ih, Nat.mul_zero, Nat.add_zero]
theorem sImg_image {hdr k : Nat} (h : ∀ c ∈ (sImg hdr).sram, c.1 < 0x80 + 128) :
    imageAt (fun i => .sram (0x80 + 128 * i)) (bytesOf (sImg hdr)) (k + 1) = imageAt (fun i => .sram (0x80 + 128 * i)) (bytesOf (sImg hdr)) 1 :=
  image_short h k
theorem witness_ContextImageWords :
    MReady (sImg vHdr) ∧ MReady (sImg mHdr) ∧ countConvoy (sImg vHdr).ct.conv true { solo := true } = some ⟨true, 0, 0, 0, true⟩ ∧
    (sImg vHdr).rd 4 = scr 0x80 ∧ (sImg mHdr).rd 4 = scr 0x80 ∧
    (∀ k, ImageReaches (sImg vHdr) k (scr 0x80) (sImg vHdr).ct.vimgLen fun i => .sram (0x80 + 128 * i)) ∧
    (∀ k, ImageReaches (sImg mHdr) k (scr 0x80) mimgLen fun i => .sram (0x80 + 128 * i)) ∧
    (let f := recField (imageAt (fun i => .sram (0x80 + 128 * i)) (bytesOf (sImg vHdr)) ((sImg vHdr).ct.vimgLen / 128))
     vimageOk (sImg vHdr).ct (imageAt (fun i => .sram (0x80 + 128 * i)) (bytesOf (sImg vHdr)) ((sImg vHdr).ct.vimgLen / 128)) = true ∧
       f 0x34 1 = 2 ^ (6 + 1) ∧ f 0x29 1 ≤ 128 ∧ f 0x2A 1 ≤ 128 ∧ f 0x2B 1 ≤ 128 ∧
       f 0x30 4 ≤ min ((sImg vHdr).ct.vlen * 2 ^ (f 0x28 1 % 4) / f 0x34 1) ((sImg vHdr).ct.vlen / 2)) ∧
    (let f := recField (imageAt (fun i => .sram (0x80 + 128 * i)) (bytesOf (sImg mHdr)) (mimgLen / 128))
     mimageOk (imageAt (fun i => .sram (0x80 + 128 * i)) (bytesOf (sImg mHdr)) (mimgLen / 128)) = true ∧ f 9 1 ≤ 128 ∧ f 0xA 1 ≤ 128 ∧ f 0xB 1 ≤ 128) := by
  have mr : ∀ hdr, MReady (sImg hdr) := fun hdr =>
    ⟨⟨rfl, rfl, rfl, rfl, rfl, rfl, rfl, .inr (.inr (.inr rfl)), by show 0 ≤ 3; decide, by show 2 ≤ 2048 * 8 / 2; decide⟩, noFeeds_of rfl, rfl, Nat.zero_le _, Nat.zero_le _, Nat.zero_le _⟩
  have hv : (sImg vHdr).ct.vimgLen / 128 = 1609 + 1 := by decide +kernel
  have hm : mimgLen / 128 = 6657 + 1 := by decide +kernel
  refine ⟨mr _, mr _, by decide +kernel, by decide +kernel, by decide +kernel, fun k => own_image (sImg_own _) rfl (by decide) (by decide +kernel) (by decide +kernel),
    fun k => own_image (sImg_own _) rfl (by decide) (by decide +kernel) (by decide +kernel), ?_, ?_⟩
  · rw [hv, sImg_image (by decide +kernel)]; decide +kernel
  · rw [hm, sImg_image (by decide +kernel)]; decide +kernel
/-- One member alone; a second one whose marker has not fired. -/
def sBar (b : Barrier) (l : List Ct) : State := { (onE fun c => { c with bar := c.bar.set 3 b }) with others := l }
theorem witness_BarrierWords :
    VReady (sBar ⟨0, 0, 0, none⟩ []) ∧ countConvoy (sBar ⟨0, 0, 0, none⟩ []).ct.conv false {} = some cv1 ∧ (sBar ⟨0, 0, 0, none⟩ []).ct.bar[3]? = some ⟨0, 0, 0, none⟩ ∧
    VReady (sBar ⟨1, 0, 1, none⟩ []) ∧ (sBar ⟨1, 0, 1, none⟩ []).ct.bar[3]? = some ⟨1, 0, 1, none⟩ ∧ (1 : Nat) ≠ 0 ∧ (1 : Nat) = 0 + 1 ∧ (0 : Nat) ≠ 0 + 1 ∧
    (∀ m ∈ (sBar ⟨1, 0, 1, none⟩ []).cts, m.status = .ended ∨ ∃ x, m.bar[3]? = some x ∧ 1 ≤ x.fired) ∧
    VReady (sBar ⟨1, 0, 1, none⟩ [ct0]) ∧
    ¬ (∀ m ∈ (sBar ⟨1, 0, 1, none⟩ [ct0]).cts, m.launch = (sBar ⟨1, 0, 1, none⟩ [ct0]).ct.launch → m.gang = (sBar ⟨1, 0, 1, none⟩ [ct0]).ct.gang →
      m.plot = (sBar ⟨1, 0, 1, none⟩ [ct0]).ct.plot → m.status = .ended ∨ ∃ x, m.bar[3]? = some x ∧ 1 ≤ x.fired) ∧
    -- a store of the stream before the marker; a marker that has not fired, whose stores may be performed, or not
    (let s := fun line => { sBar ⟨1, 0, 0, some ⟨1, 0, 0⟩⟩ [] with ct := { (sBar ⟨1, 0, 0, some ⟨1, 0, 0⟩⟩ []).ct with
        sbn := 1, sbuf := (sLag line 0).ct.sbuf, copies := (sLag line 0).ct.copies } }
     VReady (s scrLine) ∧ (∃ e ∈ (s scrLine).ct.sbuf, SbEnt.before ⟨(s scrLine).ct.sbn, 0, (s scrLine).ct.sbn⟩ e = true) ∧
       (s scrLine).ct.bar[3]? = some ⟨1, 0, 0, some ⟨1, 0, 0⟩⟩ ∧ (s scrLine).canFlush (s scrLine).ct (SbEnt.before ⟨1, 0, 0⟩) = false ∧
       (s (scrLine + 1)).canFlush (s (scrLine + 1)).ct (SbEnt.before ⟨1, 0, 0⟩) = true ∧ (∀ e ∈ (sBar ⟨0, 0, 0, none⟩ []).ct.sbuf, SbEnt.before ⟨0, 0, 0⟩ e = false)) := by
  refine ⟨vready_of (by decide +kernel), by decide +kernel, by decide +kernel, vready_of (by decide +kernel), by decide +kernel, by decide, by decide, by decide, ?_,
    vready_of (by decide +kernel), fun h => ?_, vready_of (by decide +kernel), by and_intros <;> decide +kernel⟩
  · intro m hm
    obtain rfl : m = (sBar ⟨1, 0, 1, none⟩ []).ct := by simpa [State.cts, sBar] using hm
    exact .inr ⟨⟨1, 0, 1, none⟩, by decide +kernel, by decide⟩
  · rcases h ct0 (.tail _ (.head _)) rfl rfl rfl with h | ⟨x, hx, hf⟩
    · cases h
    · have : x = ⟨0, 0, 0, none⟩ := by simpa [ct0, Ct.fresh] using hx.symm
      rw [this] at hf
      exact absurd hf (by decide)

/-- A read with no store delayed and no moment kept. -/
theorem still {s : State} {a : Word} {n : Nat} {l : Loc} (h : Ready s a n .load l) (hb : s.ct.sbuf = []) (hl : s.ct.looks = []) :
    ReadsNow s a n l (s.peek s.via l n) s :=
  ⟨h, Laws.canFlush_of_empty hb _, by rw [Laws.readNow_still l n hb hl], by rw [Laws.readNow_still l n hb hl]⟩
theorem cready_of {s : State} (h : s.group = none ∧ s.isSys = false ∧ s.ct.viq = [] ∧ s.ct.prov = false) : CReady s :=
  ⟨h.1, h.2.1, fun _ => h.2.2.1, h.2.2.2⟩
/-- A CT with copies (tickets from 1 on), queries, and registers for copies of a line within its scratch. -/
def sCp (y : List Copy) (w : List Word) : State := regs (onE fun c => { c with ticket := y.length, copies := y, wdq := w })
  [(10, scr 0x100), (11, scr 0x200), (12, 128), (14, scr 0x210), (15, scr 0x200), (16, 64), (17, scr 0x3FFF8), (18, 1), (19, 65536), (20, 63)]
/-- CPYQ of 4096 f32 elements to i8 at the record in scratch. -/
def qRec : Nat := (scr 0x8000).toNat + 2 ^ 64 * (scr 0x10000).toNat + 2 ^ 128 * (scr 0x20000).toNat + 2 ^ 256 * 4096 + 2 ^ 320 * 15 + 2 ^ 328 * 0x18
def sQ : State := regs { sE with sram := Memory.writeN [] 0x40 64 qRec } [(4, scr 0x40)]
/-- A delayed store that reaches into the last line of scratch; a copy claims the line that it begins in. -/
def sOver : State :=
  { sCp [] [] with ct := { (sCp [] []).ct with
    lag := true, sbn := 1, sbuf := [⟨.exec, 0, false, none, .sram 0x3FF80, 128, none, 0⟩, ⟨.exec, 0, false, none, .sram 0x3FF40, 192, none, 0⟩]
    copies := [⟨1, 0, false, none, [], [], [(sramLine 0x3FF40, true)], [], []⟩] } }
def yOpen : Copy := ⟨1, 0, false, none, [], [], [], [], []⟩
def yBad : Copy := ⟨1, 0, false, some (1, 0x50000), [], [], [], [], []⟩
/-- A word posted that the stream does not pass, and a WMPUB after it. -/
def sPub : State := { sCp [] [] with ct := { (sCp [] []).ct with hold := true, viq := [y0] } }
theorem witness_EngineWords :
    CReady (sCp [] []) ∧
    -- copies
    ((sCp [] []).rd 12).toNat < 2 ^ 40 ∧ rangeOk ((sCp [] []).rd 10) 128 = true ∧ rangeOk ((sCp [] []).rd (10 + 1)) 128 = true ∧
    rangesMeet ((sCp [] []).rd 10) 128 ((sCp [] []).rd (10 + 1)) 128 = false ∧
    rangesMeet ((sCp [] []).rd 14) 64 ((sCp [] []).rd (14 + 1)) 64 = true ∧ rangeOk ((sCp [] []).rd 14) 64 = true ∧ ((sCp [] []).rd 0).toNat = 0 ∧
    (openCopies (sCp [] [])).length < 16 ∧ ((sCp [] []).rd (10 + 1)).toNat % 128 + 128 ≤ 128 ∧ ((sCp [] []).rd 10).toNat % 128 + 128 ≤ 128 ∧
    (sCp [] []).farLines ((sCp [] []).rd (10 + 1)) ((sCp [] []).rd 10) 128 = [] ∧ (sCp [] []).pkg.reqs = [] ∧ (sCp [] []).canFlush (sCp [] []).ct (sCp [] []).mine = true ∧
    (let u := ((sCp [] []).flush (sCp [] []).mine).acquire
     u.resolve u.ct.via ((sCp [] []).rd (10 + 1)) 128 .load = .ok (.sram 0x200) ∧ u.resolve u.ct.via ((sCp [] []).rd 10) 128 .store = .ok (.sram 0x100) ∧
       inMain (.sram 0x100) ∧ (∀ c ∈ u.cts, ∀ y ∈ c.copies, y.claims = []) ∧ u.pkg.farClaims = [] ∧
       u.poisonedAt (.sram 0x200) = false) ∧
    (CReady sQ ∧ (sQ.rd 4).toNat % 64 = 0 ∧ ReadsNow sQ (sQ.rd 4) 64 (.sram 0x40) (sQ.peek sQ.via (.sram 0x40) 64) sQ ∧ (openCopies sQ).length < 16 ∧
      sQ.canFlush sQ.ct sQ.mine = true ∧ ∃ q, quantOf sQ.ct.a.fmt (sQ.peek sQ.via (.sram 0x40) 64) = some q ∧ (∀ r ∈ q.ranges, remoteRange sQ r.1 r.2 = false) ∧ anyMeet q.ranges = false) ∧
    -- tickets: none yet, one open, one that failed
    ((sCp [] []).ct.ticket < ((sCp [] []).rd 18).toNat ∧ (0 : Nat) ≤ (sCp [] []).ct.ticket ∧ (∀ y ∈ openCopies (sCp [] []), 0 < y.ticket)) ∧
    (CReady (sCp [yOpen] []) ∧ ((sCp [yOpen] []).rd 18).toNat ≤ (sCp [yOpen] []).ct.ticket ∧ (∃ y ∈ openCopies (sCp [yOpen] []), y.ticket ≤ 1) ∧
      ∀ y ∈ openCopies (sCp [yOpen] []), y.ticket ≤ 1 → y.err = none) ∧
    (CReady (sCp [yBad] []) ∧ 1 ≤ (sCp [yBad] []).ct.ticket ∧ openCopies (sCp [yBad] []) = [] ++ yBad :: [] ∧ yBad.err = some (1, 0x50000)) ∧
    -- queries
    (((sCp [] []).rd 17).toNat % 8 = 0 ∧ canonical ((sCp [] []).rd 17) = true ∧ scratchBase ≤ va55 ((sCp [] []).rd 17) ∧
      va55 ((sCp [] []).rd 17) < scratchBase + scratchSize ∧ Ready (sCp [] []) ((sCp [] []).rd 17) 8 .store (.sram 0x3FFF8) ∧
      Ready (sCp [] [0, 0, 0, 0]) ((sCp [] [0, 0, 0, 0]).rd 17) 8 .store (.sram 0x3FFF8) ∧ CReady (sCp [] [0, 0, 0, 0]) ∧
      storeGoes (sCp [] []) false (.sram 0x3FFF8) 8 = true ∧
      -- the word itself is performed, or an older store of a byte of it is held back
      (let t := (sCp [] []).storeAt (.sram 0x3FFF8) 8 0xFFFFFFFFFFFFFFFE
       t.canFlush t.ct (fun e => t.mine e && decide ((sCp [] []).ct.sbn ≤ e.id)) = true) ∧
      (CReady sOver ∧ Ready sOver (sOver.rd 17) 8 .store (.sram 0x3FFF8) ∧ storeGoes sOver false (.sram 0x3FFF8) 8 = true ∧
        let t := sOver.storeAt (.sram 0x3FFF8) 8 0xFFFFFFFFFFFFFFFE
        t.canFlush t.ct (fun e => t.mine e && decide (sOver.ct.sbn ≤ e.id)) = false)) ∧
    -- bindings: no length; a length, the largest unit, the plot's last slot
    ((sCp [] []).plotOf 0 = some plot0 ∧ (sCp [] []).rd (0 + 2) = 0 ∧ (sCp [] []).rd (20 + 2) = 0 ∧ (sCp [] []).rd (18 + 2) ≠ 0 ∧
      plot0.wmFirst ≤ ((sCp [] []).rd 18).toNat ∧ ((sCp [] []).rd 20).toNat < plot0.wmFirst + plot0.wmCount ∧ (sCp [] []).rd 19 ≠ 0 ∧
      ((sCp [] []).rd 19).toNat ≤ 65536 ∧ (sCp [] []).who = .exec ∧ (sCp [] []).ct.hold = false ∧ (sCp [] []).ct.status = .running ∧
      CReady { sCp [] [] with who := .access }) ∧
    (sPub.group = none ∧ sPub.isSys = false ∧ sPub.ct.prov = false ∧ sPub.plotOf sPub.ct.plot = some plot0 ∧ sPub.who = .exec ∧ sPub.ct.hold = true ∧
      sPub.ct.viq ≠ []) := by
  refine ⟨cready_of (by decide +kernel), by decide +kernel, by decide +kernel, by decide +kernel, by decide +kernel, (by decide +kernel), by decide +kernel,
    by decide +kernel, by decide +kernel, by decide +kernel, (by decide +kernel), by decide +kernel, by decide +kernel, by decide +kernel,
    ⟨by decide +kernel, by decide +kernel, nofun, by decide +kernel⟩,
    ⟨cready_of (by decide +kernel), by decide +kernel, still (ready_of (by decide +kernel)) rfl rfl, by decide +kernel, by decide +kernel, some_and (by decide +kernel)⟩, by decide +kernel,
    ⟨cready_of (by decide +kernel), by decide +kernel⟩, ⟨cready_of (by decide +kernel), by decide +kernel⟩,
    ⟨by decide +kernel, by decide +kernel, by decide +kernel, by decide +kernel, ready_of (by decide +kernel), ready_of (by decide +kernel), cready_of (by decide +kernel),
      by decide +kernel, by decide +kernel, cready_of (by decide +kernel), ready_of (by decide +kernel), by decide +kernel, by decide +kernel⟩,
    ⟨by decide +kernel, by decide +kernel, by decide +kernel, by decide +kernel, (by decide +kernel), by decide +kernel, by decide +kernel, by decide +kernel,
      by decide +kernel, by decide +kernel, by decide +kernel, cready_of (by decide +kernel)⟩, by decide +kernel⟩

/-- Descriptors at scratch 0 (plain, resident, with arguments) and 0x80 (speculative, its shape record at 0x10000), a pool record at
0x180; a root of address space 1. -/
def descPlain : Nat := 1 + 2 ^ 16 + 2 ^ 32 + 2 ^ 40 * 2 + 2 ^ 64 * 2 + 2 ^ 128 * 0x10000 + 2 ^ 256 * (scr 0x100).toNat
def descSpec : Nat := 1 + 2 ^ 32 + 2 ^ 128 * 0x10000 + 2 ^ (8 * 0x40) * 63 + 2 ^ (8 * 0x44) * 4 + 2 ^ (8 * 0x48) + 2 ^ (8 * 0x4C) * 8 + 2 ^ (8 * 0x50) * 0x10000
def poolRec : Nat := 0x500000000 + 2 ^ 64 * 8 + 2 ^ 96 * 4 + 2 ^ 128
/-- w is the shape record. -/
def sL (w : Nat) (f : Pkg → Pkg) : State := regs { (pkgs (mems sE [(0x20008, 8, 0x50000), (0x10000, 16, w)]) f) with
    sram := ((Memory.writeN [] 0 128 descPlain).writeN 0x80 128 descSpec).writeN 0x180 64 poolRec }
  [(4, scr 0), (5, scr 0x80), (6, 0x10000), (7, 5), (8, scr 0x180), (9, 8), (10, 3)]
def args0 : Vector Word 10 := argsOf ((sL 0 id).peek (sL 0 id).via (.sram 0x100) 80)
/-- What a word that lies in one line reads. -/
theorem reads_one {s : State} {sp : Word × Nat} {l : Loc} (h : Ready s sp.1 sp.2 .load l) (hb : s.ct.sbuf = []) (hl : s.ct.looks = []) :
    Reads s [sp] (s.peek s.via l sp.2) s := ⟨l, _, 0, s, still h hb hl, ⟨rfl, rfl⟩, by simp⟩
theorem sL_plain : DescReady (sL 0 id) plot0 ((sL 0 id).rd 4) descPlain 1 args0 (sL 0 id) := by
  refine ⟨by decide +kernel, by decide +kernel, .sram 0, sL 0 id, ?_, by decide +kernel, by decide +kernel, by decide +kernel, by decide +kernel,
    fun _ => by decide +kernel, fun h => absurd h (by decide +kernel), fun _ => ⟨_, ?_, rfl⟩⟩
  · have := still (s := sL 0 id) (a := (sL 0 id).rd 4) (n := 128) (l := .sram 0) (ready_of (by decide +kernel)) rfl rfl
    rwa [(by decide +kernel : (sL 0 id).peek (sL 0 id).via (.sram 0) 128 = descPlain)] at this
  · exact (show spans (descOf descPlain).argsAt 80 = [(scr 0x100, 80)] by decide +kernel) ▸
      reads_one (sp := (scr 0x100, 80)) (l := .sram 0x100) (ready_of (by decide +kernel)) rfl rfl
theorem sL_spec (w : Nat) (h : w = 0 ∨ w = 3 + 2 ^ 64) :
    DescReady (sL w id) plot0 ((sL w id).rd 5) descSpec 1 (Vector.replicate 10 0) (sL w id) := by
  rcases h with rfl | rfl <;>
  refine ⟨by decide +kernel, by decide +kernel, .sram 0x80, _, ?_, by decide +kernel, by decide +kernel, by decide +kernel, by decide +kernel,
    fun h => absurd h (by decide +kernel), fun _ => ⟨rfl, rfl⟩, fun h => absurd (by decide +kernel) h⟩
  · have := still (s := sL 0 id) (a := (sL 0 id).rd 5) (n := 128) (l := .sram 0x80) (ready_of (by decide +kernel)) rfl rfl
    rwa [(by decide +kernel : (sL 0 id).peek (sL 0 id).via (.sram 0x80) 128 = descSpec)] at this
  · have := still (s := sL (3 + 2 ^ 64) id) (a := (sL (3 + 2 ^ 64) id).rd 5) (n := 128) (l := .sram 0x80) (ready_of (by decide +kernel)) rfl rfl
    rwa [(by decide +kernel : (sL (3 + 2 ^ 64) id).peek (sL (3 + 2 ^ 64) id).via (.sram 0x80) 128 = descSpec)] at this
/-- What LSPEC reads at its shape record. -/
theorem sL_shape (w : Nat) (h : w = 0 ∨ w = 3 + 2 ^ 64) : ReadsNow (sL w id) (descOf descSpec).shape 16 (.phys 0x10000 0) w (sL w id) := by
  rcases h with rfl | rfl
  · have := still (s := sL 0 id) (a := (descOf descSpec).shape) (n := 16) (l := .phys 0x10000 0) (ready_of (by decide +kernel)) rfl rfl
    rwa [(by decide +kernel : (sL 0 id).peek (sL 0 id).via (.phys 0x10000 0) 16 = 0)] at this
  · have := still (s := sL (3 + 2 ^ 64) id) (a := (descOf descSpec).shape) (n := 16) (l := .phys 0x10000 0) (ready_of (by decide +kernel)) rfl rfl
    rwa [(by decide +kernel : (sL (3 + 2 ^ 64) id).peek (sL (3 + 2 ^ 64) id).via (.phys 0x10000 0) 16 = 3 + 2 ^ 64)] at this
/-- A pool record's bytes. -/
theorem sL_pool : ReadsNow (sL 0 id) ((sL 0 id).rd 8) 64 (.sram 0x180) poolRec (sL 0 id) := by
  have := still (s := sL 0 id) (a := (sL 0 id).rd 8) (n := 64) (l := .sram 0x180) (ready_of (by decide +kernel)) rfl rfl
  rwa [(by decide +kernel : (sL 0 id).peek (sL 0 id).via (.sram 0x180) 64 = poolRec)] at this
/-- The execute stream's stores are delayed; words stand posted. -/
def sLate : State := let s := sL 0 id; { s with ct := { s.ct with lag := true } }
def sBusy : State := let s := sL 0 id; { s with ct := { s.ct with hold := true, viq := [y0] } }
/-- A speculative launch of plot 0, gangs 0 and 1 still to dispense, and the same decided. -/
def lSpec : Launch := ⟨9, 0, 0, { descOf descSpec with aspace := 1 }, Vector.replicate 10 0, some ⟨3, 0, 8, 0x10000, 2, none, [], [], []⟩, [0, 1], [], [], [], 0, 0, 0, 0, false, false, none, false, none, none⟩
def xSpec : Spec := ⟨3, 0, 8, 0x10000, 2, none, [], [], []⟩
theorem witness_LaunchWords :
    CReady (sL 0 id) ∧ (sL 0 id).plotOf 0 = some plot0 ∧ DescReady (sL 0 id) plot0 ((sL 0 id).rd 4) descPlain 1 args0 (sL 0 id) ∧ plainOk descPlain = true ∧ roomFor (sL 0 id) plot0 ∧
    -- LSPEC: the count not known, and known
    (DescReady (sL 0 id) plot0 ((sL 0 id).rd 5) descSpec 1 (Vector.replicate 10 0) (sL 0 id) ∧ specOk plot0 descSpec = true ∧
      ShapePlace (sL 0 id) (descOf descSpec).shape .load 0x10000 ∧ ReadsNow (sL 0 id) (descOf descSpec).shape 16 (.phys 0x10000 0) 0 (sL 0 id)) ∧
    (CReady (sL (3 + 2 ^ 64) id) ∧ DescReady (sL (3 + 2 ^ 64) id) plot0 ((sL (3 + 2 ^ 64) id).rd 5) descSpec 1 (Vector.replicate 10 0) (sL (3 + 2 ^ 64) id) ∧
      ShapePlace (sL (3 + 2 ^ 64) id) (descOf descSpec).shape .load 0x10000 ∧ roomFor (sL (3 + 2 ^ 64) id) plot0 ∧
      ReadsNow (sL (3 + 2 ^ 64) id) (descOf descSpec).shape 16 (.phys 0x10000 0) (3 + 2 ^ 64) (sL (3 + 2 ^ 64) id) ∧
      (3 + 2 ^ 64) / 2 ^ 64 % 2 ^ 32 = 1 ∧ (3 + 2 ^ 64) % 2 ^ 64 ≤ 2 ^ 24) ∧
    -- SHPUB
    (((sL 0 id).rd 6).toNat % 16 = 0 ∧ ((sL 0 id).rd 7).toNat ≤ 2 ^ 24 ∧ ShapePlace (sL 0 id) ((sL 0 id).rd 6) .store 0x10000 ∧ 0x10000 < mainEnd ∧
      (sL 0 id).side = some .exec ∧ (sL 0 id).pkg.shPend = [] ∧ (sL 0 id).ct.lag = false ∧ (sL 0 id).ct.sbuf = [] ∧
      (sL 0 id).lineClaimed (lineOf 0x10000) .store = false) ∧
    -- with delayed stores; behind posted words
    (CReady sLate ∧ sLate.plotOf 0 = some plot0 ∧ ShapePlace sLate (sLate.rd 6) .store 0x10000 ∧ sLate.side = some .exec ∧ sLate.pkg.shPend = [] ∧
      sLate.ct.lag = true) ∧
    (sBusy.group = none ∧ sBusy.who = .exec ∧ sBusy.ct.prov = false ∧ sBusy.ct.hold = true ∧ sBusy.ct.viq ≠ [] ∧ sBusy.ct.sbuf = [] ∧
      sBusy.pkg.shPend = [] ∧ (sBusy.rd 6).toNat % 16 = 0 ∧ (sBusy.rd 7).toNat ≤ 2 ^ 24 ∧ ShapePlace sBusy (sBusy.rd 6) .store 0x10000) ∧
    -- ALLOCR of the pool's eight pages, with frames and with none; RETRACT of the last position, of a position in use
    (((sL 0 id).rd 8).toNat % 64 = 0 ∧ ReadsNow (sL 0 id) ((sL 0 id).rd 8) 64 (.sram 0x180) poolRec (sL 0 id) ∧
      poolOk poolRec = true ∧ recBytes poolRec 16 8 = 1 ∧ 0 * 1 + 0 < recBytes poolRec 12 4 ∧ ((sL 0 id).rd 9).toNat ≠ 0 ∧
      0 + ((sL 0 id).rd 9).toNat ≤ recBytes poolRec 8 4 ∧ (sL 0 id).poolAt 0 1 (scr 0x180) 0 = none ∧
      (∃ r, (sL 0 id).mapPages 0 1 (BitVec.ofNat 64 0x500000000 + BitVec.ofNat 64 0) (leafBits true true false) none 8 = some r) ∧
      ((sL 0 id).rd 10).toNat < recBytes poolRec 12 4 ∧ (sL 0 id).poolAt 0 1 (scr 0x180) 3 = none ∧ openCopies (sL 0 id) = [] ∧
      (sL 0 id).canFlush (sL 0 id).ct (fun e => (sL 0 id).mine e || e.side == .vec) = true ∧
      ((sL 0 id).flush fun e => (sL 0 id).mine e || e.side == .vec).usersFree 0 1 = true) ∧
    (sL 0 fun p => { p with plots := [{ plot0 with rframes := 0 }] }).mapPages 0 1 (BitVec.ofNat 64 0x500000000 + BitVec.ofNat 64 0)
      (leafBits true true false) none 8 = none ∧
    (sL 0 fun p => { p with pools := [⟨0, 1, scr 0x180, 3, []⟩] }).poolAt 0 1 (scr 0x180) 3 = some ⟨0, 1, scr 0x180, 3, []⟩ ∧
    -- LSTAT: no such launch, one in progress, one decided; the decision
    (5 : BitVec 5).toNat ≤ 5 ∧ ([lSpec].filter fun j => decide (9 < j.id)).length < 4096 ∧ ((sL 0 id).pkg.launches.filter fun k => k.plot = 0 && k.spec.isSome) = [] ∧
    ((sL 0 fun p => { p with launches := [lSpec] }).pkg.launches.filter fun k => k.plot = 0 && k.spec.isSome) = [lSpec] ∧
    (let l := { lSpec with spec := some { xSpec with count := some 3 } }
     ((sL 0 fun p => { p with launches := [l] }).pkg.launches.filter fun k => k.plot = 0 && k.spec.isSome) = [l]) ∧
    ((sL 0 fun p => { p with launches := [lSpec] }).launchOf 9 = some lSpec ∧ lSpec.spec = some xSpec ∧ xSpec.count = none ∧ lSpec.fin = 0 ∧
      lSpec.closed = false ∧ ∀ g, max 1 xSpec.floor ≤ g → g < xSpec.n → g ∈ lSpec.todo) ∧
    -- a graft
    (let l := { lSpec with graft := [2] }
     let s := sL 0 fun p => { p with launches := [l], grafts := [9] }
     s.launchOf l.id = some l ∧ l.queue = 0 ∧ l.fin = 0 ∧ l.graft ≠ [] ∧ s.pkg.grafts.head? = some l.id) := by
  have place : ∀ k w, w = 0 ∨ w = 3 + 2 ^ 64 → ShapePlace (sL w id) 0x10000 k 0x10000 := by
    rintro k w (rfl | rfl) <;>
      exact ⟨by decide +kernel, by decide +kernel, by decide +kernel, 0, by decide, by cases k <;> decide +kernel⟩
  have at_ : (sL 0 id).rd 6 = 0x10000 := by decide +kernel
  refine ⟨cready_of (by decide +kernel), by decide +kernel, sL_plain, by decide +kernel, by unfold roomFor; decide +kernel,
    ⟨sL_spec 0 (.inl rfl), by decide +kernel, place _ 0 (.inl rfl), sL_shape 0 (.inl rfl)⟩,
    ⟨cready_of (by decide +kernel), sL_spec _ (.inr rfl), place _ _ (.inr rfl), by unfold roomFor; decide +kernel, sL_shape _ (.inr rfl), by decide, by decide⟩,
    ⟨by decide +kernel, by decide +kernel, at_ ▸ place _ 0 (.inl rfl), by and_intros <;> decide +kernel⟩,
    ⟨cready_of (by decide +kernel), by decide +kernel, ⟨by decide +kernel, by decide +kernel, by decide +kernel, 0, by decide, by decide +kernel⟩, by decide +kernel,
      by decide +kernel, by decide +kernel⟩,
    ⟨by decide +kernel, by decide +kernel, by decide +kernel, (by decide +kernel), nofun, by decide +kernel, by decide +kernel, by decide +kernel, by decide +kernel,
      by decide +kernel, by decide +kernel, by decide +kernel, 0, by decide, by decide +kernel⟩,
    ⟨by decide +kernel, sL_pool, by decide +kernel, by decide +kernel, by decide +kernel, (by decide +kernel), by decide +kernel,
      by decide +kernel, some_of (by decide +kernel), by and_intros <;> decide +kernel⟩, none_of (by decide +kernel), by decide +kernel, by decide, by decide +kernel,
    by decide +kernel, by decide +kernel, by decide +kernel, ⟨by decide +kernel, by decide +kernel, by decide, by decide, by decide, ?_⟩, by decide +kernel⟩
  · intro g h1 h2
    have : g = 1 := by simp only [xSpec] at h1 h2; omega
    subst this; decide

/-- The trellis of plot 0: node 2 a valid root, 3 retired, 4 of generation 7 and not valid, 5 valid and as deep as may be, 7 a valid root, 8
its child, 9 not valid and of the last generation. In scratch, images of FRSET: a root; a child of node 2; one with a reserved flag; a root
with a parent; no parent; a parent of another generation; a child of node 5; a child of node 8. -/
def node2 : Node := mkNode 0 9 0 1 0 0
def images : List Nat := [2 ^ 32 * 8, 0x200, 2 ^ 32, 2 ^ 32 * 8 + 0x200, 0, 0x207, 0x500, 0x800]
def sT : State := regs { (mems sE [(0x100080, 64, node2), (0x1000C0, 64, mkNode 0 16 0 1 0 255), (0x100100, 64, mkNode 0 0 0 1 0 7),
    (0x100140, 64, mkNode 0x200 (1 + 256 * 63) 0 1 0 0), (0x1001C0, 64, node2), (0x100200, 64, mkNode 0x700 (1 + 256) 0 1 0 0),
    (0x100240, 64, mkNode 0 0 0 1 0 254)]) with sram := (images.zipIdx).foldl (fun m x => Memory.writeN m (64 * x.2) 64 x.1) [] }
  [(4, scr 0), (6, 0x100), (7, 0x200), (8, 0x1000), (9, 0x300), (10, 0x407), (11, 0x400), (12, 0x700), (13, 0x9FE)]
/-- Images that FRSET reads. -/
theorem sT_reads : ∀ k, k < 8 → ReadsNow sT (scr (64 * k)) 64 (.sram (64 * k)) (images.getD k 0) sT := by
  intro k hk
  have h : Ready sT (scr (64 * k)) 64 .load (.sram (64 * k)) := by interval_cases k <;> exact ready_of (by decide +kernel)
  have e : sT.peek sT.via (.sram (64 * k)) 64 = images.getD k 0 := by interval_cases k <;> decide +kernel
  exact e ▸ still h rfl rfl
/-- Slots that a word may act on, and what the refusals name. -/
theorem sT_slots : SlotReady sT plot0 0x100 0 ∧ SlotReady sT plot0 0x200 node2 ∧ SlotReady sT plot0 0x700 node2 ∧
    SlotReady sT plot0 0x9FE (mkNode 0 0 0 1 0 254) ∧ (∃ n : Node, sT.coordNode plot0 3 = some n ∧ n.retired = true) ∧
    (∃ n : Node, sT.coordNode plot0 4 = some n ∧ n.retired = false ∧ n.gen ≠ 0x400 % 256) ∧
    (∃ n : Node, sT.coordNode plot0 4 = some n ∧ n.retired = false ∧ n.gen = 0x407 % 256 ∧ n.valid = false) := by
  unfold SlotReady
  exact ⟨by decide +kernel, by decide +kernel, by decide +kernel, by decide +kernel, ⟨mkNode 0 16 0 1 0 255, by decide +kernel⟩,
    ⟨mkNode 0 0 0 1 0 7, by decide +kernel⟩, ⟨mkNode 0 0 0 1 0 7, by decide +kernel⟩⟩
theorem witness_TrellisWords :
    sT.plotOf plot0.id = some plot0 ∧ 15 < 2 ^ plot0.tsz ∧ CReady sT ∧ (sT.rd 4).toNat % 64 = 0 ∧ (∀ i, sT.nodesBusy plot0 i = false) ∧
    (∀ k, k < 8 → ReadsNow sT (scr (64 * k)) 64 (.sram (64 * k)) (images.getD k 0) sT) ∧
    -- FRSET: a root, and a child of node 2; of a slot of the last generation; the images refused
    (SlotReady sT plot0 0x100 0 ∧ Node.flags (2 ^ 32 * 8) &&& 0xFFFFC0F5 = 0 ∧ Node.root (2 ^ 32 * 8) = true ∧ Node.parent (2 ^ 32 * 8) = 0 ∧
      Node.gen 0 ≠ 254 ∧ SlotReady sT plot0 0x9FE (mkNode 0 0 0 1 0 254) ∧ Node.valid (mkNode 0 0 0 1 0 254) = false ∧ Node.gen (mkNode 0 0 0 1 0 254) = 254) ∧
    (Node.flags 0x200 &&& 0xFFFFC0F5 = 0 ∧ Node.root 0x200 = false ∧ Node.parent 0x200 / 256 = 2 ∧ sT.coordNode plot0 2 = some node2 ∧ node2.valid = true ∧
      node2.gen = Node.parent 0x200 % 256 ∧ node2.depth ≠ 63 ∧ gives false (sT.reaches plot0 1 (2 ^ plot0.tsz) (Node.parent 0x200)) = true) ∧
    Node.flags (2 ^ 32) &&& 0xFFFFC0F5 ≠ 0 ∧ (Node.root (2 ^ 32 * 8 + 0x200) = true ∧ Node.parent (2 ^ 32 * 8 + 0x200) ≠ 0) ∧
    (Node.root 0 = false ∧ Node.parent 0 / 256 = 0) ∧ node2.gen ≠ Node.parent 0x207 % 256 ∧
    (∃ q : Node, sT.coordNode plot0 5 = some q ∧ q.valid = true ∧ q.gen = Node.parent 0x500 % 256 ∧ q.depth = 63) ∧
    (SlotReady sT plot0 0x700 node2 ∧ (∃ q : Node, sT.coordNode plot0 8 = some q ∧ q.valid = true ∧ q.gen = 0 ∧ q.depth = 1) ∧
      gives true (sT.reaches plot0 7 (2 ^ plot0.tsz) (Node.parent 0x800)) = true) ∧
    -- FRDEL: of node 2; of no slot; of a retired node, another generation, no valid node
    (SlotReady sT plot0 0x200 node2 ∧ ((sT.rd 0).toNat % 2 ^ 32) / 256 = 0 ∧ 2 ^ plot0.tsz ≤ ((sT.rd 8).toNat % 2 ^ 32) / 256) ∧
    (∃ n : Node, sT.coordNode plot0 3 = some n ∧ n.retired = true) ∧ (∃ n : Node, sT.coordNode plot0 4 = some n ∧ n.retired = false ∧ n.gen ≠ 0x400 % 256) ∧
    (∃ n : Node, sT.coordNode plot0 4 = some n ∧ n.retired = false ∧ n.gen = 0x407 % 256 ∧ n.valid = false) ∧
    -- FRLOOK; FRFENCE before and after the acknowledgement; a core awake and asleep
    (Ready sT (sT.rd 4) 64 .store (.sram 0) ∧ storeGoes sT false (.sram 0) 64 = true ∧ sT.coordNode plot0 2 = some node2 ∧ sT.lineClaimed (lineOf (sT.home (plot0.trellis + 64 * 2))) .load = false) ∧
    ((∀ x ∈ sT.pkg.acks, x.2.1 ≠ sT.ct.plot) ∧ CReady (pkgs sT fun p => { p with acks := [(0, 0, 2)] }) ∧
      ∃ x ∈ (pkgs sT fun p => { p with acks := [(0, 0, 2)] }).pkg.acks, x.2.1 = sT.ct.plot) ∧
    (∀ x ∈ sT.pkg.asleep, x.1 ≠ 0) ∧ (pkgs sT fun p => { p with asleep := [(0, [(0, 0)])] }).pkg.asleep.find? (fun y => y.1 = 0) = some (0, [(0, 0)]) := by
  obtain ⟨h1, h2, h7, h9, h3, h4, h4'⟩ := sT_slots
  have calm : sT.anyClaim = false := by decide +kernel
  refine ⟨by decide +kernel, by decide, cready_of (by decide +kernel), by decide +kernel, fun i => ?_, sT_reads,
    ⟨h1, by decide +kernel, by decide +kernel, by decide +kernel, by decide +kernel, h9, by decide +kernel⟩, by and_intros <;> decide +kernel, by decide +kernel,
    by decide +kernel, by decide +kernel, by decide +kernel, ⟨mkNode 0x200 (1 + 256 * 63) 0 1 0 0, by decide +kernel⟩,
    ⟨h7, ⟨mkNode 0x700 (1 + 256) 0 1 0 0, by decide +kernel⟩, by decide +kernel⟩, ⟨h2, by decide +kernel⟩, h3, h4, h4',
    ⟨ready_of (by decide +kernel), by decide +kernel, by decide +kernel, by decide +kernel⟩, ⟨nofun, cready_of (by decide +kernel), by decide +kernel⟩, nofun, by decide +kernel⟩
  unfold State.nodesBusy
  rw [calm, Bool.false_and]

theorem vdone_of {x : VStep} (h : (match x with | .done t _ => decide (t.pkg.reqs = []) | _ => false) = true) : ∃ t fl, x = .done t fl ∧ t.pkg.reqs = [] := by
  cases x with
  | done t fl => exact ⟨t, fl, rfl, of_decide_eq_true h⟩
  | stop _ _ _ => cases h
  | wait _ => cases h
/-- A fault record held, and a CT that stands stopped with it. -/
def r0 : FaultRec := ⟨0, 4, 0, false, false, 1, false, false, false, false, 0, 0, 0x10000, 0, 0, 0x50000, [0x50001]⟩
def cStop (prov : Bool) : Ct := { ct0 with status := .stopped, frec := some r0, prov := prov }
/-- A store of eight bytes to 0x10000 that the execute stream has delayed. -/
def stE : SbEnt := ⟨.exec, 1, false, none, .phys 0x10000 0, 8, none, 5⟩
/-- A copy that claims a line for its destination. -/
def yClaims (line : Nat) : Copy := ⟨1, 0, false, none, [], [], [(line, true)], [], []⟩
def w0 : WaitRec := ⟨3, none, some 100, none⟩
def sDir (d : List DirLine) : State := pkgs sE fun p => { p with dir := d }
def sMig (m : Migr) : State := pkgs sE fun p => { p with migr := [m] }
/-- A CT that does not hold its slot's vector and matrix registers, beside the CTs given. -/
def sNot (l : List Ct) : State := { (onE fun c => { c with vown := false, mown := false }) with others := l }
/-- Tables of address space 1 that map page 3. -/
def sWk : State := mems sE [(0x20008, 8, 0x50000), (0x50000, 8, 0x60001), (0x60000, 8, 0x70001), (0x70018, 8, 0x3003B)]
theorem witness_DieUnitEvents :
    sE.ct.inSlot = true ∧ sE.ct.id = 0 ∧ sE.ct.viq = [] ∧ sE.ct.owns 0 = true ∧ ((sNot []).ct.inSlot = true ∧ ∀ c ∈ (sNot []).cts, c.owns 0 = false) ∧
    -- a posted word that can run; a barrier marker
    ((onE fun c => { c with viq := [y0] }).ct.owns 0 = true ∧ (onE fun c => { c with viq := [y0] }).ct.viq = y0 :: [] ∧
      ∃ t fl, runEntry y0 { (onE fun c => { c with viq := [y0] }) with who := .exec } = .done t fl ∧ t.pkg.reqs = []) ∧
    ((let s := onE fun c => { c with viq := [{ y0 with op := .barMark 3 2 }], sbuf := [stE] }
      s.ct.viq = { y0 with op := .barMark 3 2 } :: [] ∧ s.ct.owns 0 = true ∧ (∀ y ∈ s.ct.viq, y.op.usesMatrix = true → s.ct.mown = true) ∧
        { y0 with op := .barMark 3 2 }.op = .barMark (3 : BitVec 2).toNat 2 ∧ y0.popped = [] ∧ y0.fl = {} ∧ s.pkg.reqs = [] ∧
        s.ct.bar[(3 : BitVec 2).toNat]? = some ⟨0, 0, 0, none⟩ ∧ stE.before ⟨2, 0, s.ct.sbn⟩ = true ∧ s.canFlush s.ct (SbEnt.before ⟨2, 0, s.ct.sbn⟩) = true) ∧
      (let s := onE fun c => { c with viq := [{ y0 with op := .barMark 3 2 }], sbuf := [stE], copies := [yClaims (lineOf 0x10000)] }
       s.canFlush s.ct (SbEnt.before ⟨2, 0, s.ct.sbn⟩) = false) ∧
      ∀ b, sE.ct.bar[(3 : BitVec 2).toNat]? = some b → b.pend = none) ∧
    -- a saved CT whose head a fault has stopped, or whose matrix state has left the core
    (let c : Ct := { ct0 with status := .saved, viq := [y0] }
     ({ sE with ct := { c with frec := some r0 } } : State).ct.owns 0 = true ∧ ({ c with frec := some r0 } : Ct).frec.isSome = true ∧
       y0.op.usesMatrix = true ∧ ({ sE with ct := { c with mown := false } } : State).ct.owns 0 = true ∧ ({ c with mown := false } : Ct).mown = false) ∧
    -- the vector and matrix state: its own; not its own, no other CT's; another CT's, which has been saved
    (sE.ct.vown = true ∧ sE.ct.mown = true ∧ (sNot [{ ct0 with id := 1, mown := false }]).ct.vown = false ∧ (sNot []).ct.mown = false ∧
      (∀ c ∈ (sNot [{ ct0 with id := 1, mown := false }]).others, c.vown = true → c.id ≠ 0) ∧ (∀ c ∈ (sNot []).others, c.mown = true → coreOf c.id ≠ coreOf 0) ∧
      (let o := { ct0 with status := .saved, ctx := 1 }
       (sNot [o]).others.filter (fun c => c.vown && c.id = 0 && c.status != .ended) = [o] ∧
         (sNot [o]).others.filter (fun c => c.mown && coreOf c.id = coreOf 0 && c.status != .ended) = [o])) ∧
    -- walks: of a page that the slice holds, of one that the tables do not map, of one that they map
    ((sE.tlbAt 0 0 1 (va55 0x10000)).isSome = true ∧ canonical 0x30000 = true ∧ va55 0x30000 < clusterBase ∧
      (sWk.coreCfg 0).lg ≠ 0 ∧ sWk.tlbAt 0 0 1 (va55 0x30000) = none ∧ sWk.walkFor 0 1 (va55 0x30000) = .ok 0x3003B) ∧
    (let s := pkgs sWk fun p => { p with poison := [(lineOf 0x60000, 0)] }
     s.walkFor 0 1 (va55 0x30000) = .error 4 ∧ (s.walkOf 0 1 (va55 0x30000)).find? s.badLine = some (lineOf 0x60000) ∧ s.tlbAt 0 0 1 (va55 0x30000) = none) ∧
    (∃ c, sWk.walkFor 0 1 (va55 0x50000) = .error c ∧ c ≠ 4) ∧
    -- fault records: room, no room, a provisional CT
    ((∃ c, ({ sE with ct := cStop false } : State).cts.find? (fun c => c.id = 0 && c.status != .ended && c.frec.isSome && !c.posted) = some c ∧ c.frec = some r0 ∧
        c.prov = false ∧ sE.plotOf c.plot = some plot0) ∧
      (∃ c, ({ sE with ct := cStop true } : State).cts.find? (fun c => c.id = 0 && c.status != .ended && c.frec.isSome && !c.posted) = some c ∧ c.frec = some r0 ∧ c.prov = true) ∧
      ({ sE with ct := cStop false } : State).settled (cStop false) = true ∧
      (let c := { cStop false with sbuf := [stE], copies := [yClaims (lineOf 0x10000)] }
       ({ sE with ct := c } : State).settled c = false) ∧ sE.lineClaimed (lineOf 0) .store = false ∧
      sE.lineClaimed (lineOf 0x40000) .store = false ∧ ({ sE with ct := cStop false } : State).supSlot plot0 = some (0, 0x40000) ∧ (mems { sE with ct := cStop false } [(0x40010, 8, 1)]).supSlot plot0 = none) ∧
    -- deadlines
    (w0.deadline = some 100 ∧ w0.cause = none ∧ (onE fun c => { c with ex := { c.ex with wait := some w0 } }).ct.ex.wait = some w0 ∧
      (onE fun c => { c with ac := { c.ac with wait := some w0 } }).ct.ac.wait = some w0) ∧
    -- the directory: no copies, sharers, another owner, the owner itself
    ((319 : Nat) < 320 ∧ ((sDir []).dirLine 5).owner = none ∧ ((sDir []).dirLine 5).sharers = [] ∧ ((sDir [⟨5, none, [7]⟩]).dirLine 5).owner = none ∧
      ((sDir [⟨5, none, [7]⟩]).dirLine 5).sharers ≠ [] ∧ ((sDir [⟨5, some (7, 0), []⟩]).dirLine 5).owner = some (7, 0) ∧ (7 : Nat) ≠ 319 ∧ (0 : Nat) ≠ 1) ∧
    -- migration: nothing to do, the first line, the last one
    ((∀ m ∈ (sMig ⟨0, 0x200000, 0x280000, 512, none⟩).pkg.migr, 512 ≤ m.lines) ∧ (sMig ⟨0, 0x200000, 0x280000, 0, some 0⟩).memOk ∧
      (sMig ⟨0, 0x200000, 0x280000, 511, some 0⟩).pkg.migr = ⟨0, 0x200000, 0x280000, 511, some 0⟩ :: [] ∧ 0x200000 / 128 + 0 ≠ 0x280000 / 128 + 0) ∧
    -- ECC and the registers
    ((2 : BitVec 2) ≠ 3 ∧ sE.badLine 5 = false ∧ (pkgs sE fun p => { p with poison := [(5, 0)] }).badLine 5 = true ∧ sE.inStack (128 * 5) = true ∧ (255 : Nat) < 256 ∧
      (0x13FF8 : Nat) % 8 = 0 ∧ 0x10000 ≤ 0x10000 ∧ 0x13FF8 < 0x14000 ∧ 31 < 32 ∧ 63 < 64) :=
  ⟨by decide +kernel, by decide +kernel, by decide +kernel, by decide +kernel, by decide +kernel, ⟨by decide +kernel, by decide +kernel, vdone_of (by decide +kernel)⟩,
    ⟨by and_intros <;> decide +kernel, by decide +kernel, fun b h => by
      rw [show sE.ct.bar[(3 : BitVec 2).toNat]? = some ⟨0, 0, 0, none⟩ by decide +kernel] at h
      cases h; rfl⟩, by and_intros <;> decide +kernel,
    ⟨by decide +kernel, by decide +kernel, by decide +kernel, by decide +kernel, by decide +kernel, by decide +kernel, by decide +kernel⟩,
    ⟨by decide +kernel, by decide +kernel, by decide +kernel, by decide +kernel, by decide +kernel, ok_of (by decide +kernel)⟩, by decide +kernel,
    ⟨1, by decide +kernel⟩,
    ⟨⟨_, rfl, rfl, rfl, rfl⟩, ⟨_, rfl, rfl, rfl⟩, by and_intros <;> decide +kernel⟩, by decide +kernel, by decide +kernel,
    ⟨by decide +kernel, by unfold State.memOk; decide +kernel, by decide +kernel⟩, by and_intros <;> decide +kernel⟩

def descTwo : Nat := 1 + 2 ^ 32 + 2 ^ 64 * 2 + 2 ^ 128 * 0x10000 + 2 ^ (8 * 0x30) * 2 + 2 ^ (8 * 0x32) * 2
/-- A plain launch of two gangs of two CTs, the same complete, and the launch of a gang of eight. -/
def lPlain : Launch := {
  id := 1, plot := 0, queue := 0, d := { descOf descTwo with aspace := 1 }, args := Vector.replicate 10 0, spec := none, todo := [0, 1], graft := [],
  halted := [], unrec := [], tile := 3, age := 0, last := 0, fin := 0, indet := false, aband := false, counted := none, closed := false, die := none, run := none }
def lDone (a : Word) : Launch := { lPlain with todo := [], d := { lPlain.d with done := a } }
def lEight : Launch := { lPlain with d := { lPlain.d with gsize := 8 }, todo := [0] }
def lCommit : Launch := { lPlain with id := 9, spec := some ⟨3, 0, 8, 0x10000, 2, some 2, [0, 1], [], []⟩ }
def sLs (l : List Launch) (f : Ct → Ct) : State := pkgs (onE f) fun p => { p with launches := l }
def sCopies (y : List Copy) : State := onE fun c => { c with copies := y }
theorem ok_some {ε α : Type} {x : Except ε α} (h : (match x with | .ok _ => true | .error _ => false) = true) : ∃ m, x = .ok m := by
  cases x with
  | ok m => exact ⟨m, rfl⟩
  | error _ => cases h
/-- A package that has booted, firmware core 0 its leader, with launches; the plot's gangs went to die 2 last. -/
def led (s : State) : State := pkgs s fun p => { p with boot := { p.boot with booted := true }, fw := p.fw.set 0 ⟨false, true, 0x10000000⟩, lastDie := [(0, 2)] }
/-- The lines that gang 1 of launch 9 holds, and a copy that claims one of them. -/
def sGc (y : List Copy) : State := pkgs (sLs [lCommit] fun c => { c with copies := y }) fun p => { p with prov := [⟨9, 1, 0, [(0x10000, 7)]⟩] }
/-- A CT with a query open. -/
def sWq : State := { (sLs [lPlain] fun c => { c with wdq := [scr 8] }) with others := [{ ct0 with id := 1, wdq := [scr 8] }] }
/-- A publication of 9 in watermark slot 3, behind the CT's delayed stores. -/
def pub3 : Pub := ⟨3, 9, ct0.key, ⟨2, 0, 0⟩⟩
theorem witness_LaunchEvents :
    -- a copy with no piece left, and one with a piece that a fault holds
    ((∃ c, (sCopies [yOpen]).ofKey (0 * 2 ^ 32 + 0) = some c ∧ c.copies.find? (fun y => y.ticket = 1) = some yOpen) ∧ yOpen.done = false ∧ yOpen.err = none ∧
      yOpen.todo = [] ∧ yOpen.held = [] ∧ (let y := { yOpen with held := [(0, .put 0x10000 8 0)] }
        (∃ c, (sCopies [y]).ofKey (0 * 2 ^ 32 + 0) = some c ∧ c.copies.find? (fun z => z.ticket = 1) = some y) ∧ y.todo = [] ∧ y.held ≠ [])) ∧
    -- a query, its answer address in scratch, and the last tile taken; two queries
    (sWq.ct.wdq = scr 8 :: [] ∧ sWq.launchOf 1 = some lPlain ∧ sWq.answerHeld 0 = false ∧ sWq.answerHeld 1 = false ∧ (0 : BitVec 10).toNat < (1 : BitVec 10).toNat ∧
      lPlain.tile < lPlain.d.gx * lPlain.d.gy ∧ ¬ lPlain.tile + 1 < lPlain.d.gx * lPlain.d.gy ∧
      ∃ m, (({ (sLs [lPlain] fun c => { c with wdq := [] }) with others := (sWq.onCt 0 fun c => { c with wdq := [] }).others } : State).setLaunch
        { lPlain with tile := 4 }).resolve ct0.via (scr 8) 8 .store = .ok m) ∧
    -- a publication
    (sE.pkg.wmPend.find? (fun p => p.slot = 3) = none ∧ 
      (let s := pkgs (onE fun c => { c with sbuf := [stE] }) fun p => { p with wmPend := [pub3] }
       s.pkg.wmPend.find? (fun p => p.slot = 3) = some pub3 ∧ s.ofKey pub3.key = some s.ct ∧ stE.before pub3.upto = true ∧
         s.canFlush s.ct (SbEnt.before pub3.upto) = true) ∧
      (let s := onE fun c => { c with sbuf := [stE], copies := [yClaims (lineOf 0x10000)] }
       s.ofKey pub3.key = some s.ct ∧ s.canFlush s.ct (SbEnt.before pub3.upto) = false) ∧ sE.ofKey 9 = none) ∧
    -- a commit: free, and held back by a copy
    ((sGc []).launchOf 9 = some lCommit ∧ (∃ x, lCommit.spec = some x ∧ x.toCommit.contains 1 = true) ∧ (∀ c ∈ (sGc []).linesOf 9 1, c.1 < mainEnd) ∧
      (∀ c ∈ (sGc []).linesOf 9 1, (sGc []).lineClaimed (lineOf c.1) .store = false) ∧
      ∃ c ∈ (sGc [yClaims (lineOf 0x10000)]).linesOf 9 1, (sGc [yClaims (lineOf 0x10000)]).lineClaimed (lineOf c.1) .store = true) ∧
    -- age
    (lPlain.fin = 0 ∧ lPlain.todo ≠ [] ∧ min 3 (lPlain.d.cls + lPlain.age) < 3 ∧ 10000000 ≤ ((10000000 : Word) - lPlain.last).toNat ∧ ((9999999 : Word) - lPlain.last).toNat < 10000000) ∧
    -- the end of a launch: not yet; without a record; with one, its line free or claimed; with one that no store reaches
    (lPlain.run = none ∧ (sLs [lPlain] id).ready lPlain = false ∧ (sLs [lDone 0] fun c => { c with status := .ended }).ready (lDone 0) = true ∧ (lDone 0).d.done = 0 ∧
      (sLs [lDone 0x10000] fun c => { c with status := .ended }).ready (lDone 0x10000) = true ∧ canonical 0x10000 = true ∧ va55 0x10000 + 16 ≤ clusterBase ∧
      (sLs [lDone 0x10000] fun c => { c with status := .ended }).resolve (lDone 0x10000).via 0x10000 16 .store = .error 1 ∧ (sLs [lPlain] id).pkg.runs = []) ∧
    (let s := { (sLs [lDone 0x30000] fun c => { c with status := .ended }) with mem := sWk.mem }
     s.ready (lDone 0x30000) = true ∧ s.resolve (lDone 0x30000).via 0x30000 16 .store = .ok (.phys 0x30000 0) ∧ (0x30000 : Nat) < mainEnd ∧
       s.lineClaimed (lineOf 0x30000) .store = false ∧ canonical 0x30000 = true ∧ va55 0x30000 + 16 ≤ clusterBase) ∧
    (({ (sLs [lDone 0x30000] fun c => { c with status := .ended, copies := [yClaims (lineOf 0x30000)] }) with mem := sWk.mem } : State).lineClaimed
      (lineOf 0x30000) .store = true) ∧
    (let l := { lDone (2 ^ 63) with die := some 1 }
     (sLs [l] fun c => { c with status := .ended }).ready l = true ∧ l.d.done ≠ 0 ∧ canonical l.d.done = false ∧ l.die = some 1) ∧
    (sE.led = false ∧ lPlain.toUnpark = none) ∧
    -- a gang of eight in the last cluster of the plot, from core 5 on
    (let s := led (sLs [lEight] id)
     s.launchOf 1 = some lEight ∧ lEight.fin = 0 ∧ lEight.spec = none ∧ lEight.d.resident = false ∧ lEight.graft = [] ∧ lEight.todo = 0 :: [] ∧ s.led = true ∧
       s.serves (31 / 8) = true ∧ s.isHead lEight = true ∧ s.outranked lEight = false ∧ s.outturned lEight = false ∧ s.dieTurn lEight (31 / 8) = true ∧
       s.pkg.runs = [] ∧ s.plotOf 0 = some plot0 ∧ plot0.clusters.getLsbD 31 = true ∧ lEight.d.gsize ≤ plot0.ctxCount - plot0.areas.length ∧ lEight.d.gsize ≤ 8 ∧
       ∀ r, r < lEight.d.gsize → (s.coreCfg (31 * 8 + (5 + r) % 8)).lg ≠ 0 ∧ s.slotKept (ctidOf (31 * 8 + (5 + r) % 8) 1) none = false ∧
         lEight.d.scratch * 131072 ≤ s.ssOf (31 * 8 + (5 + r) % 8) 1) :=
  ⟨⟨some_and (by decide +kernel), by decide, by decide, by decide, by decide, some_and (by decide +kernel), by decide, by decide⟩,
    ⟨by decide +kernel, by decide +kernel, by decide +kernel, by decide +kernel, by decide, by decide +kernel, by decide +kernel, ok_some (by decide +kernel)⟩,
    by decide +kernel, ⟨by decide +kernel, ⟨_, rfl, by decide⟩, by decide +kernel⟩, by decide +kernel, by and_intros <;> decide +kernel,
    by and_intros <;> decide +kernel, by decide +kernel, by and_intros <;> decide +kernel, by decide +kernel, by and_intros <;> decide +kernel⟩

/-- The coordinator's next entry: code, plot, the bytes from 8 on. -/
def withCmd (s : State) (code plot args : Nat) : State := mems s [(ringAt 0, 64, code + 2 ^ 8 * plot + 2 ^ 64 * args)]
def sC (code args : Nat) : State := withCmd sE code 0 args
theorem cmd_of {s : State} {code from_ : Nat} (h : s.migrating = false ∧ s.cmdBytes 0 1 = code ∧ s.cmdBytes from_ (64 - from_) = 0) : Cmd s code from_ :=
  ⟨h.1, h.2.1, h.2.2⟩
theorem plotCmd_of {s : State} {code from_ : Nat} {p : Plot}
    (h : (s.migrating = false ∧ s.cmdBytes 0 1 = code ∧ s.cmdBytes from_ (64 - from_) = 0) ∧ s.plotOf (s.cmdBytes 1 1) = some p) : PlotCmd s code from_ p :=
  ⟨cmd_of h.1, h.2⟩
theorem witness_CoordinatorProtocol :
    (sC 0 0).migrating = false ∧ (sC 0 0).cmdBytes 0 1 = 0 ∧ 0x10 < (sC 0x11 0).cmdBytes 0 1 ∧ (sC 0x11 0).migrating = false ∧
    commandOf .addrwin = some (0x10, 24) ∧ (sC 0 0).cmdBytes 0 1 ≠ 0x10 ∧ (pkgs sE fun p => { p with migr := [⟨0, 0x200000, 0x280000, 0, some 0⟩] }).migrating = true ∧
    ((sC 0x10 (2 ^ 128)).cmdBytes 0 1 = 0x10 ∧ (sC 0x10 (2 ^ 128)).cmdBytes 24 (64 - 24) ≠ 0) ∧
    (Cmd (withCmd sE 0x10 1 0) 0x10 24 ∧ (withCmd sE 0x10 1 0).plotOf ((withCmd sE 0x10 1 0).cmdBytes 1 1) = none) ∧
    -- nothing holds a command back; an access under the old entries is under way
    (Unheld (sC 0 0) .addrwin ∧ (pkgs (sC 7 (2 ^ 128)) fun p => { p with reqs := [⟨0, 2 ^ 47, 8, .read, none⟩] }).oldAccess 0 1 = true ∧
      (sC 7 (2 ^ 128)).cmdBytes 1 1 = 0 ∧ (sC 7 (2 ^ 128)).arg 2 = 1) :=
  ⟨by decide +kernel, by decide +kernel, by decide +kernel, by decide +kernel, (by decide +kernel), by decide +kernel, by decide +kernel, by decide +kernel,
    ⟨cmd_of (by decide +kernel), by decide +kernel⟩, trivial, by decide +kernel⟩

/-- A plot record with one resource of each kind, at 0x200000. -/
def pRec : Nat := 1 + 2 ^ 32 + 2 ^ 64 + 2 ^ 128 + 2 ^ (8 * 0x1A) * 4 + 2 ^ (8 * 0x1E) * 4 + 2 ^ (8 * 0x20) * 0x100000 + 2 ^ (8 * 0x28) * 4 + 2 ^ (8 * 0x30) * 0x300000 +
  2 ^ (8 * 0x38) * 16 + 2 ^ (8 * 0x40) * 0x40000 + 2 ^ (8 * 0x48) * 0x20000 + 2 ^ (8 * 0x50) * 0x1000000 + 2 ^ (8 * 0x58) * 8
/-- PLOT_MAKE of plot id from the record, beside the given plots. -/
def sMake (id : Nat) (ps : List Plot) : State := mems (pkgs (withCmd sE 1 id 0x200000) fun p => { p with plots := ps }) [(0x200000, 128, pRec)]
/-- A stopped CT whose record has been posted; its context area's saved pc is 0x10000. -/
def cRes : Ct := { ct0 with status := .stopped, frec := some r1, posted := true, launch := 2 }
where r1 : FaultRec := ⟨0, 4, 0, false, false, 0, false, false, false, false, 0, 0, 0x10000, 0, 0, 0, []⟩
def sRes : State := mems { (sC 4 (2 ^ 64 * (2 ^ 64 - 1))) with ct := cRes } [(0x1000000, 8, 0x10000)]
def cEnd : Ct := { ct0 with status := .ended }
def lOne : Launch := { lPlain with d := { descOf (1 + 2 ^ 32 + 2 ^ 64 * 2) with aspace := 1 }, todo := [1], tile := 0 }
def withL (s : State) (l : Launch) : State := pkgs s fun p => { p with launches := [l] }
def withY (s : State) (y : Copy) : State := { s with ct := { s.ct with copies := [y] } }
theorem witness_PlotAndThreadCommands :
    -- PLOT_MAKE: made already; sharing; made
    (Cmd (sMake 7 []) 1 16 ∧ (sMake 7 []).paBusy ((sMake 7 []).arg 0) .load = false ∧ (sMake 7 []).cmdBytes 1 1 ≤ 7 ∧ (sMake 7 []).ownPa ((sMake 7 []).arg 0) = 0x200000 ∧
      (sMake 7 []).inStack 0x200000 = true ∧ (sMake 7 []).poisoned ((sMake 7 []).home 0x200000) = false ∧ pRec = (sMake 7 []).mem.readN ((sMake 7 []).home 0x200000) 128 ∧ recordOk pRec = true ∧
      (sMake 7 []).plotOf 7 = none ∧ (sMake 7 []).present (plotOfRecord (sMake 7 []).ownPa 7 pRec 0) = true ∧ (sMake 7 []).rangesIn (plotOfRecord (sMake 7 []).ownPa 7 pRec 0) = true) ∧
    (Cmd (sMake 0 [plot0]) 1 16 ∧ (sMake 0 [plot0]).plotOf 0 ≠ none) ∧
    (Cmd (sMake 7 [plot0]) 1 16 ∧ (sMake 7 [plot0]).plotOf 7 = none ∧ plot0.shares (plotOfRecord (sMake 7 []).ownPa 7 pRec 0) = true) ∧
    -- PLOT_FREE: a CT runs; none
    (PlotCmd (sC 2 0) 2 8 plot0 ∧ ct0.plot = plot0.id ∧ ct0.status ≠ .ended ∧ (sC 2 0).pkg.launches = [] ∧ (∀ c ∈ ({ (sC 2 0) with ct := cEnd } : State).cts, c.status = .ended)) ∧
    -- CORECFG of the last core: all of its scratch to slot 0
    (PlotCmd (sC 3 (255 + 2 ^ 64 * 0x200000 + 2 ^ 128 * 0x200000)) 3 32 plot0 ∧ (let s := sC 3 (255 + 2 ^ 64 * 0x200000 + 2 ^ 128 * 0x200000)
      s.arg 0 < 256 ∧ s.arg 1 % 0x40000 = 0 ∧ s.arg 1 ≤ 0x200000 ∧ s.arg 2 % 0x20000 = 0 ∧ s.arg 2 ≤ s.arg 1 ∧ plot0.clusters.getLsbD (s.arg 0 / 8) = true ∧
      (s.coreCfg (s.arg 0)).lg ≠ 0 ∧ coreOf ct0.id ≠ s.arg 0)) ∧
    -- RESUME
    (PlotCmd sRes 4 24 plot0 ∧ sRes.arg 1 = 2 ^ 64 - 1 ∧ sRes.arg 0 = 0 ∧ sRes.cts.find? (fun c => c.plot = plot0.id && c.ctx = 0 && c.status != .ended) = some cRes ∧
      cRes.status = .stopped ∧ sRes.mayResume cRes = true ∧ cRes.size ≤ 1 ∧ (sRes.coreCfg 0).lg = cRes.lg ∧ cRes.lg ≠ 0 ∧ cRes.scratch ≤ sRes.ssOf 0 0 ∧ plot0.clusters.getLsbD (clusterOf cRes.id) = true ∧
      sRes.slotKept cRes.id (some (cRes.launch, cRes.gang)) = false) ∧
    -- a member of a gang of two that is to leave its cluster
    (let c := { cRes with size := 2 }
     let s : State := { (sC 4 (2 ^ 64 * 8)) with ct := c }
     PlotCmd s 4 24 plot0 ∧ s.arg 1 = 8 ∧ plot0.clusters.getLsbD (8 / 8) = true ∧
       s.cts.find? (fun c => c.plot = plot0.id && c.ctx = 0 && c.status != .ended) = some c ∧ s.mayResume c = true ∧ 1 < c.size ∧ clusterOf c.id ≠ 8 / 8) ∧
    -- PREEMPT: of the CT, of no CT
    (PlotCmd (sC 5 0) 5 16 plot0 ∧ Unheld (sC 5 0) .preempt ∧ plot0.clusters.getLsbD (0 / 32) = true ∧ (sC 5 0).arg 0 < 1024 ∧ (sC 5 0).ctOf 0 = some ct0 ∧ PlotCmd (sC 5 1023) 5 16 plot0 ∧ (sC 5 1023).arg 0 < 1024 ∧
      plot0.clusters.getLsbD (1023 / 32) = true ∧ (sC 5 1023).ctOf (BitVec.ofNat 10 1023) = none) ∧
    -- ABANDON: complete; all of it; its last gang
    (PlotCmd (withL (sC 6 1) lOne) 6 24 plot0 ∧ (withL (sC 6 1) lOne).launchOf ((withL (sC 6 1) lOne).arg 0) = some lOne ∧ lOne.plot = plot0.id ∧ lOne.fin = 0 ∧
      (withL (sC 6 1) lOne).arg 1 = 0 ∧ (∀ c ∈ [cEnd], c.status = .ended) ∧ (withL (sC 6 1) lOne).pkg.prov = [] ∧ lOne.d.done = 0 ∧ lOne.run = none ∧
      { lOne with fin := 1 }.fin ≠ 0 ∧ PlotCmd (withL (sC 6 (1 + 2 ^ 64 * 2)) lOne) 6 24 plot0 ∧ (withL (sC 6 (1 + 2 ^ 64 * 2)) lOne).arg 1 = 1 + 1 ∧
      1 < max lOne.count lOne.d.floor ∧ lOne.halted.contains 1 = false) ∧
    -- CANCEL: a copy that no fault holds, one that a fault holds
    (PlotCmd (withY (sC 0xA (2 ^ 64)) yOpen) 0xA 24 plot0 ∧ (withY (sC 0xA (2 ^ 64)) yOpen).arg 1 = 1 ∧ plot0.clusters.getLsbD (0 / 32) = true ∧
      (∃ c, (withY (sC 0xA (2 ^ 64)) yOpen).ctOf 0 = some c ∧ c.copies.find? (fun y => y.ticket = 1) = some yOpen) ∧ yOpen.err = none ∧
      (∃ c, (withY (sC 0xA (2 ^ 64)) yBad).ctOf 0 = some c ∧ c.copies.find? (fun y => y.ticket = 1) = some yBad) ∧ yBad.err ≠ none ∧
      (sC 0xA 0).pkg.reqs = []) := by
  refine ⟨⟨cmd_of (by decide +kernel), by and_intros <;> decide +kernel⟩, ⟨cmd_of (by decide +kernel), by decide +kernel⟩, ⟨cmd_of (by decide +kernel), by decide +kernel⟩,
    ⟨plotCmd_of (by decide +kernel), by decide +kernel⟩, ⟨plotCmd_of (by decide +kernel), by decide +kernel⟩,
    ⟨plotCmd_of (by decide +kernel), by and_intros <;> decide +kernel⟩, ⟨plotCmd_of (by decide +kernel), by and_intros <;> decide +kernel⟩,
    ⟨plotCmd_of (by decide +kernel), fun c h => by
      rw [show (sC 5 0).ctOf (BitVec.ofNat 10 ((sC 5 0).arg 0)) = some ct0 by decide +kernel] at h
      cases h; decide +kernel, by decide +kernel, by decide +kernel, by decide +kernel, plotCmd_of (by decide +kernel), by decide +kernel⟩,
    ⟨plotCmd_of (by decide +kernel), by decide +kernel, by decide +kernel, by decide +kernel, by decide +kernel, (by decide +kernel), by decide +kernel, by decide +kernel,
      by decide +kernel, by decide +kernel, plotCmd_of (by decide +kernel), by decide +kernel⟩,
    ⟨plotCmd_of (by decide +kernel), by decide +kernel, by decide +kernel, some_and (by decide +kernel), by decide +kernel, some_and (by decide +kernel), by decide +kernel⟩⟩

/-- A queue descriptor at 0x200040: ring at 0x50000, plot 0, address space 1, version 1, every opcode, ranges 0 to 7. -/
def qDesc : Nat := 0x50000 + 2 ^ 64 * 2 + 2 ^ (8 * 0x0E) + 2 ^ (8 * 0x10) * 0x7E + 2 ^ (8 * 0x14) + 2 ^ (8 * 0x24)
theorem witness_MemoryAndTableCommands :
    -- INVAL of every address space's last number, the whole canonical range below the sign
    (let s := sC 7 (2 ^ 64 * 0x3FFFFFFFFFFFFF + 2 ^ 128 * 255)
     PlotCmd s 7 32 plot0 ∧ canonical (BitVec.ofNat 64 (s.arg 0)) = true ∧ canonical (BitVec.ofNat 64 (s.arg 1)) = true ∧
       va55 (BitVec.ofNat 64 (s.arg 0)) ≤ va55 (BitVec.ofNat 64 (s.arg 1)) ∧ 1 ≤ s.arg 2 ∧ s.arg 2 ≤ 255 ∧ s.pkg.migr = [] ∧
       s.oldAccess 0 255 = false ∧ (∀ c ∈ s.cts, c.copies = [] ∧ c.sbuf = []) ∧ s.others = [] ∧ s.pkg.reqs = []) ∧
    -- MIGRATE within main memory, and out of it
    (let s := sC 8 (0x200000 + 2 ^ 64 * 0x210000)
     PlotCmd s 8 24 plot0 ∧ s.ownPa (s.arg 0) = 0x200000 ∧ s.ownPa (s.arg 1) = 0x210000 ∧ s.inUnits plot0.memory 0x200000 0x10000 = true ∧
       s.inUnits plot0.memory 0x210000 0x10000 = true ∧ s.pkg.migr = []) ∧
    (let s := sC 8 (0x200000 + 2 ^ 64 * 0xC000000000)
     PlotCmd s 8 24 plot0 ∧ s.ownPa (s.arg 1) = 0xC000000000 ∧ s.inUnits plot0.memory 0xC000000000 0x10000 = false) ∧
    -- SWEEP of the last node, retired or not; of no node
    (let s := mems (sC 9 15) [(0x100000 + 64 * 15, 64, mkNode 0 16 0 1 0 255)]
     PlotCmd s 9 16 plot0 ∧ s.arg 0 ≠ 0 ∧ s.arg 0 < 2 ^ plot0.tsz ∧ s.coordNode plot0 15 = some (mkNode 0 16 0 1 0 255) ∧ Node.retired (mkNode 0 16 0 1 0 255) = true ∧
       (sC 9 15).coordNode plot0 15 = some 0 ∧ Node.retired 0 = false ∧ s.slotBusy = false ∧ (sC 9 15).slotBusy = false ∧ PlotCmd (sC 9 15) 9 16 plot0) ∧
    (PlotCmd (sC 9 16) 9 16 plot0 ∧ 2 ^ plot0.tsz ≤ (sC 9 16).arg 0 ∧ PlotCmd (sC 9 0) 9 16 plot0 ∧ (sC 9 0).arg 0 = 0 ∧ (sC 9 16).slotBusy = false) ∧
    (let s := sC 0xE (15 + 2 ^ 64 * 0x200080)
     PlotCmd s 0xE 24 plot0 ∧ s.slotBusy = false ∧ s.paBusy (s.arg 1) .load = false ∧ s.ownPa (s.arg 1) = 0x200080 ∧ s.arg 0 / 2 * 2 + 1 < 2 ^ plot0.tsz ∧
       s.inUnits plot0.memory 0x200080 128 = true ∧ s.poisoned (s.home 0x200080) = false ∧ s.plotOf plot0.id = some plot0) ∧
    -- QUEUE: stopped; announced
    (Cmd (sC 0xB 63) 0xB 32 ∧ (sC 0xB 63).arg 0 ≤ 63 ∧ (sC 0xB 63).ownPa ((sC 0xB 63).arg 1) = 0 ∧ (sC 0xB 63).paBusy ((sC 0xB 63).arg 1) .load = false) ∧
    (let s := mems (sC 0xB (63 + 2 ^ 64 * 0x200040)) [(0x200040, 64, qDesc)]
     Cmd s 0xB 32 ∧ s.arg 0 ≤ 63 ∧ s.paBusy (s.arg 1) .load = false ∧ s.ownPa (s.arg 1) = 0x200040 ∧ s.inStack 0x200040 = true ∧ s.poisoned (s.home 0x200040) = false ∧
       qDesc = s.mem.readN (s.home 0x200040) 64 ∧ queueOk qDesc = true ∧ s.plotOf (queueOf (s.arg 0) qDesc (s.arg 2)).plot ≠ none) ∧
    -- GRANT, HOSTWIN, ADDRWIN: an entry removed, an entry written with its last numbers
    (PlotCmd (sC 0xD 63) 0xD 24 plot0 ∧ (sC 0xD 63).cmdBytes 8 1 ≤ 63 ∧ (sC 0xD 63).cmdBytes 0xB 1 = 0) ∧
    (let s := sC 0xD (63 + 2 ^ 8 * 31 + 2 ^ 16 * 7 + 2 ^ 24 * 3 + 2 ^ 32 * 16 + 2 ^ 64 * 0x200000)
     PlotCmd s 0xD 24 plot0 ∧ s.cmdBytes 8 1 = 63 ∧ s.cmdBytes 0xB 1 = 3 ∧ s.cmdBytes 9 1 = 31 ∧ s.cmdBytes 0xA 1 = 7 ∧ s.cmdBytes 0x10 8 % 0x10000 = 0 ∧
       s.cmdBytes 0xC 4 = 16 ∧ s.cmdBytes 0x10 8 < 2 ^ 47 ∧ s.inUnits plot0.memory (s.cmdBytes 0x10 8) (s.cmdBytes 0xC 4 * 0x10000) = true) ∧
    (PlotCmd (sC 0xF 15) 0xF 32 plot0 ∧ (sC 0xF 15).cmdBytes 8 1 = 15 ∧ (sC 0xF 15).cmdBytes 0xA 2 = 0 ∧ (sC 0xF 15).cmdBytes 9 1 = 0) ∧
    (let s := sC 0xF (15 + 2 ^ 8 * 3 + 2 ^ 32 * 16 + 2 ^ 64 * (64 * 2 ^ 30 - 0x100000) + 2 ^ 128 * 0x200000)
     PlotCmd s 0xF 32 plot0 ∧ s.cmdBytes 9 1 = 3 ∧ s.cmdBytes 0x10 8 % 0x10000 = 0 ∧ s.cmdBytes 0xC 4 = 16 ∧ s.ownPa (s.cmdBytes 0x18 8) = 0x200000 ∧
       s.cmdBytes 0x10 8 + s.cmdBytes 0xC 4 * 0x10000 ≤ 64 * 2 ^ 30 ∧ s.pkg.hostWins = [] ∧ s.inUnits plot0.memory 0x200000 (s.cmdBytes 0xC 4 * 0x10000) = true) ∧
    (PlotCmd (sC 0x10 63) 0x10 24 plot0 ∧ (sC 0x10 63).cmdBytes 8 1 ≤ 63 ∧ (sC 0x10 63).cmdBytes 9 1 = 0) ∧
    (let s := sC 0x10 (63 + 2 ^ 8 * 3 + 2 ^ 16 * 255 + 2 ^ 32 + 2 ^ 64 * 0x10000)
     PlotCmd s 0x10 24 plot0 ∧ s.cmdBytes 9 1 = 3 ∧ s.cmdBytes 0xA 2 = 255 ∧ s.cmdBytes 0x10 8 % 0x10000 = 0 ∧ s.cmdBytes 0xC 4 = 1) := by
  refine ⟨⟨plotCmd_of (by decide +kernel), by decide +kernel⟩, ⟨plotCmd_of (by decide +kernel), by decide +kernel⟩, ⟨plotCmd_of (by decide +kernel), by decide +kernel⟩,
    ⟨plotCmd_of (by decide +kernel), by decide +kernel, by decide +kernel, by decide +kernel, by decide +kernel, (by decide +kernel), by decide +kernel, by decide +kernel, by decide +kernel, plotCmd_of (by decide +kernel)⟩,
    ⟨plotCmd_of (by decide +kernel), by decide +kernel, plotCmd_of (by decide +kernel), by decide +kernel⟩, ⟨plotCmd_of (by decide +kernel), by decide +kernel⟩,
    ⟨cmd_of (by decide +kernel), by decide +kernel⟩, ⟨cmd_of (by decide +kernel), by decide +kernel⟩, ⟨plotCmd_of (by decide +kernel), by decide +kernel⟩,
    ⟨plotCmd_of (by decide +kernel), by decide +kernel⟩, ⟨plotCmd_of (by decide +kernel), by decide +kernel⟩, ⟨plotCmd_of (by decide +kernel), by decide +kernel⟩,
    ⟨plotCmd_of (by decide +kernel), by decide +kernel⟩, ⟨plotCmd_of (by decide +kernel), by decide +kernel⟩⟩

/-- Host queue 5, ring at 0x50000, its kick past the next packet; windows over 0x10000 to 0x2FFFF, which the tables of address space 1 map; the
packet p. -/
def h5 : HostQ := ⟨5, 0x50000, 2, 0, 1, 1, 0x7E, 1, 0x40000, [0], 0, none, true, none⟩
def descTwo' : Nat := 1 + 2 ^ 32 + 2 ^ 64 * 2 + 2 ^ 128 * 0x10000
def sH (p : Nat) (f : Pkg → Pkg) : State := mems (pkgs sE fun k => f { k with
  queues := [h5], kick := k.kick.set 5 1, wins := [⟨0, 0, 3, 1, 2, 0x10000⟩] }) [(0x50000, 64, p), (0x20008, 8, 0x60000), (0x60000, 8, 0x70001), (0x70000, 8, 0x80001), (0x80008, 8, 0x1003B), (0x80010, 8, 0x2003B), (0x10000, 128, descTwo')]
/-- A packet: opcode, version 1, stamp 1, the fields from byte 8 on. -/
def pk (op rest : Nat) : Nat := op + 2 ^ 8 + 2 ^ 16 + 2 ^ 64 * rest
theorem packet_of {s : State} {q : BitVec 6} {h : HostQ} {p : Nat} (w : s.hostQ q.toNat = some h ∧ h.running = true ∧ h.pend = none ∧
    s.lineClaimed (lineOf (s.home (h.base + 64 * (h.next % 2 ^ h.logn)))) .load = false ∧
    s.poisoned (s.home (h.base + 64 * (h.next % 2 ^ h.logn))) = false ∧
    h.next < (s.pkg.kick.toList.getD q.toNat 0).toNat ∧ s.home (h.base + 64 * (h.next % 2 ^ h.logn)) < mainEnd ∧
    p = s.mem.readN (s.home (h.base + 64 * (h.next % 2 ^ h.logn))) 64) : Packet s q h p :=
  ⟨w.1, w.2.1, w.2.2.1, w.2.2.2.1, w.2.2.2.2.1, w.2.2.2.2.2.1, w.2.2.2.2.2.2.1, w.2.2.2.2.2.2.2⟩
/-- A reading that ends at once: it leaves the state as it is. -/
def readsTo (s : State) (x : Nat) : MRes (Nat × State) → Bool
  | .ok (y, t) => decide (y = x) && decide (t = s)
  | _ => false
theorem readsTo_of {s : State} {x : Nat} {r : MRes (Nat × State)} (h : readsTo s x r = true) : r = .ok (x, s) := by
  match r with
  | .ok (y, t) =>
    simp only [readsTo, Bool.and_eq_true, decide_eq_true_eq] at h
    rw [h.1, h.2]
  | .flt _ _ => cases h
  | .stall _ => cases h
/-- A reading that faults, the state as it is. -/
def failsTo (s : State) (c : Nat) : MRes (Nat × State) → Bool
  | .flt d t => decide (d = c) && decide (t = s)
  | _ => false
theorem failsTo_of {s : State} {c : Nat} {r : MRes (Nat × State)} (h : failsTo s c r = true) : r = .flt c s := by
  match r with
  | .ok _ => cases h
  | .flt d t =>
    simp only [failsTo, Bool.and_eq_true, decide_eq_true_eq] at h
    rw [h.1, h.2]
  | .stall _ => cases h
theorem head_of {h : HostQ} {p op : Nat} (w : recBytes p 2 2 = (h.next + 1) % 2 ^ 16 ∧ recBytes p 0 1 = op ∧ h.opmask.testBit op = true ∧
    recBytes p 1 1 = h.ver ∧ reservedOk p = true) : HeadOk h p op := w
/-- A loaded graph of plot 0, a run of it, a launch of queue 5. -/
def gr : Graph := ⟨3, 0, 1, [descOf descTwo'], [], [], 0⟩
def ru : Run := ⟨1, 3, 0, 13, 1, 0, [.waiting], none⟩
def lQ : Launch := { lPlain with queue := 13, d := { descOf descTwo' with aspace := 1 }, todo := [1], tile := 0 }
/-- Two packages with one section each: a memory plan of a page, for which the queue's window has no room, and a mandatory section of a kind
that no loader knows. -/
def pkgPlan : Nat := 0x4B504759 + 2 ^ 32 + 2 ^ 64 + 2 ^ 96 * 256 + 2 ^ 512 * 3 + 2 ^ (8 * 68) * 128 + 2 ^ (8 * 72) * 96 + 2 ^ (8 * 128) + 2 ^ (8 * 200) * 0x10000
def pkgNew : Nat := 0x4B504759 + 2 ^ 32 + 2 ^ 64 + 2 ^ 96 * 128 + 2 ^ 512 * 0x8007 + 2 ^ (8 * 68) * 128
/-- Both signature checks are uninterpreted: where they accept this package, the loader refuses it with that type. -/
theorem witness_graph_mandatory (he : Config.ed25519 (sH 0 id).pkg.boot.pkgKeys.1 (Config.sha384 128 (pkgNew % 2 ^ (8 * 128))) (recBytes pkgNew 128 64) = true)
    (hm : Config.mldsa65 (sH 0 id).pkg.boot.pkgKeys.2 (Config.sha384 128 (pkgNew % 2 ^ (8 * 128))) (recBytes pkgNew (128 + 64) 3309) = true) :
    checkPackage (sH 0 id) plot0 pkgNew 3501 0x500000 1 = .error (4, some 0x8007) := by
  have sig : recBytes pkgNew 0x0C 4 = 128 := by decide +kernel
  unfold checkPackage
  simp only [sig, he, hm]
  rw [if_neg (by decide +kernel), if_neg (by decide +kernel), if_neg (by decide +kernel), if_pos (by decide +kernel)]
  decide +kernel
theorem witness_HostQueueEvents :
    ((5 : Nat) < 64 ∧ (0x1200 : Nat) ≤ 0x1200) ∧
    -- records: of a packet, of a queue that stops
    (gives (Loc.phys 0x20010 0) ((sH 0 id).globalPlace (viaOf h5.plot h5.aspace) 0x20010 16 .store) = true ∧ (0x20010 : Nat) < mainEnd ∧
      (sH 0 id).lineClaimed (lineOf 0x20010) .store = false ∧ (sH 0 id).home h5.err.toNat < mainEnd ∧
      (sH 0 id).lineClaimed (lineOf ((sH 0 id).home h5.err.toNat)) .store = false) ∧
    -- a packet that has arrived, one that has not; its first reading noted
    (Packet (sH (pk 1 0x10000) id) 5 h5 (pk 1 0x10000) ∧ (sH (pk 1 0x10000) id).pkg.reqs = [] ∧ recBytes (pk 1 0x10000) 2 2 = (h5.next + 1) % 2 ^ 16 ∧
      packetOf 5 (.launchPacket 5) = some 1) ∧
    (Packet (sH 1 id) 5 h5 1 ∧ recBytes 1 2 2 ≠ (h5.next + 1) % 2 ^ 16 ∧ h5.first = none ∧ { h5 with first := some 0 }.first = some 0) ∧
    -- heads that fail: the opcode, the version, the reserved bytes
    (recBytes (pk 1 0) 0 1 = 1 ∧ { h5 with opmask := 0 }.opmask.testBit 1 = false ∧ h5.opmask.testBit 1 = true ∧ recBytes (pk 1 0 + 2 ^ 8) 1 1 ≠ h5.ver ∧
      recBytes (pk 1 (2 ^ 64)) 1 1 = h5.ver ∧ reservedOk (pk 1 (2 ^ 64)) = false) ∧
    -- LAUNCH
    (let s := sH (pk 1 0x10000) id
     HeadOk h5 (pk 1 0x10000) 1 ∧ s.objectOk h5 (field (pk 1 0x10000) 8) 128 false = true ∧ (field (pk 1 0x10000) 8).toNat % 128 = 0 ∧
       s.readRange (viaOf 0 1) (queuePort 5 1) (field (pk 1 0x10000) 8) 128 = .ok (descTwo', s) ∧ s.plotOf 0 = some plot0 ∧ (descOf descTwo').argsAt = 0 ∧
       (descOf descTwo').done = 0 ∧ descOk descTwo' = true ∧ plainOk descTwo' = true ∧ s.residentOk plot0 (descOf descTwo') = true ∧ (descOf descTwo').aspace = 0 ∧
       s.rootOf plot0 1 ≠ 0 ∧ s.queued 13 < 256) ∧
    -- graphs: a package whose extent the window holds, one whose extent it does not, one that cannot be read
    (let p := pk 2 (0x10000 + 2 ^ 64 * 64 + 2 ^ 128 * 0x500000 + 2 ^ 192 * 0x20010)
     HeadOk h5 p 2 ∧ loadRanges h5 p (sH p id) = true ∧
       (sH p id).readRange (viaOf 0 1) (queuePort 5 1) (field p 8) (recBytes p 0x10 8) = .ok (descTwo' % 2 ^ 512, sH p id) ∧
       (sH p id).extentOk h5 p (descTwo' % 2 ^ 512) = true ∧ (sH p id).extentOk h5 p pkgPlan = false ∧
       (mems (sH p id) [(0x20008, 8, 0)]).readRange (viaOf 0 1) (queuePort 5 1) (field p 8) (recBytes p 0x10 8) = .flt 1 (mems (sH p id) [(0x20008, 8, 0)])) ∧
    (let p := pk 3 (3 + 2 ^ 64 * 0x20010)
     HeadOk h5 p 3 ∧ (field p 0x10).toNat % 16 = 0 ∧ (sH p id).objectOk h5 (field p 0x10) 16 true = true) ∧
    (let p := pk 4 (3 + 2 ^ 64 * 0x20010)
     HeadOk h5 p 4 ∧ (field p 0x10).toNat % 16 = 0 ∧ (sH p id).objectOk h5 (field p 0x10) 16 true = true ∧ (sH p id).pkg.graphs = [] ∧
       (sH p fun k => { k with graphs := [gr] }).pkg.graphs.find? (fun x => x.plot = h5.plot && x.handle = recBytes p 8 4 && !x.launches.isEmpty) = some gr) ∧
    -- WAIT and SIGNAL at the last 8 bytes of the window
    (let p := pk 5 (0x2FFF8 + 2 ^ 64 * 1)
     HeadOk h5 p 5 ∧ (field p 8).toNat % 8 = 0 ∧ (sH p id).objectOk h5 (field p 8) 8 false = true ∧ (sH p id).queuePlace h5 (field p 8) .load = some 0x2FFF8 ∧
       0x2FFF8 < mainEnd ∧ (sH p id).lineClaimed (lineOf 0x2FFF8) .load = false) ∧
    (let p := pk 6 (0x2FFF8 + 2 ^ 64 * 1)
     HeadOk h5 p 6 ∧ (field p 8).toNat % 8 = 0 ∧ (sH p id).objectOk h5 (field p 8) 8 true = true ∧ (sH p id).queuePlace h5 (field p 8) .store = some 0x2FFF8 ∧
       (sH p id).lineClaimed (lineOf 0x2FFF8) .store = false ∧ (sH p id).pkg.launches = [] ∧ (sH p id).pkg.runs = [] ∧ lQ.queue = 8 + h5.q ∧ lQ.fin = 0 ∧
       ru.queue = 8 + h5.q) ∧
    -- loading: the magic number wrong; right, the package too short
    ((sH 0 id).plotOf 0 = some plot0 ∧ recBytes (descTwo' % 2 ^ 512) 0 4 ≠ 0x4B504759 ∧ recBytes pkgNew 0 4 = 0x4B504759 ∧ recBytes pkgNew 4 2 = 1 ∧
      64 < recBytes pkgNew 0xC 4 + 3373) ∧
    -- unloading: no such graph; one that runs; one that does not
    ((sH 0 id).pkg.graphs = [] ∧ [gr].find? (fun x => x.plot = 0 && x.handle = 3) = some gr ∧ ru.plot = 0 ∧ ru.handle = 3) := by
  refine ⟨by decide, by and_intros <;> decide +kernel, ⟨packet_of (by decide +kernel), by decide +kernel⟩, ⟨packet_of (by decide +kernel), by decide +kernel⟩, by decide +kernel,
    ⟨head_of (by decide +kernel), by decide +kernel, by decide +kernel, readsTo_of (by decide +kernel), by and_intros <;> decide +kernel⟩,
    ⟨head_of (by decide +kernel), by decide +kernel, readsTo_of (by decide +kernel), by decide +kernel, by decide +kernel, failsTo_of (by decide +kernel)⟩,
    ⟨head_of (by decide +kernel), by decide +kernel⟩, ⟨head_of (by decide +kernel), by decide +kernel⟩,
    ⟨head_of (by decide +kernel), by decide +kernel⟩, ⟨head_of (by decide +kernel), by and_intros <;> decide +kernel⟩, by decide +kernel⟩

/-- Firmware core 0 of a booted package. -/
def sFw (c : FwCore) (t : Word) (lease : Nat) : State :=
  mems { (pkgs sE fun p => { p with boot := { p.boot with booted := true }, fw := p.fw.set 0 c }) with time := t } [(0x400000000000, 8, lease)]
def sSys (c : SysCore) : State := { sS with sys := sS.sys.set 15 c }
def sysRun (pl : Nat) : SysCore := { SysCore.zero with
  st := Stream.zero, pl := pl, irq := 0x10, fs := { TrapSet.zero with ie := true }, xs := { TrapSet.zero with ie := true } }
def sTemp (t : Int) (clk : Nat) : State := pkgs sE fun p => { p with temps := [(4 * 16 + 15, t)], clock := p.clock.set 4 clk }
/-- The header of a manifest of three empty images, one of each type that must be there, at offset o of the flash. -/
def manifest (o : Nat) : Memory := (((Memory.writeN [] o 20 (0x4E4D4759 + 2 ^ 32 + 2 ^ 48 * 3 + 2 ^ 96 * 384 + 2 ^ 128 * 4352)).writeN (o + 64) 1 1).writeN (o + 160) 1 2).writeN (o + 256) 1 3
/-- With the images' digests, and the fuses that hold the digests of its (zero) keys. -/
def sBoot (o : Nat) : State := pkgs sE fun p => { p with
  flash := (((manifest o).writeN (o + 112) 48 (Config.sha384 0 0).toNat).writeN (o + 208) 48 (Config.sha384 0 0).toNat).writeN (o + 304) 48 (Config.sha384 0 0).toNat,
  boot := { p.boot with keyDigests := ((Config.sha384 32 0).toNat, (Config.sha384 1952 0).toNat) } }
theorem readN_skip {m : Memory} {a k x b n : Nat} (h : b + n ≤ a ∨ a + k ≤ b) : (m.writeN a k x).readN b n = m.readN b n :=
  Laws.readN_congr n _ _ _ fun i hi => Laws.read_writeN_outside k m a x (b + i) (by omega)
theorem sBoot_flash (o b n : Nat) (h : b + n ≤ 112 ∨ 160 ≤ b ∧ b + n ≤ 208 ∨ 256 ≤ b ∧ b + n ≤ 304 ∨ 352 ≤ b) :
    (sBoot o).flashN (o + b) n = (manifest o).readN (o + b) n := by
  show Memory.readN _ _ _ = _
  unfold sBoot pkgs
  simp only
  rw [readN_skip (by omega), readN_skip (by omega), readN_skip (by omega)]
theorem sBoot_digest (o i : Nat) (h : i < 3) : (sBoot o).flashN (o + 112 + 96 * i) 48 = (Config.sha384 0 0).toNat := by
  have hd := (Config.sha384 0 0).isLt
  show Memory.readN _ _ _ = _
  unfold sBoot pkgs
  simp only
  match i, h with
  | 0, _ => rw [readN_skip (by omega), readN_skip (by omega), Nat.mul_zero, Nat.add_zero, Laws.readN_writeN]; exact Nat.mod_eq_of_lt (by omega)
  | 1, _ => rw [readN_skip (by omega), show o + 112 + 96 * 1 = o + 208 by omega, Laws.readN_writeN]; exact Nat.mod_eq_of_lt (by omega)
  | 2, _ => rw [show o + 112 + 96 * 2 = o + 304 by omega, Laws.readN_writeN]; exact Nat.mod_eq_of_lt (by omega)
/-- The entries of the manifest. -/
theorem sBoot_entry (o i : Nat) (_ : i < 3) (k n : Nat) (hk : k + n ≤ 48) :
    (sBoot o).flashN (o + 64 + 96 * i + k) n = (manifest o).readN (o + 64 + 96 * i + k) n := by
  rw [show o + 64 + 96 * i + k = o + (64 + 96 * i + k) by omega]
  exact sBoot_flash o _ n (by omega)
theorem sBoot_entries (o : Nat) (ho : o = 0 ∨ o = 512 * 2 ^ 20) :
    (sBoot o).entries o = [⟨1, 0, 0, 0, 0, 0, 0, (Config.sha384 0 0).toNat⟩, ⟨2, 0, 0, 0, 0, 0, 0, (Config.sha384 0 0).toNat⟩, ⟨3, 0, 0, 0, 0, 0, 0, (Config.sha384 0 0).toNat⟩] := by
  have hn : (sBoot o).flashN (o + 6) 2 = 3 := by
    rw [sBoot_flash o 6 2 (by omega)]; rcases ho with rfl | rfl <;> decide +kernel
  have e (i : Nat) (h : i < 3) : (fun (k n : Nat) => (sBoot o).flashN (o + 64 + 96 * i + k) n) 0x30 48 = (Config.sha384 0 0).toNat := by
    have := sBoot_digest o i h
    rwa [show o + 112 + 96 * i = o + 64 + 96 * i + 0x30 by omega] at this
  simp only [State.entries, hn, List.range, List.range.loop, List.map_cons, List.map_nil] at e ⊢
  rw [e 0 (by omega), e 1 (by omega), e 2 (by omega)]
  simp only [sBoot_entry o 0 (by omega) _ _ (by omega : 0 + 4 ≤ 48), sBoot_entry o 0 (by omega) _ _ (by omega : 4 + 4 ≤ 48), sBoot_entry o 0 (by omega) _ _ (by omega : 8 + 8 ≤ 48),
    sBoot_entry o 0 (by omega) _ _ (by omega : 0x10 + 8 ≤ 48), sBoot_entry o 0 (by omega) _ _ (by omega : 0x18 + 8 ≤ 48), sBoot_entry o 0 (by omega) _ _ (by omega : 0x20 + 8 ≤ 48),
    sBoot_entry o 0 (by omega) _ _ (by omega : 0x28 + 8 ≤ 48),
    sBoot_entry o 1 (by omega) _ _ (by omega : 0 + 4 ≤ 48), sBoot_entry o 1 (by omega) _ _ (by omega : 4 + 4 ≤ 48), sBoot_entry o 1 (by omega) _ _ (by omega : 8 + 8 ≤ 48),
    sBoot_entry o 1 (by omega) _ _ (by omega : 0x10 + 8 ≤ 48), sBoot_entry o 1 (by omega) _ _ (by omega : 0x18 + 8 ≤ 48), sBoot_entry o 1 (by omega) _ _ (by omega : 0x20 + 8 ≤ 48),
    sBoot_entry o 1 (by omega) _ _ (by omega : 0x28 + 8 ≤ 48),
    sBoot_entry o 2 (by omega) _ _ (by omega : 0 + 4 ≤ 48), sBoot_entry o 2 (by omega) _ _ (by omega : 4 + 4 ≤ 48), sBoot_entry o 2 (by omega) _ _ (by omega : 8 + 8 ≤ 48),
    sBoot_entry o 2 (by omega) _ _ (by omega : 0x10 + 8 ≤ 48), sBoot_entry o 2 (by omega) _ _ (by omega : 0x18 + 8 ≤ 48), sBoot_entry o 2 (by omega) _ _ (by omega : 0x20 + 8 ≤ 48),
    sBoot_entry o 2 (by omega) _ _ (by omega : 0x28 + 8 ≤ 48)]
  generalize (Config.sha384 0 0).toNat = d
  rcases ho with rfl | rfl <;> rfl
/-- BOOT from copy A and from copy B: the two signature checks are uninterpreted (log 28), so where both accept this manifest, it passes. -/
theorem witness_boot_copy (o : Nat) (ho : o = 0 ∨ o = 512 * 2 ^ 20) (he : Config.ed25519 0 (Config.sha384 4352 ((sBoot o).flashN o 4352)) 0 = true)
    (hm : Config.mldsa65 0 (Config.sha384 4352 ((sBoot o).flashN o 4352)) 0 = true) :
    (sBoot o).pkg.boot.booted = false ∧ (o ≠ 0 → (sBoot o).copyOk 0 = false) ∧ (sBoot o).copyOk o = true := by
  have z {k n : Nat} (h : k + n ≤ 112 ∨ 160 ≤ k ∧ k + n ≤ 208 ∨ 256 ≤ k ∧ k + n ≤ 304 ∨ 352 ≤ k) {x : Nat} (hx : (manifest o).readN (o + k) n = x) :
      (sBoot o).flashN (o + k) n = x := by rw [sBoot_flash o k n h, hx]
  have none_ : ∀ k n, 384 ≤ k → (manifest o).readN (o + k) n = 0 := fun k n hk =>
    readN_none (a := o + k) (fun c hc => by
      have : ∀ c ∈ manifest o, c.1 < o + 384 := by rcases ho with rfl | rfl <;> decide +kernel
      have := this c hc; omega) n
  have h0 : (sBoot o).flashN (o + 0) 4 = 0x4E4D4759 := z (by omega) (by rcases ho with rfl | rfl <;> decide +kernel)
  have h4 : (sBoot o).flashN (o + 4) 2 = 1 := z (by omega) (by rcases ho with rfl | rfl <;> decide +kernel)
  have h6 : (sBoot o).flashN (o + 6) 2 = 3 := z (by omega) (by rcases ho with rfl | rfl <;> decide +kernel)
  have h8 : (sBoot o).flashN (o + 8) 4 = 0 := z (by omega) (by rcases ho with rfl | rfl <;> decide +kernel)
  have hc : (sBoot o).flashN (o + 0x0C) 4 = 384 := z (by omega) (by rcases ho with rfl | rfl <;> decide +kernel)
  have h10 : (sBoot o).flashN (o + 0x10) 4 = 4352 := z (by omega) (by rcases ho with rfl | rfl <;> decide +kernel)
  have h14 : (sBoot o).flashN (o + 0x14) 44 = 0 := z (by omega) (by rcases ho with rfl | rfl <;> decide +kernel)
  have k1 : (sBoot o).flashN (o + 384) 32 = 0 := z (by omega) (none_ _ _ (by omega))
  have k2 : (sBoot o).flashN (o + (384 + 32)) 1952 = 0 := z (by omega) (none_ _ _ (by omega))
  have s1 : (sBoot o).flashN (o + 4352) 64 = 0 := z (by omega) (none_ _ _ (by omega))
  have s2 : (sBoot o).flashN (o + (4352 + 64)) 3309 = 0 := z (by omega) (none_ _ _ (by omega))
  have im (a : Nat) : (sBoot o).flashN a 0 = 0 := rfl
  refine ⟨rfl, fun hn => ?_, ?_⟩
  · have : (sBoot o).flashN (0 + 0) 4 = 0 := by
      obtain rfl := ho.resolve_left hn
      show Memory.readN _ _ _ = _
      unfold sBoot pkgs
      simp only
      rw [readN_skip (by omega), readN_skip (by omega), readN_skip (by omega)]
      decide +kernel
    simp [State.copyOk, State.manifestOk, this]
  · simp only [State.copyOk, State.manifestOk, h6, show keyOff 3 = 384 from rfl, show sigOff 3 = 4352 from rfl, h0, h4, h8, hc, h10, h14, k1, k2, s1, s2, sBoot_entries o ho]
    rw [show o + 0 = o from rfl, he, hm]
    have kd : (sBoot o).pkg.boot.keyDigests = ((Config.sha384 32 0).toNat, (Config.sha384 1952 0).toNat) := rfl
    have fu : (sBoot o).pkg.boot.fuse = 0 := rfl
    simp [copySize, typeCount, State.imageOk, im, kd, fu]


/-- Fuse counter 3, security version 5; core 15 at firmware level, running or not. -/
def sFuse (run : Bool) (n : Nat) : State :=
  pkgs { sS with sys := (sS.sys.map fun c => { c with pl := 0 }).set 15 { sysRun 2 with st := { Stream.zero with halted := !run } } } fun p =>
    { p with boot := { p.boot with booted := true, fuse := 3, secver := 5, raises := [n, 1] } }
theorem witness_FirmwareEvents :
    -- interrupts of level 2 and of level 1, by the last source and by the timer
    (∀ pl, pl = 2 ∨ pl = 1 → (let c := (sSys (sysRun pl)).sysCore 15
      c.st.halted = false ∧ c.st.wait = none ∧ (if c.pl = 2 then c.fs.ie else c.xs.ie) = true ∧ c.irq.getLsbD 4 = true ∧ c.xtimecmp ≤ (sSys (sysRun pl)).time)) ∧
    -- boot: done before; the fuse counter rises, the number is not above it, is above the version, nobody runs at firmware level; no copy good
    ((sFw ⟨false, false, 0⟩ 0 0).pkg.boot.booted = true ∧ (sFw ⟨false, false, 0⟩ 0 0).pkg.boot.raises = [] ∧ (∀ r n, (sFuse r n).pkg.boot.raises = [n, 1]) ∧
      (sFuse true 5).pkg.boot.booted = true ∧ (sFuse true 5).pkg.boot.fuse < 5 ∧ 5 ≤ (sFuse true 5).pkg.boot.secver ∧
      (∃ c ∈ (sFuse true 5).sys.toList, c.pl = 2 ∧ c.st.halted = false) ∧ 3 ≤ (sFuse true 3).pkg.boot.fuse ∧ (sFuse true 6).pkg.boot.secver < 6 ∧
      (∀ c ∈ (sFuse false 5).sys.toList, c.pl = 2 → c.st.halted = true) ∧
      sE.pkg.boot.booted = false ∧ sE.copyOk 0 = false ∧ sE.copyOk (512 * 2 ^ 20) = false) ∧
    -- a firmware core: leader by the lease, no more leader, a lease that runs, one that has run out
    ((sFw ⟨false, true, 0x100⟩ 0 0x100).pkg.boot.booted = true ∧ ((sFw ⟨false, true, 0x100⟩ 0 0x100).fwCore 0).halted = false ∧
      ((sFw ⟨false, true, 0x100⟩ 0 0x100).fwCore 0).leader = true ∧ (sFw ⟨false, true, 0x100⟩ 0 0x100).lease = ((sFw ⟨false, true, 0x100⟩ 0 0x100).fwCore 0).seen) ∧
    (((sFw ⟨false, true, 0x100⟩ 0 0x200).fwCore 0).leader = true ∧ (sFw ⟨false, true, 0x100⟩ 0 0x200).lease ≠ ((sFw ⟨false, true, 0x100⟩ 0 0x200).fwCore 0).seen) ∧
    (((sFw ⟨false, false, 0⟩ 0xFF 0x101).fwCore 0).leader = false ∧ (sFw ⟨false, false, 0⟩ 0xFF 0x101).time < ((sFw ⟨false, false, 0⟩ 0xFF 0x101).lease &&& ~~~7)) ∧
    (((sFw ⟨false, false, 0⟩ 0x100 0x101).lease &&& ~~~7) ≤ (sFw ⟨false, false, 0⟩ 0x100 0x101).time ∧
      ((sFw ⟨false, false, 0⟩ 0x100 0x101).fwCore ((sFw ⟨false, false, 0⟩ 0x100 0x101).lease.toNat % 8)).halted = false) ∧
    -- heartbeats: just in time, too late
    (let ok := fun (t : Word) => (sFw ⟨false, true, 0x10000000⟩ t 0).time.toNat + 1000000 < (((sFw ⟨false, true, 0x10000000⟩ t 0).fwCore 0).seen &&& ~~~7).toNat ∧
      ((sFw ⟨false, true, 0x10000000⟩ t 0).fwCore 0).leader = true
     ok 5000000 ∧ ok 5000001 ∧ ((sFw ⟨false, true, 0x10000000⟩ 5000000 0).time - BitVec.ofNat 64 ((sFw ⟨false, true, 0x10000000⟩ 5000000 0).mem.readN (0x400000000008 + 8 * 4) 8)).toNat ≤ 5000000 ∧
     5000000 < ((sFw ⟨false, true, 0x10000000⟩ 5000001 0).time - BitVec.ofNat 64 ((sFw ⟨false, true, 0x10000000⟩ 5000001 0).mem.readN (0x400000000008 + 8 * 4) 8)).toNat ∧ (0 : Nat) ≠ 4 ∧ (4 : Nat) < 5 ∧
     (sFw ⟨false, true, 0x10000000⟩ 5000001 0).pkg.boot.region.2 = 0) ∧
    -- sensors and clocks at their limits
    ((11999 : Int) < 12000 ∧ 20 * 949 < 19 * 1000 ∧ 19 * 1000 ≤ 20 * 950 ∧ 20 * 1050 ≤ 21 * 1000 ∧ 21 * 1000 < 20 * 1051 ∧
      (∃ p ∈ (sTemp 10500 401).pkg.temps, p.1 / 16 = 4 ∧ 10500 ≤ p.2) ∧ 400 < (sTemp 10500 401).pkg.clock.toList.getD 4 0 ∧
      (∀ p ∈ (sTemp 9999 2999).pkg.temps, p.1 / 16 = 4 → p.2 < 10000) ∧ (sTemp 9999 2999).pkg.clock.toList.getD 4 0 < 3000 ∧
      (∃ p ∈ (sTemp 10499 1000).pkg.temps, p.1 / 16 = 4 ∧ 10000 ≤ p.2) ∧ (∀ p ∈ (sTemp 10499 1000).pkg.temps, p.1 / 16 = 4 → p.2 < 10500)) ∧
    -- a measurement that is no report
    (0 : BitVec 8) ≠ 0xF0 := by
  refine ⟨?_, by and_intros <;> first | decide +kernel | exact fun _ _ => rfl, by decide +kernel, by decide +kernel, by decide +kernel, by decide +kernel, by and_intros <;> decide +kernel,
    by and_intros <;> decide +kernel, by decide⟩
  rintro pl (rfl | rfl) <;> decide +kernel


/-- A flit with its header and payload bits as given and the right CRC. -/
def mkFlit (x : Nat) : BitVec 2048 := BitVec.ofNat 2048 x ||| ((Flit.crcOf (BitVec.ofNat 2048 x)).setWidth 2048 <<< 1984)
/-- A port that is up, with one flit in its retry buffer. -/
def portUp : Port := { Port.zero with up := true, retry := [⟨0, 0, 2, 0, 0⟩], tx := 1 }
def sPort (q : Port) : State := pkgs sE fun p => { p with ports := p.ports.set 11 q }
theorem flit_of {s : State} {port : BitVec 4} {q : Port} {f : BitVec 2048} {t : Nat}
    (h : s.pkg.ports.toList[port.toNat]? = some q ∧ (q.up = true ∨ t = 5) ∧ Flit.type f = t ∧ Flit.crcOf f = Flit.crc f ∧ Flit.seq f = q.rx) :
    FlitOk s port q f t := h
/-- Host window 0 over offsets 0 to 0xFFFF, readable and writable; grant 0 to plot 7 of module 31. -/
def sHost : State := pkgs sE fun p => { p with hostWins := [⟨0, 3, 1, 0, 0x200000⟩], grants := [⟨0, 31, 7, 0, 3, 1, 0x200000⟩] }
/-- A copy of module 30 claims the window's last line for its destination. -/
def sHeld : State := pkgs sHost fun p => { p with farClaims := [⟨30, 0x20FFF8 / 128, true⟩] }
def rq (key pa : Nat) : Req := ⟨key, pa, 8, .read, none⟩
/-- COLLECT of two elements by modules 1 (this one) and 31: the descriptor at 0x200000; sums of f32, sums of 64-bit integers. -/
def collRec (ty : Nat) : Nat := 0x210000 + 2 ^ 64 * 0x220000 + 2 ^ 128 * 2 + 2 ^ 192 * (2 + 2 ^ 31) + 2 ^ 264 * ty
def sColl (v : Nat) : State := mems (pkgs (sC 0xC 0x200000) fun p => { p with fid := 1 }) [(0x200000, 64, v)]
def coll0 (ty : Nat) : Coll := collOf (collRec ty)
def part0 : CollectPart := ⟨31, 2 + 2 ^ 31, 0, 0, 15, 2, [0, 0]⟩
theorem collectCmd_of {s : State} {p : Plot} (h : ((s.migrating = false ∧ s.cmdBytes 0 1 = 0xC ∧ s.cmdBytes 16 48 = 0) ∧
    s.plotOf (s.cmdBytes 1 1) = some p) ∧ s.paBusy (s.arg 0) .load = false) : CollectCmd s p := ⟨plotCmd_of h.1, h.2⟩
theorem witness_host_accesses :
    -- the window's last 8 bytes, and past it; a claim on them, an earlier access that waits
    sHost.hostPlace 0xFFF8 8 false = some 0x20FFF8 ∧ sHost.hostPlace 0xFFF8 8 true = some 0x20FFF8 ∧ sHost.pkg.inbound = [] ∧
      sHost.inboundHeld ⟨none, 0x20FFF8, 8, .read⟩ = false ∧ (∀ l ∈ sHost.homeLines 0x20FFF8 8, sHost.badLine l = false) ∧
      sHost.inboundHeld ⟨none, 0x20FFF8, 8, .write 1⟩ = false ∧
      sHeld.hostPlace 0xFFF8 8 false = some 0x20FFF8 ∧ sHeld.hostPlace 0xFFF8 8 true = some 0x20FFF8 ∧
      sHeld.inboundHeld ⟨none, 0x20FFF8, 8, .read⟩ = true ∧ sHeld.inboundHeld ⟨none, 0x20FFF8, 8, .write 1⟩ = true ∧
      (∃ y ∈ (pkgs sHost fun p => { p with inbound := [⟨none, 0x200000, 8, .read⟩] }).pkg.inbound, y.src = none) ∧
      sHost.hostPlace 0xFFF9 8 false = none ∧ sHost.hostPlace 0xFFF9 8 true = none := by
  and_intros <;> decide +kernel
theorem witness_remote_requests :
    -- requests of module 31: admitted, free, held back by a claim, at a poisoned line; not admitted
    sHost.pkg.inbound = [] ∧ sHeld.pkg.inbound = [] ∧ sHost.canSendTo (31 : BitVec 5).toNat 1 = true ∧ sHeld.canSendTo (31 : BitVec 5).toNat 1 = true ∧
      (∃ g ∈ sHost.pkg.grants, g.admits 31 7 0x20FFF8 8 true true = true) ∧ (∃ g ∈ sHost.pkg.grants, g.admits 31 7 0x20FFF8 8 true false = true) ∧
      (∃ g ∈ sHost.pkg.grants, g.admits 31 7 0x20FFF8 8 false true = true) ∧ ¬ (∃ g ∈ sHost.pkg.grants, g.admits 31 7 0x20FFF9 8 true false = true) ∧
      ¬ (∃ g ∈ sHost.pkg.grants, g.admits 30 7 0x20FFF8 8 false true = true) ∧ sHeld.pkg.grants = sHost.pkg.grants ∧
      (∀ l ∈ sHost.homeLines 0x20FFF8 8, sHost.badLine l = false) ∧
      (∀ o ∈ [.read, .write 1, .amo .add 1 0, .claim true, .release], sHost.inboundHeld ⟨some 31, 0x20FFF8, 8, o⟩ = false) ∧
      (∀ o ∈ [.read, .write 1], sHeld.inboundHeld ⟨some 31, 0x20FFF8, 8, o⟩ = true) ∧
      (let t := pkgs sHost fun p => { p with poison := [(0x20FFF8 / 128, 0)] }
       t.inboundHeld ⟨some 31, 0x20FFF8, 8, .read⟩ = false ∧ (t.homeLines 0x20FFF8 8).find? t.badLine = some (0x20FFF8 / 128)) := by
  and_intros <;> decide +kernel
theorem witness_FabricEvents :
    -- time-outs
    ((∀ r ∈ (pkgs sE fun p => { p with reqs := [rq 5 0x400000000000] }).pkg.reqs, r.key = 5 → r.ans ≠ none ∨ r.pa < 2 ^ 47) ∧
      (pkgs sE fun p => { p with reqs := [rq 5 (2 ^ 47)] }).pkg.reqs = rq 5 (2 ^ 47) :: [] ∧ (rq 5 (2 ^ 47)).key = 5 ∧ (rq 5 (2 ^ 47)).ans = none ∧ 2 ^ 47 ≤ (rq 5 (2 ^ 47)).pa) ∧
    -- flits of every type: to this module, to another
    (FlitOk (sPort portUp) 11 portUp (mkFlit 0) 0 ∧ Flit.dest (mkFlit 0) = (sPort portUp).pkg.fid) ∧
    (FlitOk (sPort portUp) 11 portUp (mkFlit (2 ^ 40)) 0 ∧ Flit.dest (mkFlit (2 ^ 40)) ≠ (sPort portUp).pkg.fid) ∧
    FlitOk (sPort portUp) 11 portUp (mkFlit (2 ^ 36)) 1 ∧
    (FlitOk (sPort portUp) 11 portUp (mkFlit (2 ^ 36 * 2 + 2 ^ 32 * 2)) 2 ∧ Flit.vc (mkFlit (2 ^ 36 * 2 + 2 ^ 32 * 2)) = 2) ∧
    (FlitOk (sPort portUp) 11 portUp (mkFlit (2 ^ 36 * 2 + 2 ^ 32)) 2 ∧ Flit.vc (mkFlit (2 ^ 36 * 2 + 2 ^ 32)) = 1) ∧
    FlitOk (sPort portUp) 11 portUp (mkFlit (2 ^ 36 * 3)) 3 ∧ FlitOk (sPort portUp) 11 portUp (mkFlit (2 ^ 36 * 4)) 4 ∧
    (FlitOk (sPort Port.zero) 11 Port.zero (mkFlit (2 ^ 36 * 5 + 2 ^ 64)) 5 ∧ ((Flit.payload (mkFlit (2 ^ 36 * 5 + 2 ^ 64))).extractLsb' 0 16).toNat = 1 ∧
      Port.zero.up = false ∧ (took Port.zero (mkFlit (2 ^ 36 * 5 + 2 ^ 64))).retry.length < 512) ∧
    (FlitOk (sPort portUp) 11 portUp (mkFlit (2 ^ 36 * 5 + 2 ^ 64 * 2)) 5 ∧ ((Flit.payload (mkFlit (2 ^ 36 * 5 + 2 ^ 64 * 2))).extractLsb' 0 16).toNat ≠ 1) ∧
    -- a bad CRC, another SEQ
    ((sPort portUp).pkg.ports.toList[(11 : BitVec 4).toNat]? = some portUp ∧ portUp.up = true ∧ Flit.type (0#2048 ||| 1#2048 <<< 64) = 0 ∧
      Flit.crcOf (0#2048 ||| 1#2048 <<< 64) ≠ Flit.crc (0#2048 ||| 1#2048 <<< 64) ∧ Flit.type (mkFlit 1) = 0 ∧ Flit.seq (mkFlit 1) ≠ portUp.rx ∧
      portUp.retry.length < 512) ∧
    -- retrainings that failed within 10 ms
    (([0] : List Word).filter (fun x => decide (((10000000 : Word) - x).toNat ≤ 10000000))).length < 2 ∧
    2 ≤ (([0, 0] : List Word).filter (fun x => decide (((10000000 : Word) - x).toNat ≤ 10000000))).length ∧
    -- collectives: held back by a claim; good, its part there or not, or of another operation; sums of integers; a bad descriptor
    (let t := pkgs (sColl (collRec 15)) fun p => { p with farClaims := [⟨30, 0x220000 / 128, true⟩] }
     CollectCmd t plot0 ∧ t.collect plot0 = .ok (coll0 15) ∧ t.collectHeld (coll0 15) = true) ∧
    (CollectCmd (sColl (collRec 15)) plot0 ∧ (sColl (collRec 15)).collect plot0 = .ok (coll0 15) ∧ (sColl (collRec 15)).collectHeld (coll0 15) = false ∧
      (coll0 15).members.filter (· != (sColl (collRec 15)).pkg.fid) = [31] ∧
      (∀ q ∈ ([] : List CollectPart), q.fid ≠ 31) ∧ part0.fid = 31 ∧ (coll0 15).same part0 = true ∧ (coll0 15).same { part0 with op := 1 } = false) ∧
    (CollectCmd (sColl (collRec 9)) plot0 ∧ (sColl (collRec 9)).collect plot0 = .ok (coll0 9) ∧ (sColl (collRec 9)).collectHeld (coll0 9) = false ∧
      (coll0 9).ty < 15 ∧ (coll0 9).op = 0) ∧
    (CollectCmd (sColl 0) plot0 ∧ (sColl 0).collect plot0 = .error 2) := by
  refine ⟨by and_intros <;> decide +kernel, ⟨flit_of (by decide +kernel), by decide +kernel⟩, ⟨flit_of (by decide +kernel), by decide +kernel⟩,
    flit_of (by decide +kernel), ⟨flit_of (by decide +kernel), (by decide +kernel)⟩, ⟨flit_of (by decide +kernel), by decide +kernel⟩, flit_of (by decide +kernel),
    flit_of (by decide +kernel), ⟨flit_of (by decide +kernel), by and_intros <;> decide +kernel⟩, ⟨flit_of (by decide +kernel), by decide +kernel⟩,
    by and_intros <;> decide +kernel, by decide +kernel, by decide +kernel, ?_, ?_, ?_, ?_⟩
  · exact ⟨collectCmd_of (by decide +kernel), by and_intros <;> decide +kernel⟩
  · exact ⟨collectCmd_of (by decide +kernel), by and_intros <;> decide +kernel⟩
  · exact ⟨collectCmd_of (by decide +kernel), by and_intros <;> decide +kernel⟩
  · exact ⟨collectCmd_of (by decide +kernel), by decide +kernel⟩
/-- Module 1, at device time 10.1 s, since 0.1 s within the limit; locked before or not. -/
def sTime (once : Bool) : State := { pkgs (sColl 0) (fun p => { p with sync := ⟨false, once, some 100000000, 0, 0, 0⟩ }) with time := 10100000000 }
/-- A word or an event leads to a next state of which a condition holds. -/
def leads (r : Res) (f : State → Bool) : Bool := match r with | .next t => f t | _ => false
theorem witness_time_sync :
    -- no exchange in module 0; module 1 behind by 30 ns: in lock for the first time, locked before; ahead by 30 ns
    sE.pkg.fid = 0 ∧ sE.pkg.tmaster = false ∧ (sTime true).pkg.fid ≠ 0 ∧ (sTime true).pkg.tmaster = false ∧ (sTime false).pkg.sync.once = false ∧
      (sTime true).pkg.sync.once = true ∧
      leads (exec (.timeSyncExchange 0 30 0 (-30) 1) (sTime false)) (fun t => t.pkg.sync.lock && t.time = (sTime false).time + 30) = true ∧
      leads (exec (.timeSyncExchange 0 30 0 (-30) 1) (sTime true)) (fun t => t.pkg.sync.lock && t.time = (sTime true).time && t.pkg.sync.fwd = 30) = true ∧
      leads (exec (.timeSyncExchange 0 (-30) 0 30 1) (sTime true)) (fun t => t.time = (sTime true).time && t.pkg.sync.back = 30) = true ∧
      (sTime false).time.toNat + 30 < 2 ^ 64 := by
  and_intros <;> decide +kernel
/-- What waits: an ABANDON whose completion record a copy's claim holds back; a kick behind a host access; a NAK behind another flit or a
full buffer. The time master. -/
def sWait : State :=
  let s := mems (withL (sC 6 1) { lDone 0x30000 with id := 1 }) [(0x20008, 8, 0x50000), (0x50000, 8, 0x60001), (0x60000, 8, 0x70001), (0x70018, 8, 0x3003B)]
  { s with ct := { s.ct with status := .ended, copies := [yClaims (lineOf 0x30000)] } }
theorem witness_waiting :
    (PlotCmd sWait 6 24 plot0 ∧ sWait.launchOf (sWait.arg 0) = some (lDone 0x30000) ∧ (lDone 0x30000).fin = 0 ∧ sWait.arg 1 = 0 ∧
      (∀ c ∈ sWait.cts, c.launch = 1 → c.status = .ended) ∧ sWait.pkg.prov = [] ∧ (lDone 0x30000).d.done ≠ 0 ∧
      sWait.walkHeld (lDone 0x30000).via 0x30000 = false ∧ canonical 0x30000 = true ∧ va55 0x30000 + 16 ≤ clusterBase ∧
      sWait.resolve (lDone 0x30000).via 0x30000 16 .store = .ok (.phys 0x30000 0) ∧ sWait.lineClaimed (lineOf 0x30000) .store = true) ∧
    ((5 : Nat) < 64 ∧ ∃ y ∈ (pkgs sE fun p => { p with inbound := [⟨none, 0x200000, 8, .read⟩] }).pkg.inbound, y.src = none) ∧
    (portUp.due = [] ∧ { portUp with due := [(1, 0)] }.due ≠ [] ∧ 512 ≤ { portUp with retry := List.replicate 512 ⟨0, 0, 2, 0, 0⟩ }.retry.length) ∧
    ((pkgs (sTime true) fun p => { p with tmaster := true }).pkg.tmaster = true ∧ (sTime true).pkg.fid ≠ 0) :=
  ⟨⟨plotCmd_of (by decide +kernel), by and_intros <;> decide +kernel⟩, by decide +kernel, by and_intros <;> decide +kernel, by decide +kernel⟩

/-! ### One word each, with what the spec's rule gives for it -/

/-- s1 = -7, s2 = 2, s3 = the least number, s4 = scratch 0x10; bytes 0x80 0xFF there. -/
def sx : State := regs { sE with sram := Memory.writeN [] 0x10 2 0xFF80 } [(1, -7), (2, 2), (3, 1 <<< 63), (4, scr 0x10)]

/-- R134: quotients truncate, the corners of division, the high half, the shift amount modulo 64, s0. -/
theorem test_exec_alu :
    leads (exec (.div 5 1 2) sx) (fun t => t.rd 5 = -3) ∧ leads (exec (.rem 5 1 2) sx) (fun t => t.rd 5 = -1) ∧
    leads (exec (.div 5 1 0) sx) (fun t => t.rd 5 = -1) ∧ leads (exec (.rem 5 1 0) sx) (fun t => t.rd 5 = -7) ∧
    leads (exec (.mulh 5 3 2) sx) (fun t => t.rd 5 = -1) ∧ leads (exec (.mulhu 5 3 2) sx) (fun t => t.rd 5 = 1) ∧
    leads (exec (.shl 5 2 1) sx) (fun t => t.rd 5 = 2 <<< 57) ∧ leads (exec (.clz 5 0) sx) (fun t => t.rd 5 = 64) ∧
    leads (exec (.add 0 1 2) sx) (fun t => t.rd 0 = 0 && t.ct.ex.pc = sx.ct.ex.pc + 4) := by decide +kernel
/-- R136, R137: the target of a taken branch, the link, a target that is no word address. -/
theorem test_exec_jumps :
    leads (exec (.blt 1 2 (-1)) sx) (fun t => t.pc = sx.pc - 4) ∧ leads (exec (.bltu 1 2 8) sx) (fun t => t.pc = sx.pc + 4) ∧
    leads (exec (.jmp 5 3) sx) (fun t => t.pc = sx.pc + 12 && t.rd 5 = sx.pc + 4) ∧
    leads (exec (.jmpr 5 2 0) sx) (fun t => t.ct.status = .stopped && t.rd 5 = 0 && t.ct.frec.any (fun r => r.code = 2 && r.info = 2)) := by decide +kernel
/-- R138, R245: extension, the bytes of a store, a misaligned word, an atomic's old value. -/
theorem test_exec_memory :
    leads (exec (.ld 5 4 1 0 0) sx) (fun t => t.rd 5 = -128) ∧ leads (exec (.ldu 5 4 0 0 0) sx) (fun t => t.rd 5 = 0x80) ∧
    leads (exec (.ld 5 4 0 0 1) sx) (fun t => t.rd 5 = -1) ∧
    leads (exec (.st 1 4 2 0 0) sx) (fun t => t.sram.readN 0x10 8 = 0xFFFFFFF9) ∧
    leads (exec (.ld 5 2 2 0 0) sx) (fun t => t.ct.status = .stopped && t.ct.frec.any (fun r => r.code = 2)) ∧
    leads (exec (.amoadd 5 4 2 0 0) sx) (fun t => t.rd 5 = 0xFF80 && t.sram.readN 0x10 4 = 0xFF82) := by decide +kernel
/-- R141, R52: 1 + 1 = 2 in f64; 1 / 0 is infinite with DZ (bit 4 of fflags). -/
theorem test_exec_float :
    (let s := regs sE [(1, 0x3FF0000000000000)]
     leads (exec (.fadd 5 1 1 1) s) (fun t => t.rd 5 = 0x4000000000000000 && t.ct.a.fflags = 0) ∧
     leads (exec (.fdiv 5 1 0 1) s) (fun t => t.rd 5 = 0x7FF0000000000000 && t.ct.a.fflags = 16)) := by decide +kernel
/-- R125, R129: a queue is first in first out; the ended producer of an empty one. -/
theorem test_exec_queues :
    leads (exec (.qrecv 5 1) (onE fun c => c.setQueue 1 [7, 8])) (fun t => t.rd 5 = 7 && t.ct.queue 1 = [8]) ∧
    leads (exec (.qrecv 5 1) (onE fun c => { c with aend := true })) (fun t => t.ct.frec.any fun r => r.code = 7 && r.qtrap) ∧
    leads (exec (.qsend 1 2) (regs sA [(1, 9)])) (fun t => t.ct.queue 2 = [9]) := by decide +kernel
/-- R343: a trap of a system core at level 2 goes to fvec; TRET goes back. -/
theorem test_exec_traps :
    (let c := { SysCore.zero with st := { Stream.zero with pc := 0x100 }, fs := { TrapSet.zero with vec := 0x800, ie := true } }
     let s := { sS with sys := sS.sys.set 0 c }
     leads (exec (.trap 0) s) (fun t => (t.sysCore 0).st.pc = 0x800 && (t.sysCore 0).fs.pc = 0x104 && (t.sysCore 0).fs.cause = 7 && !(t.sysCore 0).fs.ie &&
       (t.sysCore 0).fs.pie && (t.sysCore 0).fs.ppl = 2)) ∧
    (let c := { SysCore.zero with fs := { TrapSet.zero with pc := 0x104, ppl := 1, pie := true } }
     leads (exec .tret { sS with sys := sS.sys.set 0 c }) (fun t => (t.sysCore 0).st.pc = 0x104 && (t.sysCore 0).pl = 1 && (t.sysCore 0).fs.ie)) := by decide +kernel

/-- v1 = 0xFFFFFFFF, 3 and v2 = 1, 4 as u32. -/
def sv : State := regs (onE fun c => { c with v := (c.v.set 1 0x3FFFFFFFF).set 2 0x400000001 }) [(1, 5), (4, scr 0)]
/-- R76, R79: wrapping and saturating sums; a masked element stays; a scalar second source. -/
theorem test_exec_vector_alu :
    leads (exec (.vaddVv false 3 1 2 0) sv) (fun t => t.ct.vget 3 32 0 = 0 && t.ct.vget 3 32 1 = 7) ∧
    leads (exec (.vaddSatVv false 3 1 2 0) sv) (fun t => t.ct.vget 3 32 0 = 0xFFFFFFFF && t.ct.a.vsat) ∧
    leads (exec (.vaddVx false 1 1 1 2) { sv with ct := { sv.ct with p := sv.ct.p.set 2 2 } }) (fun t => t.ct.vget 1 32 0 = 0xFFFFFFFF && t.ct.vget 1 32 1 = 8) := by
  decide +kernel
/-- R88, R181, R83, R65: a comparison, a sum, one element, a length past vlmax. -/
theorem test_exec_vector_scalars :
    leads (exec (.vcmpLt false 3 1 2 0) sv) (fun t => !t.ct.pbit 3 0 && t.ct.pbit 3 1) ∧
    leads (exec (.vredsum false 1 5 0) sv) (fun t => t.rd 5 = 2) ∧ leads (exec (.vext false 1 0) sv) (fun t => t.rd 0 = 0) ∧
    leads (exec (.vext false 2 5) sv) (fun t => t.rd 5 = 1) ∧ leads (exec (.vsetl false 5 6) (regs sv [(6, 0xFFFFF)])) (fun t => t.rd 5 = 512 && t.ct.vl = 512) := by
  decide +kernel
/-- R156, R157: unit and strided accesses of v2. -/
theorem test_exec_vector_memory :
    leads (exec (.vst false 2 4 0) sv) (fun t => t.sram.readN 0 8 = 0x400000001) ∧
    leads (exec (.vstS false 2 4 5 0) (regs sv [(5, 8)])) (fun t => t.sram.readN 0 16 = 1 + 4 * 2 ^ 64) ∧
    leads (exec (.vld false 3 4 0) { sv with sram := Memory.writeN [] 0 8 0x900000008 }) (fun t => t.ct.vget 3 32 0 = 8 && t.ct.vget 3 32 1 = 9) ∧
    leads (exec (.vld false 3 1 0) sv) (fun t => t.ct.status = .stopped && t.ct.frec.any fun r => r.code = 2) := by decide +kernel
/-- R263, R265, R268, R285: a copy within scratch is performed and has its ticket; a launch and its id; an empty count. -/
theorem test_exec_engines :
    leads (exec (.cpy 5 10 12 0 0) { (sCp [] []) with sram := Memory.writeN [] 0x200 8 0x1122334455667788 }) (fun t => t.rd 5 = 1 && t.sram.readN 0x100 8 = 0x1122334455667788) ∧
    leads (exec (.launch 5 4) (sL 0 id)) (fun t => t.rd 5 = 1 && t.pkg.launches.map (·.todo) = [[0, 1]]) ∧
    leads (exec (.lstat 5 4 0) (sL 0 id)) (fun t => t.rd 5 = 0) := by decide +kernel
/-- R310: FRSET of a child of node 2 gives slot 1 generation 1 and depth 1. -/
theorem test_exec_trellis :
    leads (exec (.frset 12 6 5) (regs sT [(5, scr 0x40)])) (fun t => t.rd 12 = 0x101 && Node.depth (t.mem.readN 0x100040 64) = 1 && Node.parent (t.mem.readN 0x100040 64) = 0x200) := by decide +kernel

end

end Sys2Proof.Tests
end

section
/-! SUPPORT. The canonical form of both byte memories, of a result, and how updates, folds and matches keep it. -/
namespace Sys2Proof.Laws
open Sys2Proof Sys2Proof.Machine

/-! ### Results that carry a state

A function of the model gives a state, or a result of one of the model's own kinds that carries states. Each predicate says of such
a result that every state in it keeps both byte memories in their form. -/

/-- The outcome of a step. -/
def resOk : Res → Prop
  | .next t => t.memOk
  | .fault _ => True
  | .refused _ => True
/-- The result of an access to memory: `p` of its value, or a fault or a wait with its state. -/
def mresOk {α : Type} (p : α → Prop) : MRes α → Prop
  | .ok x => p x
  | .flt _ t => t.memOk
  | .stall t => t.memOk
/-- `p` of the value, where there is one. -/
def optOk {α : Type} (p : α → Prop) : Option α → Prop
  | none => True
  | some x => p x
/-- What a run of the oldest posted word comes to. -/
def vstepOk : VStep → Prop
  | .done t _ => t.memOk
  | .stop t _ _ => t.memOk
  | .wait t _ => t.memOk
/-- What an engine's step comes to. -/
def engResOk : EngRes → Prop
  | .ok t => t.memOk
  | .trap t _ => t.memOk
  | .wait t => t.memOk
/-- What a feed's read comes to. -/
def fgetOk : FGet → Prop
  | .ok _ t => t.memOk
  | .bad _ _ t => t.memOk
  | .wait t => t.memOk
/-- What a stage of a feed's engine gives. -/
def frunOk : FRun → Prop
  | .ok t _ => t.memOk
  | .bad t _ _ _ => t.memOk
  | .wait t => t.memOk
/-- What an attempt to finish more elements of a feed comes to. -/
def fmoreOk : FMore → Prop
  | .more t _ => t.memOk
  | .wait t _ => t.memOk
/-- What an engine's write of one line's part comes to. -/
def engPutOk : EngPut → Prop
  | .ready t _ => t.memOk
  | .bad t _ => t.memOk
  | .wait t => t.memOk
/-- What an operation of the coordinator on a node comes to. -/
def frResOk : FrRes → Prop
  | .done _ t => t.memOk
  | .ecc _ => True
/-- What an access of another agent in main memory comes to. -/
def homeResOk : HomeRes → Prop
  | .poison _ => True
  | .done _ t => t.memOk

/-! ### Updates, branches and folds -/

/-- An update that keeps both byte memories keeps their form. -/
theorem memOk_with {s : State} {who : Who} {ir : IWord} {ct : Ct} {others : List Ct} {sys : Vector SysCore 16} {pkg : Pkg}
    {time : Word} {events : List Instr} {plan : List Turn} {ticks draws : Nat} {powered : Bool} (h : s.memOk) :
    (State.mk who ir ct others sys s.mem s.sram pkg time events plan ticks draws powered).memOk :=
  ⟨h.1, h.2⟩
theorem memOk_ite {c : Prop} [Decidable c] {s t : State} (hs : s.memOk) (ht : t.memOk) : (if c then s else t).memOk := by
  split
  · exact hs
  · exact ht
theorem memOk_getD {o : Option State} {s : State} (ho : optOk (fun x => x.memOk) o) (h : s.memOk) : (o.getD s).memOk := by
  cases o with
  | none => exact h
  | some t => exact ho
theorem memOk_foldl {α : Type} {f : State → α → State} (hf : ∀ (t : State) (x : α), t.memOk → (f t x).memOk) {l : List α}
    {s : State} (h : s.memOk) : (l.foldl f s).memOk :=
  List.foldlRecOn l f h fun t ht x _ => hf t x ht
theorem memOk_foldl_fst {α β : Type} {f : State × β → α → State × β}
    (hf : ∀ (acc : State × β) (x : α), acc.1.memOk → (f acc x).1.memOk) {l : List α} {b : State × β} (h : b.1.memOk) :
    (l.foldl f b).1.memOk :=
  List.foldlRecOn l f h fun acc ha x _ => hf acc x ha
theorem memOk_foldl_snd {α β : Type} {f : β × State → α → β × State}
    (hf : ∀ (acc : β × State) (x : α), acc.2.memOk → (f acc x).2.memOk) {l : List α} {b : β × State} (h : b.2.memOk) :
    (l.foldl f b).2.memOk :=
  List.foldlRecOn l f h fun acc ha x _ => hf acc x ha
theorem optOk_of {α : Type} {p : α → Prop} {x : α} (h : p x) : optOk p (some x) := h
theorem optOk_bind {α β : Type} {p : α → Prop} {q : β → Prop} {o : Option α} {f : α → Option β} (ho : optOk p o)
    (hf : ∀ x, p x → optOk q (f x)) : optOk q (o.bind f) := by
  cases o with
  | none => exact ho
  | some x => exact hf x ho
theorem optOk_map {α β : Type} {p : α → Prop} {q : β → Prop} {o : Option α} {f : α → β} (ho : optOk p o)
    (hf : ∀ x, p x → q (f x)) : optOk q (o.map f) := by
  cases o with
  | none => exact ho
  | some x => exact hf x ho
theorem optOk_foldl {α β : Type} {p : β → Prop} {f : Option β → α → Option β}
    (hf : ∀ o x, optOk p o → optOk p (f o x)) {l : List α} {o : Option β} (ho : optOk p o) : optOk p (l.foldl f o) :=
  List.foldlRecOn l f ho fun o ho x _ => hf o x ho

/-! ### The state in a result, in the branch of a match where the result is known -/

theorem memOk_fst {α : Type} {p : State × α} {t : State} {x : α} (e : p = (t, x)) (h : p.1.memOk) : t.memOk := by
  subst e
  exact h
theorem resOk_next {r : Res} {t : State} (e : r = .next t) (h : resOk r) : t.memOk := by
  subst e
  exact h
theorem mresOk_ok {α : Type} {p : α → Prop} {r : MRes α} {x : α} (e : r = .ok x) (h : mresOk p r) : p x := by
  subst e
  exact h
theorem mresOk_flt {α : Type} {p : α → Prop} {r : MRes α} {c : Nat} {t : State} (e : r = .flt c t)
    (h : mresOk p r) : t.memOk := by
  subst e
  exact h
theorem mresOk_stall {α : Type} {p : α → Prop} {r : MRes α} {t : State} (e : r = .stall t) (h : mresOk p r) : t.memOk := by
  subst e
  exact h
theorem mresOk_ok_fst {α β : Type} {p : α → Prop} {r : MRes α × β} {x : α} {y : β} (e : r = (.ok x, y))
    (h : mresOk p r.1) : p x := by
  subst e
  exact h
theorem mresOk_flt_fst {α β : Type} {p : α → Prop} {r : MRes α × β} {c : Nat} {t : State} {y : β} (e : r = (.flt c t, y))
    (h : mresOk p r.1) : t.memOk := by
  subst e
  exact h
theorem mresOk_stall_fst {α β : Type} {p : α → Prop} {r : MRes α × β} {t : State} {y : β} (e : r = (.stall t, y))
    (h : mresOk p r.1) : t.memOk := by
  subst e
  exact h
theorem optOk_some {α : Type} {p : α → Prop} {o : Option α} {x : α} (e : o = some x) (h : optOk p o) : p x := by
  subst e
  exact h
theorem vstepOk_done {r : VStep} {t : State} {fl : Fl} (e : r = .done t fl) (h : vstepOk r) : t.memOk := by
  subst e
  exact h
theorem vstepOk_stop {r : VStep} {t : State} {x : Ventry} {u : Trap} (e : r = .stop t x u) (h : vstepOk r) : t.memOk := by
  subst e
  exact h
theorem vstepOk_wait {r : VStep} {t : State} {x : Ventry} (e : r = .wait t x) (h : vstepOk r) : t.memOk := by
  subst e
  exact h
theorem engResOk_ok {r : EngRes} {t : State} (e : r = .ok t) (h : engResOk r) : t.memOk := by
  subst e
  exact h
theorem engResOk_trap {r : EngRes} {t : State} {u : Trap} (e : r = .trap t u) (h : engResOk r) : t.memOk := by
  subst e
  exact h
theorem engResOk_wait {r : EngRes} {t : State} (e : r = .wait t) (h : engResOk r) : t.memOk := by
  subst e
  exact h
theorem fgetOk_ok {r : FGet} {v : Nat} {t : State} (e : r = .ok v t) (h : fgetOk r) : t.memOk := by
  subst e
  exact h
theorem fgetOk_bad {r : FGet} {c : Nat} {a : Word} {t : State} (e : r = .bad c a t) (h : fgetOk r) : t.memOk := by
  subst e
  exact h
theorem fgetOk_wait {r : FGet} {t : State} (e : r = .wait t) (h : fgetOk r) : t.memOk := by
  subst e
  exact h
theorem frunOk_ok {r : FRun} {t : State} {l} (e : r = .ok t l) (h : frunOk r) : t.memOk := by
  subst e
  exact h
theorem frunOk_bad {r : FRun} {t : State} {q c : Nat} {a : Word} (e : r = .bad t q c a) (h : frunOk r) : t.memOk := by
  subst e
  exact h
theorem frunOk_wait {r : FRun} {t : State} (e : r = .wait t) (h : frunOk r) : t.memOk := by
  subst e
  exact h
theorem fmoreOk_more {r : FMore} {t : State} {f : Feed} (e : r = .more t f) (h : fmoreOk r) : t.memOk := by
  subst e
  exact h
theorem fmoreOk_wait {r : FMore} {t : State} {f : Feed} (e : r = .wait t f) (h : fmoreOk r) : t.memOk := by
  subst e
  exact h
theorem engPutOk_ready {r : EngPut} {t : State} {w : EngWrite} (e : r = .ready t w) (h : engPutOk r) : t.memOk := by
  subst e
  exact h
theorem engPutOk_bad {r : EngPut} {t : State} {c : Nat} (e : r = .bad t c) (h : engPutOk r) : t.memOk := by
  subst e
  exact h
theorem engPutOk_wait {r : EngPut} {t : State} (e : r = .wait t) (h : engPutOk r) : t.memOk := by
  subst e
  exact h
theorem homeResOk_done {r : HomeRes} {x : Nat} {t : State} (e : r = .done x t) (h : homeResOk r) : t.memOk := by
  subst e
  exact h

end Sys2Proof.Laws
end

section
/-! SUPPORT. The canonical form of both byte memories is kept. The state, its accesses and its stores, and the device space. -/
namespace Sys2Proof.Laws
open Sys2Proof Sys2Proof.Machine

theorem memOk_setCur {s : State} {t : Stream} (h : s.memOk) : (s.setCur t).memOk := by
  unfold State.setCur
  split <;> exact memOk_with h
theorem memOk_wr {s : State} {r : SReg} {v : Word} (h : s.memOk) : (s.wr r v).memOk :=
  memOk_setCur h
theorem memOk_jump {s : State} {a : Word} (h : s.memOk) : (s.jump a).memOk := by
  unfold State.jump
  split
  · exact memOk_with h
  · exact memOk_setCur h
theorem memOk_advance {s : State} (h : s.memOk) : s.advance.memOk := memOk_jump h
theorem memOk_setSysA {s : State} {a : SysA} (h : s.memOk) : (s.setSysA a).memOk := by
  unfold State.setSysA
  split <;> exact memOk_with h
theorem memOk_withCt {s : State} {p : Ct → Bool} {f : State → State} (h : s.memOk) (hf : ∀ (a : State), a.memOk → (f a).memOk) :
    (s.withCt p f).memOk := by
  unfold State.withCt
  split
  · exact memOk_with (hf _ (memOk_with h))
  · split
    · exact h
    · dsimp only
      split
      · exact hf _ (memOk_with h)
      · exact memOk_with (hf _ (memOk_with h))
theorem memOk_onFocus {s : State} {id : BitVec 10} {f : State → State} (h : s.memOk)
    (hf : ∀ (a : State), a.memOk → (f a).memOk) : (s.onFocus id f).memOk :=
  memOk_withCt h hf
theorem memOk_raise {s : State} {t : Trap} (h : s.memOk) : (raise s t).memOk := by
  unfold raise
  split
  · exact memOk_with (memOk_with h)
  · exact memOk_with h
  · exact memOk_with h
theorem memOk_wakeOthers {s : State} {line launch g : Nat} (h : s.memOk) : (s.wakeOthers line launch g).memOk :=
  memOk_with h
theorem memOk_stored {s : State} {v : Via} {l : Loc} {self : Option Who} (h : s.memOk) : (s.stored v l self).memOk := by
  unfold State.stored
  split
  · exact h
  · exact memOk_with h
  · exact memOk_ite (memOk_with h) (memOk_with h)
  · exact memOk_with (memOk_with h)
theorem memOk_poked {s : State} {v : Via} {l : Loc} {n x : Nat} (h : s.memOk) : (s.poke v l n x).memOk :=
  memOk_poke v l n x h
theorem memOk_ordered {s : State} {f : State → State} (h : s.memOk) (hf : ∀ (a : State), a.memOk → (f a).memOk) :
    (s.ordered f).memOk :=
  memOk_afterStores h hf
theorem memOk_acquireAt {s : State} {t : Nat} (h : s.memOk) : (s.acquireAt t).memOk := by
  unfold State.acquireAt
  dsimp only
  split
  · exact memOk_with h
  · exact memOk_with h
  · exact h
theorem memOk_acquire {s : State} (h : s.memOk) : s.acquire.memOk :=
  memOk_ite (memOk_with (memOk_acquireAt h)) (memOk_acquireAt h)
theorem memOk_readEvent {s : State} {d : Side} {floor : Nat} {l : Loc} {n : Nat} (h : s.memOk) :
    (s.readEvent d floor l n).2.2.memOk := by
  unfold State.readEvent
  split <;> exact memOk_note _ _ _ _ (memOk_with h)
theorem memOk_dropLooks {s : State} {p : Ct → Bool} (h : s.memOk) : (s.dropLooks p).memOk :=
  memOk_with h
theorem memOk_dropReqs {s : State} {c : Ct} {p : Req → Bool} (h : s.memOk) : (s.dropReqs c p).memOk :=
  memOk_ite h (memOk_with h)
/-- A store of a unit of the package keeps both memories' form. -/
theorem memOk_unitStored {s : State} {pa n x : Nat} (h : s.memOk) : (s.unitStore pa n x).memOk :=
  ⟨memOk_unitStore pa n x h.1, h.2⟩
theorem memOk_logEntry {s : State} {b8 b16 kind : Nat} (h : s.memOk) : (s.logEntry b8 b16 kind).memOk :=
  memOk_ite (memOk_with (memOk_with (memOk_unitStored h))) (memOk_with h)
theorem memOk_logKind {s : State} {kind b8 b9 h w q : Nat} (hs : s.memOk) : (s.logKind kind b8 b9 h w q).memOk :=
  memOk_logEntry hs
theorem memOk_detectBy {s : State} {line agent : Nat} (h : s.memOk) : (s.detectBy line agent).memOk :=
  memOk_ite h (memOk_ite (memOk_logEntry (memOk_with h)) (memOk_logEntry (memOk_with (memOk_with h))))
theorem memOk_detectEcc {s : State} {line : Nat} (h : s.memOk) : (s.detectEcc line).memOk :=
  memOk_ite (memOk_detectBy (memOk_with h)) (memOk_detectBy h)
theorem memOk_detectWalk {s : State} {a : Word} {c : Nat} (h : s.memOk) : (s.detectWalk a c).memOk := by
  unfold State.detectWalk
  split
  · split
    · exact memOk_detectEcc h
    · exact h
  · exact h
theorem memOk_detectAt {s : State} {l : Loc} (h : s.memOk) : (s.detectAt l).memOk := by
  unfold State.detectAt
  split
  · exact memOk_ite (memOk_detectEcc h) h
  · exact h
theorem memOk_regWrite {s : State} {r : PReg8} {v : Word} (h : s.memOk) : (s.regWrite r v).memOk := by
  unfold State.regWrite
  split
  · exact memOk_with h
  · exact memOk_with h
  · exact memOk_with h
  · exact memOk_with h
  · exact memOk_with h
  · exact memOk_with h
  · exact memOk_with h
  · exact h
  · exact h
  · exact h
  · exact h
  · exact h
  · exact h
  · exact h
  · exact h
theorem memOk_regAccess {s : State} {op : ReqOp} {o n : Nat} (h : s.memOk) : (s.regAccess op o n).2.memOk := by
  unfold State.regAccess
  split
  · dsimp only
    split
    · exact memOk_unitStored h
    · exact h
  · split
    · exact memOk_with h
    · dsimp only
      split
      · exact memOk_regWrite h
      · exact h
theorem memOk_regRange {op : ReqOp} : ∀ {fuel : Nat} {s : State} {o n : Nat}, s.memOk → (s.regRange op o fuel n).2.memOk
  | 0, _, _, _, h => h
  | fuel + 1, s, o, n, h => by
    unfold State.regRange
    split
    · exact h
    · exact memOk_regRange (memOk_regAccess h)
theorem memOk_logRemote {s : State} {pa : Nat} (h : s.memOk) : (s.logRemote pa).memOk :=
  memOk_logKind h
theorem memOk_sendTo {s : State} {dest vc key : Nat} {what : List Nat} (h : s.memOk) : (s.sendTo dest vc key what).memOk := by
  unfold State.sendTo
  dsimp only
  split
  · exact h
  · exact memOk_ite (memOk_with h) (memOk_with h)
theorem memOk_retryUnsent {s : State} (h : s.memOk) : s.retryUnsent.memOk := by
  unfold State.retryUnsent
  dsimp only
  split
  · exact memOk_ite h (memOk_with h)
  · exact memOk_foldl (fun _ _ ht => memOk_sendTo ht) (memOk_with (memOk_ite h (memOk_with h)))
theorem memOk_request {s : State} {ask : DevAsk} {pa n : Nat} (h : s.memOk) : (s.request ask pa n).memOk :=
  memOk_ite (memOk_with h) (memOk_sendTo (memOk_with h))
theorem memOk_releaseFar {s : State} {plot : Nat} {ls : List Nat} (h : s.memOk) : (s.releaseFar plot ls).memOk :=
  memOk_foldl (fun _ _ ht => memOk_sendTo ht) h
theorem memOk_ask {s : State} {ask : DevAsk} {pa n : Nat} (h : s.memOk) : mresOk (fun _ => True) (s.ask ask pa n) := by
  unfold State.ask
  split
  · split
    · exact trivial
    · exact h
    · exact h
    · exact h
  · split
    · exact memOk_logRemote h
    · exact memOk_request h
theorem memOk_dev {s : State} {ask : DevAsk} {pa n : Nat} (h : s.memOk) : mresOk (fun x => x.2.memOk) (s.dev ask pa n) := by
  unfold State.dev
  split
  · exact memOk_regRange h
  · split
    · exact memOk_with h
    · next e => exact memOk_with (mresOk_flt e (memOk_ask h))
    · next e => exact mresOk_stall e (memOk_ask h)
theorem memOk_devReady {s : State} {ask : DevAsk} {pa n : Nat} (h : s.memOk) :
    mresOk (fun _ => True) (s.devReady ask pa n) := by
  unfold State.devReady
  split
  · exact trivial
  · split
    · exact trivial
    · next e => exact mresOk_flt e (memOk_ask h)
    · next e => exact mresOk_stall e (memOk_ask h)
theorem memOk_readEarly {s : State} {l : Loc} {n : Nat} (h : s.memOk) : (s.readEarly l n).2.2.memOk := by
  unfold State.readEarly
  split
  · exact memOk_readEvent (memOk_flush _ h)
  · exact h
theorem memOk_loadWith {s : State} {rd : State → Loc → Nat → Nat × Nat × State} {a : Word} {n : Nat} {k : Kind} (h : s.memOk)
    (hrd : ∀ l n, (rd s l n).2.2.memOk) : mresOk (fun x => x.2.2.memOk) (s.loadWith rd a n k) := by
  have hd : ∀ pa, mresOk (fun x : Nat × State => x.2.memOk) (s.dev ⟨s.port, .read⟩ pa n) := fun _ => memOk_dev h
  unfold State.loadWith
  split
  · exact h
  · split
    · exact memOk_detectWalk h
    · split
      · exact h
      · split
        · exact h
        · split
          · split
            · next e => exact (mresOk_ok e (hd _) :)
            · next e => exact mresOk_flt e (hd _)
            · next e => exact mresOk_stall e (hd _)
          · split
            · exact memOk_detectAt h
            · split
              · exact h
              · split
                · show State.memOk (Prod.snd (Prod.snd (if _ then _ else _)))
                  split
                  · exact memOk_readNow _ _ h
                  · exact hrd _ _
                · exact h
theorem memOk_memLoad {s : State} {a : Word} {n : Nat} {k : Kind} (h : s.memOk) :
    mresOk (fun x => x.2.memOk) (s.memLoad a n k) := by
  have hl := memOk_loadWith (a := a) (n := n) (k := k) h fun l n => memOk_readNow l n h
  unfold State.memLoad
  split
  · next e => exact (mresOk_ok e hl :)
  · next e => exact mresOk_flt e hl
  · next e => exact mresOk_stall e hl
theorem memOk_storeTo {s : State} {l : Loc} {n x : Nat} {rel : Bool} (h : s.memOk) :
    mresOk (fun x => x.memOk) (s.storeTo l n x rel) := by
  unfold State.storeTo
  split
  · split
    · exact h
    · split
      · next e => exact memOk_stored (mresOk_ok e (memOk_dev (memOk_ite (memOk_flush _ h) h)) :)
      · next e => exact mresOk_flt e (memOk_dev (memOk_ite (memOk_flush _ h) h))
      · next e => exact mresOk_stall e (memOk_dev (memOk_ite (memOk_flush _ h) h))
  · split
    · split
      · exact memOk_storeAt _ _ _ _ h
      · exact h
    · exact memOk_storeAt _ _ _ _ h
theorem memOk_memStore {s : State} {a : Word} {n x : Nat} (h : s.memOk) : mresOk (fun x => x.memOk) (s.memStore a n x) := by
  unfold State.memStore
  split
  · exact h
  · split
    · exact memOk_detectWalk h
    · split
      · exact memOk_with h
      · split
        · exact h
        · exact memOk_storeTo h
theorem memOk_orRaise {α : Type} {p : α → Prop} {m : MRes α} {a : Word} {f : α → State} (hm : mresOk p m)
    (hf : ∀ x, p x → (f x).memOk) : (m.orRaise a f).memOk := by
  cases m with
  | ok x => exact hf x hm
  | flt c t => exact memOk_raise hm
  | stall t => exact hm
theorem memOk_runExt {x : Ventry} {s : State} {sd : SReg} {a : Nat} {t : Ty} {idx : Word} (h : s.memOk) :
    vstepOk (runExt x s sd a t idx) := by
  unfold runExt
  dsimp only
  split <;> exact memOk_with h
theorem memOk_runCls {x : Ventry} {s : State} {k pd a : Nat} {ta : Ty} (h : s.memOk) : vstepOk (runCls x s k pd a ta) := by
  unfold runCls
  dsimp only
  split
  · exact memOk_with h
  · exact h
theorem memOk_runPset {x : Ventry} {s : State} {pd : Nat} {v : Bool} (h : s.memOk) : vstepOk (runPset x s pd v) := by
  unfold runPset
  dsimp only
  split
  · exact memOk_with h
  · split
    · exact h
    · exact memOk_with h

end Sys2Proof.Laws
end

section
/-! SUPPORT. The canonical form of both byte memories is kept. The run of posted vector words, their feeds and images. -/
namespace Sys2Proof.Laws
open Sys2Proof Sys2Proof.Machine

theorem memOk_planStalls {s : State} {wmb : WmBinds} {n : Nat} {k : Kind} {ps : List ElemPlan} (h : s.memOk) :
    optOk (fun x => x.memOk) (s.planStalls wmb n k ps) := by
  unfold State.planStalls
  dsimp only
  split
  · exact h
  · refine iteInduction (motive := optOk _) (fun _ => ?_) fun _ => ?_
    · exact memOk_with h
    · refine iteInduction (motive := optOk _) (fun _ => ?_) fun _ => ?_
      · exact h
      · refine iteInduction (motive := optOk _) (fun _ => ?_) fun _ => ?_
        · refine memOk_foldl_fst (fun _ _ ht => ?_) h
          split
          · split
            · next e => exact mresOk_stall e (memOk_devReady ht)
            · exact ht
          · exact ht
        · exact trivial
theorem memOk_detectMet {s : State} {a : Word} (h : s.memOk) : (s.detectMet a).memOk := by
  unfold State.detectMet
  split
  · exact memOk_detectAt h
  · split
    · exact memOk_detectEcc h
    · exact h
theorem memOk_detectAll {s : State} {ps : List ElemPlan} (h : s.memOk) : (s.detectAll ps).memOk :=
  memOk_foldl (fun _ _ ht => memOk_ite (memOk_detectMet ht) ht) h
theorem memOk_maskStop {s : State} {x : Ventry} {bad : List ElemPlan} {fl : Fl} (h : s.memOk) : vstepOk (maskStop s x bad fl) :=
  memOk_with (memOk_detectAll h)
theorem memOk_vread {s : State} {floor : Nat} {l : Loc} {n key : Nat} (h : s.memOk) : (s.vread floor l n key).2.memOk := by
  unfold State.vread
  split
  · split
    · next e => exact (mresOk_ok e (memOk_dev h) :)
    · exact h
  · exact memOk_readEvent (memOk_flush _ h)
theorem memOk_clearLines {s : State} {ws : List (Nat × Nat)} (h : s.memOk) : (s.clearLines ws).memOk :=
  memOk_ite h (memOk_with h)
theorem memOk_clearPoison {s : State} {ws : List (Nat × Nat)} (h : s.memOk) : (s.clearPoison ws).memOk :=
  memOk_ite h (memOk_clearLines h)
theorem memOk_wroteBy {s : State} {x : Ventry} {ws : List (Nat × Nat)} (h : s.memOk) : (s.wroteBy x ws).1.memOk :=
  memOk_clearPoison h
theorem memOk_readPlan {s : State} {x : Ventry} {w : Nat} {ps : List ElemPlan} (h : s.memOk) : (readPlan s x w ps).1.memOk :=
  memOk_foldl_fst (fun _ _ ht => memOk_foldl_fst (fun _ _ hv => memOk_vread hv) ht) h
theorem memOk_runLoad {x : Ventry} {s : State} {d w : Nat} {m : VMode} {base : Word} {ff : Bool} (h : s.memOk) :
    vstepOk (runLoad x s d w m base ff) := by
  unfold runLoad
  dsimp only
  split
  · exact h
  · split
    · next e => exact (optOk_some e (memOk_planStalls h) :)
    · split
      · exact memOk_with (memOk_detectAll (memOk_with (memOk_readPlan h)))
      · refine iteInduction (motive := vstepOk) (fun _ => ?_) fun _ => ?_
        · exact memOk_with (memOk_readPlan h)
        · exact memOk_maskStop (memOk_with (memOk_readPlan h))
theorem memOk_storeOne {s : State} {late : Bool} {n : Nat} {mask : Option Nat} {x : Nat} {l : Loc} {ask : DevAsk}
    (h : s.memOk) : optOk (fun x => x.memOk) (storeOne s late n mask x l ask) := by
  unfold storeOne
  refine iteInduction (motive := optOk _) (fun _ => ?_) fun _ => ?_
  · exact trivial
  · split
    · split
      · next e => exact memOk_stored (mresOk_ok e (memOk_dev h) :)
      · exact h
    · exact memOk_ite (memOk_storeBy _ _ _ _ _ _ h) (memOk_storeNow _ h)
theorem memOk_storePlan {s : State} {late : Bool} {w : Nat} {val : Nat → Nat → Nat} {ps : List ElemPlan} (h : s.memOk) :
    (storePlan s late w val ps).1.memOk := by
  unfold storePlan
  refine memOk_foldl_fst (fun _ _ ht => memOk_foldl_fst (fun _ _ hv => ?_) ht) h
  split
  · split
    · next e => exact (optOk_some e (memOk_storeOne hv) :)
    · exact hv
  · exact hv
theorem memOk_stoGo {d w : Nat} {m : VMode} {base : Word} : ∀ {es : List Nat} {s : State} {x : Ventry},
    s.memOk → vstepOk (stoGo d w m base s x es)
  | [], _, _, h => h
  | e :: es, s, x, h => by
    unfold stoGo
    dsimp only
    split
    · next e1 => exact (optOk_some e1 (memOk_planStalls h) :)
    · split
      · exact memOk_detectAll h
      · split
        · next e2 => exact memOk_stoGo (memOk_wroteBy (memOk_fst e2 (memOk_storePlan h)))
        · next e2 => exact (memOk_fst e2 (memOk_storePlan h) :)
theorem memOk_runSubStore {x : Ventry} {s : State} {w : Nat} {base : Word} {bits : Nat → Nat} {rs : List Nat} (h : s.memOk) :
    vstepOk (runSubStore x s w base bits rs) := by
  unfold runSubStore
  dsimp only
  split
  · exact memOk_with h
  · split
    · next e1 => exact (optOk_some e1 (memOk_planStalls h) :)
    · refine iteInduction (motive := vstepOk) (fun _ => ?_) fun _ => ?_
      · refine memOk_with (memOk_foldl_fst (fun _ _ ht => memOk_foldl_fst (fun _ _ hv => ?_) ht) h)
        split
        · split
          · next e3 => exact (optOk_some e3 (memOk_storeOne hv) :)
          · exact hv
        · exact hv
      · split
        · refine memOk_wroteBy (memOk_foldl_fst (fun _ _ ht => memOk_foldl_fst (fun _ _ hv => ?_) ht) h)
          split
          · split
            · next e2 => exact (optOk_some e2 (memOk_storeOne hv) :)
            · exact hv
          · exact hv
        · refine memOk_maskStop (memOk_wroteBy (memOk_foldl_fst (fun _ _ ht => memOk_foldl_fst (fun _ _ hv => ?_) ht) h))
          split
          · split
            · next e2 => exact (optOk_some e2 (memOk_storeOne hv) :)
            · exact hv
          · exact hv
theorem memOk_runStore {x : Ventry} {s : State} {d w : Nat} {m : VMode} {base : Word} {inOrder : Bool} (h : s.memOk) :
    vstepOk (runStore x s d w m base inOrder) := by
  unfold runStore
  dsimp only
  split
  · exact memOk_runSubStore h
  · split
    · exact h
    · split
      · exact memOk_stoGo h
      · split
        · next e => exact (optOk_some e (memOk_planStalls h) :)
        · split
          · exact memOk_with (memOk_storePlan h)
          · split
            · exact memOk_wroteBy (memOk_storePlan h)
            · exact memOk_maskStop (memOk_wroteBy (memOk_storePlan h))
theorem memOk_runPld {x : Ventry} {s : State} {pd : Nat} {base : Word} (h : s.memOk) : vstepOk (runPld x s pd base) := by
  unfold runPld
  dsimp only
  split
  · next e => exact (optOk_some e (memOk_planStalls h) :)
  · split
    · exact memOk_with (memOk_readPlan h)
    · exact memOk_maskStop (memOk_with (memOk_readPlan h))
theorem memOk_runPst {x : Ventry} {s : State} {pa : Nat} {base : Word} (h : s.memOk) : vstepOk (runPst x s pa base) :=
  memOk_runSubStore h
theorem memOk_rmw {s : State} {key : Nat} {l : Loc} {n : Nat} {op : AmoOp} {b d : Nat} {self : Option Who} (h : s.memOk) :
    mresOk (fun x => x.2.memOk) (s.rmw key l n op b d self) := by
  unfold State.rmw
  split
  · exact h
  · split
    · split
      · next e => exact memOk_stored (mresOk_ok e (memOk_dev h) :)
      · exact memOk_dev h
    · dsimp only
      split
      · exact memOk_stored (memOk_poked h)
      · exact h
theorem memOk_runVamo {x : Ventry} {s : State} {op : AmoOp} {d : Nat} {t : ITag} {i : Nat} {it : ITag} {base : Word}
    (h : s.memOk) : vstepOk (runVamo x s op d t i it base) := by
  unfold runVamo
  split
  · exact memOk_with h
  · dsimp only
    split
    · exact h
    · split
      · next e1 => exact (optOk_some e1 (memOk_planStalls h) :)
      · refine iteInduction (motive := vstepOk) (fun _ => ?_) fun _ => ?_
        · refine memOk_foldl (fun _ _ ht => memOk_foldl (fun _ _ hv => ?_) ht) h
          split
          · next e2 => exact memOk_note _ _ _ _ (memOk_with (mresOk_ok e2 (memOk_rmw (memOk_flush _ hv)) :))
          · exact hv
        · refine memOk_maskStop (memOk_foldl (fun _ _ ht => memOk_foldl (fun _ _ hv => ?_) ht) h)
          split
          · next e2 => exact memOk_note _ _ _ _ (memOk_with (mresOk_ok e2 (memOk_rmw (memOk_flush _ hv)) :))
          · exact hv
theorem memOk_dropFeed {s : State} {reg : Nat} (h : s.memOk) : (s.dropFeed reg).memOk :=
  memOk_dropReqs h
theorem memOk_feedGet {s : State} {w : FWho} {a : Word} {n : Nat} (h : s.memOk) : fgetOk (s.feedGet w a n) := by
  unfold State.feedGet
  split
  · exact h
  · split
    · exact h
    · split
      · exact memOk_with h
      · split
        · exact h
        · refine iteInduction (motive := fgetOk) (fun _ => ?_) fun _ => ?_
          · exact h
          · split
            · split
              · exact h
              · next e => exact mresOk_flt e (memOk_ask h)
              · next e => exact mresOk_stall e (memOk_ask h)
            · dsimp only
              split
              · exact h
              · split
                · exact h
                · exact memOk_flush _ h
theorem memOk_feedBytes {s : State} {w : FWho} {a : Word} {n : Nat} (h : s.memOk) : fgetOk (s.feedBytes w a n) := by
  induction n generalizing s a with
  | zero =>
    unfold State.feedBytes
    exact h
  | succ k ih =>
    unfold State.feedBytes
    split
    · next e1 =>
        split
        · next e2 => exact fgetOk_ok e2 (ih (fgetOk_ok e1 (memOk_feedGet h)))
        · exact ih (fgetOk_ok e1 (memOk_feedGet h))
    · exact memOk_feedGet h
theorem memOk_scaleGo {s : State} {reg : FWho} {f : Fmt} {va : Word} {blk : Nat} {rd : Rnd} {n : Nat} {l : List (Nat × Fl)}
    (h : s.memOk) : frunOk (scaleGo s reg f va blk rd n l) := by
  induction l generalizing s n with
  | nil =>
    unfold scaleGo
    exact h
  | cons x xs ih =>
    unfold scaleGo
    split
    · next e1 =>
        split
        · next e2 => exact frunOk_ok e2 (ih (fgetOk_ok e1 (memOk_feedBytes h)))
        · exact ih (fgetOk_ok e1 (memOk_feedBytes h))
    · next e1 => exact fgetOk_bad e1 (memOk_feedBytes h)
    · next e1 => exact fgetOk_wait e1 (memOk_feedBytes h)
theorem memOk_chainGo {reg : FWho} {q0 : Nat} {ops : List FeedOp} {s : State} {t : Ty} {xs : List (Nat × Fl)} (h : s.memOk) :
    frunOk (chainGo s reg q0 t ops xs) := by
  induction ops generalizing s t xs with
  | nil => exact h
  | cons op ops ih =>
    cases op with
    | expand => exact ih h
    | convert => exact ih h
    | scaleK =>
      unfold chainGo
      split <;> exact ih h
    | scaleA =>
      unfold chainGo
      split
      · split
        · next e => exact ih (frunOk_ok e (memOk_scaleGo h))
        · exact memOk_scaleGo h
      · exact ih h
    | hinv =>
      unfold chainGo
      split <;> exact ih h
theorem memOk_feedPush {s : State} {reg : FWho} {f : Feed} {xs : List (Nat × Fl)} {blk : Word} (h : s.memOk) :
    fmoreOk (feedPush s reg f xs blk) := by
  unfold feedPush
  dsimp only
  split
  · next e => exact frunOk_ok e (memOk_chainGo h)
  · next e => exact frunOk_bad e (memOk_chainGo h)
  · next e => exact frunOk_wait e (memOk_chainGo h)
theorem memOk_feedElems {s : State} {reg : FWho} {f : Feed} {n k : Nat} (h : s.memOk) : frunOk (feedElems s reg f n k) := by
  induction k generalizing s n with
  | zero =>
    unfold feedElems
    exact h
  | succ k ih =>
    unfold feedElems
    split
    · next e1 =>
        split
        · next e2 => exact frunOk_ok e2 (ih (fgetOk_ok e1 (memOk_feedGet h)))
        · exact ih (fgetOk_ok e1 (memOk_feedGet h))
    · next e1 => exact fgetOk_bad e1 (memOk_feedGet h)
    · next e1 => exact fgetOk_wait e1 (memOk_feedGet h)
theorem memOk_feedRound {s : State} {reg : FWho} {f : Feed} (h : s.memOk) : fmoreOk (feedRound s reg f) := by
  unfold feedRound
  dsimp only
  split
  · exact h
  · split
    · split
      · next e1 => exact fgetOk_bad e1 (memOk_feedGet h)
      · next e1 => exact fgetOk_wait e1 (memOk_feedGet h)
      · next e1 =>
          split
          · exact fgetOk_ok e1 (memOk_feedGet h)
          · split
            · next e2 => exact fgetOk_bad e2 (memOk_feedBytes (fgetOk_ok e1 (memOk_feedGet h)))
            · next e2 => exact fgetOk_wait e2 (memOk_feedBytes (fgetOk_ok e1 (memOk_feedGet h)))
            · next e2 => exact memOk_feedPush (fgetOk_ok e2 (memOk_feedBytes (fgetOk_ok e1 (memOk_feedGet h))))
    · split
      · next e1 => exact frunOk_bad e1 (memOk_feedElems h)
      · next e1 => exact frunOk_wait e1 (memOk_feedElems h)
      · next e1 => exact memOk_feedPush (frunOk_ok e1 (memOk_feedElems h))
theorem memOk_feedMore {s : State} {reg : Nat} {f : Feed} (h : s.memOk) : fmoreOk (feedMore s reg f) := by
  unfold feedMore
  split
  · next e => exact memOk_dropFeed (fmoreOk_more e (memOk_feedRound h))
  · exact memOk_feedRound h
theorem memOk_feedFill {s : State} {reg : Nat} {f : Feed} {n k : Nat} (h : s.memOk) : fmoreOk (feedFill s reg f n k) := by
  induction k generalizing s f with
  | zero =>
    unfold feedFill
    exact h
  | succ k ih =>
    unfold feedFill
    split
    · exact h
    · split
      · next e => exact ih (fmoreOk_more e (memOk_feedMore h))
      · exact memOk_feedMore h
theorem memOk_detectPop {s : State} {e : FeedErr} (h : s.memOk) : (s.detectPop e).memOk :=
  memOk_ite (memOk_detectMet h) h
theorem memOk_feedChecks {s : State} {vl : Nat} {l : List (Nat × Nat)} (h : s.memOk) : engResOk (feedChecks s vl l) := by
  induction l generalizing s with
  | nil =>
    unfold feedChecks
    exact h
  | cons x xs ih =>
    unfold feedChecks
    split
    · exact ih h
    · split
      · exact h
      · split
        · exact h
        · split
          · exact h
          · split
            · next e => exact memOk_with (fmoreOk_wait e (memOk_feedFill h))
            · next e =>
                dsimp only
                split
                · exact ih (memOk_with (fmoreOk_more e (memOk_feedFill h)))
                · split
                  · exact memOk_detectPop (memOk_with (fmoreOk_more e (memOk_feedFill h)))
                  · exact memOk_with (fmoreOk_more e (memOk_feedFill h))
theorem memOk_refetchPopped {s : State} {vl : Nat} {l : List Popped} (h : s.memOk) : engResOk (refetchPopped s vl l).1 := by
  induction l generalizing s with
  | nil =>
    unfold refetchPopped
    exact h
  | cons x xs ih =>
    unfold refetchPopped
    split
    · exact ih h
    · split
      · next e => exact fmoreOk_wait e (memOk_feedFill h)
      · next e =>
          split
          · exact ih (fmoreOk_more e (memOk_feedFill h))
          · split
            · split
              · exact memOk_detectPop (memOk_with (fmoreOk_more e (memOk_feedFill h)))
              · exact memOk_with (fmoreOk_more e (memOk_feedFill h))
            · split
              · exact memOk_detectPop (fmoreOk_more e (memOk_feedFill h))
              · exact fmoreOk_more e (memOk_feedFill h)
theorem memOk_popFeeds {x : Ventry} {s : State} {reads writes : List (Nat × Nat)} (h : s.memOk) :
    engResOk (popFeeds x s reads writes).1 := by
  unfold popFeeds
  split
  · exact h
  · split
    · exact memOk_refetchPopped h
    · dsimp only
      split
      · next e => exact memOk_with (engResOk_ok e (memOk_feedChecks h))
      · exact memOk_feedChecks h
theorem memOk_bindFeed {s : State} {d : Nat} {f : Option Feed} (h : s.memOk) : (s.bindFeed d f).memOk :=
  memOk_with (memOk_dropFeed h)
theorem memOk_feedBind {s : State} {d : Nat} {a fmt0 : Word} {wmb : WmBinds} (h : s.memOk) :
    engResOk (feedBind s d a fmt0 wmb) := by
  unfold feedBind
  split
  · exact memOk_bindFeed h
  · split
    · next e => exact fgetOk_wait e (memOk_feedGet h)
    · next e =>
        exact memOk_bindFeed (memOk_ite (memOk_detectMet (fgetOk_bad e (memOk_feedGet h))) (fgetOk_bad e (memOk_feedGet h)))
    · next e => split <;> exact memOk_bindFeed (fgetOk_ok e (memOk_feedGet h))
theorem memOk_feedChain {s : State} {d op : Nat} {par : Word} {t : Option Ty} {rd : Rnd} (h : s.memOk) :
    engResOk (feedChain s d op par t rd) := by
  unfold feedChain
  split
  · exact h
  · split
    · exact h
    · split
      · exact h
      · exact memOk_bindFeed h
theorem memOk_vstep {r : EngRes} {x : Ventry} {f : State → VStep} (hr : engResOk r)
    (hf : ∀ (a : State), a.memOk → vstepOk (f a)) : vstepOk (r.vstep x f) := by
  unfold EngRes.vstep
  split
  · exact hf _ hr
  · exact hr
  · exact hr
theorem memOk_runSlide {x : Ventry} {s : State} {up : Bool} {d a w : Nat} {n : Word} (h : s.memOk) :
    vstepOk (runSlide x s up d a w n) := by
  unfold runSlide
  dsimp only
  split <;> exact memOk_with h
theorem memOk_runSoftmax {x : Ventry} {s : State} {d a : Nat} {sd : SReg} {m sum : Nat} (h : s.memOk) :
    vstepOk (runSoftmax x s d a sd m sum) := by
  unfold runSoftmax
  dsimp only
  split
  · exact memOk_with h
  · exact memOk_with (memOk_with (memOk_with (memOk_with h)))
theorem memOk_runBinacc {x : Ventry} {s : State} {n bt a : Nat} {b : Option VSrc} {t : Ty} (h : s.memOk) :
    vstepOk (runBinacc x s n bt a b t) := by
  unfold runBinacc
  dsimp only
  split
  · exact h
  · exact memOk_with h
theorem memOk_runBinfold {x : Ventry} {s : State} {n bt : Nat} {sd : SReg} (h : s.memOk) :
    vstepOk (runBinfold x s n bt sd) := by
  unfold runBinfold
  split
  · exact h
  · exact memOk_with h
theorem memOk_drewNodes {s : State} {vl : Nat} (h : s.memOk) : (s.drewNodes vl).memOk :=
  memOk_ite (memOk_with h) h
theorem memOk_afterNodes {r : VStep} {s : State} {x : Ventry} (hr : vstepOk r) (h : s.memOk) : vstepOk (r.afterNodes s x) := by
  unfold VStep.afterNodes
  split
  · exact h
  · exact hr
theorem memOk_framedGo {x : Ventry} {s0 : State} {put : Ct → Nat → Nat → Ct} {f : Nat → Except FrameFault (Nat × Fl)}
    {l : List Nat} {y : Ct} {z : Fl} (h : s0.memOk) : vstepOk (framedGo x s0 put f l y z) := by
  induction l generalizing y z with
  | nil =>
    unfold framedGo
    exact memOk_drewNodes (memOk_with h)
  | cons x xs ih =>
    unfold framedGo
    split
    · exact ih
    · exact memOk_ite (memOk_detectMet (memOk_drewNodes (memOk_with h))) (memOk_drewNodes (memOk_with h))
theorem memOk_runFbin {x : Ventry} {s : State} {op : BinOp} {d a : Nat} {ta : Ty} {b : VSrc} {tb : Ty} (h : s.memOk) :
    vstepOk (runFbin x s op d a ta b tb) :=
  memOk_framedGo h
theorem memOk_runFcmp {x : Ventry} {s : State} {k : CmpOp} {pd a : Nat} {ta : Ty} {b : Nat} {tb : Ty} (h : s.memOk) :
    vstepOk (runFcmp x s k pd a ta b tb) :=
  memOk_framedGo h
theorem memOk_runFpcvt {x : Ventry} {s : State} {d a : Nat} {pos : Bool} {tag : BitVec 32} (h : s.memOk) :
    vstepOk (runFpcvt x s d a pos tag) :=
  memOk_framedGo h
theorem memOk_runMmac {x : Ventry} {s : State} {ac a : Nat} {ta tp : Ty} {i0 : Word} {rows : Option Nat} {m n k : Nat}
    (h : s.memOk) : vstepOk (runMmac x s ac a ta tp i0 rows m n k) := by
  unfold runMmac
  dsimp only
  split
  · exact h
  · exact memOk_with h
theorem memOk_runMacin {x : Ventry} {s : State} {ac a : Nat} {t : Ty} {i0 : Word} {m n : Nat} (h : s.memOk) :
    vstepOk (runMacin x s ac a t i0 m n) := by
  unfold runMacin
  dsimp only
  split
  · exact h
  · exact memOk_with h
theorem memOk_readRow {s : State} {x : Ventry} {w : Nat} {p : ElemPlan} (h : s.memOk) : (readRow s x w p).1.memOk :=
  memOk_foldl_fst (fun _ _ ht => memOk_vread ht) h
theorem memOk_writeRow {s : State} {late : Bool} {w : Nat} {p : ElemPlan} {val : Nat → Nat} (h : s.memOk) :
    optOk (fun x => x.memOk) (writeRow s late w p val) :=
  optOk_foldl (fun _ _ ho => optOk_bind ho fun _ ht => memOk_storeOne ht) h
theorem memOk_rowEnd {s : State} {x : Ventry} {bad : Option ElemPlan} {fl : Fl} (h : s.memOk) :
    vstepOk (rowEnd s x bad fl) := by
  unfold rowEnd
  split
  · exact h
  · exact memOk_with (memOk_detectAll h)
theorem memOk_runMlds {x : Ventry} {s : State} {t : Ty} {base stride : Word} {n k : Nat} (h : s.memOk) :
    vstepOk (runMlds x s t base stride n k) := by
  unfold runMlds
  split
  · exact h
  · split
    · split
      · next e => exact (optOk_some e (memOk_planStalls h) :)
      · exact memOk_rowEnd (memOk_with (memOk_foldl_fst (fun _ _ ht => by exact memOk_readRow ht) h))
theorem memOk_runMacld {x : Ventry} {s : State} {ac : Nat} {t : Ty} {base stride : Word} {m n : Nat} (h : s.memOk) :
    vstepOk (runMacld x s ac t base stride m n) := by
  unfold runMacld
  split
  · exact h
  · split
    · split
      · next e => exact (optOk_some e (memOk_planStalls h) :)
      · exact memOk_rowEnd (memOk_with (memOk_foldl_fst (fun _ _ ht => by exact memOk_readRow ht) h))
theorem memOk_writeRows {s : State} {w : Nat} {val : Nat → Nat → Nat × Fl} {cols : Nat} {good : List ElemPlan} (h : s.memOk) :
    optOk (fun x => x.1.memOk) (writeRows s w val cols good) :=
  optOk_foldl (p := fun x : State × Fl => x.1.memOk) (fun _ _ ho => optOk_bind ho fun _ ht => optOk_map (memOk_writeRow ht) fun _ hu => hu) h
theorem memOk_runRows {x : Ventry} {s : State} {w : Nat} {base stride : Word} {m cols : Nat} {val : Nat → Nat → Nat × Fl}
    (h : s.memOk) : vstepOk (runRows x s w base stride m cols val) := by
  unfold runRows
  split
  · split
    · exact memOk_with h
    · split
      · next e1 => exact (optOk_some e1 (memOk_planStalls h) :)
      · split
        · exact memOk_with h
        · next e2 => exact memOk_rowEnd (memOk_wroteBy (optOk_some e2 (memOk_writeRows h) :))
theorem memOk_runMacst {x : Ventry} {s : State} {ac : Nat} {t : Ty} {base stride : Word} {m n : Nat} (h : s.memOk) :
    vstepOk (runMacst x s ac t base stride m n) := by
  unfold runMacst
  split
  · exact h
  · exact memOk_runRows h
theorem memOk_withSeedRec {x : Ventry} {s : State} {code : BitVec 8} {rec : Word} {f : State → Nat → VStep} (h : s.memOk)
    (hf : ∀ (a : State) (b : Nat), a.memOk → vstepOk (f a b)) : vstepOk (withSeedRec x s code rec f) := by
  unfold withSeedRec
  split
  · exact h
  · dsimp only
    split
    · next e => exact (optOk_some e (memOk_planStalls h) :)
    · split
      · exact memOk_detectAll h
      · split
        · exact hf _ _ (memOk_vread h)
        · exact memOk_vread h
      · exact h
theorem memOk_runMsow {x : Ventry} {s : State} {code : BitVec 8} {f : Fmt} {rec : Word} (h : s.memOk) :
    vstepOk (runMsow x s code f rec) :=
  memOk_withSeedRec h fun _ _ ht => ⟨ht.1, ht.2⟩
theorem memOk_runMseedgen {x : Ventry} {s : State} {code : BitVec 8} {f : Fmt} {w : Nat} {rec dst : Word} (h : s.memOk) :
    vstepOk (runMseedgen x s code f w rec dst) := by
  unfold runMseedgen
  split
  · exact h
  · split
    · exact h
    · exact memOk_withSeedRec h fun _ _ ht => memOk_runRows ht
theorem memOk_scanPut {s : State} {sd : SReg} {r : Word × Int} (h : s.memOk) : (scanPut s sd r).memOk :=
  memOk_ite h (memOk_with (memOk_with h))
theorem memOk_runMseedscan {x : Ventry} {s : State} {sd : SReg} {t : Ty} {tile first count : Word} (h : s.memOk) :
    vstepOk (runMseedscan x s sd t tile first count) := by
  unfold runMseedscan
  split
  · exact h
  · split
    · exact h
    · split
      · exact memOk_scanPut h
      · split
        · split
          · next e => exact (optOk_some e (memOk_planStalls h) :)
          · split
            · exact memOk_with (memOk_detectAll h)
            · exact memOk_scanPut (memOk_foldl_fst (fun _ _ ht => by exact memOk_readRow ht) h)
theorem memOk_withImage {x : Ventry} {s : State} {k : Kind} {a : Word} {n : Nat} {op : Nat → ReqOp}
    {f : List ElemPlan → VStep} (h : s.memOk) (hf : ∀ (a : List ElemPlan), vstepOk (f a)) :
    vstepOk (withImage x s k a n op f) := by
  unfold withImage
  split
  · exact h
  · dsimp only
    split
    · next e => exact (optOk_some e (memOk_planStalls h) :)
    · split
      · exact hf _
      · exact memOk_detectAll h
theorem memOk_saveImage {x : Ventry} {s : State} {a : Word} {n img : Nat} (h : s.memOk) : vstepOk (saveImage x s a n img) := by
  refine memOk_withImage h fun ps => ?_
  dsimp only
  split
  · exact h
  · next e =>
    exact memOk_clearPoison
      (optOk_some e
         (optOk_foldl (o := some s) (p := State.memOk) (fun _ _ ho => optOk_bind ho fun _ ht => memOk_writeRow ht) h)
         :)
theorem memOk_loadImage {x : Ventry} {s : State} {a : Word} {n : Nat} {f : State → Nat → VStep} (h : s.memOk)
    (hf : ∀ (t : State) (v : Nat), t.memOk → vstepOk (f t v)) : vstepOk (loadImage x s a n f) :=
  memOk_withImage h fun _ => hf _ _ (memOk_foldl_fst (fun _ _ ht => by exact memOk_readRow ht) h)
theorem memOk_runVsave {x : Ventry} {s : State} {a : Word} {tags : List (BitVec 8)} {bts : List Nat} {sw m n k : Nat}
    (h : s.memOk) : vstepOk (runVsave x s a tags bts sw m n k) :=
  memOk_saveImage h
theorem memOk_runMsave {x : Ventry} {s : State} {a : Word} {m n k : Nat} {act sha : BitVec 8 × Word} (h : s.memOk) :
    vstepOk (runMsave x s a m n k act sha) :=
  memOk_saveImage h
theorem memOk_within {s : State} {top v : Nat} (h : s.memOk) : (s.within top v).2.memOk := by
  unfold State.within
  split
  · exact h
  · exact memOk_with h
theorem memOk_restoreV {s : State} {img : Nat} (h : s.memOk) : (restoreV s img).memOk :=
  memOk_with (memOk_within (memOk_within (memOk_within (memOk_within (memOk_within h)))))
theorem memOk_restoreM {s : State} {img : Nat} (h : s.memOk) : (restoreM s img).memOk :=
  have hw : ∀ {t : State} {n k}, t.memOk → (t.within n k).2.memOk := memOk_within
  ⟨(hw (hw (hw h))).1, (hw (hw (hw h))).2⟩
theorem memOk_runVrestore {x : Ventry} {s : State} {a : Word} (h : s.memOk) : vstepOk (runVrestore x s a) := by
  unfold runVrestore
  refine memOk_loadImage h fun _ _ ht => ?_
  split
  · exact memOk_restoreV ht
  · exact ht
theorem memOk_runMrestore {x : Ventry} {s : State} {a : Word} (h : s.memOk) : vstepOk (runMrestore x s a) := by
  unfold runMrestore
  refine memOk_loadImage h fun _ _ ht => ?_
  split
  · exact memOk_restoreM ht
  · exact ht
theorem memOk_marked {s : State} {n upto : Nat} (h : s.memOk) : (s.marked n upto).memOk := by
  unfold State.marked
  split
  · exact memOk_ite (memOk_tryFire _ (memOk_with h)) (memOk_with h)
  · exact h
theorem memOk_runFence {x : Ventry} {s : State} {vv : Bool} {upto : Nat} (h : s.memOk) : vstepOk (runFence x s vv upto) := by
  unfold runFence
  dsimp only
  split
  · split
    · exact memOk_with (memOk_flush _ h)
    · exact h
  · split
    · exact memOk_with (memOk_flush _ h)
    · exact h
theorem memOk_run {x : Ventry} {s : State} {y : Vop} (h : s.memOk) : vstepOk (Vop.run x s y) := by
  unfold Vop.run
  split
  · exact memOk_with h
  · split
    · exact memOk_runFbin h
    · exact memOk_afterNodes (memOk_runFbin h) h
  · exact memOk_with h
  · exact memOk_with h
  · exact memOk_with h
  · exact memOk_with h
  · exact memOk_with h
  · exact memOk_with h
  · exact memOk_runExt h
  · split
    · exact memOk_afterNodes (memOk_runFcmp h) h
    · exact memOk_with h
  · exact memOk_runCls h
  · exact memOk_with h
  · exact memOk_runPset h
  · exact memOk_with h
  · exact memOk_runPld h
  · exact memOk_runPst h
  · exact memOk_runLoad h
  · exact memOk_runStore h
  · exact memOk_runVamo h
  · exact memOk_with h
  · exact memOk_runSlide h
  · exact memOk_with h
  · exact memOk_with h
  · exact memOk_with h
  · exact memOk_with (memOk_with h)
  · exact memOk_runSoftmax h
  · exact memOk_with h
  · exact memOk_runBinacc h
  · exact memOk_runBinacc h
  · exact memOk_runBinfold h
  · exact memOk_with h
  · exact memOk_vstep (memOk_feedBind h) fun _ ht => ht
  · exact memOk_vstep (memOk_feedChain h) fun _ ht => ht
  · exact memOk_bindFeed h
  · exact memOk_with h
  · exact memOk_afterNodes (memOk_runFpcvt h) h
  · exact memOk_with h
  · exact memOk_with h
  · exact memOk_with h
  · exact memOk_runMlds h
  · exact memOk_runMsow h
  · exact memOk_with h
  · exact memOk_runMmac h
  · exact memOk_with h
  · exact memOk_runMacld h
  · exact memOk_runMacst h
  · exact memOk_runMacin h
  · exact memOk_runMseedgen h
  · exact memOk_runMseedscan h
  · exact memOk_marked h
  · exact memOk_with h
  · exact memOk_with h
  · exact memOk_runFence h
  · exact memOk_runVsave h
  · exact memOk_runVrestore h
  · exact memOk_runMsave h
  · exact memOk_runMrestore h
theorem memOk_runEntry {x : Ventry} {s : State} (h : s.memOk) : vstepOk (runEntry x s) :=
  memOk_vstep (memOk_popFeeds h) fun _ ht => memOk_run ht
theorem memOk_runHead {s : State} (h : s.memOk) : (runHead s).1.memOk := by
  unfold runHead
  split
  · exact h
  · split
    · next e => exact memOk_with (memOk_dropReqs (vstepOk_done e (memOk_runEntry h)))
    · next e => exact memOk_with (memOk_with (vstepOk_stop e (memOk_runEntry h)))
    · next e => exact memOk_with (vstepOk_wait e (memOk_runEntry h))
theorem memOk_drain {n : Nat} {s : State} (h : s.memOk) : (drain n s).memOk := by
  induction n generalizing s with
  | zero =>
    unfold drain
    exact h
  | succ k ih =>
    unfold drain
    split
    · split
      · next e => exact ih (memOk_fst e (memOk_runHead h))
      · next e => exact memOk_fst e (memOk_runHead h)
    · exact h
theorem memOk_settle {s : State} (h : s.memOk) : (settle s).memOk := memOk_ite h (memOk_drain h)
theorem memOk_afterViq {s : State} {f : State → State} (h : s.memOk) (hf : ∀ (a : State), a.memOk → (f a).memOk) :
    (afterViq s f).memOk :=
  memOk_ite (hf _ h) (memOk_runHead h)

end Sys2Proof.Laws
end

section
/-! SUPPORT. The canonical form of both byte memories is kept. Copies, the decode of vector words, and pages. -/
namespace Sys2Proof.Laws
open Sys2Proof Sys2Proof.Machine

theorem memOk_detectEngine {s : State} {line : Nat} (h : s.memOk) : (s.detectEngine line).memOk :=
  memOk_detectBy (memOk_with h)
theorem memOk_meets {s : State} {line : Nat} (h : s.memOk) : (s.meets line).memOk :=
  memOk_ite (memOk_detectEngine h) h
theorem memOk_engineWalk {s : State} {v : Via} {a : Word} {c : Nat} (h : s.memOk) : (s.engineWalk v a c).memOk := by
  unfold State.engineWalk
  split
  · split
    · exact memOk_detectEngine h
    · exact h
  · exact h
theorem memOk_engGet {s : State} {c : Ct} {ticket i : Nat} {a : Word} {n : Nat} (h : s.memOk) :
    (engGet s c ticket i a n).s.memOk := by
  unfold engGet
  refine List.foldlRecOn (motive := fun acc : Eng × Nat × Nat => acc.1.s.memOk) _ _ ?_ fun acc ha x _ => ?_
  · exact h
  · dsimp only
    split
    · exact ha
    · split
      · dsimp only
        exact memOk_engineWalk ha
      · split
        · exact ha
        · split
          · split
            · next e =>
                dsimp only
                exact (mresOk_ok e (memOk_dev ha) :)
            · next e =>
                dsimp only
                exact mresOk_flt e (memOk_dev ha)
            · next e =>
                dsimp only
                exact mresOk_stall e (memOk_dev ha)
          · split
            · split
              · dsimp only
                exact memOk_detectEngine ha
              · exact ha
            · exact ha
theorem memOk_engPlace {s : State} {c : Ct} {ticket i : Nat} {a : Word} {n x : Nat} (h : s.memOk) :
    engPutOk (engPlace s c ticket i a n x) := by
  unfold engPlace
  split
  · exact h
  · split
    · exact memOk_engineWalk h
    · dsimp only
      split
      · exact h
      · split
        · split
          · split
            · exact h
            · next e => exact mresOk_flt e (memOk_devReady h)
            · next e => exact mresOk_stall e (memOk_devReady h)
          · exact h
        · exact h
theorem memOk_engPut {s : State} {c : Ct} {w : EngWrite} (h : s.memOk) : (engPut s c w).memOk := by
  unfold engPut
  dsimp only
  split
  · split
    · split
      · next e => exact (mresOk_ok e (memOk_dev h) :)
      · next e => exact mresOk_flt e (memOk_dev h)
      · next e => exact mresOk_stall e (memOk_dev h)
    · exact memOk_stored (memOk_poked h)
  · exact memOk_stored (memOk_poked h)
theorem memOk_part {w : Work} {c : Ct} {ticket i : Nat} {a : Word} {n x : Nat} (hw : w.s.memOk) :
    (w.part c ticket i a n x).s.memOk := by
  unfold Work.part
  split
  · next e => exact engPutOk_ready e (memOk_engPlace hw)
  · next e => exact engPutOk_wait e (memOk_engPlace hw)
  · next e => exact engPutOk_bad e (memOk_engPlace hw)
theorem memOk_range {w : Work} {c : Ct} {ticket i : Nat} {r : Word × Nat} {v : Nat} (hw : w.s.memOk) :
    (w.range c ticket i r v).s.memOk := by
  unfold Work.range
  refine List.foldlRecOn (motive := fun acc : Work × Nat × Nat => acc.1.s.memOk) _ _ ?_ fun acc ha x _ => ?_
  · exact hw
  · dsimp only
    exact memOk_part ha
theorem memOk_engGets {s : State} {c : Ct} {ticket i : Nat} {rs : List (Word × Nat)} (h : s.memOk) :
    (rs.foldl (fun (_ : Eng) r => engGet s c ticket i r.1 r.2) { s :=
  s }).s.memOk :=
  List.foldlRecOn (motive := fun e : Eng => e.s.memOk) rs _ h fun _ _ _ _ => memOk_engGet h
theorem memOk_piece {w : Work} {c : Ct} {ticket : Nat} {q : Nat × Piece} (hw : w.s.memOk) : (w.piece c ticket q).s.memOk := by
  unfold Work.piece
  split
  · exact memOk_part hw
  · dsimp only
    split
    · exact memOk_engGets hw
    · split
      · exact memOk_engGets hw
      · exact List.foldlRecOn (motive := fun acc : Work × Nat => acc.1.s.memOk) _ _ (memOk_engGets hw)
          fun acc ha r _ => memOk_range ha
theorem memOk_workFlush {w : Work} {c : Ct} (hw : w.s.memOk) : (w.flush c).s.memOk :=
  memOk_clearLines (memOk_foldl (fun _ _ ht => memOk_engPut ht) hw)
theorem memOk_pieces {w : Work} {c : Ct} {ticket : Nat} {qs : List (Nat × Piece)} (hw : w.s.memOk) :
    (qs.foldl (fun (w : Work) q => w.piece c ticket q) w).s.memOk :=
  List.foldlRecOn (motive := fun w : Work => w.s.memOk) qs _ hw fun _ hw _ _ => memOk_piece hw
theorem memOk_copyWork {s : State} {c : Ct} {y : Copy} (h : s.memOk) : (copyWork s c y).1.memOk := by
  have hs : ({ s := s } : Work).s.memOk := h
  unfold copyWork
  dsimp only
  split
  · exact memOk_workFlush (memOk_pieces (memOk_workFlush (memOk_pieces hs)))
  · exact memOk_workFlush (memOk_pieces hs)
theorem memOk_onKey {s : State} {k : Nat} {f : Ct → Ct} (h : s.memOk) : (s.onKey k f).memOk :=
  memOk_with h
theorem memOk_released {s : State} {c : Ct} {y : Copy} (h : s.memOk) : (s.released c y).1.memOk :=
  memOk_releaseFar h
theorem memOk_copyStep {s : State} {k ticket : Nat} (h : s.memOk) : (copyStep s k ticket).memOk := by
  conv in copyStep => unfold copyStep
  split
  · exact h
  · split
    · exact h
    · split
      · exact h
      · split
        · next e1 =>
            split
            · next e2 => exact memOk_onKey (memOk_fst e2 (memOk_released (memOk_fst e1 (memOk_copyWork h))))
theorem memOk_copyIssue {s : State} {ps : List Piece} (h : s.memOk) : (copyIssue s ps).1.memOk :=
  memOk_with (memOk_released (memOk_copyWork (memOk_with h)))
theorem memOk_coverCopies {s : State} {n : Nat} {f : State → State} (h : s.memOk) (hf : ∀ (a : State), a.memOk → (f a).memOk) :
    (coverCopies s n f).memOk := by
  unfold coverCopies
  dsimp only
  split
  · exact memOk_raise h
  · exact memOk_ite (hf _ h) (memOk_foldl (fun _ _ ht => memOk_copyStep ht) h)
theorem memOk_clearHome {s : State} {pa n : Nat} (h : s.memOk) : (s.clearHome pa n).memOk := by
  unfold State.clearHome
  split
  · exact ⟨wf_clear pa n h.1, h.2⟩
  · exact memOk_writeHome n pa 0 h
theorem memOk_wroteHome {s : State} {ws : List (Nat × Nat)} (h : s.memOk) : (s.wroteHome ws).memOk :=
  memOk_ite h (memOk_clearLines h)
theorem memOk_saveVector {s : State} {c : Ct} (h : s.memOk) : (saveVector s c).memOk := by
  unfold saveVector
  split
  · exact h
  · exact memOk_wroteHome (memOk_clearHome (memOk_writeHome _ _ _ h))
theorem memOk_saveMatrix {s : State} {c : Ct} (h : s.memOk) : (saveMatrix s c).memOk := by
  unfold saveMatrix
  split
  · exact h
  · exact memOk_wroteHome (memOk_clearHome (memOk_writeHome _ _ _ h))
theorem memOk_takeVector {s : State} (h : s.memOk) : (takeVector s).memOk :=
  memOk_ite h (memOk_with (memOk_foldl (fun _ _ ht => memOk_saveVector ht) h))
theorem memOk_takeMatrix {s : State} (h : s.memOk) : (takeMatrix s).memOk :=
  memOk_ite h (memOk_with (memOk_foldl (fun _ _ ht => memOk_saveMatrix ht) h))
theorem memOk_holdVector {s : State} (h : s.memOk) : (holdVector s).memOk :=
  memOk_ite h (memOk_ite (memOk_takeMatrix (memOk_takeVector h)) (memOk_takeVector h))
theorem memOk_setConv {s : State} {v : Convoy} (h : s.memOk) : (s.setConv v).memOk := by
  unfold State.setConv
  split <;> exact memOk_with h
theorem memOk_postMark {s : State} {op : Vop} (h : s.memOk) : (postMark s op).memOk :=
  memOk_settle (memOk_with (memOk_with h))
theorem memOk_postTag {d : VRegNo} {b : BitVec 8} {op : Vop} {pg : Option PGov} {s : State} (h : s.memOk) :
    (postTag d b op pg s).memOk :=
  memOk_with (memOk_with h)
theorem memOk_vword {s : State} {c : Bool} {k : Cls} {blk : Bool} {field : State → Bool}
    {plan : State → Option (State → State)} (h : s.memOk)
    (hplan : ∀ (a : State), a.memOk → optOk (fun f => ∀ (b : State), b.memOk → (f b).memOk) (plan a)) :
    resOk (vword s c k blk field plan) := by
  have ht := memOk_takeVector h
  unfold vword
  split
  · split
    · exact memOk_runHead h
    · dsimp only
      split
      · exact memOk_raise ht
      · split
        · exact memOk_raise ht
        · next e =>
          have hf := optOk_some e (hplan _ ht)
          split
          · exact memOk_raise ht
          · split
            · exact memOk_raise ht
            · split
              · exact memOk_runHead ht
              · exact memOk_settle (memOk_advance (hf _ (memOk_setConv ht)))
  · exact memOk_raise h
theorem memOk_takeFrame {s : State} {plot : Nat} (h : s.memOk) : optOk (fun x => x.1.memOk) (s.takeFrame plot) := by
  unfold State.takeFrame
  split
  · exact trivial
  · split
    · exact trivial
    · refine memOk_dropLooks (memOk_clearLines ?_)
      exact ⟨wf_clear _ _ h.1, h.2⟩
theorem memOk_giveFrame {s : State} {plot a : Nat} (h : s.memOk) : (s.giveFrame plot a).memOk := by
  unfold State.giveFrame
  split
  · exact h
  · exact memOk_with (memOk_with h)
theorem memOk_setEntry {s : State} {pa x : Nat} (h : s.memOk) : (s.setEntry pa x).memOk :=
  ⟨wf_writeN 8 (s.home pa) x h.1, h.2⟩
theorem memOk_tableAt {s t : State} {plot pa f : Nat} (h : s.memOk) (e : s.tableAt plot pa = some (t, f)) : t.memOk := by
  unfold State.tableAt at e
  dsimp only at e
  split at e
  · cases e
    exact h
  · split at e
    · cases e
    · next e1 =>
      cases e
      have ht := (optOk_some e1 (memOk_takeFrame h) :)
      exact memOk_setEntry ht
theorem memOk_mapPage {s : State} {plot aspace va frame bits : Nat} (h : s.memOk) :
    optOk (fun x => x.memOk) (s.mapPage plot aspace va frame bits) := by
  unfold State.mapPage
  split
  · exact trivial
  · split
    · exact trivial
    · next e1 =>
      have h1 := memOk_tableAt h e1
      split
      · exact trivial
      · next e2 =>
        have h2 := memOk_tableAt h1 e2
        exact optOk_of (memOk_setEntry h2)
theorem memOk_inval {s : State} {plot aspace lo hi : Nat} (h : s.memOk) : (s.inval plot aspace lo hi).memOk :=
  memOk_with h
theorem memOk_unmapPage {s : State} {plot aspace : Nat} {pg : PoolPage} (h : s.memOk) : (s.unmapPage plot aspace pg).memOk := by
  unfold State.unmapPage
  dsimp only
  split
  · exact memOk_giveFrame (memOk_inval (memOk_setEntry h))
  · exact memOk_giveFrame (memOk_inval h)
theorem memOk_retract {s : State} {q : PoolPos} (h : s.memOk) : (s.retract q).memOk :=
  memOk_with (memOk_foldl (fun _ _ ht => memOk_unmapPage ht) h)

end Sys2Proof.Laws
end

section
/-! SUPPORT. The canonical form of both byte memories is kept. Scalar words, gangs and launches. -/
namespace Sys2Proof.Laws
open Sys2Proof Sys2Proof.Machine

theorem memOk_scal {s : State} {f : State → State} (h : s.memOk) (hf : ∀ (a : State), a.memOk → (f a).memOk) :
    resOk (scal s f) :=
  memOk_ite (memOk_raise h) (hf _ h)
theorem memOk_put {s : State} {d : SReg} {v : Word} (h : s.memOk) : (put s d v).memOk :=
  memOk_advance (memOk_wr h)
theorem memOk_branch {c : Bool} {o : BitVec 14} {s : State} (h : s.memOk) : (branch c o s).memOk :=
  memOk_ite (memOk_jump h) (memOk_advance h)
theorem memOk_loadTo {s : State} {d : SReg} {a : Word} {n : Nat} {ext : Nat → Word} (h : s.memOk) :
    (loadTo s d a n ext).memOk :=
  memOk_ite (memOk_raise h) (memOk_orRaise (memOk_loadWith h fun _ _ => memOk_readEarly h) fun _ ht => memOk_put ht)
theorem memOk_storeFrom {s : State} {a : Word} {n : Nat} {x : Word} (h : s.memOk) : (storeFrom s a n x).memOk :=
  memOk_ite (memOk_raise h) (memOk_orRaise (memOk_memStore h) fun _ ht => memOk_advance ht)
theorem memOk_fput {s : State} {d : SReg} {x : Nat × Fl} (h : s.memOk) : (fput s d x).memOk :=
  memOk_put (memOk_setSysA h)
theorem memOk_fcvtInt {s : State} {d a : SReg} {f k : BitVec 2} {rm : Rm} (h : s.memOk) : (fcvtInt s d a f k rm).memOk :=
  memOk_put (memOk_setSysA h)
theorem memOk_popped {s : State} {k : Stamp} {f : State → State} (h : s.memOk) (hf : ∀ (a : State), a.memOk → (f a).memOk) :
    (popped s k f).memOk :=
  memOk_afterStores h fun _ ht => hf _ (memOk_acquire (memOk_with ht))
theorem memOk_execQrecv {d : SReg} {q : BitVec 2} {s : State} (h : s.memOk) : resOk (execQrecv d q s) := by
  unfold execQrecv
  refine memOk_scal h fun _ ht => ?_
  split
  · exact memOk_raise ht
  · split
    · exact memOk_popped ht fun _ hu => memOk_put (memOk_with hu)
    · exact memOk_ite (memOk_raise ht) ht
theorem memOk_execBq {o : BitVec 10} {s : State} (h : s.memOk) : resOk (execBq o s) := by
  unfold execBq
  refine memOk_scal h fun _ ht => ?_
  split
  · exact memOk_raise ht
  · split
    · exact memOk_popped ht fun _ hu => memOk_ite (memOk_jump (memOk_with hu)) (memOk_advance (memOk_with hu))
    · exact memOk_ite (memOk_raise ht) ht
theorem memOk_openWords {s : State} {pa n : Nat} (h : s.memOk) : (s.openWords pa n).memOk := by
  induction n generalizing s pa with
  | zero => exact h
  | succ n ih =>
    have hm := wf_writeN 8 pa (Config.freeValue s.draws).toNat h.1
    exact ih ⟨hm, h.2⟩
theorem memOk_tables {s : State} (h : s.memOk) : s.tables.memOk := memOk_ite h (memOk_openWords h)
theorem memOk_unitWrite {s : State} {v : Via} {key : Nat} {a : Word} {n x : Nat} (h : s.memOk) :
    mresOk (fun x => x.memOk) (s.unitWrite v key a n x) := by
  unfold State.unitWrite
  split
  · exact h
  · split
    · exact memOk_engineWalk h
    · split
      · exact h
      · split
        · exact h
        · split
          · exact memOk_unitStored h
          · split
            · next e => exact (mresOk_ok e (memOk_dev h) :)
            · next e => exact mresOk_flt e (memOk_dev h)
            · next e => exact mresOk_stall e (memOk_dev h)
    · exact h
theorem memOk_unitRead {s : State} {v : Via} {key : Nat} {a : Word} {n : Nat} (h : s.memOk) :
    mresOk (fun x => x.2.memOk) (s.unitRead v key a n) := by
  unfold State.unitRead
  split
  · exact h
  · split
    · exact memOk_engineWalk h
    · split
      · exact h
      · split
        · exact h
        · split
          · exact memOk_detectEngine h
          · split
            · exact h
            · split
              · exact h
              · next e => exact mresOk_flt e (memOk_ask h)
              · next e => exact mresOk_stall e (memOk_ask h)
    · exact h
theorem memOk_forget {s : State} {key : Nat} (h : s.memOk) : (s.forget key).memOk :=
  memOk_ite h (memOk_with h)
theorem memOk_saveScalar {s : State} {c : Ct} (h : s.memOk) : (s.saveScalar c).memOk := by
  unfold State.saveScalar
  split
  · exact h
  · exact memOk_wroteHome (memOk_foldl (fun _ _ ht => memOk_writeHome _ _ _ ht) h)
theorem memOk_carryPoison {s : State} {a b n m : Nat} (h : s.memOk) : (s.carryPoison a b n m).memOk :=
  memOk_ite h (memOk_with h)
theorem memOk_saveScratch {s : State} {c : Ct} (h : s.memOk) : (s.saveScratch c).memOk := by
  unfold State.saveScratch
  split
  · exact h
  · exact memOk_carryPoison (memOk_writeHome _ _ _ (memOk_clearHome h))
theorem memOk_loadScratch {s : State} {img : Nat} {id : BitVec 10} (h : s.memOk) : (s.loadScratch img id).memOk := by
  have hr := wf_writeN (s.ssOf (coreOf id) (slotOf id)) (slotBase id) (s.readHome img (s.ssOf (coreOf id) (slotOf id))) h.2
  refine memOk_carryPoison ?_
  exact ⟨h.1, hr⟩
theorem memOk_withKey {s : State} {k : Nat} {f : State → State} (h : s.memOk) (hf : ∀ (a : State), a.memOk → (f a).memOk) :
    (s.withKey k f).memOk :=
  memOk_withCt h hf
theorem memOk_flushUsers {s : State} {plot aspace : Nat} (h : s.memOk) : (s.flushUsers plot aspace).memOk :=
  memOk_dropLooks (memOk_foldl (fun _ _ ht => memOk_withKey ht fun _ hv => memOk_flush _ hv) h)
theorem memOk_park {s : State} {c : Ct} (h : s.memOk) : (s.park c).memOk :=
  memOk_dropLooks
    (memOk_with
       (memOk_onKey
          (memOk_with
             (memOk_saveScratch
                (memOk_ite
                   (memOk_withKey h fun _ ht => memOk_flush _ ht)
                   (memOk_saveScalar (memOk_withKey h fun _ ht => memOk_flush _ ht)))))))
theorem memOk_evict {s : State} {c : Ct} {id : BitVec 10} (h : s.memOk) : (s.evict c id).memOk :=
  memOk_ite (memOk_saveMatrix (memOk_ite (memOk_saveVector h) h)) (memOk_ite (memOk_saveVector h) h)
theorem memOk_resumeCt {s : State} {c : Ct} {id : BitVec 10} (h : s.memOk) : (s.resumeCt c id).memOk := by
  unfold State.resumeCt
  dsimp only
  split
  · split
    · exact memOk_dropLooks (memOk_with (memOk_with (memOk_loadScratch (memOk_onKey (memOk_evict h)))))
    · exact memOk_dropLooks (memOk_with (memOk_onKey (memOk_evict h)))
  · exact memOk_dropLooks (memOk_with (memOk_onKey (memOk_evict h)))
theorem memOk_dropCt {s : State} {c : Ct} (h : s.memOk) : (s.dropCt c).memOk := by
  unfold State.dropCt
  dsimp only
  split
  · split
    · exact memOk_with (memOk_with (memOk_with (memOk_releaseFar (memOk_dropReqs h))))
    · exact memOk_with (memOk_with (memOk_releaseFar (memOk_dropReqs h)))
  · split
    · exact memOk_with (memOk_with (memOk_releaseFar (memOk_dropReqs h)))
    · exact memOk_with (memOk_releaseFar (memOk_dropReqs h))
theorem memOk_recordGang {s : State} {launch g die : Nat} (h : s.memOk) : (s.recordGang launch g die).memOk := by
  unfold State.recordGang
  split
  · exact h
  · exact memOk_ite (memOk_with h) (memOk_tables (memOk_with h))
theorem memOk_haltCt {s : State} (h : s.memOk) : s.haltCt.memOk :=
  memOk_ite (memOk_recordGang (memOk_dropCt h)) (memOk_dropCt h)
theorem memOk_prune {s : State} {launch g : Nat} (h : s.memOk) : (s.prune launch g).memOk :=
  memOk_with (memOk_foldl (fun _ _ ht => memOk_retract ht) (memOk_foldl (fun _ _ ht => memOk_dropCt ht) h))
theorem memOk_decideLaunch {s : State} {id c : Nat} (h : s.memOk) : (s.decideLaunch id c).memOk := by
  unfold State.decideLaunch
  split
  · exact h
  · split
    · exact h
    · exact memOk_ite h
        (memOk_tables
           (memOk_ite
              (memOk_with (memOk_with (memOk_foldl (fun _ _ ht => memOk_prune ht) (memOk_with h))))
              (memOk_with (memOk_foldl (fun _ _ ht => memOk_prune ht) (memOk_with h)))))
theorem memOk_askFar {s : State} {id g : Nat} {far : List (Nat × BitVec 8)} (h : s.memOk) : (s.askFar id g far).2.memOk := by
  unfold State.askFar
  refine memOk_foldl_snd (fun _ _ ht => ?_) h
  split
  · next e => exact mresOk_stall e (memOk_ask ht)
  · next e => exact mresOk_flt e (memOk_ask ht)
  · exact ht
theorem memOk_commitBytes {s : State} {id g : Nat} {near : List (Nat × BitVec 8)} (h : s.memOk) :
    (s.commitBytes id g near).memOk := by
  have hm := wf_foldl_write (fun c => c.1) near s.mem h.1
  refine memOk_foldl (fun _ _ ht => memOk_wakeOthers ht) (memOk_clearLines ?_)
  exact ⟨hm, h.2⟩
theorem memOk_commit {s : State} {id g : Nat} (h : s.memOk) : (s.commit id g).memOk := by
  unfold State.commit
  split
  · exact h
  · split
    · exact h
    · split
      · exact h
      · exact memOk_ite h
          (memOk_ite (memOk_askFar h) (memOk_with (memOk_with (memOk_with (memOk_commitBytes (memOk_forget (memOk_askFar h)))))))
theorem memOk_logEnd {s : State} {die : Option Nat} {q : Nat} (h : s.memOk) : (s.logEnd die q).memOk := by
  unfold State.logEnd
  split
  · exact memOk_logKind h
  · exact memOk_logKind (memOk_with h)
theorem memOk_finish {s : State} {l : Launch} (h : s.memOk) : (s.finish l).memOk := by
  unfold State.finish
  dsimp only
  split
  · exact memOk_tables (memOk_with h)
  · split
    · next e => exact memOk_tables (memOk_with (mresOk_ok e (memOk_unitWrite h) :))
    · next e => exact memOk_logEnd (memOk_tables (memOk_with (mresOk_flt e (memOk_unitWrite h))))
    · next e => exact memOk_with (mresOk_stall e (memOk_unitWrite h))
theorem memOk_abandon {s : State} {l : Launch} (h : s.memOk) : (s.abandon l).memOk :=
  memOk_finish (memOk_foldl (fun _ _ ht => memOk_prune ht) h)
theorem memOk_placeRank {s : State} {l : Launch} {g cl c0 slot r : Nat} (h : s.memOk) :
    (s.placeRank l g cl c0 slot r).memOk := by
  unfold State.placeRank
  split
  · exact h
  · have hr := wf_clear (slotBase (ctidOf (gangCore cl c0 r) slot)) (s.ssOf (gangCore cl c0 r) slot) h.2
    refine memOk_dropLooks (memOk_clearLines ?_)
    exact ⟨h.1, hr⟩
theorem memOk_placeNext {s : State} {id cl c0 slot : Nat} (h : s.memOk) :
    optOk (fun x => x.memOk) (s.placeNext id cl c0 slot) := by
  unfold State.placeNext
  split
  · exact trivial
  · split
    · exact trivial
    · split
      · exact memOk_with (memOk_foldl (fun _ _ ht => memOk_placeRank ht) (memOk_tables (memOk_with h)))
      · exact trivial
theorem memOk_relieve {s : State} {id n : Nat} (h : s.memOk) : (s.relieve id n).memOk := by
  induction n generalizing s with
  | zero =>
    unfold State.relieve
    exact h
  | succ k ih =>
    unfold State.relieve
    split
    · exact h
    · split
      · exact h
      · dsimp only
        split
        · exact h
        · split
          · exact h
          · split
            · exact ih (memOk_with (memOk_foldl (fun _ _ ht => memOk_park ht) h))
            · exact ih (memOk_foldl (fun _ _ ht => memOk_park ht) h)

end Sys2Proof.Laws
end

section
/-! SUPPORT. The canonical form of both byte memories is kept. System, engine, launch and trellis words. -/
namespace Sys2Proof.Laws
open Sys2Proof Sys2Proof.Machine

theorem memOk_csrWrite {s : State} {c : Nat} {v : Word} (h : s.memOk) : (s.csrWrite c v).memOk := by
  unfold State.csrWrite
  dsimp only
  split
  · exact memOk_with h
  · exact memOk_ite (memOk_setSysA h) h
  · exact memOk_setSysA h
  · exact memOk_setSysA h
  · exact memOk_setSysA h
  · exact memOk_setSysA h
  · exact memOk_setSysA h
  · exact memOk_setSysA h
  · exact memOk_setSysA h
  · split
    · exact memOk_setSysA h
    · split
      · exact memOk_ite (memOk_with h) h
      · exact h
theorem memOk_sysWord {c : Nat} {write : Bool} {s : State} {f : State → State} (h : s.memOk)
    (hf : ∀ (a : State), a.memOk → (f a).memOk) : resOk (sysWord c write s f) := by
  unfold sysWord
  split
  · exact memOk_raise h
  · exact memOk_ite (memOk_raise h)
      (memOk_ite (memOk_raise h)
         (memOk_ite (memOk_raise h) (memOk_ite (memOk_afterViq h hf) (memOk_ite (memOk_runHead h) (hf _ h)))))
theorem memOk_execTret {s : State} (h : s.memOk) : resOk (execTret s) := by
  unfold execTret
  refine memOk_scal h fun _ ht => ?_
  split
  · exact memOk_ite (memOk_raise ht) (memOk_with ht)
  · exact memOk_raise ht
theorem memOk_setWait {s : State} {w : Option WaitRec} (h : s.memOk) : (s.setWait w).memOk :=
  memOk_setCur h
theorem memOk_waitTurn {s : State} {w : WaitRec} (h : s.memOk) : (waitTurn s w).memOk := by
  unfold waitTurn
  split
  · exact memOk_put (memOk_setWait h)
  · exact memOk_ite (memOk_put (memOk_setWait h)) h
theorem memOk_execWait {d a b : SReg} {s : State} (h : s.memOk) : resOk (execWait d a b s) := by
  unfold execWait
  refine memOk_scal h fun _ ht => ?_
  split
  · exact memOk_waitTurn ht
  · dsimp only
    split
    · exact memOk_ite (memOk_put ht) (memOk_waitTurn (memOk_setWait ht))
    · split
      · exact ht
      · split
        · exact memOk_raise (memOk_detectWalk ht)
        · exact memOk_ite (memOk_raise ht) (memOk_ite (memOk_raise (memOk_detectAt ht)) (memOk_waitTurn (memOk_setWait ht)))
theorem memOk_sysHalt {s : State} {n : Nat} (h : s.memOk) : (sysHalt s n).memOk :=
  memOk_ite (memOk_raise h) (memOk_ite (memOk_advance (memOk_with h)) (memOk_with h))
theorem memOk_execHalt {s : State} (h : s.memOk) : resOk (execHalt s) := by
  unfold execHalt
  refine memOk_scal h fun _ ht => ?_
  split
  · exact memOk_afterViq ht fun _ hu => memOk_coverCopies hu fun _ hv => memOk_afterStores hv fun _ hw => memOk_haltCt hw
  · exact memOk_with ht
  · exact memOk_sysHalt ht
theorem memOk_amoAt {s : State} {a : Word} {n : Nat} {k : Kind} {f : Loc → State → State} (h : s.memOk)
    (hf : ∀ (a : Loc) (b : State), b.memOk → (f a b).memOk) : (amoAt s a n k f).memOk := by
  unfold amoAt
  split
  · exact memOk_with h
  · split
    · exact memOk_raise h
    · split
      · exact h
      · split
        · exact memOk_raise (memOk_detectWalk h)
        · exact memOk_ite (memOk_raise h) (memOk_ite h (memOk_ite (memOk_raise (memOk_detectAt h)) (hf _ _ h)))
theorem memOk_amo {op : AmoOp} {d a b : SReg} {w : BitVec 1} {s : State} (h : s.memOk) : resOk (amo op d a b w s) :=
  memOk_scal h fun _ ht =>
    memOk_amoAt ht fun _ _ hu =>
      memOk_ordered hu fun _ hw => memOk_orRaise (memOk_rmw hw) fun _ hx => memOk_put (memOk_acquireAt hx)
theorem memOk_execLda {d a : SReg} {w : BitVec 1} {sc : BitVec 3} {s : State} (h : s.memOk) : resOk (execLda d a w sc s) := by
  unfold execLda
  exact memOk_scal h fun _ ht =>
    memOk_amoAt ht fun _ _ hu =>
      memOk_orRaise (memOk_loadWith hu fun _ _ => memOk_readEarly hu) fun _ hw => memOk_put (memOk_acquireAt hw)
theorem memOk_execStl {a b : SReg} {w : BitVec 1} {sc : BitVec 3} {s : State} (h : s.memOk) : resOk (execStl a b w sc s) := by
  unfold execStl
  exact memOk_scal h fun _ ht => memOk_amoAt ht fun _ _ hu => memOk_orRaise (memOk_storeTo hu) fun _ hw => memOk_advance hw
theorem memOk_execFence {k : BitVec 2} {sc : BitVec 3} {s : State} (h : s.memOk) : resOk (execFence k sc s) :=
  memOk_scal h fun _ ht =>
    memOk_ite (memOk_raise ht)
      (memOk_ite (memOk_with ht)
         (memOk_ite
            (memOk_ite
               (memOk_afterViq ht fun _ hu => memOk_afterStores hu fun _ hv => memOk_advance (memOk_acquireAt hv))
               (memOk_ite
                  (memOk_afterViq ht fun _ hu => memOk_afterStores hu fun _ hv => memOk_advance (memOk_acquire hv))
                  (memOk_advance (memOk_postMark ht))))
            (memOk_ordered ht fun _ hu => memOk_advance (memOk_acquire hu))))
theorem memOk_coreWord {s : State} {f : State → State} (h : s.memOk) (hf : ∀ (a : State), a.memOk → (f a).memOk) :
    resOk (coreWord s f) :=
  memOk_scal h fun _ ht => memOk_ite (memOk_raise ht) (hf _ ht)
theorem memOk_withRoom {s : State} {f : State → State} (h : s.memOk) (hf : ∀ (a : State), a.memOk → (f a).memOk) :
    (withRoom s f).memOk :=
  memOk_ite (memOk_foldl (fun _ _ ht => memOk_copyStep ht) h) (hf _ h)
theorem memOk_issueTo {s : State} {d : SReg} {ps : List Piece} (h : s.memOk) : (issueTo s d ps).memOk :=
  memOk_put (memOk_copyIssue h)
theorem memOk_claimFar {s : State} {ls : List (Nat × Bool)} {f : State → State} (h : s.memOk)
    (hf : ∀ (a : State), a.memOk → (f a).memOk) : (claimFar s ls f).memOk := by
  unfold claimFar
  dsimp only
  generalize hr : List.foldl _ _ _ = r
  have hm : r.2.memOk := by
    rw [← hr]
    refine memOk_foldl_snd (fun _ _ ht => ?_) h
    split
    · next e => exact mresOk_stall e (memOk_ask ht)
    · next e => exact mresOk_flt e (memOk_ask ht)
    · exact ht
  exact memOk_ite (hf _ (memOk_dropReqs hm)) hm
theorem memOk_execCpy {d a b : SReg} {p : BitVec 2} {sc : BitVec 3} {s : State} (h : s.memOk) : resOk (execCpy d a b p sc s) :=
  memOk_coreWord h fun _ ht =>
    memOk_ite (memOk_raise ht)
      (memOk_ite (memOk_raise ht)
         (memOk_ite (memOk_raise ht)
            (memOk_ite (memOk_raise ht)
               (memOk_ite (memOk_with ht)
                  (memOk_withRoom ht fun _ hu =>
                     memOk_claimFar hu fun _ hv => memOk_ordered hv fun _ hw => memOk_issueTo (memOk_acquire hw))))))
theorem memOk_execCpyq {d a : SReg} {sc : BitVec 3} {s : State} (h : s.memOk) : resOk (execCpyq d a sc s) := by
  unfold execCpyq
  refine memOk_coreWord h fun _ ht => memOk_ite (memOk_raise ht) (memOk_orRaise (memOk_memLoad ht) fun _ hu => ?_)
  split
  · split
    · exact memOk_raise hu
    · exact memOk_ite (memOk_raise hu)
        (memOk_ite (memOk_raise hu)
           (memOk_ite (memOk_with hu)
              (memOk_withRoom hu fun _ hu => memOk_ordered hu fun _ hv => memOk_issueTo (memOk_acquire hv))))
theorem memOk_execCpyw {d a : SReg} {s : State} (h : s.memOk) : resOk (execCpyw d a s) :=
  memOk_coreWord h fun _ ht => memOk_ite (memOk_raise ht) (memOk_coverCopies ht fun _ hu => memOk_put (memOk_acquire hu))
theorem memOk_execCpywP {d a : SReg} {s : State} (h : s.memOk) : resOk (execCpywP d a s) := by
  unfold execCpywP
  refine memOk_coreWord h fun _ ht => ?_
  dsimp only
  split
  · exact memOk_raise ht
  · split
    · exact memOk_raise ht
    · exact memOk_put (memOk_ite (memOk_acquire ht) ht)
theorem memOk_execWdqry {a : SReg} {s : State} (h : s.memOk) : resOk (execWdqry a s) := by
  unfold execWdqry
  refine memOk_coreWord h fun _ ht => ?_
  dsimp only
  split
  · exact memOk_raise ht
  · split
    · exact memOk_raise ht
    · split
      · exact ht
      · split
        · exact memOk_raise (memOk_detectWalk ht)
        · exact memOk_ite (memOk_with ht)
            (memOk_ite ht
               (memOk_orRaise (memOk_memStore ht) fun _ hu => memOk_ite ht (memOk_advance (memOk_with (memOk_flush _ hu)))))
theorem memOk_execWmbind {a b : SReg} {k : BitVec 2} {s : State} (h : s.memOk) : resOk (execWmbind a b k s) :=
  memOk_coreWord h fun _ ht =>
    memOk_ite
      (memOk_advance (memOk_with ht))
      (memOk_ite (memOk_raise ht) (memOk_ite (memOk_raise ht) (memOk_advance (memOk_with ht))))
theorem memOk_execWmpub {a b : SReg} {s : State} (h : s.memOk) : resOk (execWmpub a b s) :=
  memOk_coreWord h fun _ ht =>
    memOk_ite (memOk_raise ht)
      (memOk_ite (memOk_with ht) (memOk_ite (memOk_advance (memOk_postMark ht)) (memOk_advance (memOk_with ht))))
theorem memOk_readLines {l : List (Word × Nat)} {s : State} (h : s.memOk) : mresOk (fun x => x.2.memOk) (readLines l s).1 := by
  induction l generalizing s with
  | nil => exact h
  | cons x xs ih =>
    unfold readLines
    split
    · next e => exact mresOk_flt e (memOk_memLoad h)
    · next e => exact mresOk_stall e (memOk_memLoad h)
    · next e1 =>
      have ht := (mresOk_ok e1 (memOk_memLoad h) :)
      split
      · next e2 => exact (mresOk_ok_fst e2 (ih ht) :)
      · exact ih ht
theorem memOk_withBytes {s : State} {a : Word} {n : Nat} {f : Nat → State → State} (h : s.memOk)
    (hf : ∀ (v : Nat) (t : State), t.memOk → (f v t).memOk) : (withBytes s a n f).memOk := by
  unfold withBytes
  split
  · next e => exact hf _ _ (mresOk_ok_fst e (memOk_readLines h) :)
  · next e => exact memOk_raise (mresOk_flt_fst e (memOk_readLines h))
  · next e => exact mresOk_stall_fst e (memOk_readLines h)
theorem memOk_enqueue {s : State} {plot queue : Nat} {d : Desc} {args : Vector Word 10} {sp : Option Spec} {n : Nat}
    {run : Option (Nat × Nat)} (h : s.memOk) : (s.enqueue plot queue d args sp n run).1.memOk :=
  memOk_tables (memOk_with h)
theorem memOk_enqueueSpec {s : State} {plot queue : Nat} {d : Desc} {args : Vector Word 10} {pa count state : Nat}
    {run : Option (Nat × Nat)} (h : s.memOk) : (s.enqueueSpec plot queue d args pa count state run).1.memOk := by
  unfold State.enqueueSpec
  split
  · exact memOk_enqueue (memOk_with h)
  · exact memOk_enqueue h
theorem memOk_withDesc {s : State} {a : Word} {ok : Plot → Nat → Bool} {f : Plot → Desc → Vector Word 10 → State → State}
    (h : s.memOk) (hf : ∀ (a : Plot) (b : Desc) (c : Vector Word 10) (d : State), d.memOk → (f a b c d).memOk) :
    (withDesc s a ok f).memOk := by
  unfold withDesc
  refine memOk_ite (memOk_with h) (memOk_ite (memOk_raise h) (memOk_withBytes h fun _ _ ht => ?_))
  split
  · exact memOk_raise ht
  · dsimp only
    split
    · split
      · exact ht
      · split
        · exact memOk_raise (memOk_meets ht)
        · exact memOk_ite (memOk_raise ht) (memOk_ite (hf _ _ _ _ ht) (memOk_withBytes ht fun _ _ hv => hf _ _ _ _ hv))
    · split
      · exact ht
      · split
        · exact memOk_raise (memOk_meets ht)
        · exact memOk_ite (memOk_raise ht) (memOk_ite (hf _ _ _ _ ht) (memOk_withBytes ht fun _ _ hv => hf _ _ _ _ hv))
theorem memOk_execLaunch {d a : SReg} {s : State} (h : s.memOk) : resOk (execLaunch d a s) :=
  memOk_coreWord h fun _ ht => memOk_withDesc ht fun _ _ _ _ hu => memOk_ite hu (memOk_put (memOk_enqueue hu))
theorem memOk_withShape {s : State} {a : Word} {k : Kind} {f : Nat → State → State} (h : s.memOk)
    (hf : ∀ (a : Nat) (b : State), b.memOk → (f a b).memOk) : (withShape s a k f).memOk := by
  unfold withShape
  split
  · exact memOk_raise h
  · split
    · exact h
    · split
      · exact memOk_raise (memOk_detectWalk h)
      · exact memOk_ite (memOk_raise h) (hf _ _ h)
      · exact memOk_raise h
theorem memOk_execLspec {d a : SReg} {s : State} (h : s.memOk) : resOk (execLspec d a s) :=
  memOk_coreWord h fun _ ht =>
    memOk_withDesc ht fun _ _ _ _ hu =>
      memOk_withShape hu fun _ _ hy =>
        memOk_ite hy
          (memOk_withBytes hy fun _ _ hh7 =>
             memOk_ite (memOk_raise hh7) (memOk_put (memOk_acquire (memOk_enqueueSpec hh7))))
theorem memOk_decideAt {s : State} {pa c : Nat} (h : s.memOk) : (s.decideAt pa c).memOk :=
  memOk_foldl (fun _ _ ht => memOk_decideLaunch ht) h
theorem memOk_decides {s : State} (h : s.memOk) : s.decides.memOk := by
  unfold State.decides
  split
  · exact h
  · exact memOk_foldl (fun _ _ ht => memOk_decideAt ht) (memOk_with h)
theorem memOk_shipped {s : State} {d : Side} {l : Loc} {c : Nat} (h : s.memOk) : (s.shipped d l c).memOk :=
  memOk_ite (memOk_postMark (memOk_note _ _ _ _ (memOk_with h))) (memOk_note _ _ _ _ (memOk_with h))
theorem memOk_shipDue {s : State} (h : s.memOk) : s.shipDue.memOk :=
  memOk_ite h (memOk_foldl (fun _ _ ht => memOk_afterStores ht fun _ hv => hv) h)
theorem memOk_execShpub {a b : SReg} {s : State} (h : s.memOk) : resOk (execShpub a b s) :=
  memOk_coreWord h fun _ ht =>
    memOk_ite (memOk_raise ht)
      (memOk_ite (memOk_raise ht)
         (memOk_withShape ht fun _ _ hu =>
            memOk_ite (memOk_with hu)
              (memOk_ite
                 (memOk_advance (memOk_decides (memOk_shipDue (memOk_shipped hu))))
                 (memOk_ite
                    (memOk_afterViq hu fun _ hw =>
                       memOk_afterStores hw fun _ hx =>
                         memOk_orRaise (memOk_memStore hx) fun _ hy => memOk_advance (memOk_decideAt hy))
                    (memOk_afterStores hu fun _ hw =>
                       memOk_orRaise (memOk_memStore hw) fun _ hx => memOk_advance (memOk_decideAt hx))))))
theorem memOk_mapPages {s : State} {plot aspace : Nat} {va : Word} {bits : Nat} {owner : Option (Nat × Nat)} {n : Nat}
    (h : s.memOk) : optOk (fun x => x.1.memOk) (s.mapPages plot aspace va bits owner n) := by
  induction n generalizing s va with
  | zero =>
    unfold State.mapPages
    exact h
  | succ k ih =>
    unfold State.mapPages
    split
    · exact trivial
    · next e1 =>
        split
        · exact trivial
        · next e2 =>
            split
            · exact trivial
            · next e3 => exact (optOk_some e3 (ih (optOk_some e2 (memOk_mapPage (optOk_some e1 (memOk_takeFrame h) :)) :)) :)
theorem memOk_execAllocr {d a b : SReg} {s : State} (h : s.memOk) : resOk (execAllocr d a b s) := by
  unfold execAllocr
  refine memOk_coreWord h fun _ ht => memOk_ite (memOk_raise ht) (memOk_orRaise (memOk_memLoad ht) fun _ hu => ?_)
  split
  · dsimp only
    split
    · exact memOk_raise hu
    · split
      · exact hu
      · next e => exact memOk_put (memOk_with (optOk_some e (memOk_mapPages hu) :))
theorem memOk_afterViqOr {s : State} {f : State → State} (h : s.memOk) (hf : ∀ (a : State), a.memOk → (f a).memOk) :
    (if s.who = .exec then afterViq s f else f s).memOk :=
  memOk_ite (memOk_afterViq h hf) (hf s h)
theorem memOk_execRetract {a b : SReg} {s : State} (h : s.memOk) : resOk (execRetract a b s) := by
  unfold execRetract
  refine memOk_coreWord h fun _ ht => memOk_ite (memOk_raise ht) (memOk_orRaise (memOk_memLoad ht) fun _ hu => ?_)
  refine memOk_ite (memOk_raise hu) (memOk_ite (memOk_with hu) (memOk_afterViqOr hu fun _ hv => ?_))
  refine memOk_coverCopies hv fun _ hw => memOk_afterStores hw fun x hx => ?_
  split
  · exact hx
  · have hy : (x.flushUsers x.ct.plot x.ct.aspace).memOk := memOk_flushUsers hx
    dsimp only
    split
    · exact memOk_advance (memOk_retract hy)
    · exact memOk_advance hy
theorem memOk_execLstat {d a : SReg} {l : BitVec 5} {s : State} (h : s.memOk) : resOk (execLstat d a l s) :=
  memOk_coreWord h fun _ ht => memOk_put (memOk_ite (memOk_ite (memOk_acquire ht) ht) ht)
theorem memOk_wakeInTime {s : State} {p : Plot} (h : s.memOk) : (s.wakeInTime p).memOk :=
  memOk_ite h (memOk_with h)
theorem memOk_countPublish {s : State} {p : Plot} {i : Nat} (h : s.memOk) : (s.countPublish p i).memOk :=
  memOk_with (memOk_with (memOk_wakeInTime h))
theorem memOk_keepNode {s : State} {p : Plot} {i k : Nat} (h : s.memOk) : (s.keepNode p i k).memOk := by
  unfold State.keepNode
  split
  · exact memOk_with h
  · exact h
theorem memOk_publish {s : State} {p : Plot} {i : Nat} {n : Node} (h : s.memOk) : (s.publish p i n).memOk :=
  memOk_countPublish (memOk_unitStored (memOk_keepNode h))
theorem memOk_frParent {s : State} {p : Plot} {i : Nat} {img : Node} {r : FrRes} (h : s.memOk)
    (e : s.frParent p i img = .error r) : frResOk r := by
  unfold State.frParent at e
  dsimp only at e
  split at e
  · split at e <;> cases e
    exact h
  · split at e
    · cases e
      exact h
    · split at e
      · cases e
        exact trivial
      · split at e
        · cases e
          exact h
        · split at e
          · cases e
            exact h
          · split at e <;> cases e
            · exact trivial
            · exact h
theorem memOk_frSet {s : State} {p : Plot} {tag : Nat} {img : Node} (h : s.memOk) : frResOk (s.frSet p tag img) := by
  unfold State.frSet
  dsimp only
  split
  · exact h
  · split
    · exact trivial
    · split
      · exact h
      · split
        · exact h
        · split
          · exact h
          · split
            · next e => exact memOk_frParent h e
            · split
              · exact memOk_publish h
              · exact memOk_publish h
theorem memOk_frDel {s : State} {p : Plot} {tag succ : Nat} (h : s.memOk) : frResOk (s.frDel p tag succ) := by
  unfold State.frDel
  dsimp only
  split
  · exact h
  · split
    · exact trivial
    · split
      · exact h
      · split
        · exact h
        · split
          · exact h
          · exact memOk_publish h
theorem memOk_frEcc {s : State} {p : Plot} {i : Nat} (h : s.memOk) : (frEcc s p i).memOk :=
  memOk_raise (memOk_detectEcc h)
theorem memOk_frEnd {s : State} {p : Plot} {d : SReg} {r : FrRes} (h : s.memOk) (hr : frResOk r) : (frEnd s p d r).memOk := by
  unfold frEnd
  split
  · exact memOk_put hr
  · exact memOk_frEcc h
theorem memOk_withPlot {s : State} {f : Plot → State} (h : s.memOk) (hf : ∀ (a : Plot), (f a).memOk) :
    (withPlot s f).memOk := by
  unfold withPlot
  split
  · exact hf _
  · exact memOk_raise h
theorem memOk_execFrset {d a b : SReg} {s : State} (h : s.memOk) : resOk (execFrset d a b s) :=
  memOk_coreWord h fun _ ht =>
    memOk_withPlot ht fun _ =>
      memOk_ite (memOk_with ht)
        (memOk_ite (memOk_raise ht)
           (memOk_ite ht (memOk_orRaise (memOk_memLoad ht) fun _ hv => memOk_frEnd hv (memOk_frSet hv))))
theorem memOk_execFrdel {d a b : SReg} {s : State} (h : s.memOk) : resOk (execFrdel d a b s) :=
  memOk_coreWord h fun _ ht =>
    memOk_withPlot ht fun _ => memOk_ite (memOk_with ht) (memOk_ite ht (memOk_frEnd ht (memOk_frDel ht)))
theorem memOk_execFrfence {s : State} (h : s.memOk) : resOk (execFrfence s) :=
  memOk_coreWord h fun _ ht => memOk_ite ht (memOk_ite (memOk_advance (memOk_with ht)) (memOk_advance (memOk_with ht)))
theorem memOk_execFrlook {d a b : SReg} {s : State} (h : s.memOk) : resOk (execFrlook d a b s) := by
  unfold execFrlook
  refine memOk_coreWord h fun _ ht => memOk_withPlot ht fun _ => ?_
  dsimp only
  split
  · exact memOk_raise ht
  · split
    · exact memOk_put ht
    · split
      · exact ht
      · split
        · exact memOk_frEcc ht
        · exact memOk_orRaise (memOk_memStore ht) fun _ hv => memOk_put hv
theorem memOk_sweepSlot {s : State} {p : Plot} {i : Nat} (h : s.memOk) : (s.sweepSlot p i).2.memOk := by
  unfold State.sweepSlot
  split
  · exact h
  · split
    · exact memOk_meets h
    · split
      · exact h
      · exact memOk_publish h
theorem memOk_repairLine {s : State} {p : Plot} {i img : Nat} (h : s.memOk) : (s.repairLine p i img).memOk := by
  unfold State.repairLine
  dsimp only
  split
  · exact memOk_countPublish (memOk_countPublish (memOk_clearLines (memOk_unitStored (memOk_keepNode (memOk_keepNode h)))))
  · exact memOk_countPublish (memOk_clearLines (memOk_unitStored (memOk_keepNode (memOk_keepNode h))))

end Sys2Proof.Laws
end

section
/-! SUPPORT. The canonical form of both byte memories is kept. The units of the package, graphs, and the host queues. -/
namespace Sys2Proof.Laws
open Sys2Proof Sys2Proof.Machine

theorem memOk_onVector {s : State} {id : BitVec 10} {f : State → State} (h : s.memOk)
    (hf : ∀ (a : State), a.memOk → (f a).memOk) : (s.onVector id f).memOk :=
  memOk_ite (memOk_withCt h hf) (memOk_onFocus h hf)
theorem memOk_syncArea {s : State} {rs : List SReg} {f : SysA} (h : s.memOk) : (s.syncArea rs f).memOk := by
  unfold State.syncArea
  split
  · exact h
  · exact memOk_foldl
      (fun _ _ ht => memOk_writeHome _ _ _ ht)
      (memOk_writeHome _ _ _ (memOk_writeHome _ _ _ (memOk_writeHome _ _ _ h)))
theorem memOk_vectorStep {s : State} (h : s.memOk) : s.vectorStep.memOk := by
  unfold State.vectorStep
  split
  · exact memOk_runHead (memOk_holdVector h)
  · exact memOk_ite h
      (memOk_ite h
         (memOk_ite (memOk_with (memOk_runHead (memOk_with h))) (memOk_syncArea (memOk_with (memOk_runHead (memOk_with h))))))
  · exact h
theorem memOk_execUopIssue {ctid : BitVec 10} {busy : Bool} {s : State} (h : s.memOk) : resOk (execUopIssue ctid busy s) :=
  memOk_onVector h fun _ ht => memOk_ite (memOk_settle (memOk_holdVector (memOk_with ht))) (memOk_with ht)
theorem memOk_execBarrierMarkerFire {ctid : BitVec 10} {n : BitVec 2} {s : State} (h : s.memOk) :
    resOk (execBarrierMarkerFire ctid n s) :=
  memOk_onVector h fun _ ht => memOk_tryFire _ (memOk_ite (memOk_vectorStep ht) ht)
theorem memOk_execOwnershipTrap {ctid : BitVec 10} {matrix : Bool} {s : State} (h : s.memOk) :
    resOk (execOwnershipTrap ctid matrix s) :=
  memOk_onFocus h fun _ ht => memOk_ite (memOk_takeMatrix ht) (memOk_takeVector ht)
theorem memOk_execPageWalk {w : Walker} {aspace : Nat} {va : Word} {s : State} (h : s.memOk) :
    resOk (execPageWalk w aspace va s) := by
  unfold execPageWalk
  dsimp only
  split
  · exact h
  · split
    · split
      · split
        · exact memOk_detectEngine h
        · exact h
      · exact h
    · exact memOk_with h
theorem memOk_execFaultRecordPost {ctid : BitVec 10} {s : State} (h : s.memOk) : resOk (execFaultRecordPost ctid s) := by
  unfold execFaultRecordPost
  split
  · exact h
  · split
    · split
      · exact h
      · split
        · exact memOk_meets h
        · exact memOk_ite h
            (memOk_with
               (memOk_onKey
                  (memOk_unitStored (memOk_unitStored (memOk_saveScalar (memOk_withKey h fun _ ht => memOk_flush _ ht))))))
    · exact h
theorem memOk_execWaitDeadline {ctid : BitVec 10} {acc : Bool} {s : State} (h : s.memOk) :
    resOk (execWaitDeadline ctid acc s) := by
  unfold execWaitDeadline
  split
  · exact h
  · split
    · exact h
    · exact memOk_with (memOk_with h)
theorem memOk_moveLine {s : State} {a b : Nat} (h : s.memOk) : (s.moveLine a b).memOk := by
  have hm := wf_copyFrom s.mem (128 * a) (128 * b) 128 h.1
  exact ⟨hm, h.2⟩
theorem memOk_complete {s : State} {status : Nat} (h : s.memOk) : (s.complete status).memOk :=
  memOk_with (memOk_with (memOk_unitStored h))
theorem memOk_execMigrationLineCopy {s : State} (h : s.memOk) : resOk (execMigrationLineCopy s) := by
  unfold execMigrationLineCopy
  split
  · exact h
  · exact memOk_ite (memOk_complete (memOk_with (memOk_moveLine h))) (memOk_with (memOk_moveLine h))
theorem memOk_poison {s : State} {line src : Nat} (h : s.memOk) : (s.poison line src).memOk :=
  memOk_ite h (memOk_with h)
theorem memOk_execScrub {line : Nat} {found : ScrubFound} {s : State} (h : s.memOk) : resOk (execScrub line found s) := by
  unfold execScrub
  split
  · exact memOk_ite (memOk_detectBy h) h
  · exact memOk_ite h (memOk_with h)
  · exact memOk_ite (memOk_detectBy (memOk_poison h)) h
theorem memOk_answerQuery {s : State} {ctid : BitVec 10} (h : s.memOk) : (s.answerQuery ctid).memOk := by
  unfold State.answerQuery
  split
  · exact h
  · split
    · dsimp only
      split
      · exact memOk_stored (memOk_poked (memOk_with (memOk_with h)))
      · exact memOk_with (memOk_with h)
    · exact h
theorem memOk_raiseMark {s : State} {p : Pub} (h : s.memOk) : (s.raiseMark p).memOk := memOk_with h
theorem memOk_execWatermarkVisible {slot : Nat} {s : State} (h : s.memOk) : resOk (execWatermarkVisible slot s) := by
  conv in execWatermarkVisible => unfold execWatermarkVisible
  obtain ⟨find, hfind⟩ : ∃ f, State.ofKey = f := ⟨_, rfl⟩
  simp only [hfind]
  split
  · exact h
  · split
    · exact memOk_raiseMark h
    · split
      · exact memOk_raiseMark (memOk_withKey h fun _ ht => memOk_flush _ ht)
      · exact h
theorem memOk_stayStopped {s : State} {c : Ct} (h : s.memOk) : (s.stayStopped c).memOk :=
  memOk_ite (memOk_onKey h) h
theorem memOk_unpark {s : State} {l : Launch} {g cl c0 slot : Nat} (h : s.memOk) :
    optOk (fun x => x.memOk) (s.unpark l g cl c0 slot) := by
  unfold State.unpark
  dsimp only
  split
  · split
    · exact memOk_with (memOk_foldl (fun _ _ ht => memOk_stayStopped (memOk_resumeCt ht)) h)
    · exact trivial
  · split
    · exact memOk_with (memOk_foldl (fun _ _ ht => memOk_stayStopped (memOk_resumeCt ht)) h)
    · exact trivial
theorem memOk_placeAll {s : State} {id : Nat} {l : List (Nat × Nat × Nat)} (h : s.memOk) :
    optOk (fun x => x.memOk) (s.placeAll id l) := by
  induction l generalizing s with
  | nil =>
    unfold State.placeAll
    exact h
  | cons x xs ih =>
    unfold State.placeAll
    split
    · next e => exact ih (optOk_some e (memOk_placeNext h) :)
    · exact trivial
theorem memOk_execAgePromotion {launch : Nat} {s : State} (h : s.memOk) : resOk (execAgePromotion launch s) := by
  unfold execAgePromotion
  split
  · exact h
  · exact memOk_ite (memOk_with h) h
theorem memOk_execRetentionWake {core : Nat} {s : State} (h : s.memOk) : resOk (execRetentionWake core s) := by
  unfold execRetentionWake
  split
  · exact h
  · exact memOk_with h
theorem memOk_readSpans {s : State} {v : Via} {key : Nat} {l : List (Word × Nat)} (h : s.memOk) :
    mresOk (fun x => x.2.memOk) (s.readSpans v key l) := by
  induction l generalizing s key with
  | nil =>
    unfold State.readSpans
    exact h
  | cons x xs ih =>
    unfold State.readSpans
    split
    · next e1 => exact mresOk_flt e1 (memOk_unitRead h)
    · next e1 =>
        split
        · next e2 => exact (mresOk_ok e2 (ih (mresOk_stall e1 (memOk_unitRead h))) :)
        · next e2 => exact mresOk_flt e2 (ih (mresOk_stall e1 (memOk_unitRead h)))
        · next e2 => exact mresOk_stall e2 (ih (mresOk_stall e1 (memOk_unitRead h)))
    · next e1 =>
        split
        · next e2 => exact (mresOk_ok e2 (ih (mresOk_ok e1 (memOk_unitRead h) :)) :)
        · exact ih (mresOk_ok e1 (memOk_unitRead h) :)
theorem memOk_readRange {s : State} {v : Via} {key : Nat} {a : Word} {n : Nat} (h : s.memOk) :
    mresOk (fun x => x.2.memOk) (s.readRange v key a n) := by
  unfold State.readRange
  split
  · next e => exact memOk_forget (mresOk_ok e (memOk_readSpans h) :)
  · next e => exact memOk_forget (mresOk_flt e (memOk_readSpans h))
  · next e => exact mresOk_stall e (memOk_readSpans h)
theorem memOk_mapExtent {s : State} {plot aspace : Nat} {base : Word} {l : List (Nat × Nat)} (h : s.memOk) :
    optOk (fun x => x.1.memOk) (s.mapExtent plot aspace base l) := by
  induction l generalizing s with
  | nil =>
    unfold State.mapExtent
    exact h
  | cons x xs ih =>
    unfold State.mapExtent
    dsimp only
    split
    · exact trivial
    · next e1 =>
        split
        · exact trivial
        · next e2 =>
            split
            · exact trivial
            · next e3 => exact (optOk_some e3 (ih (optOk_some e2 (memOk_mapPage (optOk_some e1 (memOk_takeFrame h) :)) :)) :)
theorem memOk_fillAt {s : State} {pages : List (Word × Nat)} {a : Word} {n x : Nat} (h : s.memOk) :
    (s.fillAt pages a n x).memOk := by
  unfold State.fillAt
  refine memOk_foldl_fst (fun _ _ ht => ?_) h
  split
  · exact ht
  · exact memOk_unitStored ht
theorem memOk_fillExtent {s : State} {x : Loaded} {v : Nat} {base : Word} {pages : List (Word × Nat)} (h : s.memOk) :
    (s.fillExtent x v base pages).memOk :=
  memOk_foldl (fun _ _ ht => memOk_fillAt ht) (memOk_foldl (fun _ _ ht => memOk_fillAt ht) h)
theorem memOk_refuseLoad {s : State} {e : Nat × Option Nat} (h : s.memOk) : (s.refuseLoad e).2.2.memOk := by
  unfold State.refuseLoad
  split
  · exact h
  · exact memOk_with h
theorem memOk_loadBytes {s : State} {plot aspace v size : Nat} {base : Word} (h : s.memOk) :
    (s.loadBytes plot aspace v size base).2.2.memOk := by
  unfold State.loadBytes
  split
  · exact memOk_refuseLoad h
  · split
    · exact memOk_refuseLoad h
    · dsimp only
      split
      · next e _ => exact memOk_with (memOk_fillExtent (optOk_some e (memOk_mapExtent h) :))
      · exact memOk_refuseLoad h
theorem memOk_unloadGraph {s : State} {plot h : Nat} (hs : s.memOk) : (s.unloadGraph plot h).2.memOk := by
  unfold State.unloadGraph
  split
  · exact hs
  · split
    · exact hs
    · exact memOk_with (memOk_foldl (fun _ _ ht => memOk_unmapPage ht) hs)
theorem memOk_shapeOf {s : State} {v : Via} {key : Nat} {a : Word} (h : s.memOk) :
    mresOk (fun x => x.2.memOk) (s.shapeOf v key a) := by
  unfold State.shapeOf
  split
  · split
    · next e => exact memOk_forget (mresOk_ok e (memOk_unitRead h) :)
    · next e => exact memOk_forget (mresOk_flt e (memOk_unitRead h))
    · next e => exact mresOk_stall e (memOk_unitRead h)
  · exact h
theorem memOk_argBytes {s : State} {v : Via} {key : Nat} {d : Desc} (h : s.memOk) :
    mresOk (fun x => x.2.memOk) (s.argBytes v key d) := by
  unfold State.argBytes
  split
  · exact h
  · exact memOk_readRange h
theorem memOk_issueDesc {s : State} {key plot queue : Nat} {d : Desc} {run : Option (Nat × Nat)} (h : s.memOk) :
    mresOk (fun x => x.1.memOk) (s.issueDesc key plot queue d run) := by
  unfold State.issueDesc
  dsimp only
  split
  · exact h
  · split
    · exact h
    · split
      · next e1 => exact mresOk_flt e1 (memOk_argBytes h)
      · next e1 => exact mresOk_stall e1 (memOk_argBytes h)
      · next e1 =>
          split
          · exact memOk_enqueue (mresOk_ok e1 (memOk_argBytes h) :)
          · split
            · next e2 => exact memOk_enqueueSpec (mresOk_ok e2 (memOk_shapeOf (mresOk_ok e1 (memOk_argBytes h) :)) :)
            · next e2 => exact (mresOk_ok e2 (memOk_shapeOf (mresOk_ok e1 (memOk_argBytes h) :)) :)
            · next e2 => exact mresOk_flt e2 (memOk_shapeOf (mresOk_ok e1 (memOk_argBytes h) :))
            · next e2 => exact mresOk_stall e2 (memOk_shapeOf (mresOk_ok e1 (memOk_argBytes h) :))
theorem memOk_advanceFrom {s : State} {r : Run} {g : Machine.Graph} {cls : Nat} {l : List Nat} (h : s.memOk) :
    (s.advanceFrom r g cls l).1.memOk := by
  induction l generalizing s r with
  | nil =>
    unfold State.advanceFrom
    exact h
  | cons x xs ih =>
    unfold State.advanceFrom
    split
    · exact ih h
    · split
      · exact ih h
      · split
        · exact ih h
        · split
          · next e => exact ih (mresOk_ok e (memOk_issueDesc h) :)
          · next e => exact ih (mresOk_flt e (memOk_issueDesc h))
          · next e => exact mresOk_stall e (memOk_issueDesc h)
      · exact ih h
theorem memOk_advanceRun {s : State} {r : Run} {g : Machine.Graph} {cls : Nat} (h : s.memOk) : (s.advanceRun r g cls).1.memOk :=
  memOk_advanceFrom h
theorem memOk_endRun {s : State} {r : Run} (h : s.memOk) : (s.endRun r).memOk := by
  unfold State.endRun
  dsimp only
  split
  · next e => exact memOk_with (mresOk_ok e (memOk_unitWrite h) :)
  · next e => exact memOk_logEnd (memOk_with (mresOk_flt e (memOk_unitWrite h)))
  · next e => exact mresOk_stall e (memOk_unitWrite h)
theorem memOk_stepRun {s : State} {r : Run} (h : s.memOk) : (s.stepRun r).memOk := by
  unfold State.stepRun
  split
  · exact h
  · exact memOk_ite (memOk_endRun (memOk_with (memOk_advanceRun h))) (memOk_with (memOk_advanceRun h))
theorem memOk_progress {s : State} (h : s.memOk) : s.progress.memOk :=
  memOk_foldl (fun _ _ ht => memOk_stepRun ht) h
theorem memOk_launchEnded {s : State} {l : Launch} (h : s.memOk) : (s.launchEnded l).memOk := by
  unfold State.launchEnded
  split
  · exact h
  · exact memOk_progress (memOk_with h)
theorem memOk_afterEnd {s : State} {id : Nat} (h : s.memOk) : (s.afterEnd id).memOk := by
  unfold State.afterEnd
  split
  · exact memOk_ite h (memOk_launchEnded h)
  · exact h
theorem memOk_execLaunchComplete {launch : Nat} {s : State} (h : s.memOk) : resOk (execLaunchComplete launch s) := by
  unfold execLaunchComplete
  split
  · exact memOk_progress h
  · exact memOk_ite (memOk_afterEnd (memOk_finish h)) (memOk_progress h)
theorem memOk_execGangPlace {launch : Nat} {places : List (Nat × Nat × Nat)} {s : State} (h : s.memOk) :
    resOk (execGangPlace launch places s) := by
  unfold execGangPlace
  split
  · exact h
  · split
    · exact h
    · split
      · exact memOk_getD (memOk_unpark h) h
      · exact h
      · split
        · exact h
        · split
          · exact memOk_relieve h
          · split
            · next e => exact memOk_progress (memOk_with (optOk_some e (memOk_placeAll h) :))
            · exact memOk_relieve h
theorem memOk_setQ {s : State} {h : HostQ} (hs : s.memOk) : (s.setQ h).memOk := memOk_with hs
theorem memOk_bar0 {s : State} {offset : Nat} {write : Option Word} (h : s.memOk) : (s.bar0 offset write).memOk := by
  unfold State.bar0
  split
  · exact memOk_regWrite h
  · exact h
  · exact memOk_with h
  · exact memOk_with h
theorem memOk_physStore {s : State} {key pa n x : Nat} (h : s.memOk) : mresOk (fun x => x.memOk) (s.physStore key pa n x) := by
  unfold State.physStore
  dsimp only
  split
  · exact h
  · split
    · exact memOk_unitStored h
    · split
      · next e => exact (mresOk_ok e (memOk_dev h) :)
      · next e => exact mresOk_flt e (memOk_dev h)
      · next e => exact mresOk_stall e (memOk_dev h)
theorem memOk_issued {s : State} {h : HostQ} (hs : s.memOk) : (s.issued h).memOk := memOk_setQ hs
theorem memOk_writePend {s : State} {h : HostQ} (hs : s.memOk) : (s.writePend h).memOk := by
  unfold State.writePend
  split
  · exact hs
  · split
    · next e => exact memOk_issued (mresOk_ok e (memOk_unitWrite hs) :)
    · next e => exact memOk_issued (mresOk_flt e (memOk_unitWrite hs))
    · next e => exact memOk_setQ (mresOk_stall e (memOk_unitWrite hs))
  · split
    · next e => exact memOk_setQ (mresOk_ok e (memOk_physStore hs) :)
    · next e => exact memOk_setQ (mresOk_flt e (memOk_physStore hs))
    · next e => exact memOk_setQ (mresOk_stall e (memOk_physStore hs))
theorem memOk_withPacket {s : State} {q : Nat} {f : HostQ → Nat → State → State} (h : s.memOk)
    (hf : ∀ (a : HostQ) (b : Nat) (c : State), c.memOk → (f a b c).memOk) : (withPacket s q f).memOk := by
  unfold withPacket
  split
  · exact h
  · split
    · exact memOk_writePend h
    · split
      · dsimp only
        split
        · exact h
        · split
          · exact memOk_meets h
          · split
            · exact hf _ _ _ h
            · split
              · next e => exact hf _ _ _ (mresOk_ok e (memOk_dev h) :)
              · next e => exact mresOk_flt e (memOk_dev h)
              · next e => exact mresOk_stall e (memOk_dev h)
      · exact h
theorem memOk_early {s : State} {h : HostQ} (hs : s.memOk) : (s.early h).memOk := memOk_setQ hs
theorem memOk_stopQueue {s : State} {h : HostQ} {p code reason : Nat} (hs : s.memOk) : (s.stopQueue h p code reason).memOk :=
  memOk_with (memOk_logKind (memOk_writePend hs))
theorem memOk_execQueueStale {q : BitVec 6} {s : State} (h : s.memOk) : resOk (execQueueStale q s) := by
  unfold execQueueStale
  refine memOk_withPacket h fun _ _ _ ht => ?_
  split
  · exact ht
  · split
    · exact memOk_early ht
    · exact memOk_ite (memOk_stopQueue ht) ht
theorem memOk_packet {q : BitVec 6} {mine : Nat → Bool} {ranges : HostQ → Nat → State → Bool}
    {f : HostQ → Nat → State → State} {s : State}
    (hf : ∀ (a : HostQ) (b : Nat) (c : State), c.memOk → (f a b c).memOk) (h : s.memOk) :
    resOk (packet q mine ranges f s) :=
  memOk_withPacket h fun _ _ _ ht =>
    memOk_ite (memOk_early ht) (memOk_ite ht (memOk_ite (memOk_stopQueue ht) (memOk_ite (memOk_stopQueue ht) (hf _ _ _ ht))))
theorem memOk_execLaunchPacket {q : BitVec 6} {s : State} (h : s.memOk) : resOk (execLaunchPacket q s) := by
  unfold execLaunchPacket
  refine memOk_packet (fun _ _ _ ht => ?_) h
  dsimp only
  split
  · next e2 e3 =>
      split
      · exact memOk_stopQueue (mresOk_ok e3 (memOk_readRange ht) :)
      · split
        · exact (mresOk_ok e3 (memOk_readRange ht) :)
        · split
          · exact memOk_stopQueue (memOk_meets (mresOk_ok e3 (memOk_readRange ht) :))
          · split
            · exact (mresOk_ok e3 (memOk_readRange ht) :)
            · split
              · next e1 => exact memOk_issued (mresOk_ok e1 (memOk_issueDesc (mresOk_ok e3 (memOk_readRange ht) :)) :)
              · next e1 => exact memOk_stopQueue (mresOk_flt e1 (memOk_issueDesc (mresOk_ok e3 (memOk_readRange ht) :)))
              · next e1 => exact mresOk_stall e1 (memOk_issueDesc (mresOk_ok e3 (memOk_readRange ht) :))
  · next e2 e3 => exact mresOk_stall e3 (memOk_readRange ht)
  · exact memOk_stopQueue ht
theorem memOk_result {s : State} {h : HostQ} {a : Word} {n x : Nat} (hs : s.memOk) : (s.result h a n x).memOk :=
  memOk_writePend hs
theorem memOk_execGraphLoad {q : BitVec 6} {s : State} (h : s.memOk) : resOk (execGraphLoad q s) := by
  unfold execGraphLoad
  refine memOk_packet (fun _ _ _ ht => ?_) h
  dsimp only
  split
  · next e =>
      exact memOk_ite
        (memOk_stopQueue (mresOk_ok e (memOk_readRange ht) :))
        (memOk_result (memOk_loadBytes (mresOk_ok e (memOk_readRange ht) :)))
  · next e => exact memOk_result (memOk_refuseLoad (mresOk_flt e (memOk_readRange ht)))
  · next e => exact mresOk_stall e (memOk_readRange ht)
theorem memOk_execGraphRun {q : BitVec 6} {s : State} (h : s.memOk) : resOk (execGraphRun q s) := by
  unfold execGraphRun
  refine memOk_packet (fun _ _ _ ht => ?_) h
  split
  · exact memOk_result ht
  · exact memOk_issued (memOk_stepRun (memOk_with ht))
theorem memOk_execWaitPacket {q : BitVec 6} {s : State} (h : s.memOk) : resOk (execWaitPacket q s) := by
  unfold execWaitPacket
  refine memOk_packet (fun _ _ _ ht => ?_) h
  dsimp only
  split
  · exact ht
  · split
    · exact ht
    · split
      · exact ht
      · split
        · exact memOk_meets ht
        · split
          · exact memOk_ite (memOk_issued ht) ht
          · split
            · next e1 => exact memOk_ite (memOk_issued (mresOk_ok e1 (memOk_dev ht) :)) (mresOk_ok e1 (memOk_dev ht) :)
            · next e1 => exact mresOk_flt e1 (memOk_dev ht)
            · next e1 => exact mresOk_stall e1 (memOk_dev ht)
theorem memOk_execSignal {q : BitVec 6} {s : State} (h : s.memOk) : resOk (execSignal q s) := by
  unfold execSignal
  refine memOk_packet (fun _ _ _ ht => ?_) h
  split
  · exact ht
  · dsimp only
    split
    · exact ht
    · split
      · exact memOk_issued ht
      · split
        · exact ht
        · split
          · exact memOk_issued (memOk_unitStored ht)
          · split
            · next e1 => exact memOk_issued (mresOk_ok e1 (memOk_dev ht) :)
            · next e1 => exact memOk_issued (mresOk_flt e1 (memOk_dev ht))
            · next e1 => exact mresOk_stall e1 (memOk_dev ht)

end Sys2Proof.Laws
end

section
/-! SUPPORT. The canonical form of both byte memories is kept. Coordinator commands, firmware and fabric. -/
namespace Sys2Proof.Laws
open Sys2Proof Sys2Proof.Machine

theorem memOk_command {code from_ : Nat} {f : State → Nat × State} {s : State} (hf : ∀ (a : State), a.memOk → (f a).2.memOk)
    (h : s.memOk) : resOk (command code from_ f s) :=
  memOk_ite h (memOk_ite (memOk_complete h) (memOk_complete (hf _ h)))
theorem memOk_unlessBusy {busy : State → Bool} {f : State → Res} {s : State} (hf : ∀ (a : State), a.memOk → resOk (f a))
    (h : s.memOk) : resOk (unlessBusy busy f s) := by
  unfold unlessBusy
  split
  · exact h
  · exact hf _ h
theorem memOk_commandMay {code from_ : Nat} {f : State → Option Nat × State} {s : State}
    (hf : ∀ (a : State), a.memOk → (f a).2.memOk) (h : s.memOk) : resOk (commandMay code from_ f s) := by
  unfold commandMay
  split
  · exact h
  · split
    · exact memOk_complete h
    · dsimp only
      split
      · exact memOk_complete (hf _ h)
      · exact hf _ h
theorem memOk_plotCommand {code from_ : Nat} {f : Plot → State → Nat × State} {s : State}
    (hf : ∀ (a : Plot) (b : State), b.memOk → (f a b).2.memOk) (h : s.memOk) : resOk (plotCommand code from_ f s) := by
  unfold plotCommand
  refine memOk_command (fun _ ht => ?_) h
  split
  · exact ht
  · exact hf _ _ ht
theorem memOk_addPlot {s : State} {p : Plot} (h : s.memOk) : (s.addPlot p).memOk :=
  memOk_with (memOk_clearLines (memOk_clearHome h))
theorem memOk_execPlotMake {tva : Word} {s : State} (h : s.memOk) : resOk (execPlotMake tva s) := by
  unfold execPlotMake
  refine memOk_unlessBusy (fun _ ht => memOk_command (fun _ hu => ?_) ht) h
  dsimp only
  split
  · exact hu
  · split
    · exact memOk_meets hu
    · split
      · exact hu
      · split
        · exact hu
        · split
          · exact hu
          · exact memOk_addPlot hu
theorem memOk_execPlotFree {s : State} (h : s.memOk) : resOk (execPlotFree s) := by
  unfold execPlotFree
  refine memOk_plotCommand (fun _ _ ht => ?_) h
  split
  · exact ht
  · exact memOk_with ht
theorem memOk_execCorecfg {s : State} (h : s.memOk) : resOk (execCorecfg s) := by
  unfold execCorecfg
  refine memOk_plotCommand (fun _ _ ht => ?_) h
  dsimp only
  split
  · exact ht
  · split
    · exact ht
    · split
      · exact ht
      · exact memOk_with ht
theorem memOk_resumeIn {s : State} {c : Ct} {id : BitVec 10} (h : s.memOk) : (s.resumeIn c id).memOk :=
  memOk_ite (memOk_resumeCt (memOk_park h)) (memOk_resumeCt h)
theorem memOk_execResume {s : State} (h : s.memOk) : resOk (execResume s) := by
  unfold execResume
  refine memOk_plotCommand (fun _ _ ht => ?_) h
  dsimp only
  split
  · exact ht
  · split
    · exact ht
    · split
      · exact ht
      · next c e =>
        generalize (if c.status = .saved then _ else _ : List Ct) = cs
        split
        · exact ht
        · split
          · split
            · exact ht
            · exact memOk_foldl (fun _ _ hu => memOk_resumeIn hu) ht
          · split
            · exact ht
            · split
              · exact memOk_resumeIn ht
              · exact ht
theorem memOk_execPreempt {s : State} (h : s.memOk) : resOk (execPreempt s) := by
  unfold execPreempt
  refine memOk_unlessBusy (fun _ ht => memOk_plotCommand (fun _ _ hu => ?_) ht) h
  dsimp only
  split
  · exact hu
  · split
    · exact hu
    · split
      · exact hu
      · exact memOk_foldl (fun _ _ hw => memOk_unitStored (memOk_park hw)) hu
theorem memOk_execAbandon {s : State} (h : s.memOk) : resOk (execAbandon s) := by
  unfold execAbandon
  refine memOk_commandMay (fun _ ht => ?_) h
  split
  · exact ht
  · dsimp only
    split
    · exact ht
    · split
      · exact ht
      · split
        · exact ht
        · split
          · split
            · exact memOk_abandon ht
            · exact memOk_afterEnd (memOk_abandon ht)
          · split
            · exact ht
            · split
              · exact ht
              · exact memOk_with (memOk_prune ht)
theorem memOk_execCancel {s : State} (h : s.memOk) : resOk (execCancel s) := by
  unfold execCancel
  refine memOk_plotCommand (fun _ _ ht => ?_) h
  dsimp only
  split
  · exact ht
  · split
    · exact ht
    · split
      · exact ht
      · split
        · exact ht
        · split
          · exact ht
          · exact memOk_onKey (memOk_releaseFar (memOk_dropReqs ht))
theorem memOk_renewed {s : State} {plot aspace : Nat} (h : s.memOk) : (s.renewed plot aspace).memOk :=
  memOk_with (memOk_with (memOk_flushUsers h))
theorem memOk_execInval {s : State} (h : s.memOk) : resOk (execInval s) := by
  unfold execInval
  refine memOk_unlessBusy (fun _ ht => memOk_plotCommand (fun _ _ hu => ?_) ht) h
  dsimp only
  split
  · exact hu
  · exact memOk_with (memOk_renewed (memOk_inval hu))
theorem memOk_execMigrate {s : State} (h : s.memOk) : resOk (execMigrate s) := by
  unfold execMigrate
  split
  · exact h
  · split
    · exact memOk_ite (memOk_complete h) (memOk_complete h)
    · exact memOk_ite (memOk_complete h) (memOk_ite (memOk_complete h) (memOk_ite (memOk_complete h) (memOk_with h)))
theorem memOk_execSweep {s : State} (h : s.memOk) : resOk (execSweep s) :=
  memOk_unlessBusy (fun _ ht => memOk_plotCommand (fun _ _ hu => memOk_sweepSlot hu) ht) h
theorem memOk_execTrellisRepair {s : State} (h : s.memOk) : resOk (execTrellisRepair s) := by
  unfold execTrellisRepair
  refine memOk_unlessBusy (fun _ ht => memOk_plotCommand (fun _ _ hu => ?_) ht) h
  dsimp only
  split
  · exact hu
  · split
    · exact hu
    · split
      · exact memOk_meets hu
      · exact memOk_repairLine hu
theorem memOk_execGrant {s : State} (h : s.memOk) : resOk (execGrant s) := by
  unfold execGrant
  refine memOk_plotCommand (fun _ _ ht => ?_) h
  dsimp only
  split
  · exact ht
  · split
    · exact memOk_with ht
    · split
      · exact ht
      · split
        · exact ht
        · exact memOk_with ht
theorem memOk_execHostwin {s : State} (h : s.memOk) : resOk (execHostwin s) := by
  unfold execHostwin
  refine memOk_plotCommand (fun _ _ ht => ?_) h
  dsimp only
  split
  · exact ht
  · split
    · exact memOk_with ht
    · split
      · exact ht
      · split
        · exact ht
        · exact memOk_with ht
theorem memOk_execAddrwin {s : State} (h : s.memOk) : resOk (execAddrwin s) := by
  unfold execAddrwin
  refine memOk_plotCommand (fun _ _ ht => ?_) h
  dsimp only
  split
  · exact ht
  · split
    · exact memOk_with ht
    · split
      · exact ht
      · exact memOk_with ht
theorem memOk_execQueue {s : State} (h : s.memOk) : resOk (execQueue s) := by
  unfold execQueue
  refine memOk_unlessBusy (fun _ ht => memOk_command (fun _ hu => ?_) ht) h
  dsimp only
  split
  · exact hu
  · split
    · exact memOk_with hu
    · split
      · exact hu
      · split
        · exact memOk_meets hu
        · split
          · exact hu
          · exact memOk_with hu
theorem wf_foldl_copyFrom {α : Type} (src : Memory) (from_ to_ size : α → Nat) {l : List α} {m : Memory} (h : m.wf = true) :
    (l.foldl (fun (m : Memory) e => m.copyFrom src (from_ e) (to_ e) (size e)) m).wf = true :=
  List.foldlRecOn (motive := fun m : Memory => m.wf = true) l _ h fun _ hm e _ => wf_copyFrom src (from_ e) (to_ e) (size e) hm
theorem memOk_start {s : State} {o : Nat} (h : s.memOk) : (s.start o).memOk := by
  unfold State.start
  dsimp only
  exact ⟨wf_foldl_copyFrom s.pkg.flash (fun e : MEntry => o + e.flash) (fun e => e.load) (fun e => e.size) h.1, h.2⟩
theorem memOk_raiseFuse {s : State} {n : Nat} (h : s.memOk) : (s.raiseFuse n).memOk :=
  memOk_ite (memOk_with h) h
theorem memOk_execBoot {s : State} (h : s.memOk) : resOk (execBoot s) := by
  unfold execBoot
  split
  · split
    · exact h
    · exact memOk_raiseFuse (memOk_with h)
  · exact memOk_ite (memOk_start h) (memOk_ite (memOk_start h) (memOk_with h))
theorem memOk_hold {s : State} {d : Nat} (h : s.memOk) : (s.hold d).memOk :=
  memOk_with (memOk_unitStored h)
theorem memOk_rebuild {s : State} {d : Nat} {l : Launch} (h : s.memOk) : (s.rebuild d l).memOk :=
  memOk_ite h (memOk_logKind (memOk_with (memOk_foldl (fun _ _ ht => memOk_prune ht) h)))
theorem memOk_execLeasePoll {die : BitVec 3} {s : State} (h : s.memOk) : resOk (execLeasePoll die s) :=
  memOk_ite h
    (memOk_ite
       (memOk_tables (memOk_foldl (fun _ _ ht => memOk_rebuild ht) (memOk_logKind (memOk_hold h))))
       (memOk_logKind (memOk_hold h)))
theorem memOk_execSensorRead {die : BitVec 3} {reading : Reading} {s : State} (h : s.memOk) :
    resOk (execSensorRead die reading s) := by
  unfold execSensorRead
  dsimp only
  split
  · exact h
  · split
    · exact memOk_ite (memOk_with (memOk_logKind (memOk_with h))) (memOk_with h)
    · exact memOk_ite (memOk_with (memOk_logKind h)) h
theorem memOk_stepClock {s : State} {d ev clk : Nat} {cand : List (Nat × Int)} (h : s.memOk) :
    (s.stepClock d ev clk cand).memOk :=
  memOk_logKind (memOk_with h)
theorem memOk_spdm {s : State} {msg : Nat} (h : s.memOk) : (s.spdm msg).memOk :=
  memOk_ite (memOk_with h) h
theorem memOk_receive {port : BitVec 4} {flit : Flit} {type : Nat} {f : Port → State → State} {s : State}
    (hf : ∀ (a : Port) (b : State), b.memOk → (f a b).memOk) (h : s.memOk) : resOk (receive port flit type f s) :=
  memOk_ite h (memOk_ite (memOk_with h) (memOk_ite h (memOk_ite (memOk_with h) (hf _ _ h))))
theorem memOk_logLink {s : State} {p ev ver : Nat} (h : s.memOk) : (s.logLink p ev ver).memOk :=
  memOk_logKind h
theorem memOk_setLanes {s : State} {p : Nat} {q : Port} {m : BitVec 8} (h : s.memOk) : (s.setLanes p q m).memOk :=
  memOk_ite (memOk_with h) (memOk_logLink (memOk_with h))
theorem memOk_execCapabilityFlit {port : BitVec 4} {flit : BitVec 2048} {s : State} (h : s.memOk) :
    resOk (execCapabilityFlit port flit s) :=
  memOk_receive (fun _ _ ht => memOk_ite (memOk_logLink (memOk_with ht)) (memOk_setLanes ht)) h
theorem memOk_execLinkRetrain {port : BitVec 4} {ok : Bool} {bad : BitVec 8} {s : State} (h : s.memOk) :
    resOk (execLinkRetrain port ok bad s) :=
  memOk_ite h
    (memOk_ite
       (memOk_with (memOk_setLanes (memOk_logLink h)))
       (memOk_ite (memOk_logLink (memOk_with (memOk_logLink h))) (memOk_with (memOk_logLink h))))
theorem memOk_atHome {s : State} {x : Inbound} (h : s.memOk) : homeResOk (s.atHome x) := by
  unfold State.atHome
  dsimp only
  split
  · exact trivial
  · split
    · exact memOk_with h
    · exact memOk_with h
    · split
      · exact memOk_foldl (fun _ _ ht => memOk_with ht) (memOk_clearLines (memOk_writeHome _ _ _ h))
      · exact h
theorem memOk_answerTo {s : State} {src : Option Nat} {o : Out} {what : List Nat} (h : s.memOk) :
    (s.answerTo src o what).memOk := by
  unfold State.answerTo
  split
  · exact memOk_with h
  · exact memOk_with (memOk_sendTo h)
theorem memOk_serve {s : State} {x : Inbound} (h : s.memOk) : optOk (fun x => x.memOk) (s.serve x) := by
  unfold State.serve
  split
  · exact memOk_bar0 h
  · split
    · exact trivial
    · split
      · exact memOk_answerTo (memOk_detectEngine h)
      · next e => exact memOk_answerTo (homeResOk_done e (memOk_atHome h))
theorem memOk_arrive {s : State} {x : Inbound} (h : s.memOk) : (s.arrive x).memOk :=
  memOk_ite (memOk_with h) (memOk_getD (memOk_serve h) (memOk_with h))
theorem memOk_retryInbound {s : State} (h : s.memOk) : s.retryInbound.memOk := by
  unfold State.retryInbound
  split
  · exact h
  · exact memOk_foldl (fun _ _ ht => memOk_arrive ht) (memOk_with h)
theorem memOk_execRemoteRequest {src : BitVec 5} {plot : BitVec 3} {pa n : Nat} {op : RemoteOp} {s : State} (h : s.memOk) :
    resOk (execRemoteRequest src plot pa n op s) := by
  unfold execRemoteRequest
  dsimp only
  split
  · exact memOk_ite (memOk_arrive h) (memOk_answerTo h)
  · exact memOk_ite (memOk_arrive h) (memOk_answerTo h)
  · split
    · exact memOk_ite (memOk_arrive h) (memOk_answerTo h)
    · exact memOk_answerTo h
  · exact memOk_ite (memOk_arrive h) (memOk_answerTo h)
  · exact memOk_arrive h
theorem memOk_execRemoteTimeout {key : Nat} {s : State} (h : s.memOk) : resOk (execRemoteTimeout key s) := by
  unfold execRemoteTimeout
  split
  · exact h
  · exact memOk_logRemote (memOk_with h)
theorem memOk_hostRefused {s : State} {code o : Nat} {out : Out} (h : s.memOk) : (s.hostRefused code o out).memOk :=
  memOk_logKind (memOk_with h)
theorem memOk_hostAsks {s : State} {code o n : Nat} {op : ReqOp} {out : Out} (h : s.memOk) :
    (s.hostAsks code o n op out).memOk := by
  unfold State.hostAsks
  split
  · exact memOk_arrive h
  · exact memOk_hostRefused h
theorem memOk_execHostBar2Access {offset n : Nat} {write : Option Nat} {s : State} (h : s.memOk) :
    resOk (execHostBar2Access offset n write s) := by
  unfold execHostBar2Access
  split <;> exact memOk_hostAsks h
theorem memOk_contribute {s : State} {c : Coll} (h : s.memOk) : (s.contribute c).memOk :=
  memOk_foldl (fun _ _ ht => memOk_sendTo ht) h
theorem memOk_collected {s : State} {c : Coll} {e x : Nat} (h : s.memOk) : (s.collected c e x).memOk :=
  memOk_foldl (fun _ _ ht => memOk_with ht) (memOk_writeHome _ _ _ h)
theorem memOk_collectMet {s : State} (h : s.memOk) : s.collectMet.memOk := by
  unfold State.collectMet
  dsimp only
  split
  · exact memOk_meets h
  · split
    · exact memOk_meets h
    · exact h
theorem memOk_withCollect {s : State} {f : Coll → State → State} (h : s.memOk)
    (hf : ∀ (a : Coll) (b : State), b.memOk → (f a b).memOk) : resOk (withCollect s f) := by
  unfold withCollect
  split
  · exact h
  · split
    · exact memOk_complete h
    · split
      · exact memOk_complete h
      · split
        · exact memOk_complete (memOk_ite (memOk_collectMet h) h)
        · exact memOk_ite h (hf _ _ h)
theorem memOk_execCollect {parts : List CollectPart} {s : State} (h : s.memOk) : resOk (execCollect parts s) :=
  memOk_withCollect h fun _ _ ht =>
    memOk_ite ht
      (memOk_ite
         (memOk_complete (memOk_contribute ht))
         (memOk_complete (memOk_wroteHome (memOk_foldl (fun _ _ hv => memOk_collected hv) (memOk_contribute ht)))))
theorem memOk_execCollectMemberTimeout {s : State} (h : s.memOk) : resOk (execCollectMemberTimeout s) :=
  memOk_withCollect h fun _ _ ht =>
    memOk_complete (memOk_wroteHome (memOk_foldl (fun _ _ hv => memOk_with (memOk_collected hv)) (memOk_contribute ht)))
theorem memOk_execTimeSyncExchange {t1 t2 t3 t4 : Word} {hops : Nat} {s : State} (h : s.memOk) :
    resOk (execTimeSyncExchange t1 t2 t3 t4 hops s) :=
  memOk_ite h (memOk_ite (memOk_sendTo (memOk_with h)) (memOk_with (memOk_sendTo (memOk_with h))))

end Sys2Proof.Laws
end

section
/-! SUPPORT. The canonical form of both byte memories is kept. Vector words. -/
namespace Sys2Proof.Laws
open Sys2Proof Sys2Proof.Machine

theorem memOk_vpctl {s : State} {c : Bool} {outside : State → Convoy → State} {inside : State → Block → Machine.Group → State}
    (h : s.memOk) (houtside : ∀ (a : State) (b : Convoy), a.memOk → (outside a b).memOk)
    (hinside : ∀ (a : State) (b : Block) (c : Machine.Group), a.memOk → (inside a b c).memOk) :
    resOk (vpctl s c outside inside) := by
  unfold vpctl
  split
  · split
    · exact memOk_runHead h
    · dsimp only
      split
      · exact memOk_raise (memOk_takeVector h)
      · split
        · exact hinside _ _ _ (memOk_takeVector h)
        · exact houtside _ _ (memOk_takeVector h)
  · exact memOk_raise h
theorem memOk_execVfetch {o : BitVec 16} {s : State} (h : s.memOk) : resOk (execVfetch o s) :=
  memOk_vpctl h
    (fun _ _ ht => memOk_ite (memOk_advance (memOk_setConv ht)) (memOk_with (memOk_setConv ht)))
    fun _ _ _ ht => memOk_ite (memOk_raise ht) (memOk_with ht)
theorem memOk_execVpbr {c : Bool} {a : PRegNo} {o : BitVec 16} {s : State} (h : s.memOk) : resOk (execVpbr c a o s) := by
  unfold execVpbr
  exact memOk_vpctl h
    (fun _ _ ht => memOk_raise ht)
    fun _ _ _ ht =>
      memOk_afterViq ht fun _ hw =>
        memOk_ite (memOk_with hw) (memOk_ite (memOk_with hw) (memOk_ite (memOk_raise hw) (memOk_with hw)))
theorem memOk_execVpjoin {c : Bool} {s : State} (h : s.memOk) : resOk (execVpjoin c s) := by
  unfold execVpjoin
  refine memOk_vpctl h (fun _ _ ht => memOk_raise ht) fun _ _ _ ht => ?_
  dsimp only
  split
  · exact memOk_with ht
  · split
    · exact memOk_with ht
    · split
      · exact memOk_with ht
      · split
        · exact memOk_ite (memOk_with ht) (memOk_raise ht)
        · exact memOk_raise ht
        · exact memOk_with ht
        · exact memOk_with ht
theorem memOk_levelEnd {s : State} {b : Block} {lv : Nat} (h : s.memOk) : (levelEnd s b lv).memOk := by
  unfold levelEnd
  dsimp only
  split
  · split
    · exact memOk_with (memOk_with h)
    · exact memOk_with h
  · exact memOk_with h
theorem memOk_execVpend {c : Bool} {s : State} (h : s.memOk) : resOk (execVpend c s) := by
  unfold execVpend
  exact memOk_vpctl h
    (fun _ _ ht => memOk_raise ht)
    fun _ _ _ ht => memOk_ite (memOk_raise ht) (memOk_ite (memOk_levelEnd ht) (memOk_with ht))
theorem memOk_planBin {op : BinOp} {d a : VRegNo} {b : BOp} {p : PGov} {s : State} :
    optOk (fun x => ∀ (a : State), a.memOk → (x a).memOk) (planBin op d a b p s) := by
  unfold planBin
  split
  · exact trivial
  · split
    · exact trivial
    · split
      · split
        · exact trivial
        · split
          · exact fun _ ht => memOk_postTag ht
          · exact trivial
      · split
        · exact trivial
        · split
          · split
            · split
              · exact fun _ ht => memOk_with ht
              · exact trivial
            · exact trivial
          · split
            · exact trivial
            · split
              · exact fun _ ht => memOk_postTag ht
              · exact trivial
theorem memOk_vbin {op : BinOp} {c : Bool} {d a : VRegNo} {b : BOp} {p : PGov} {s : State} (h : s.memOk) :
    resOk (vbin op c d a b p s) :=
  memOk_vword h fun _ _ => memOk_planBin
theorem memOk_planSel {d a : VRegNo} {b : BOp} {p : PGov} {s : State} :
    optOk (fun x => ∀ (a : State), a.memOk → (x a).memOk) (planSel d a b p s) := by
  unfold planSel
  split
  · exact trivial
  · split
    · exact trivial
    · split
      · exact fun _ ht => memOk_postTag ht
      · exact trivial
theorem memOk_vun {c : Bool} {d a : VRegNo} {s : State} {ok : Ty → Bool} {p : PGov} {op : Ty → Vop} (h : s.memOk) :
    resOk (vun c d a s ok p op) := by
  unfold vun
  refine memOk_vword h fun _ _ => ?_
  split
  · split
    · exact fun _ hu => memOk_postTag hu
    · exact trivial
  · exact trivial
theorem memOk_vcvtTo {op : UnOp} {c : Bool} {d a : VRegNo} {p : PGov} {s : State} (h : s.memOk) :
    resOk (vcvtTo op c d a p s) := by
  unfold vcvtTo
  refine memOk_vword h fun _ _ => ?_
  split
  · split
    · exact trivial
    · exact fun _ hu => memOk_with hu
  · exact trivial
theorem memOk_execVsplat {c : Bool} {d : VRegNo} {b : SReg} {p : PGov} {s : State} (h : s.memOk) :
    resOk (execVsplat c d b p s) := by
  unfold execVsplat
  refine memOk_vword h fun _ _ => ?_
  split
  · split
    · exact fun _ hu => memOk_with hu
    · exact trivial
  · exact trivial
theorem memOk_execVext {c : Bool} {a : VRegNo} {b : SReg} {s : State} (h : s.memOk) : resOk (execVext c a b s) := by
  unfold execVext
  refine memOk_vword h fun _ _ => ?_
  split
  · split
    · exact fun _ hu => memOk_with hu
    · exact trivial
  · exact trivial
theorem memOk_execViota {c : Bool} {d : VRegNo} {p : PGov} {i : BitVec 9} {j : BitVec 8} {s : State} (h : s.memOk) :
    resOk (execViota c d p i j s) := by
  unfold execViota
  refine memOk_vword h fun _ _ => ?_
  split
  · split
    · exact trivial
    · exact fun _ hu => memOk_with hu
  · exact trivial
theorem memOk_vwiden {op : BinOp} {c : Bool} {d a : VRegNo} {b : BOp} {p : PGov} {s : State} (h : s.memOk) :
    resOk (vwiden op c d a b p s) := by
  unfold vwiden
  refine memOk_vword h fun _ _ => ?_
  split
  · split
    · split
      · exact fun _ hu => memOk_with hu
      · exact trivial
    · exact trivial
  · exact trivial
theorem memOk_vnarrow {c : Bool} {d a : VRegNo} {b : BOp} {p : PGov} {s : State} (h : s.memOk) :
    resOk (vnarrow c d a b p s) := by
  unfold vnarrow
  refine memOk_vword h fun _ _ => ?_
  split
  · split
    · split
      · exact fun _ hu => memOk_with hu
      · exact trivial
    · exact trivial
  · exact trivial
theorem memOk_execVncvt {c : Bool} {d a : VRegNo} {p : PGov} {s : State} (h : s.memOk) : resOk (execVncvt c d a p s) := by
  unfold execVncvt
  refine memOk_vword h fun _ _ => ?_
  split
  · split
    · exact fun _ hu => memOk_with hu
    · exact trivial
  · exact trivial
theorem memOk_vcmp {k : CmpOp} {c : Bool} {d : PRegNo} {a b : VRegNo} {p : PGov} {s : State} (h : s.memOk) :
    resOk (vcmp k c d a b p s) := by
  unfold vcmp
  refine memOk_vword h fun _ _ => ?_
  split
  · dsimp only
    split
    · split
      · exact fun _ hu => memOk_with hu
      · exact trivial
    · split
      · exact fun _ hu => memOk_with hu
      · exact trivial
  · exact trivial
theorem memOk_execVclass {c : Bool} {d : PRegNo} {a : VRegNo} {k : BitVec 5} {p : PGov} {s : State} (h : s.memOk) :
    resOk (execVclass c d a k p s) := by
  unfold execVclass
  refine memOk_vword h fun _ _ => ?_
  split
  · split
    · exact fun _ hu => memOk_with hu
    · exact trivial
  · exact trivial
theorem memOk_vpred {s : State} {k : Cls} {blk : Bool} {op : State → Vop} (h : s.memOk) : resOk (vpred s k blk op) :=
  memOk_vword h fun _ _ _ hu => memOk_with hu
theorem memOk_vlane {c : Bool} {d a : VRegNo} {s : State} {p : Option PGov} {op : State → Nat → Vop} (h : s.memOk) :
    resOk (vlane c d a s p op) := by
  unfold vlane
  refine memOk_vword h fun _ _ => ?_
  split
  · exact fun _ hu => memOk_postTag hu
  · exact trivial
theorem memOk_execVpermVv {c : Bool} {d a b : VRegNo} {p : PGov} {s : State} (h : s.memOk) :
    resOk (execVpermVv c d a b p s) := by
  unfold execVpermVv
  refine memOk_vword h fun _ _ => ?_
  split
  · split
    · exact fun _ hu => memOk_postTag hu
    · exact trivial
  · exact trivial
theorem memOk_vred {op : RedOp} {c : Bool} {a : VRegNo} {b : SReg} {p : PGov} {s : State} (h : s.memOk) :
    resOk (vred op c a b p s) := by
  unfold vred
  refine memOk_vword h fun _ _ => ?_
  split
  · split
    · exact trivial
    · exact fun _ hu => memOk_with hu
  · exact trivial
theorem memOk_execVscan {c : Bool} {d a : VRegNo} {b : SReg} {p : PGov} {s : State} (h : s.memOk) :
    resOk (execVscan c d a b p s) := by
  unfold execVscan
  refine memOk_vword h fun _ _ => ?_
  split
  · split
    · exact trivial
    · exact fun _ hu => memOk_postTag hu
  · exact trivial
theorem memOk_execVsoftmax {c : Bool} {d a : VRegNo} {b : SReg} {p : PGov} {s : State} (h : s.memOk) :
    resOk (execVsoftmax c d a b p s) := by
  unfold execVsoftmax
  refine memOk_vword h fun _ _ => ?_
  split
  · split
    · exact fun _ hu => memOk_postTag hu
    · exact trivial
  · exact trivial
theorem memOk_execVbinacc {c : Bool} {n : BitVec 5} {a : VRegNo} {p : PGov} {s : State} (h : s.memOk) :
    resOk (execVbinacc c n a p s) := by
  unfold execVbinacc
  refine memOk_vword h fun _ _ => ?_
  split
  · dsimp only
    split
    · exact fun _ hu => memOk_with hu
    · exact trivial
  · exact trivial
theorem memOk_vbinmac {c : Bool} {n : BitVec 5} {a : VRegNo} {b : BOp} {p : PGov} {s : State} (h : s.memOk) :
    resOk (vbinmac c n a b p s) := by
  unfold vbinmac
  refine memOk_vword h fun _ _ => ?_
  split
  · split
    · dsimp only
      split
      · exact fun _ hu => memOk_with hu
      · exact trivial
    · exact trivial
  · exact trivial
theorem memOk_execBinfold {c : Bool} {n : BitVec 5} {b : SReg} {s : State} (h : s.memOk) : resOk (execBinfold c n b s) := by
  unfold execBinfold
  refine memOk_vword h fun _ _ => ?_
  dsimp only
  split
  · exact trivial
  · exact fun _ hu => memOk_with hu
theorem memOk_execVmark {c : Bool} {b : SReg} {s : State} (h : s.memOk) : resOk (execVmark c b s) := by
  unfold execVmark
  split
  · exact memOk_raise h
  · exact memOk_vword h fun _ _ _ hu => memOk_with hu
theorem memOk_vfeed {c : Bool} {s : State} {op : State → Vop} {now : State → EngRes} (h : s.memOk)
    (hnow : ∀ (a : State), a.memOk → engResOk (now a)) : resOk (vfeed c s op now) := by
  unfold vfeed
  split
  · split
    · exact memOk_raise h
    · split
      · next e => exact memOk_advance (engResOk_ok e (hnow _ h))
      · next e => exact memOk_raise (engResOk_trap e (hnow _ h))
      · next e => exact engResOk_wait e (hnow _ h)
  · exact memOk_vword h fun _ _ _ hu => memOk_with hu
theorem memOk_execFeedFetch {reg : BitVec 4} {n : Nat} {s : State} (h : s.memOk) : resOk (execFeedFetch reg n s) := by
  unfold execFeedFetch
  dsimp only
  split
  · exact h
  · split
    · exact h
    · split
      · next e => exact memOk_with (fmoreOk_more e (memOk_feedFill h))
      · next e => exact memOk_with (fmoreOk_wait e (memOk_feedFill h))
theorem memOk_vframe {c : Bool} {d a : VRegNo} {s : State} {field : State → Bool} {ok : State → Ty → Bool}
    {out : Ty → BitVec 8} {w : Nat} {p : PGov} {op : State → Ty → Vop} (h : s.memOk) :
    resOk (vframe c d a s field ok out w p op) := by
  unfold vframe
  refine memOk_vword h fun _ _ => ?_
  split
  · split
    · exact fun _ hu => memOk_postTag hu
    · exact trivial
  · exact trivial
theorem memOk_vmem {c : Bool} {d : VRegNo} {s : State} {sub : Bool} {field : State → Bool} {mode : State → Option VMode}
    {more : State → Bool} {p : PGov} {op : Nat → VMode → Word → Vop} {a : SReg} (h : s.memOk) :
    resOk (vmem c d s sub field mode more p op a) := by
  unfold vmem
  refine memOk_vword h fun _ _ => ?_
  split
  · split
    · exact fun _ hu => memOk_with hu
    · exact trivial
  · exact trivial
theorem memOk_vamo {op : AmoOp} {c : Bool} {d : VRegNo} {a : SReg} {i : VRegNo} {p : PGov} {s : State} (h : s.memOk) :
    resOk (vamo op c d a i p s) := by
  unfold vamo
  refine memOk_vword h fun _ _ => ?_
  split
  · split
    · exact fun _ hu => memOk_with hu
    · exact trivial
  · exact trivial
theorem memOk_vmatrix {c : Bool} {s : State} {k : Cls} {field : State → Bool} {plan : State → Option (State → State)}
    (h : s.memOk) (hplan : ∀ (a : State), a.memOk → optOk (fun x => ∀ (a : State), a.memOk → (x a).memOk) (plan a)) :
    resOk (vmatrix c s k field plan) := by
  unfold vmatrix
  split
  · exact memOk_vword (memOk_takeMatrix h) hplan
  · exact memOk_vword h hplan
theorem memOk_execMstl {c : Bool} {x y : SReg} {s : State} (h : s.memOk) : resOk (execMstl c x y s) :=
  memOk_vmatrix h fun _ _ _ hu => memOk_ite (memOk_with hu) (memOk_wr (memOk_wr (memOk_wr (memOk_with hu))))
theorem memOk_execMlds {c : Bool} {v : VRegNo} {x y : SReg} {s : State} (h : s.memOk) : resOk (execMlds c v x y s) := by
  unfold execMlds
  refine memOk_vmatrix h fun _ _ => ?_
  split
  · exact fun _ hu => memOk_with (memOk_with hu)
  · exact trivial
theorem memOk_execMsow {c : Bool} {v : VRegNo} {x : SReg} {s : State} (h : s.memOk) : resOk (execMsow c v x s) := by
  unfold execMsow
  refine memOk_vmatrix h fun _ _ => ?_
  split
  · exact fun _ hu => memOk_with (memOk_with hu)
  · exact trivial
theorem memOk_vmmac {c : Bool} {k : BitVec 4} {v : VRegNo} {x : SReg} {rows : Option PGov} {s : State} (h : s.memOk) :
    resOk (vmmac c k v x rows s) := by
  unfold vmmac
  refine memOk_vmatrix h fun _ _ => ?_
  split
  · split
    · exact fun _ hu => memOk_with hu
    · exact trivial
  · exact trivial
theorem memOk_execMacld {c : Bool} {k : BitVec 4} {v : VRegNo} {x y : SReg} {s : State} (h : s.memOk) :
    resOk (execMacld c k v x y s) := by
  unfold execMacld
  refine memOk_vmatrix h fun _ _ => ?_
  split
  · exact fun _ hu => memOk_with hu
  · exact trivial
theorem memOk_execMacst {c : Bool} {k : BitVec 4} {v : VRegNo} {x y : SReg} {s : State} (h : s.memOk) :
    resOk (execMacst c k v x y s) := by
  unfold execMacst
  refine memOk_vmatrix h fun _ _ => ?_
  split
  · exact fun _ hu => memOk_with hu
  · exact trivial
theorem memOk_execMacin {c : Bool} {k : BitVec 4} {v : VRegNo} {x : SReg} {s : State} (h : s.memOk) :
    resOk (execMacin c k v x s) := by
  unfold execMacin
  refine memOk_vmatrix h fun _ _ => ?_
  split
  · split
    · exact fun _ hu => memOk_with hu
    · exact trivial
  · exact trivial
theorem memOk_execMseedgen {c : Bool} {v : VRegNo} {x y : SReg} {s : State} (h : s.memOk) : resOk (execMseedgen c v x y s) := by
  unfold execMseedgen
  refine memOk_vmatrix h fun _ _ => ?_
  split
  · exact fun _ hu => memOk_with hu
  · exact trivial
theorem memOk_execMseedscan {c : Bool} {v : VRegNo} {x y : SReg} {s : State} (h : s.memOk) :
    resOk (execMseedscan c v x y s) := by
  unfold execMseedscan
  refine memOk_vmatrix h fun _ _ => ?_
  split
  · exact fun _ hu => memOk_with hu
  · exact trivial
theorem memOk_execBarg {c : Bool} {n : BitVec 5} {s : State} (h : s.memOk) : resOk (execBarg c n s) := by
  unfold execBarg
  dsimp only
  split
  · exact memOk_runHead h
  · split
    · exact memOk_raise h
    · exact memOk_vword h fun _ _ _ hu => memOk_with (memOk_with hu)
theorem memOk_execBarw {c : Bool} {n : BitVec 5} {s : State} (h : s.memOk) : resOk (execBarw c n s) := by
  unfold execBarw
  dsimp only
  split
  · exact memOk_runHead h
  · split
    · exact memOk_raise h
    · split
      · exact memOk_ite (memOk_tryFire _ h) (memOk_runHead (memOk_tryFire _ h))
      · exact memOk_vword h fun _ _ _ hu => memOk_acquire (memOk_with hu)

end Sys2Proof.Laws
end

section
/-! SUPPORT. The canonical form of both byte memories is kept. Dispatch, turns and steps. -/
namespace Sys2Proof.Laws
open Sys2Proof Sys2Proof.Machine

theorem memOk_exec {i : Instr} {s : State} (h : s.memOk) : resOk (exec i s) := by
  unfold exec
  cases i with
  | add | sub | mul | mulh | mulhu | div | divu | rem | remu | and | or | xor | andn | shl | shr | sha | rot | slt | sltu |
    min | max | minu | maxu | clz | ctz | popc | addi | andi | ori | xori | slti | shli | shri | shai | ldi | adpc | fmv |
    time => exact memOk_scal h fun _ ht => memOk_put ht
  | ld | ldu => exact memOk_scal h fun _ ht => memOk_loadTo ht
  | st => exact memOk_scal h fun _ ht => memOk_storeFrom ht
  | amoadd | amoswap | amoand | amoor | amoxor | amomin | amomax | amominu | amomaxu | amocas => exact memOk_amo h
  | lda => exact memOk_execLda h
  | stl => exact memOk_execStl h
  | fence => exact memOk_execFence h
  | beq | bne | blt | bge | bltu | bgeu => exact memOk_scal h fun _ ht => memOk_branch ht
  | jmp => exact memOk_scal h fun _ ht => memOk_jump (memOk_wr ht)
  | jmpr => exact memOk_scal h fun _ ht => memOk_ite (memOk_raise ht) (memOk_jump (memOk_wr ht))
  | fadd | fsub | fmul | fdiv | fsqrt | fma | fmin | fmax | fcmp | fcvtDS | fmvNeg | fmvAbs | fcvtFK =>
    exact memOk_scal h fun _ ht => memOk_fput ht
  | fcvtKF | fcvtRtz => exact memOk_scal h fun _ ht => memOk_fcvtInt ht
  | qsend | qbsend => exact memOk_scal h fun _ ht => memOk_ite (memOk_raise ht) (memOk_ite ht (memOk_advance (memOk_with ht)))
  | qrecv => exact memOk_execQrecv h
  | bq => exact memOk_execBq h
  | sysr => exact memOk_sysWord h fun _ ht => memOk_put ht
  | sysw | sysset | sysclr => exact memOk_sysWord h fun _ ht => memOk_advance (memOk_csrWrite ht)
  | trap => exact memOk_scal h fun _ ht => memOk_raise ht
  | tret => exact memOk_execTret h
  | wait => exact memOk_execWait h
  | yield => exact memOk_scal h fun _ ht => memOk_advance ht
  | halt => exact memOk_execHalt h
  | hint => exact memOk_advance h
  | illegalWord => exact memOk_raise (memOk_with h)
  | vsetl => exact memOk_vword h fun _ _ _ hu => memOk_wr (memOk_with hu)
  | vsett | vsetg | vstrip | vsave | vrestore => exact memOk_vword h fun _ _ _ hu => memOk_with hu
  | vaddVv | vaddVx | vsubVv | vsubVx | vmulVv | vmulVx | vmulhVv | vmulhVx | vdivVv | vdivVx | vremVv | vremVx | vminVv |
    vminVx | vmaxVv | vmaxVx | vandVv | vandVx | vorVv | vorVx | vxorVv | vxorVx | vandnVv | vandnVx | vshlVv | vshlVx |
    vshrVv | vshrVx | vshaVv | vshaVx | vfmaVv | vfmaVx | vfmsVv | vfmsVx | vfnmaVv | vfnmaVx | vclampVv | vclampVx |
    vaddSatVv | vaddSatVx | vsubSatVv | vsubSatVx => exact memOk_vbin h
  | vselVv | vselVx => exact memOk_vword h fun _ _ => memOk_planSel
  | vabs | vneg | vmov | vsqrt | vrcp | vrsq | vexp2 | vlog2 => exact memOk_vun h
  | vcvt | vcvtSat => exact memOk_vcvtTo h
  | vsplat => exact memOk_execVsplat h
  | vext => exact memOk_execVext h
  | viota => exact memOk_execViota h
  | vwaddVx | vwaddVv | vwsubVx | vwsubVv | vwmulVx | vwmulVv | vwmacVx | vwmacVv => exact memOk_vwiden h
  | vnshrVx | vnshrVv => exact memOk_vnarrow h
  | vncvt => exact memOk_execVncvt h
  | vcmpEq | vcmpNe | vcmpLt | vcmpLe | vcmpGt | vcmpGe | vcmpUn => exact memOk_vcmp h
  | vclass => exact memOk_execVclass h
  | pand | por | pxor | pandn | pnot | pmov | pset | pcnt | pfirst | plast | pbrk | pld | pst => exact memOk_vpred h
  | vfetch => exact memOk_execVfetch h
  | vpbr => exact memOk_execVpbr h
  | vpjoin => exact memOk_execVpjoin h
  | vpend => exact memOk_execVpend h
  | vld | vldS | vldX | vldff | vldseg | vst | vstS | vstX | vsto | vstseg | vstoStrided => exact memOk_vmem h
  | vamoAdd | vamoSwap | vamoAnd | vamoOr | vamoXor | vamoMin | vamoMax => exact memOk_vamo h
  | vpermVv => exact memOk_execVpermVv h
  | vpermVx | vslup | vsldn | vcompr | vexpnd => exact memOk_vlane h
  | vredsum | vredmax | vredmin => exact memOk_vred h
  | vscan => exact memOk_execVscan h
  | vsoftmax => exact memOk_execVsoftmax h
  | binz => exact memOk_vword h fun _ _ _ hu => memOk_with (memOk_with hu)
  | vbinacc => exact memOk_execVbinacc h
  | vbinmacVx | vbinmacVv => exact memOk_vbinmac h
  | binfold => exact memOk_execBinfold h
  | vmark => exact memOk_execVmark h
  | fbind => exact memOk_vfeed h fun _ ht => memOk_feedBind ht
  | fchain => exact memOk_vfeed h fun _ ht => memOk_feedChain ht
  | funbind => exact memOk_vfeed h fun _ ht => memOk_bindFeed ht
  | fstat => exact memOk_vfeed h fun _ ht => memOk_wr ht
  | feedFetch => exact memOk_execFeedFetch h
  | fpcvt | fplen2 | fpgtag | fpstagVx | fpstagVv => exact memOk_vframe h
  | frset => exact memOk_execFrset h
  | frdel => exact memOk_execFrdel h
  | frfence => exact memOk_execFrfence h
  | frlook => exact memOk_execFrlook h
  | chainCacheInvalidationAck | waitLineWrite | directoryAtomic | timerInterrupt | remoteResponse => exact h
  | retentionWake => exact memOk_execRetentionWake h
  | mstl => exact memOk_execMstl h
  | mlds => exact memOk_execMlds h
  | msow => exact memOk_execMsow h
  | mswap => exact memOk_vmatrix h fun _ _ _ hu => memOk_with (memOk_with hu)
  | mmac | mmacM => exact memOk_vmmac h
  | macz | msave | mrestore => exact memOk_vmatrix h fun _ _ _ hu => memOk_with hu
  | macld => exact memOk_execMacld h
  | macst => exact memOk_execMacst h
  | macin => exact memOk_execMacin h
  | mseedgen => exact memOk_execMseedgen h
  | mseedscan => exact memOk_execMseedscan h
  | cpy => exact memOk_execCpy h
  | cpyq => exact memOk_execCpyq h
  | cpyw => exact memOk_execCpyw h
  | cpywP => exact memOk_execCpywP h
  | wdqry => exact memOk_execWdqry h
  | wmbind => exact memOk_execWmbind h
  | wmpub => exact memOk_execWmpub h
  | copyComplete => exact memOk_copyStep h
  | wdqryAnswer => exact memOk_ite h (memOk_foldl (fun _ _ ht => memOk_answerQuery ht) h)
  | watermarkVisible => exact memOk_execWatermarkVisible h
  | launch => exact memOk_execLaunch h
  | lspec => exact memOk_execLspec h
  | shpub => exact memOk_execShpub h
  | allocr => exact memOk_execAllocr h
  | retract => exact memOk_execRetract h
  | lstat => exact memOk_execLstat h
  | gangCommit => exact memOk_commit h
  | gangPlace => exact memOk_execGangPlace h
  | agePromotion => exact memOk_execAgePromotion h
  | launchComplete => exact memOk_execLaunchComplete h
  | barg => exact memOk_execBarg h
  | barw => exact memOk_execBarw h
  | barrierMarkerFire => exact memOk_execBarrierMarkerFire h
  | uopIssue => exact memOk_execUopIssue h
  | uopComplete => exact memOk_onVector h fun _ ht => memOk_vectorStep ht
  | pageWalk => exact memOk_execPageWalk h
  | ownershipTrap => exact memOk_execOwnershipTrap h
  | faultRecordPost => exact memOk_execFaultRecordPost h
  | waitDeadline => exact memOk_execWaitDeadline h
  | directoryRead | directoryWrite | directoryEviction => exact memOk_ite (memOk_with h) h
  | migrationLineCopy => exact memOk_execMigrationLineCopy h
  | eccPoison => exact memOk_ite (memOk_poison h) h
  | scrub => exact memOk_execScrub h
  | logMove => exact memOk_regWrite h
  | registerWrite => exact memOk_ite (memOk_regAccess h) h
  | plotMake => exact memOk_execPlotMake h
  | plotFree => exact memOk_execPlotFree h
  | corecfg => exact memOk_execCorecfg h
  | resume => exact memOk_execResume h
  | preempt => exact memOk_execPreempt h
  | abandon => exact memOk_execAbandon h
  | inval => exact memOk_execInval h
  | migrate => exact memOk_execMigrate h
  | sweep => exact memOk_execSweep h
  | cancel => exact memOk_execCancel h
  | queue => exact memOk_execQueue h
  | collect => exact memOk_execCollect h
  | collectMemberTimeout => exact memOk_execCollectMemberTimeout h
  | grant => exact memOk_execGrant h
  | trellisRepair => exact memOk_execTrellisRepair h
  | hostwin => exact memOk_execHostwin h
  | addrwin => exact memOk_execAddrwin h
  | coordinatorBadCode => exact memOk_ite h (memOk_complete h)
  | queueKick => exact memOk_ite (memOk_with h) (memOk_bar0 h)
  | launchPacket => exact memOk_execLaunchPacket h
  | graphLoad => exact memOk_execGraphLoad h
  | graphUnload => exact memOk_packet (fun _ _ _ ht => memOk_result (memOk_unloadGraph ht)) h
  | graphRun => exact memOk_execGraphRun h
  | waitPacket => exact memOk_execWaitPacket h
  | signal => exact memOk_execSignal h
  | packetStampRetry => exact memOk_withPacket h fun _ _ _ ht => memOk_ite ht (memOk_early ht)
  | queueStale => exact memOk_execQueueStale h
  | interrupt | retentionSleep => exact memOk_ite h (memOk_with (memOk_with h))
  | boot => exact memOk_execBoot h
  | leaseRenew => exact memOk_ite h (memOk_ite (memOk_hold h) (memOk_with h))
  | leasePoll => exact memOk_execLeasePoll h
  | heartbeatWrite => exact memOk_ite (memOk_unitStored h) h
  | heartbeatCheck => exact memOk_ite h (memOk_tables (memOk_with h))
  | firmwareEccHalt => exact memOk_ite h (memOk_logKind (memOk_with h))
  | sensorRead => exact memOk_execSensorRead h
  | clockStep => exact memOk_ite h (memOk_ite (memOk_stepClock h) (memOk_ite (memOk_stepClock h) h))
  | getVersion | getCapabilities | negotiateAlgorithms | getDigests | getCertificate | challenge => exact memOk_spdm h
  | getMeasurements => exact memOk_ite (memOk_spdm h) (memOk_with h)
  | hostBar2Access => exact memOk_execHostBar2Access h
  | cxlMemRead | cxlMemWrite => exact memOk_hostAsks h
  | dataFlit | nakFlit | pauseFlit | resumeFlit | idleFlit => exact memOk_receive (fun _ _ ht => memOk_with ht) h
  | capabilityFlit => exact memOk_execCapabilityFlit h
  | linkRetrain => exact memOk_execLinkRetrain h
  | remoteRequest => exact memOk_execRemoteRequest h
  | remoteTimeout => exact memOk_execRemoteTimeout h
  | timeSyncExchange => exact memOk_execTimeSyncExchange h
theorem memOk_runWord {s : State} (h : s.memOk) : resOk (runWord s) := by
  unfold runWord
  split
  · exact memOk_raise (memOk_with h)
  · split
    · next e => exact memOk_raise (memOk_with (mresOk_flt e (memOk_memLoad h)))
    · next e => exact mresOk_stall e (memOk_memLoad h)
    · next e =>
        dsimp only
        split
        · exact memOk_runHead (mresOk_ok e (memOk_memLoad h) :)
        · exact memOk_exec (memOk_with (mresOk_ok e (memOk_memLoad h) :))
theorem memOk_execTurn {s : State} (h : s.memOk) : resOk (execTurn s) := by
  unfold execTurn
  dsimp only
  split
  · split
    · next e => exact memOk_fst e (memOk_runHead (memOk_holdVector h))
    · next e =>
        split
        · exact memOk_runWord (memOk_fst e (memOk_runHead (memOk_holdVector h)))
        · exact memOk_fst e (memOk_runHead (memOk_holdVector h))
  · split
    · split
      · exact memOk_runWord (memOk_holdVector h)
      · exact memOk_holdVector h
    · exact memOk_runWord (memOk_holdVector h)
theorem memOk_ctTurn {s : State} (h : s.memOk) : resOk (ctTurn s) := by
  unfold ctTurn
  split
  · exact h
  · split
    · exact memOk_waitTurn h
    · dsimp only
      split
      · exact memOk_execTurn (memOk_with h)
      · exact memOk_runWord (memOk_with h)
theorem memOk_sysTurn {s : State} {n : Nat} (h : s.memOk) : resOk (sysTurn s n) := by
  unfold sysTurn
  dsimp only
  split
  · exact h
  · split
    · exact memOk_waitTurn h
    · split
      · exact memOk_ite (memOk_advance (memOk_with h)) h
      · exact memOk_runWord h
theorem memOk_agentTurn {s : State} (h : s.memOk) : resOk (agentTurn s) := by
  unfold agentTurn
  split
  · exact memOk_sysTurn h
  · exact memOk_ctTurn h
theorem memOk_setLag {s : State} {on : Bool} (h : s.memOk) : (s.setLag on).memOk :=
  memOk_ite (memOk_with h) (memOk_afterStores h fun _ ht => memOk_with ht)
theorem memOk_fillChain {s : State} {tag : Nat} (h : s.memOk) : (s.fillChain tag).memOk := by
  unfold State.fillChain
  dsimp only
  split
  · exact memOk_ite h (memOk_with h)
  · exact h
theorem memOk_focus {s : State} {t : Turn} (h : s.memOk) : (s.focus t).memOk := by
  unfold State.focus
  dsimp only
  split
  · split
    · exact h
    · exact memOk_ite (memOk_with h) (memOk_with h)
  · split
    · exact h
    · exact memOk_ite (memOk_with h) (memOk_with h)
  · exact memOk_ite (memOk_with h) h
  · exact memOk_onFocus h fun _ ht => memOk_setLag ht
  · exact memOk_onFocus h fun _ ht => memOk_performOne _ ht
  · exact memOk_onFocus h fun _ ht => memOk_with ht
  · exact memOk_onFocus h fun _ ht => memOk_with ht
  · exact memOk_onFocus h fun _ ht => memOk_fillChain ht
theorem memOk_publishAll {s : State} (h : s.memOk) : s.publishAll.memOk :=
  memOk_decides (memOk_foldl (fun _ _ ht => memOk_withKey ht fun _ hv => memOk_shipDue hv) h)
theorem memOk_turns {s : State} {l : List Turn} (h : s.memOk) : (s.turns l).memOk := by
  induction l generalizing s with
  | nil =>
    unfold State.turns
    exact memOk_with h
  | cons x xs ih =>
    unfold State.turns
    exact memOk_ite (memOk_focus (memOk_with h)) (ih (memOk_focus h))
theorem memOk_pass {s : State} (h : s.memOk) : s.pass.memOk :=
  memOk_turns (memOk_publishAll (memOk_retryUnsent (memOk_retryInbound (memOk_with h))))
theorem memOk_after {r : Res} (hr : resOk r) : resOk (after r) := by
  unfold after
  split
  · exact memOk_pass hr
  · exact hr
  · exact hr
theorem memOk_move {s : State} (h : s.memOk) : resOk (move s) := by
  unfold move
  split
  · exact memOk_exec (memOk_with h)
  · exact memOk_agentTurn h
theorem memOk_step {s : State} (h : s.memOk) : resOk (step s) :=
  iteInduction (motive := resOk) (fun _ => memOk_after (memOk_move h)) fun _ => trivial

/-- Settles O3: every function of the model that gives a state keeps both byte memories in their form, from the byte writes up to the
instructions, the turns of the agents and `step`. -/
theorem stepKeepsMemoryForm : Obligations.StepKeepsMemoryForm :=
  fun _ _ h e => resOk_next e (memOk_step h)

end Sys2Proof.Laws
end

section
/-! SUPPORT. What a store leaves: the streams but for their WAITs, and the CT but for these and its delayed stores. -/
namespace Sys2Proof.Laws
open Sys2Proof Sys2Proof.Machine

/-! ### A wake ends a WAIT and leaves the rest of the stream -/

@[simp] theorem wake_x (t : Stream) (line : Nat) (now : Word) : (t.wake line now).x = t.x := by
  unfold Stream.wake
  split <;> (try split) <;> rfl
@[simp] theorem wake_pc (t : Stream) (line : Nat) (now : Word) : (t.wake line now).pc = t.pc := by
  unfold Stream.wake
  split <;> (try split) <;> rfl

/-- Two streams with the same registers and program counter. -/
def SameRegs (t u : Stream) : Prop := t.x = u.x ∧ t.pc = u.pc

theorem sameRegs_refl (t : Stream) : SameRegs t t := ⟨rfl, rfl⟩
theorem sameRegs_wake (t : Stream) (line : Nat) (now : Word) : SameRegs (t.wake line now) t := ⟨wake_x .., wake_pc ..⟩
theorem SameRegs.trans {t u v : Stream} (h : SameRegs t u) (k : SameRegs u v) : SameRegs t v := ⟨h.1.trans k.1, h.2.trans k.2⟩
theorem SameRegs.rd {t u : Stream} (h : SameRegs t u) (r : SReg) : t.rd r = u.rd r := by
  simp only [Stream.rd, h.1]

/-! ### A performed store -/

/-- Of the CT in focus it can end the WAITs, and nothing else. -/
theorem stored_ct (s : State) (v : Via) (l : Loc) (w : Option Who) :
    (s.stored v l w).ct = { s.ct with ex := (s.stored v l w).ct.ex, ac := (s.stored v l w).ct.ac } := by
  cases l with
  | hole => rfl
  | sram a => rfl
  | phys pa ty =>
    simp only [State.stored]
    split <;> rfl
  | image pa a =>
    simp only [State.stored, State.wakeSaved]
    split <;> rfl

theorem wakeLine_sameRegs (s : State) (n : Nat) (w : Option Who) :
    SameRegs (s.wakeLine n w).ct.ex s.ct.ex ∧ SameRegs (s.wakeLine n w).ct.ac s.ct.ac := by
  simp only [State.wakeLine]
  constructor <;> split
  · exact sameRegs_refl _
  · exact sameRegs_wake ..
  · exact sameRegs_refl _
  · exact sameRegs_wake ..
theorem wakeSaved_sameRegs (s : State) (v : Via) (n : Nat) :
    SameRegs (s.wakeSaved v n).ct.ex s.ct.ex ∧ SameRegs (s.wakeSaved v n).ct.ac s.ct.ac := by
  simp only [State.wakeSaved]
  split
  · exact ⟨sameRegs_wake .., sameRegs_wake ..⟩
  · exact ⟨sameRegs_refl _, sameRegs_refl _⟩
theorem stored_sameRegs (s : State) (v : Via) (l : Loc) (w : Option Who) :
    SameRegs (s.stored v l w).ct.ex s.ct.ex ∧ SameRegs (s.stored v l w).ct.ac s.ct.ac := by
  cases l with
  | hole => exact ⟨sameRegs_refl _, sameRegs_refl _⟩
  | sram a => exact wakeLine_sameRegs ..
  | phys pa ty =>
    simp only [State.stored]
    split
    · exact wakeLine_sameRegs ..
    · exact wakeLine_sameRegs ..
  | image pa a =>
    have h := wakeSaved_sameRegs (s.wakeLine (lineOf pa) w) v (sramLine a)
    have k := wakeLine_sameRegs s (lineOf pa) w
    exact ⟨h.1.trans k.1, h.2.trans k.2⟩

/-- The core that stores keeps its own WAIT. -/
theorem wakeLine_sysCore_self (s : State) (line n : Nat) : (s.wakeLine line (some (.sys n))).sysCore n = s.sysCore n := by
  simp only [State.sysCore, State.wakeLine, Vector.toList, List.getD_eq_getElem?_getD, Array.getElem?_toList, Vector.getElem?_toArray,
    Vector.getElem?_mapIdx]
  cases s.sys[n]? <;> simp
theorem stored_sysCore_self (s : State) (v : Via) (l : Loc) (n : Nat) : (s.stored v l (some (.sys n))).sysCore n = s.sysCore n := by
  cases l with
  | hole => rfl
  | sram a => exact wakeLine_sysCore_self ..
  | phys pa ty =>
    simp only [State.stored]
    split
    · rfl
    · exact wakeLine_sysCore_self ..
  | image pa a => exact wakeLine_sysCore_self ..

/-- Every register of the agent in focus stands. -/
theorem stored_rd (s : State) (v : Via) (l : Loc) (r : SReg) : (s.stored v l (some s.who)).rd r = s.rd r := by
  have h := stored_sameRegs s v l (some s.who)
  simp only [State.rd, State.cur, stored_who]
  cases hw : s.who with
  | exec => exact (hw ▸ h).1.rd r
  | access => exact (hw ▸ h).2.rd r
  | sys n =>
    simp only [stored_sysCore_self]

theorem poke_rd (s : State) (v : Via) (l : Loc) (n x : Nat) (r : SReg) : (s.poke v l n x).rd r = s.rd r := by
  simp only [State.rd, State.cur, poke_who, poke_ct, State.sysCore, poke_sys]

/-- A store into the package's own memory leaves the shared tables. -/
theorem poke_pkg {v : Via} (h : v.prov = false) (s : State) (l : Loc) (n x : Nat) : (s.poke v l n x).pkg = s.pkg := by
  cases l <;> simp [State.poke, h]

/-! ### Delayed stores performed -/

theorem performEnt_ct (s : State) (e : SbEnt) :
    (s.performEnt e).ct = { s.ct with ex := (s.performEnt e).ct.ex, ac := (s.performEnt e).ct.ac } := by
  have h := stored_ct (s.poke s.ct.via e.loc e.n (e.val (s.peek s.ct.via e.loc e.n))) s.ct.via e.loc e.side.who
  rw [poke_ct] at h
  unfold State.performEnt
  split <;> exact h
theorem performEnt_who (s : State) (e : SbEnt) : (s.performEnt e).who = s.who := by
  unfold State.performEnt
  split <;> simp only [stored_who, poke_who]
/-- The entry of an unshipped store is performed as any store is. -/
theorem performEnt_of_store (s : State) {e : SbEnt} (hs : e.ship = none) (hm : e.mask = none) :
    s.performEnt e = (s.poke s.ct.via e.loc e.n e.x).stored s.ct.via e.loc e.side.who := by
  simp only [State.performEnt, hs, SbEnt.val, hm]

theorem foldl_performEnt_ct : ∀ (es : List SbEnt) (s : State),
    (es.foldl State.performEnt s).ct =
      { s.ct with ex := (es.foldl State.performEnt s).ct.ex, ac := (es.foldl State.performEnt s).ct.ac }
  | [], _ => rfl
  | e :: es, s => by
    have h := foldl_performEnt_ct es (s.performEnt e)
    rw [performEnt_ct s e] at h
    exact h
theorem foldl_performEnt_who : ∀ (es : List SbEnt) (s : State), (es.foldl State.performEnt s).who = s.who
  | [], _ => rfl
  | e :: es, s => (foldl_performEnt_who es (s.performEnt e)).trans (performEnt_who s e)

/-- The delayed stores that are left once a set is performed. -/
def leftBy (s : State) (p : SbEnt → Bool) : List SbEnt :=
  s.ct.sbuf.filter fun e => !(needed p s.ct.sbuf).any fun f => f.id == e.id

theorem flush_ct (s : State) (p : SbEnt → Bool) :
    (s.flush p).ct = { s.ct with ex := (s.flush p).ct.ex, ac := (s.flush p).ct.ac, sbuf := leftBy s p } := by
  unfold State.flush leftBy
  split
  case h_1 h => simp only [h, List.any_nil, Bool.not_false, List.filter_true]
  case h_2 => exact congrArg (fun c : Ct => { c with sbuf := leftBy s p }) (foldl_performEnt_ct (needed p s.ct.sbuf) s)
theorem flush_via (s : State) (p : SbEnt → Bool) : (s.flush p).ct.via = s.ct.via := by
  rw [flush_ct]; rfl
theorem flush_sbuf (s : State) (p : SbEnt → Bool) : (s.flush p).ct.sbuf = leftBy s p := by
  rw [flush_ct]
theorem flush_who (s : State) (p : SbEnt → Bool) : (s.flush p).who = s.who := by
  unfold State.flush
  split
  · rfl
  · exact foldl_performEnt_who _ s

/-- What is left was delayed before, and was none of those that the set needs. -/
theorem mem_leftBy {s : State} {p : SbEnt → Bool} {e : SbEnt} (h : e ∈ leftBy s p) : e ∈ s.ct.sbuf ∧ e ∉ needed p s.ct.sbuf := by
  simp only [leftBy, List.mem_filter, Bool.not_eq_true', List.any_eq_false, beq_iff_eq] at h
  exact ⟨h.1, fun he => h.2 e he rfl⟩
theorem flush_of_set {s : State} {p : SbEnt → Bool} {e : SbEnt} (h : e ∈ (s.flush p).ct.sbuf) : e ∈ s.ct.sbuf ∧ p e = false := by
  rw [flush_sbuf] at h
  obtain ⟨hs, hn⟩ := mem_leftBy h
  exact ⟨hs, by simpa using fun hp => hn (mem_needed hs hp)⟩

/-- An older store that one of the set may not overtake is needed too. -/
theorem mem_needed_of_follows {p : SbEnt → Bool} {e f : SbEnt} {fs : List SbEnt} (hp : p e = true) (hf : e.follows f = true) :
    ∀ {es : List SbEnt}, f ∈ es → f ∈ needed p (es ++ e :: fs)
  | d :: es, h => by
    have he : e ∈ needed p (es ++ e :: fs) := mem_needed (by simp) hp
    have step : needed p (d :: es ++ e :: fs) = if p d || (needed p (es ++ e :: fs)).any (·.follows d)
        then d :: needed p (es ++ e :: fs) else needed p (es ++ e :: fs) := rfl
    rw [step]
    rcases List.mem_cons.mp h with rfl | h
    · have : (needed p (es ++ e :: fs)).any (·.follows f) = true := List.any_eq_true.mpr ⟨e, he, hf⟩
      simp [this]
    · have ih := mem_needed_of_follows hp hf (fs := fs) h
      split
      · exact List.mem_cons_of_mem _ ih
      · exact ih
/-- The youngest store of the set is performed last. -/
theorem needed_concat {p : SbEnt → Bool} {e : SbEnt} (hp : p e = true) : ∀ es : List SbEnt, ∃ ds, needed p (es ++ [e]) = ds ++ [e]
  | [] => ⟨[], by simp [needed, hp]⟩
  | d :: es => by
    obtain ⟨ds, h⟩ := needed_concat hp es
    have step : needed p (d :: es ++ [e]) = if p d || (needed p (es ++ [e])).any (·.follows d)
        then d :: needed p (es ++ [e]) else needed p (es ++ [e]) := rfl
    rw [step, h]
    split
    · exact ⟨d :: ds, rfl⟩
    · exact ⟨ds, rfl⟩
/-- Both byte memories once a set is performed whose youngest store stands last: those that this store leaves. -/
theorem flush_last {s : State} {p : SbEnt → Bool} {e : SbEnt} {es : List SbEnt} (h : s.ct.sbuf = es ++ [e]) (hp : p e = true) :
    ∃ u : State, u.ct.via = s.ct.via ∧ (s.flush p).mem = (u.performEnt e).mem ∧ (s.flush p).sram = (u.performEnt e).sram := by
  obtain ⟨ds, hd⟩ := needed_concat hp es
  refine ⟨ds.foldl State.performEnt s, by rw [foldl_performEnt_ct]; rfl, ?_⟩
  unfold State.flush
  rw [h, hd]
  split
  case h_1 hn => simp at hn
  case h_2 => simp only [List.foldl_append, List.foldl_cons, List.foldl_nil, and_self]

/-! ### A delayed store that a turn performs -/

theorem fire_sbuf (c : Ct) (n : Nat) : (c.fire n).sbuf = c.sbuf := by
  unfold Ct.fire
  split <;> rfl
theorem tryFire_sbuf_sub {s : State} {n : Nat} {e : SbEnt} (h : e ∈ (s.tryFire n).ct.sbuf) : e ∈ s.ct.sbuf := by
  unfold State.tryFire at h
  split at h
  · rename_i u _
    obtain ⟨-, hu⟩ | ⟨-, hu⟩ := afterStores_cases s (SbEnt.before u) fun s => { s with ct := s.ct.fire n }
    · rw [hu] at h
      exact (flush_of_set (fire_sbuf .. ▸ h)).1
    · exact hu ▸ h
  · exact h
theorem foldl_tryFire_sbuf_sub {e : SbEnt} : ∀ (ns : List Nat) {s : State},
    e ∈ (ns.foldl (fun t n => if t.ct.ripe n then t.tryFire n else t) s).ct.sbuf → e ∈ s.ct.sbuf
  | [], _, h => h
  | n :: ns, s, h => by
    have h := foldl_tryFire_sbuf_sub ns h
    dsimp only at h
    split at h
    · exact tryFire_sbuf_sub h
    · exact h
/-- Where nothing holds back a delayed store, the turn that performs it leaves none of those that it needs. -/
theorem not_mem_performOne {s : State} {k : Nat} {e f : SbEnt} (he : s.ct.sbuf[k]? = some e)
    (hfree : ∀ f ∈ s.ct.sbuf, s.free s.ct.via f = true) (hf : f ∈ needed (fun f => f.id == e.id) s.ct.sbuf) :
    f ∉ (s.performOne k).ct.sbuf := by
  intro h
  unfold State.performOne at h
  rw [he] at h
  dsimp only at h
  obtain ⟨-, hu⟩ | ⟨⟨d, hd, hdf⟩, -⟩ := afterStores_cases s (fun f => f.id == e.id) fun s =>
    (List.range 4).foldl (fun t n => if t.ct.ripe n then t.tryFire n else t) s
  · have h : f ∈ (s.flush fun f => f.id == e.id).ct.sbuf := foldl_tryFire_sbuf_sub _ (hu ▸ h)
    rw [flush_sbuf] at h
    exact (mem_leftBy h).2 hf
  · rw [hfree d (needed_sub _ _ d hd)] at hdf
    exact Bool.noConfusion hdf

end Sys2Proof.Laws
end

section
/-! SUPPORT. Scalar stores: what one writes and leaves, at once or delayed; and the statement on them. -/
namespace Sys2Proof.Laws
open Sys2Proof Sys2Proof.Machine Sys2Proof.Stmt

/-! ### The agent in focus -/

theorem side_of_isSys {s : State} (h : s.isSys = true) : s.side = none := by
  unfold State.isSys at h
  unfold State.side
  split at h
  · rename_i hw
    rw [hw]
  · exact Bool.noConfusion h
theorem isSys_of_side {s : State} {d : Side} (h : s.side = some d) : s.isSys = false := by
  cases hs : s.isSys
  · rfl
  · simp [side_of_isSys hs] at h
/-- A CT's stream reaches memory through its CT, and is the stream of its side. -/
theorem via_of_side {s : State} {d : Side} (h : s.side = some d) : s.via = s.ct.via := by
  simp [State.via, isSys_of_side h]
theorem who_of_side {s : State} {d : Side} (h : s.side = some d) : d.who = some s.who := by
  unfold State.side at h
  cases hw : s.who <;> simp only [hw, Option.some.injEq, reduceCtorEq] at h
  · exact h ▸ rfl
  · exact h ▸ rfl
theorem side_congr {s t : State} (h : t.who = s.who) : t.side = s.side := by
  simp only [State.side, h]
theorem isSys_congr {s t : State} (h : t.who = s.who) : t.isSys = s.isSys := by
  unfold State.isSys
  rw [h]
theorem via_congr {s t : State} (hw : t.who = s.who) (hv : t.ct.via = s.ct.via) : t.via = s.via := by
  simp only [State.via, isSys_congr hw, hv]

/-! ### Places -/

/-- A place is one of main memory, one of core scratch, or none. -/
theorem at_main {l : Loc} {pa : Nat} (h : Loc.at_ l = some (true, pa)) : (∃ ty, l = .phys pa ty) ∨ ∃ a, l = .image pa a := by
  cases l <;> simp_all [Loc.at_]
theorem at_scratch {l : Loc} {a : Nat} (h : Loc.at_ l = some (false, a)) : l = .sram a := by
  cases l <;> simp_all [Loc.at_]
theorem at_cases {l : Loc} (h : l ≠ .hole) : (∃ pa, Loc.at_ l = some (true, pa)) ∨ ∃ a, Loc.at_ l = some (false, a) := by
  cases l with
  | sram a => exact .inr ⟨a, rfl⟩
  | hole => exact absurd rfl h
  | phys pa ty => exact .inl ⟨pa, rfl⟩
  | image pa a => exact .inl ⟨pa, rfl⟩

section
variable (s : State) {v : Via} {l : Loc} {n x pa a : Nat}

theorem physN_of_memory (hv : v.prov = false) : ∀ (n pa : Nat), s.physN v pa n = s.mem.readN pa n
  | 0, _ => rfl
  | n + 1, pa => by
    have hb : s.physByte v pa = s.mem.read pa := by simp [State.physByte, hv]
    simp only [State.physN, Memory.readN, hb, physN_of_memory hv n (pa + 1)]

/-- Outside a provisional gang an access reads and writes the bytes of the place that it names. -/
theorem poke_main (hv : v.prov = false) (h : Loc.at_ l = some (true, pa)) :
    s.poke v l n x = { s with mem := s.mem.writeN pa n x } := by
  obtain ⟨ty, rfl⟩ | ⟨a, rfl⟩ := at_main h
  · simp [State.poke, hv]
  · rfl
theorem poke_scratch (h : Loc.at_ l = some (false, a)) : s.poke v l n x = { s with sram := s.sram.writeN a n x } := by
  rw [at_scratch h]
  rfl
theorem peek_main (hv : v.prov = false) (h : Loc.at_ l = some (true, pa)) : s.peek v l n = s.mem.readN pa n := by
  obtain ⟨ty, rfl⟩ | ⟨a, rfl⟩ := at_main h
  · exact physN_of_memory s hv n pa
  · rfl
theorem peek_scratch (h : Loc.at_ l = some (false, a)) : s.peek v l n = s.sram.readN a n := by
  rw [at_scratch h]
  rfl

end

/-! ### The bytes of a performed store -/

section
variable {s : State} {l : Loc} {n x : Nat}

theorem performed_mem_at (hv : s.via.prov = false) {pa : Nat} (h : Loc.at_ l = some (true, pa)) :
    (performed s l n x).mem = s.mem.writeN pa n x := by
  rw [performed, stored_mem, poke_main s hv h]
theorem performed_mem_off (h : ∀ pa, Loc.at_ l ≠ some (true, pa)) : (performed s l n x).mem = s.mem := by
  rw [performed, stored_mem]
  cases l with
  | sram a => rfl
  | hole => rfl
  | phys pa ty => exact absurd rfl (h pa)
  | image pa a => exact absurd rfl (h pa)
theorem performed_sram_at {a : Nat} (h : Loc.at_ l = some (false, a)) : (performed s l n x).sram = s.sram.writeN a n x := by
  rw [performed, stored_sram, poke_scratch s h]
theorem performed_sram_off (h : ∀ a, Loc.at_ l ≠ some (false, a)) : (performed s l n x).sram = s.sram := by
  rw [performed, stored_sram]
  cases l with
  | sram a => exact absurd rfl (h a)
  | hole => rfl
  | phys pa ty =>
    simp only [State.poke]
    split <;> rfl
  | image pa a => rfl

/-- The stored bytes read back, little-endian (R5). -/
theorem performed_mem_readN (hv : s.via.prov = false) {pa : Nat} (h : Loc.at_ l = some (true, pa)) :
    (performed s l n x).mem.readN pa n = x % 2 ^ (8 * n) := by
  rw [performed_mem_at hv h, readN_writeN]
theorem performed_sram_readN {a : Nat} (h : Loc.at_ l = some (false, a)) :
    (performed s l n x).sram.readN a n = x % 2 ^ (8 * n) := by
  rw [performed_sram_at h, readN_writeN]

/-- Every byte outside them stands. -/
theorem performed_mem_read (hv : s.via.prov = false) {b : Nat} (h : ∀ pa, Loc.at_ l = some (true, pa) → b < pa ∨ pa + n ≤ b) :
    (performed s l n x).mem.read b = s.mem.read b := by
  by_cases ha : ∃ pa, Loc.at_ l = some (true, pa)
  · obtain ⟨pa, ha⟩ := ha
    rw [performed_mem_at hv ha, read_writeN_outside n _ _ _ _ (h pa ha)]
  · rw [performed_mem_off (not_exists.mp ha)]
theorem performed_sram_read {b : Nat} (h : ∀ a, Loc.at_ l = some (false, a) → b < a ∨ a + n ≤ b) :
    (performed s l n x).sram.read b = s.sram.read b := by
  by_cases ha : ∃ a, Loc.at_ l = some (false, a)
  · obtain ⟨a, ha⟩ := ha
    rw [performed_sram_at ha, read_writeN_outside n _ _ _ _ (h a ha)]
  · rw [performed_sram_off (not_exists.mp ha)]

theorem performed_ct : (performed s l n x).ct =
    { s.ct with ex := (performed s l n x).ct.ex, ac := (performed s l n x).ct.ac } := by
  have h := stored_ct (s.poke s.via l n x) s.via l (some s.who)
  rw [poke_ct] at h
  exact h
theorem performed_sameRegs : SameRegs (performed s l n x).ct.ex s.ct.ex ∧ SameRegs (performed s l n x).ct.ac s.ct.ac := by
  have h := stored_sameRegs (s.poke s.via l n x) s.via l (some s.who)
  rw [poke_ct] at h
  exact h
theorem performed_rd (r : SReg) : (performed s l n x).rd r = s.rd r := by
  have h := stored_rd (s.poke s.via l n x) s.via l r
  rw [poke_who, poke_rd] at h
  exact h

end

/-- What a performed store leaves: the package, device time, and all of the CT in focus that a program sees. -/
theorem performed_leaves {s : State} (hv : s.via.prov = false) {l : Loc} {n x : Nat} :
    let u := performed s l n x
    u.pkg = s.pkg ∧ u.time = s.time ∧ u.who = s.who ∧ u.ct.v = s.ct.v ∧ u.ct.p = s.ct.p ∧ u.ct.a = s.ct.a ∧ u.ct.mx = s.ct.mx ∧
      u.ct.ex.x = s.ct.ex.x ∧ u.ct.ex.pc = s.ct.ex.pc ∧ u.ct.ac.x = s.ct.ac.x ∧ u.ct.ac.pc = s.ct.ac.pc ∧ ∀ r, u.rd r = s.rd r := by
  obtain ⟨⟨hex, hepc⟩, hac, hapc⟩ := performed_sameRegs (s := s) (l := l) (n := n) (x := x)
  refine ⟨?_, ?_, ?_, ?_, ?_, ?_, ?_, hex, hepc, hac, hapc, performed_rd⟩
  · rw [performed, stored_pkg, poke_pkg hv]
  · rw [performed, stored_time, poke_time]
  · rw [performed, stored_who, poke_who]
  all_goals rw [performed_ct]

/-! ### A store of the agent in focus -/

section
variable {s : State} {l : Loc} {n x : Nat} {rel : Bool} {d : Side}

theorem storeAt_of_isSys (h : s.isSys = true) : s.storeAt l n x rel = performed s l n x := by
  simp only [State.storeAt, side_of_isSys h, performed]
theorem storeAt_delayed (hd : s.side = some d) (hl : s.delays l = true) :
    s.storeAt l n x rel = s.delay (entry s d rel l n x) := by
  simp [State.storeAt, hd, State.storeBy, hl, entry]

/-- Of a CT a store that is not delayed is performed once the older ones are that it may not overtake; its bytes are accessed now. -/
theorem storeAt_now (hd : s.side = some d) (hl : s.delays l = false) :
    s.storeAt l n x rel = (performed (s.flush fun f => (entry s d rel l n x).follows f) l n x).note d s.moment l n := by
  have hw := flush_who s fun f => (entry s d rel l n x).follows f
  have hv : (s.flush fun f => (entry s d rel l n x).follows f).via = s.ct.via :=
    (via_congr hw (flush_via s _)).trans (via_of_side hd)
  have hp := performEnt_of_store (s.flush fun f => (entry s d rel l n x).follows f) (e := entry s d rel l n x) rfl rfl
  rw [flush_via, show (entry s d rel l n x).side.who = some s.who from who_of_side hd] at hp
  have hs : s.storeAt l n x rel = s.storeNow (entry s d rel l n x) := by simp [State.storeAt, hd, State.storeBy, hl, entry]
  rw [hs, State.storeNow, hp, performed, hv, hw]
  rfl

theorem storeAt_who : (s.storeAt l n x rel).who = s.who := by
  cases hd : s.side with
  | none => simp only [State.storeAt, hd, stored_who, poke_who]
  | some d =>
    cases hl : s.delays l
    · rw [storeAt_now hd hl, note_who, performed, stored_who, poke_who, flush_who]
    · rw [storeAt_delayed hd hl, delay_who]
/-- Of the CT in focus a store changes WAITs, the delayed stores, and what the kept moments know of later accesses. -/
theorem storeAt_ct : ∃ ex ac es k ls, (s.storeAt l n x rel).ct = { s.ct with ex := ex, ac := ac, sbuf := es, sbn := k, looks := ls } := by
  cases hd : s.side with
  | none =>
    refine ⟨(performed s l n x).ct.ex, (performed s l n x).ct.ac, s.ct.sbuf, s.ct.sbn, s.ct.looks, ?_⟩
    simp only [State.storeAt, hd]
    exact performed_ct
  | some d =>
    cases hl : s.delays l
    · rw [storeAt_now hd hl, State.note, performed_ct, flush_ct]
      exact ⟨_, _, _, _, _, rfl⟩
    · rw [storeAt_delayed hd hl]
      exact ⟨s.ct.ex, s.ct.ac, s.ct.sbuf ++ [entry s d rel l n x], _, _, rfl⟩
theorem storeAt_group : (s.storeAt l n x rel).group = s.group := by
  obtain ⟨ex, ac, es, k, ls, h⟩ := storeAt_ct (s := s) (l := l) (n := n) (x := x) (rel := rel)
  simp only [State.group, storeAt_who, h, Ct.curGroup]

/-- A system core's store, and a CT's that is not delayed, are performed in a state with the same reach into memory. -/
theorem storeAt_performed (h : s.isSys = true ∨ s.delays l = false) : ∃ u : State, u.via = s.via ∧
    (s.storeAt l n x rel).mem = (performed u l n x).mem ∧ (s.storeAt l n x rel).sram = (performed u l n x).sram := by
  cases hd : s.side with
  | none =>
    refine ⟨s, rfl, ?_⟩
    simp only [State.storeAt, hd, performed, and_self]
  | some d =>
    have hl : s.delays l = false := by simpa [isSys_of_side hd] using h
    refine ⟨s.flush fun f => (entry s d rel l n x).follows f, via_congr (flush_who ..) (flush_via ..), ?_⟩
    rw [storeAt_now hd hl, note_mem, note_sram]
    exact ⟨rfl, rfl⟩

/-- Its bytes read back. -/
theorem storeAt_readN (hv : s.via.prov = false) (h : s.isSys = true ∨ s.delays l = false) :
    (∀ pa, Loc.at_ l = some (true, pa) → (s.storeAt l n x rel).mem.readN pa n = x % 2 ^ (8 * n)) ∧
    (∀ a, Loc.at_ l = some (false, a) → (s.storeAt l n x rel).sram.readN a n = x % 2 ^ (8 * n)) := by
  obtain ⟨u, hu, hm, hs⟩ := storeAt_performed (n := n) (x := x) (rel := rel) h
  rw [hm, hs]
  exact ⟨fun pa ha => performed_mem_readN (hu ▸ hv) ha, fun a ha => performed_sram_readN ha⟩

/-- Once a store is performed, none is left that it may not overtake. -/
theorem storeAt_sbuf (hd : s.side = some d) (hl : s.delays l = false) :
    ∀ e ∈ (s.storeAt l n x rel).ct.sbuf, e ∈ s.ct.sbuf ∧ (entry s d rel l n x).follows e = false := by
  intro e he
  rw [storeAt_now hd hl, note_ct_sbuf, performed_ct] at he
  exact flush_of_set he
/-- Where it overtakes none it may not, it is performed in the state as it stands. -/
theorem storeAt_of_first (hd : s.side = some d) (hl : s.delays l = false)
    (h : ∀ e ∈ s.ct.sbuf, (entry s d rel l n x).follows e = false) :
    s.storeAt l n x rel = (performed s l n x).note d s.moment l n := by
  rw [storeAt_now hd hl, flush_of_none h]
theorem note_of_no_looks {t : State} (h : t.ct.looks = []) (d : Side) (m : Nat) (l : Loc) (n : Nat) : t.note d m l n = t := by
  unfold State.note
  rw [h, List.map_nil, ← h]
theorem performed_looks : (performed s l n x).ct.looks = s.ct.looks := by
  rw [performed_ct]

/-- A store meets a read of its own bytes. -/
theorem meets_self (hh : l ≠ .hole) (hn : 0 < n) : (entry s d rel l n x).meets l n = true := by
  cases l with
  | hole => exact absurd rfl hh
  | _ => simp [entry, SbEnt.meets, Loc.byte, hn]
/-- A CT's stream reads once its own delayed stores are performed that the read meets. -/
theorem readNow_of_side {t : State} (hd : t.side = some d) :
    (t.readNow l n).1 = (t.flush (t.own l n)).peek (t.flush (t.own l n)).ct.via l n := by
  simp only [State.readNow, hd]
theorem peek_no_byte (t : State) {v : Via} (hv : v.prov = false) (hh : l ≠ .hole) : t.peek v l 0 = 0 := by
  obtain ⟨pa, ha⟩ | ⟨a, ha⟩ := at_cases hh
  · rw [peek_main t hv ha]; rfl
  · rw [peek_scratch t ha]; rfl
/-- The bytes of a store, read in a state whose memories are those that the store leaves. -/
theorem peek_performEnt {t u : State} (hv : t.ct.via.prov = false) (hu : u.ct.via.prov = false) (hh : l ≠ .hole)
    (hm : t.mem = (u.performEnt (entry s d rel l n x)).mem) (hs : t.sram = (u.performEnt (entry s d rel l n x)).sram) :
    t.peek t.ct.via l n = x % 2 ^ (8 * n) := by
  have hp : u.performEnt (entry s d rel l n x) = (u.poke u.ct.via l n x).stored u.ct.via l d.who := performEnt_of_store u rfl rfl
  obtain ⟨pa, ha⟩ | ⟨a, ha⟩ := at_cases hh
  · rw [peek_main t hv ha, hm, hp, stored_mem, poke_main u hu ha, readN_writeN]
  · rw [peek_scratch t ha, hs, hp, stored_sram, poke_scratch u ha, readN_writeN]

/-- Its own stream reads a delayed store (R139): it stands last among those that the read meets, so it is performed last. -/
theorem readNow_delayed (hv : s.via.prov = false) (hd : s.side = some d) (hl : s.delays l = true) (hh : l ≠ .hole) :
    ((s.storeAt l n x rel).readNow l n).1 = x % 2 ^ (8 * n) := by
  rw [storeAt_delayed hd hl]
  have hside : (s.delay (entry s d rel l n x)).side = some d := (side_congr (delay_who s _)).trans hd
  have hcv : s.ct.via.prov = false := via_of_side hd ▸ hv
  have hfv : ∀ p, ((s.delay (entry s d rel l n x)).flush p).ct.via.prov = false := fun p => by
    rw [flush_via]
    exact hcv
  rw [readNow_of_side hside]
  rcases Nat.eq_zero_or_pos n with rfl | hn
  · rw [peek_no_byte _ (hfv _) hh, Nat.mul_zero, Nat.pow_zero, Nat.mod_one]
  · have hmine : (s.delay (entry s d rel l n x)).mine (entry s d rel l n x) = true := by
      rw [State.mine, hside]
      exact beq_self_eq_true _
    have hown : (s.delay (entry s d rel l n x)).own l n (entry s d rel l n x) = true := by
      rw [State.own, hmine, meets_self hh hn]
      rfl
    obtain ⟨u, hu, hm, hs⟩ := flush_last (s := s.delay (entry s d rel l n x)) (es := s.ct.sbuf) rfl hown
    exact peek_performEnt (hfv _) (hu ▸ hcv) hh hm hs

end

/-! ### The words -/

section
variable {s : State} {l : Loc} {n x : Nat} {rel : Bool}

/-- Within the package a store takes effect at its place, or waits for what holds back an older one. -/
theorem storeTo_of_goes (hb : s.beyond s.via l n .store = none) (h : storeGoes s rel l n = true) :
    s.storeTo l n x rel = .ok (s.storeAt l n x rel) := by
  unfold State.storeTo
  rw [hb]
  dsimp only
  cases hd : s.side with
  | none => rfl
  | some d =>
    simp only [storeGoes, hd] at h
    simp only [h, if_true]
theorem storeTo_of_held (hb : s.beyond s.via l n .store = none) (h : storeGoes s rel l n = false) :
    s.storeTo l n x rel = .stall s := by
  unfold State.storeTo
  rw [hb]
  dsimp only
  cases hd : s.side with
  | none => simp [storeGoes, hd] at h
  | some d =>
    simp only [storeGoes, hd] at h
    simp [h]

/-- What a scalar store comes to at its place: past the word, or the wait. -/
def storeRun (s : State) (l : Loc) (n x : Nat) (rel : Bool) : State :=
  if storeGoes s rel l n then past (s.storeAt l n x rel) else s

theorem storeTo_advance (hg : s.group = none) (hb : s.beyond s.via l n .store = none) (a : Word) :
    (s.storeTo l n x rel).orRaise a (fun t => t.advance) = storeRun s l n x rel := by
  unfold storeRun
  split
  · rename_i h
    rw [storeTo_of_goes hb h]
    exact advance_of_outside (storeAt_group.trans hg)
  · rename_i h
    rw [storeTo_of_held hb (by simpa using h)]
    rfl

theorem memStore_of_ready {a : Word} (h : Ready s a n .store l) : s.memStore a n x = s.storeTo l n x := by
  simp [State.memStore, h.walk, h.place, h.prov, h.free]
theorem amoAt_of_ready {a : Word} (h : Ready s a n .store l) (ha : a.toNat % n = 0) (hp : s.isSys = true ∨ s.ct.prov = false)
    (hty : ∀ pa ty, l = .phys pa ty → ty ≤ 1) (f : Loc → State → State) : amoAt s a n .store f = f l s := by
  have hprov : (!s.isSys && s.ct.prov) = false := by
    rcases hp with hp | hp <;> simp [hp]
  cases l with
  | phys pa ty =>
    have hdev : ¬ 2 ≤ ty := Nat.not_le_of_lt (Nat.lt_succ_of_le (hty pa ty rfl))
    simp [amoAt, hprov, aligned, ha, h.walk, h.place, hdev, h.free]
  | _ => simp [amoAt, hprov, aligned, ha, h.walk, h.place, h.free]

theorem smAddr_eq (s : State) (a : SReg) (w : BitVec 2) (i : BitVec 10) : smAddr s a w i = smAt s a w i := by
  have h : (BitVec.twoPow 64 w.toNat) = BitVec.ofNat 64 (2 ^ w.toNat) := by
    revert w
    decide
  rw [smAddr, smAt, sx64, BitVec.shiftLeft_eq_mul_twoPow, h]

theorem exec_st_ready {d a : SReg} {w c : BitVec 2} {i : BitVec 10} (hg : s.group = none)
    (ha : (smAt s a w i).toNat % 2 ^ w.toNat = 0) (h : Ready s (smAt s a w i) (2 ^ w.toNat) .store l) :
    exec (.st d a w c i) s = .next (storeRun s l (2 ^ w.toNat) (s.rd d).toNat false) := by
  rw [exec_st, execSt, scal_of_outside hg, smAddr_eq]
  simp only [storeFrom, aligned, ha, decide_true, Bool.not_true, Bool.false_eq_true, if_false, memStore_of_ready h,
    storeTo_advance hg h.main]
theorem exec_stl_ready {a b : SReg} {w : BitVec 1} {sc : BitVec 3} (hg : s.group = none)
    (ha : (s.rd a).toNat % (4 + 4 * w.toNat) = 0) (h : Ready s (s.rd a) (4 + 4 * w.toNat) .store l)
    (hp : s.isSys = true ∨ s.ct.prov = false) (hty : ∀ pa ty, l = .phys pa ty → ty ≤ 1) :
    exec (.stl a b w sc) s = .next (storeRun s l (4 + 4 * w.toNat) (s.rd b).toNat true) := by
  rw [exec_stl, execStl, scal_of_outside hg]
  simp only [amoAt_of_ready h ha hp hty, storeTo_advance hg h.main]

/-- Both store words, at a place that they reach at once. -/
theorem exec_store {i : Instr} {r : SReg} {a : Word} (hs : storeOf i = some r) (hacc : accessOf s i = some (a, n, .store))
    (hg : s.group = none) (ha : a.toNat % n = 0) (h : Ready s a n .store l)
    (hrel : releases i = true → (s.isSys = true ∨ s.ct.prov = false) ∧ ∀ pa ty, l = .phys pa ty → ty ≤ 1) :
    exec i s = .next (storeRun s l n (s.rd r).toNat (releases i)) := by
  unfold storeOf at hs
  split at hs
  · cases hs; cases hacc
    exact exec_st_ready hg ha h
  · cases hs; cases hacc
    obtain ⟨hp, hty⟩ := hrel rfl
    exact exec_stl_ready hg ha h hp hty
  · cases hs

end

/-- Settles O14: a store word runs `storeRun` at its place; what `storeAt` does there is that of a system core, of a store performed
after the older ones that it follows, or of a delayed one; and a turn that performs a delayed store performs what it needs. -/
theorem storesWriteTheirBytes : Obligations.StoresWriteTheirBytes := by
  unfold Obligations.StoresWriteTheirBytes
  refine ⟨fun i r a n s l hs hacc hg ha h hrel => ?_, fun s l n x rel hv => ?_, fun s es fs e hb hfree => ?_⟩
  · rw [exec_store hs hacc hg ha h hrel, storeRun]
    exact ⟨fun hgo => by rw [if_pos hgo], fun hgo => by rw [if_neg (by simp [hgo])]⟩
  · refine ⟨storeAt_of_isSys, storeAt_readN hv, fun d hd hl => ⟨storeAt_sbuf hd hl, fun hf => ?_⟩, fun d hd hl => ⟨?_, ?_⟩,
      fun b hb => performed_mem_read hv hb, fun b hb => performed_sram_read hb, fun pa ha => performed_mem_readN hv ha,
      fun a ha => performed_sram_readN ha, performed_leaves hv⟩
    · rw [storeAt_of_first hd hl hf]
      exact ⟨by rw [← performed_looks]; rfl, fun hk => note_of_no_looks (performed_looks.trans hk) ..⟩
    · rw [storeAt_delayed hd hl]
      rfl
    · exact readNow_delayed hv hd hl
  · have he : s.ct.sbuf[es.length]? = some e := by simp [hb]
    refine ⟨not_mem_performOne he hfree (mem_needed (by simp [hb]) (by simp)), fun f hf hfol => ?_⟩
    refine not_mem_performOne he hfree ?_
    rw [hb]
    exact mem_needed_of_follows (by simp) hfol hf

end Sys2Proof.Laws
end

section
/-! SUPPORT. Decode of encode, for every instruction word. -/
namespace Sys2Proof.Laws.RoundTrip
open Sys2Proof

/-- Settles O6: one case per constructor of the instruction type, in its order; an event is not well-formed. -/
theorem decodeEncodeRoundTrip : Obligations.DecodeEncodeRoundTrip := fun i =>
  i.casesOn (motive := Statement)
    add sub mul mulh mulhu div divu rem remu and or xor andn shl shr sha rot slt sltu min max minu maxu clz ctz popc addi
    andi ori xori slti shli shri shai ldi adpc ld ldu st amoadd amoswap amoand amoor amoxor amomin amomax amominu amomaxu
    amocas lda stl fence beq bne blt bge bltu bgeu jmp jmpr fadd fsub fmul fdiv fsqrt fma fmin fmax fcmp fcvtDS fmv fmvNeg
    fmvAbs fcvtFK fcvtKF fcvtRtz qsend qrecv qbsend bq sysr sysw sysset sysclr trap tret wait yield halt time hint
    illegalWord vsetl vsett vsetg vaddVv vaddVx vsubVv vsubVx vmulVv vmulVx vmulhVv vmulhVx vdivVv vdivVx vremVv vremVx
    vminVv vminVx vmaxVv vmaxVx vandVv vandVx vorVv vorVx vxorVv vxorVx vandnVv vandnVx vshlVv vshlVx vshrVv vshrVx vshaVv
    vshaVx vfmaVv vfmaVx vfmsVv vfmsVx vfnmaVv vfnmaVx vclampVv vclampVx vselVv vselVx vaddSatVv vaddSatVx vsubSatVv
    vsubSatVx vabs vneg vmov vcvt vcvtSat vsplat vext viota vwaddVx vwaddVv vwsubVx vwsubVv vwmulVx vwmulVv vwmacVx vwmacVv
    vnshrVx vnshrVv vncvt vsqrt vrcp vrsq vexp2 vlog2 vcmpEq vcmpNe vcmpLt vcmpLe vcmpGt vcmpGe vcmpUn vclass pand por pxor
    pandn pnot pmov pset pcnt pfirst plast pbrk pld pst vfetch vpbr vpjoin vpend vld vldS vldX vldff vldseg vst vstS vstX
    vsto vstseg vstoStrided vamoAdd vamoSwap vamoAnd vamoOr vamoXor vamoMin vamoMax vpermVv vpermVx vslup vsldn vcompr vexpnd
    vredsum vredmax vredmin vscan vsoftmax binz vbinacc vbinmacVx vbinmacVv binfold vmark vstrip fbind fchain funbind fstat
    feedFetch fpcvt fplen2 fpgtag fpstagVx fpstagVv frset frdel frfence frlook chainCacheInvalidationAck retentionWake mstl
    mlds msow mswap mmac mmacM macz macld macst macin mseedgen mseedscan cpy cpyq cpyw cpywP wdqry wmbind wmpub copyComplete
    wdqryAnswer watermarkVisible launch lspec shpub allocr retract lstat gangCommit gangPlace agePromotion launchComplete
    barg barw barrierMarkerFire vsave vrestore msave mrestore uopIssue uopComplete pageWalk ownershipTrap faultRecordPost
    waitLineWrite waitDeadline directoryRead directoryWrite directoryEviction directoryAtomic migrationLineCopy eccPoison
    scrub logMove registerWrite plotMake plotFree corecfg resume preempt abandon inval migrate sweep cancel queue collect
    collectMemberTimeout grant trellisRepair hostwin addrwin coordinatorBadCode queueKick launchPacket graphLoad graphUnload
    graphRun waitPacket signal packetStampRetry queueStale interrupt timerInterrupt boot leaseRenew leasePoll heartbeatWrite
    heartbeatCheck firmwareEccHalt sensorRead clockStep getVersion getCapabilities negotiateAlgorithms getDigests
    getCertificate challenge getMeasurements hostBar2Access cxlMemRead cxlMemWrite dataFlit nakFlit pauseFlit resumeFlit
    idleFlit capabilityFlit linkRetrain remoteRequest remoteResponse remoteTimeout timeSyncExchange retentionSleep

end Sys2Proof.Laws.RoundTrip
end

section
/-! SUPPORT. What the decoder answers for every word, by the values of its function fields. -/
namespace Sys2Proof.Laws
open Sys2Proof Sys2Proof.Machine Sys2Proof.Stmt

/-- What the decoder answers for a word of an assigned major (R35): RESFN where a function field holds no assigned value, else a
well-formed instruction or FIELD. -/
def Answers (assigned : Prop) (r : Except Nat Instr) : Prop :=
  (¬ assigned → r = .error 4) ∧ (assigned → (∃ i, r = .ok i ∧ i.wf = true) ∨ r = .error 5)

theorem answers_resfn {p : Prop} (h : ¬ p) : Answers p (.error 4) := ⟨fun _ => rfl, fun hp => absurd hp h⟩
theorem answers_field {p : Prop} (h : p) : Answers p (.error 5) := ⟨fun hn => absurd h hn, fun _ => .inr rfl⟩
theorem answers_unlessSet {p : Prop} {i : Instr} {u : Bool} (hw : i.isWord = true) (h : i.resfn = false ↔ p) :
    Answers p (unlessSet u i) := by
  unfold unlessSet
  refine ⟨fun hp => if_pos (by rwa [← h, Bool.not_eq_false] at hp), fun hp => ?_⟩
  have hr := h.mpr hp
  rw [if_neg (by simp [hr])]
  split
  · exact .inr rfl
  · next hb =>
    simp only [Bool.or_eq_true, not_or, Bool.not_eq_true] at hb
    exact .inl ⟨i, rfl, by simp [Instr.wf, hw, hr, hb.2]⟩
/-- A candidate all of whose function fields are assigned. -/
theorem answers_candidate {p : Prop} {i : Instr} {u : Bool} (hw : i.isWord = true) (hr : i.resfn = false) (h : p) :
    Answers p (unlessSet u i) := answers_unlessSet hw (iff_of_true hr h)

/-! ### Majors of one function field

A branch of the decoder for an assigned value reads a candidate; the last branch is that of the values that none of them names. -/

theorem fnAssigned_one {w : IWord} {lo n : Nat} {l : List Nat} (h : fnFields w = [(lo, n, l)]) :
    fnAssigned w = ((fld w lo n).toNat ∈ l) := by
  simp [fnAssigned, h]

theorem answers_salu {w : IWord} (hm : (fld w 26 6).toNat = 0x01) : Answers (fnAssigned w) (decSalu w) := by
  rw [fnAssigned_one (by unfold fnFields; rw [hm]; rfl)]
  unfold decSalu
  split <;> rename_i h
  case h_27 => exact answers_resfn (by simp; grind)
  all_goals exact answers_candidate rfl rfl (by simp [h])
theorem answers_shi {w : IWord} (hm : (fld w 26 6).toNat = 0x07) : Answers (fnAssigned w) (decShi w) := by
  rw [fnAssigned_one (by unfold fnFields; rw [hm]; rfl)]
  unfold decShi
  split <;> rename_i h
  case h_4 => exact answers_resfn (by simp; grind)
  all_goals exact answers_candidate rfl rfl (by simp [h])
theorem answers_ctrl {w : IWord} (hm : (fld w 26 6).toNat = 0x1B) : Answers (fnAssigned w) (decCtrl w) := by
  rw [fnAssigned_one (by unfold fnFields; rw [hm]; rfl)]
  unfold decCtrl
  split <;> rename_i h
  case h_7 => exact answers_resfn (by simp; grind)
  all_goals exact answers_candidate rfl rfl (by simp [h])
theorem answers_vcfg {w : IWord} (hm : (fld w 26 6).toNat = 0x20) : Answers (fnAssigned w) (decVcfg w) := by
  rw [fnAssigned_one (by unfold fnFields; rw [hm]; rfl)]
  unfold decVcfg
  split <;> rename_i h
  case h_4 => exact answers_resfn (by simp; grind)
  all_goals exact answers_candidate rfl rfl (by simp [h])
theorem answers_vopVv {w : IWord} (hm : (fld w 26 6).toNat = 0x21) : Answers (fnAssigned w) (decVopVv w) := by
  rw [fnAssigned_one (by unfold fnFields; rw [hm]; rfl)]
  unfold decVopVv
  split <;> rename_i h
  case h_28 => exact answers_resfn (by simp; grind)
  all_goals exact answers_candidate rfl rfl (by simp [h])
theorem answers_vopVx {w : IWord} (hm : (fld w 26 6).toNat = 0x22) : Answers (fnAssigned w) (decVopVx w) := by
  rw [fnAssigned_one (by unfold fnFields; rw [hm]; rfl)]
  unfold decVopVx
  split <;> rename_i h
  case h_25 => exact answers_resfn (by simp; grind)
  all_goals exact answers_candidate rfl rfl (by simp [h])
theorem answers_vwide {w : IWord} (hm : (fld w 26 6).toNat = 0x24) : Answers (fnAssigned w) (decVwide w) := by
  rw [fnAssigned_one (by unfold fnFields; rw [hm]; rfl)]
  unfold decVwide
  split <;> rename_i h
  case h_12 => exact answers_field (by simp [h])
  case h_13 => exact answers_resfn (by simp; grind)
  all_goals exact answers_candidate rfl rfl (by simp [h])
theorem answers_vsfu {w : IWord} (hm : (fld w 26 6).toNat = 0x25) : Answers (fnAssigned w) (decVsfu w) := by
  rw [fnAssigned_one (by unfold fnFields; rw [hm]; rfl)]
  unfold decVsfu
  split <;> rename_i h
  case h_6 => exact answers_resfn (by simp; grind)
  all_goals exact answers_candidate rfl rfl (by simp [h])
theorem answers_vcmp {w : IWord} (hm : (fld w 26 6).toNat = 0x26) : Answers (fnAssigned w) (decVcmp w) := by
  rw [fnAssigned_one (by unfold fnFields; rw [hm]; rfl)]
  unfold decVcmp
  split <;> rename_i h
  case h_9 => exact answers_resfn (by simp; grind)
  all_goals exact answers_candidate rfl rfl (by simp [h])
theorem answers_pred {w : IWord} (hm : (fld w 26 6).toNat = 0x27) : Answers (fnAssigned w) (decPred w) := by
  rw [fnAssigned_one (by unfold fnFields; rw [hm]; rfl)]
  unfold decPred
  split <;> rename_i h
  case h_14 => exact answers_resfn (by simp; grind)
  all_goals exact answers_candidate rfl rfl (by simp [h])
theorem answers_vamo {w : IWord} (hm : (fld w 26 6).toNat = 0x2B) : Answers (fnAssigned w) (decVamo w) := by
  rw [fnAssigned_one (by unfold fnFields; rw [hm]; rfl)]
  unfold decVamo
  split <;> rename_i h
  case h_8 => exact answers_resfn (by simp; grind)
  all_goals exact answers_candidate rfl rfl (by simp [h])
theorem answers_vlane {w : IWord} (hm : (fld w 26 6).toNat = 0x2C) : Answers (fnAssigned w) (decVlane w) := by
  rw [fnAssigned_one (by unfold fnFields; rw [hm]; rfl)]
  unfold decVlane
  split <;> rename_i h
  case h_7 => exact answers_resfn (by simp; grind)
  all_goals exact answers_candidate rfl rfl (by simp [h])
theorem answers_vred {w : IWord} (hm : (fld w 26 6).toNat = 0x2D) : Answers (fnAssigned w) (decVred w) := by
  rw [fnAssigned_one (by unfold fnFields; rw [hm]; rfl)]
  unfold decVred
  split <;> rename_i h
  case h_13 => exact answers_resfn (by simp; grind)
  all_goals exact answers_candidate rfl rfl (by simp [h])
theorem answers_feed {w : IWord} (hm : (fld w 26 6).toNat = 0x2E) : Answers (fnAssigned w) (decFeed w) := by
  rw [fnAssigned_one (by unfold fnFields; rw [hm]; rfl)]
  unfold decFeed
  split <;> rename_i h
  case h_5 => exact answers_resfn (by simp; grind)
  all_goals exact answers_candidate rfl rfl (by simp [h])
theorem answers_frame {w : IWord} (hm : (fld w 26 6).toNat = 0x2F) : Answers (fnAssigned w) (decFrame w) := by
  rw [fnAssigned_one (by unfold fnFields; rw [hm]; rfl)]
  unfold decFrame
  split <;> rename_i h
  case h_6 => exact answers_resfn (by simp; grind)
  all_goals exact answers_candidate rfl rfl (by simp [h])
theorem answers_trellis {w : IWord} (hm : (fld w 26 6).toNat = 0x30) : Answers (fnAssigned w) (decTrellis w) := by
  rw [fnAssigned_one (by unfold fnFields; rw [hm]; rfl)]
  unfold decTrellis
  split <;> rename_i h
  case h_5 => exact answers_resfn (by simp; grind)
  all_goals exact answers_candidate rfl rfl (by simp [h])
theorem answers_matrix {w : IWord} (hm : (fld w 26 6).toNat = 0x31) : Answers (fnAssigned w) (decMatrix w) := by
  rw [fnAssigned_one (by unfold fnFields; rw [hm]; rfl)]
  unfold decMatrix
  split <;> rename_i h
  case h_13 => exact answers_resfn (by simp; grind)
  all_goals exact answers_candidate rfl rfl (by simp [h])
theorem answers_sync {w : IWord} (hm : (fld w 26 6).toNat = 0x34) : Answers (fnAssigned w) (decSync w) := by
  rw [fnAssigned_one (by unfold fnFields; rw [hm]; rfl)]
  unfold decSync
  split <;> rename_i h
  case h_3 => exact answers_resfn (by simp; grind)
  all_goals exact answers_candidate rfl rfl (by simp [h])
theorem answers_vctx {w : IWord} (hm : (fld w 26 6).toNat = 0x35) : Answers (fnAssigned w) (decVctx w) := by
  rw [fnAssigned_one (by unfold fnFields; rw [hm]; rfl)]
  unfold decVctx
  split <;> rename_i h
  case h_5 => exact answers_resfn (by simp; grind)
  all_goals exact answers_candidate rfl rfl (by simp [h])

/-! ### Majors of more or of fewer function fields -/

theorem answers_plain {w : IWord} {i : Instr} {u : Bool} (hf : fnFields w = []) (hw : i.isWord = true) (hr : i.resfn = false) :
    Answers (fnAssigned w) (unlessSet u i) := answers_candidate hw hr (by simp [fnAssigned, hf])

theorem answers_amo {w : IWord} (hm : (fld w 26 6).toNat = 0x0D) : Answers (fnAssigned w) (decAmo w) := by
  have hf : fnAssigned w = ((fld w 4 4).toNat < 12 ∧ (fld w 0 3).toNat < 5) := by simp [fnAssigned, fnFields, hm]
  rw [hf]
  unfold decAmo
  split <;> rename_i h
  case h_13 => exact answers_resfn (by grind)
  all_goals exact answers_unlessSet rfl (by simp [h, Instr.resfn])
theorem answers_fence {w : IWord} {u : Bool} {k : BitVec 2} (hm : (fld w 26 6).toNat = 0x0E) :
    Answers (fnAssigned w) (unlessSet u (.fence k (fld w 3 3))) :=
  answers_unlessSet rfl (by simp [fnAssigned, fnFields, hm, Instr.resfn])
theorem answers_sfpu {w : IWord} (hm : (fld w 26 6).toNat = 0x18) : Answers (fnAssigned w) (decSfpu w) := by
  have hf : fnAssigned w = ((fld w 4 4).toNat < 14 ∧
      (fld w 0 2).toNat ∈ (if (fld w 4 4).toNat < 8 then [0] else if (fld w 4 4).toNat = 10 then List.range 3 else List.range 4)) := by
    simp [fnAssigned, fnFields, hm]
  have hlt := (fld w 0 2).isLt
  unfold decSfpu
  split <;> rename_i h
  case h_11 =>
    split <;> rename_i h'
    case h_4 => exact answers_resfn (by simp [hf, h]; grind)
    all_goals exact answers_candidate rfl rfl (by simp [hf, h, h'])
  case h_15 => exact answers_resfn (by rw [hf]; grind)
  case h_9 | h_10 | h_12 | h_13 | h_14 => exact answers_candidate rfl rfl (by simp [hf, h, hlt])
  all_goals
    split <;> rename_i h'
    · exact answers_resfn (by simpa [hf, h, ← BitVec.toNat_inj] using h')
    · exact answers_candidate rfl rfl (by simpa [hf, h, ← BitVec.toNat_inj] using h')
theorem answers_queue {w : IWord} (hm : (fld w 26 6).toNat = 0x19) : Answers (fnAssigned w) (decQueue w) := by
  have hf : fnFields w = [] := by simp [fnFields, hm]
  unfold decQueue
  split
  case h_5 => exact absurd (fld w 12 2).isLt (by grind)
  all_goals exact answers_plain hf rfl rfl
theorem answers_sys {w : IWord} (hm : (fld w 26 6).toNat = 0x1A) : Answers (fnAssigned w) (decSys w) := by
  have hf : fnFields w = [] := by simp [fnFields, hm]
  unfold decSys
  split
  case h_5 => exact absurd (fld w 0 2).isLt (by grind)
  all_goals exact answers_plain hf rfl rfl
theorem answers_vpctl {w : IWord} (hm : (fld w 26 6).toNat = 0x28) : Answers (fnAssigned w) (decVpctl w) := by
  have hf : fnFields w = [] := by simp [fnFields, hm]
  unfold decVpctl
  split
  case h_5 => exact absurd (fld w 23 2).isLt (by grind)
  all_goals exact answers_plain hf rfl rfl
theorem answers_vld {w : IWord} (hm : (fld w 26 6).toNat = 0x29) : Answers (fnAssigned w) (decVld w) := by
  rw [fnAssigned_one (by unfold fnFields; rw [hm]; rfl)]
  unfold decVld
  split <;> rename_i h
  case h_5 =>
    split <;> rename_i h'
    · exact answers_candidate rfl (by simp [Instr.resfn]; omega) (by simp; omega)
    · exact answers_resfn (by simp; grind)
  all_goals exact answers_candidate rfl rfl (by simp [h])
theorem answers_vst {w : IWord} (hm : (fld w 26 6).toNat = 0x2A) : Answers (fnAssigned w) (decVst w) := by
  rw [fnAssigned_one (by unfold fnFields; rw [hm]; rfl)]
  unfold decVst
  split <;> rename_i h
  case h_6 =>
    split <;> rename_i h'
    · exact answers_candidate rfl (by simp [Instr.resfn]; omega) (by simp; omega)
    · exact answers_resfn (by simp; grind)
  all_goals exact answers_candidate rfl rfl (by simp [h])
theorem answers_engine {w : IWord} (hm : (fld w 26 6).toNat = 0x32) : Answers (fnAssigned w) (decEngine w) := by
  have hlt := (fld w 3 2).isLt
  unfold decEngine
  split <;> rename_i h
  case h_1 => exact answers_unlessSet rfl (by simp [fnAssigned, fnFields, hm, h, Instr.resfn]; omega)
  case h_2 => exact answers_unlessSet rfl (by simp [fnAssigned, fnFields, hm, h, Instr.resfn])
  case h_3 =>
    split <;> rename_i h'
    case h_3 => exact answers_resfn (by simp [fnAssigned, fnFields, hm, h]; grind)
    all_goals exact answers_candidate rfl rfl (by simp [fnAssigned, fnFields, hm, h, h'])
  case h_7 => exact answers_resfn (by simp [fnAssigned, fnFields, hm]; grind)
  all_goals exact answers_candidate rfl rfl (by simp [fnAssigned, fnFields, hm, h])
theorem answers_launch {w : IWord} (hm : (fld w 26 6).toNat = 0x33) : Answers (fnAssigned w) (decLaunch w) := by
  unfold decLaunch
  split <;> rename_i h
  case h_6 => exact answers_unlessSet rfl (by simp [fnAssigned, fnFields, hm, h, Instr.resfn])
  case h_7 => exact answers_resfn (by simp [fnAssigned, fnFields, hm]; grind)
  all_goals exact answers_candidate rfl rfl (by simp [fnAssigned, fnFields, hm, h])

/-! ### Every word -/

theorem decodeWord_noMajor {w : IWord} (h0 : w ≠ 0#32) (h1 : w ≠ 0xFFFFFFFF#32) (h : noMajor w) : decodeWord w = .error 3 := by
  unfold decodeWord
  rw [if_neg h0, if_neg h1]
  unfold noMajor at h
  split <;> rename_i hm
  case h_50 => rfl
  all_goals simp [hm] at h
theorem decodeWord_answers {w : IWord} (h0 : w ≠ 0#32) (h1 : w ≠ 0xFFFFFFFF#32) (h : ¬ noMajor w) :
    Answers (fnAssigned w) (decodeWord w) := by
  unfold decodeWord
  rw [if_neg h0, if_neg h1]
  unfold noMajor at h
  split <;> rename_i hm
  · exact answers_salu hm
  · exact answers_plain (by simp [fnFields, hm]) rfl rfl
  · exact answers_plain (by simp [fnFields, hm]) rfl rfl
  · exact answers_plain (by simp [fnFields, hm]) rfl rfl
  · exact answers_plain (by simp [fnFields, hm]) rfl rfl
  · exact answers_plain (by simp [fnFields, hm]) rfl rfl
  · exact answers_shi hm
  · exact answers_plain (by simp [fnFields, hm]) rfl rfl
  · exact answers_plain (by simp [fnFields, hm]) rfl rfl
  · exact answers_plain (by simp [fnFields, hm]) rfl rfl
  · exact answers_plain (by simp [fnFields, hm]) rfl rfl
  · exact answers_plain (by simp [fnFields, hm]) rfl rfl
  · exact answers_amo hm
  · exact answers_fence hm
  · exact answers_plain (by simp [fnFields, hm]) rfl rfl
  · exact answers_plain (by simp [fnFields, hm]) rfl rfl
  · exact answers_plain (by simp [fnFields, hm]) rfl rfl
  · exact answers_plain (by simp [fnFields, hm]) rfl rfl
  · exact answers_plain (by simp [fnFields, hm]) rfl rfl
  · exact answers_plain (by simp [fnFields, hm]) rfl rfl
  · exact answers_plain (by simp [fnFields, hm]) rfl rfl
  · exact answers_plain (by simp [fnFields, hm]) rfl rfl
  · exact answers_sfpu hm
  · exact answers_queue hm
  · exact answers_sys hm
  · exact answers_ctrl hm
  · exact answers_plain (by simp [fnFields, hm]) rfl rfl
  · exact answers_vcfg hm
  · exact answers_vopVv hm
  · exact answers_vopVx hm
  · exact answers_plain (by simp [fnFields, hm]) rfl rfl
  · exact answers_vwide hm
  · exact answers_vsfu hm
  · exact answers_vcmp hm
  · exact answers_pred hm
  · exact answers_vpctl hm
  · exact answers_vld hm
  · exact answers_vst hm
  · exact answers_vamo hm
  · exact answers_vlane hm
  · exact answers_vred hm
  · exact answers_feed hm
  · exact answers_frame hm
  · exact answers_trellis hm
  · exact answers_matrix hm
  · exact answers_engine hm
  · exact answers_launch hm
  · exact answers_sync hm
  · exact answers_vctx hm
  · exact absurd (fld w 26 6).isLt (by grind)

theorem decode_of_ok {w : IWord} {i : Instr} (h : decodeWord w = .ok i) : decode w = i := by simp [decode, h]
theorem decode_of_error {w : IWord} {sub : Nat} (h : decodeWord w = .error sub) : decode w = .illegalWord w sub := by simp [decode, h]
theorem decode_zero : decode 0#32 = .illegalWord 0#32 1 := decode_of_error rfl
theorem decode_ones : decode 0xFFFFFFFF#32 = .illegalWord 0xFFFFFFFF#32 2 := decode_of_error rfl

theorem decode_assigned {w : IWord} (h0 : w ≠ 0#32) (h1 : w ≠ 0xFFFFFFFF#32) (h : ¬ noMajor w) (hf : fnAssigned w) :
    (decode w).wf = true ∨ decode w = .illegalWord w 5 := by
  obtain ⟨i, hi, hwf⟩ | he := (decodeWord_answers h0 h1 h).2 hf
  · exact .inl (by rwa [decode_of_ok hi])
  · exact .inr (decode_of_error he)
/-- What the decoder answers is a well-formed instruction or the illegal word with a subcode that it can have. -/
theorem decode_cases (w : IWord) : (decode w).wf = true ∨ ∃ sub, decode w = .illegalWord w sub ∧ 1 ≤ sub ∧ sub ≤ 5 := by
  by_cases h0 : w = 0#32
  · exact .inr ⟨1, h0 ▸ decode_zero, by decide⟩
  by_cases h1 : w = 0xFFFFFFFF#32
  · exact .inr ⟨2, h1 ▸ decode_ones, by decide⟩
  by_cases hm : noMajor w
  · exact .inr ⟨3, decode_of_error (decodeWord_noMajor h0 h1 hm), by decide⟩
  by_cases hf : fnAssigned w
  · exact (decode_assigned h0 h1 hm hf).imp_right fun h => ⟨5, h, by decide⟩
  · exact .inr ⟨4, decode_of_error ((decodeWord_answers h0 h1 hm).1 hf), by decide⟩

/-- Settles O7: the majors one by one, each by the values of its function fields. -/
theorem unassignedWordsRefused : Obligations.UnassignedWordsRefused := by
  unfold Obligations.UnassignedWordsRefused
  refine ⟨decode_zero, decode_ones, fun w h0 h1 => ⟨fun hm => ?_, fun hm => ⟨fun hf => ?_, decode_assigned h0 h1 hm⟩⟩,
    fun w => ⟨_, rfl, ?_⟩, fun _ _ _ => rfl⟩
  · exact decode_of_error (decodeWord_noMajor h0 h1 hm)
  · exact decode_of_error ((decodeWord_answers h0 h1 hm).1 hf)
  · exact (decode_cases w).imp_right fun ⟨sub, h, hsub⟩ => ⟨sub, h, hsub⟩

/-! ### Words of one meaning each -/

/-- Settles O5: each word is computed through the decoder. -/
theorem sampleWordsDecode : Obligations.SampleWordsDecode :=
  ⟨rfl, rfl, rfl, rfl, rfl, rfl, rfl, rfl, rfl, rfl, rfl, rfl, rfl, rfl, rfl⟩

theorem decodeWord_hint {w : IWord} (h : fld w 26 6 = 0x1C#6) : decodeWord w = .ok (.hint (fld w 0 26)) := by
  have hn := word_ne h (by decide) (by decide)
  unfold decodeWord
  rw [if_neg hn.1, if_neg hn.2, h]
  exact unlessSet_wf rfl rfl

/-- Within a block a word moves on the group whose turn it is. -/
theorem advance_of_block {s : State} {b : Block} {g : Group} (hw : s.who = .exec) (hb : s.ct.blk = some b)
    (hg : b.ring[b.cur]? = some g) :
    s.advance = { s with ct := { s.ct with blk := some { b with ring := b.ring.set b.cur { g with pc := g.pc + 4 } } } } := by
  have hgroup : s.group = some g := by simp [State.group, hw, Ct.curGroup, hb, hg]
  simp [State.advance, State.jump, State.pc, hgroup, Ct.setGroup, hb]

/-- Settles O11: the decoder reads no field of a HINT but its immediate, and its meaning only moves on. -/
theorem hintIsNoOperation : Obligations.HintIsNoOperation :=
  ⟨fun _ => decodeWord_hint, fun _ _ => rfl, fun _ => advance_of_outside, fun _ _ _ => advance_of_block⟩

end Sys2Proof.Laws
end

section
/-! SUPPORT. The step of an agent about to fetch: its turn is the run of the word at its pc. -/
namespace Sys2Proof.Laws
open Sys2Proof Sys2Proof.Machine Sys2Proof.Stmt

/-! ### A fetch leaves the agent in focus -/

/-- The agent in focus and its CT stand. -/
def SameAgent (s t : State) : Prop := t.who = s.who ∧ t.ct = s.ct

theorem SameAgent.refl (s : State) : SameAgent s s := ⟨rfl, rfl⟩
theorem SameAgent.trans {s t u : State} (h : SameAgent s t) (k : SameAgent t u) : SameAgent s u :=
  ⟨k.1.trans h.1, k.2.trans h.2⟩

theorem regAccess_read_sameAgent (s : State) (o n : Nat) : SameAgent s (s.regAccess .read o n).2 := by
  unfold State.regAccess
  split
  · exact .refl s
  · split
    · exact ⟨rfl, rfl⟩
    · exact .refl s
theorem regRange_read_sameAgent : ∀ (fuel : Nat) (s : State) (o n : Nat), SameAgent s (s.regRange .read o fuel n).2
  | 0, s, _, _ => .refl s
  | fuel + 1, s, o, n => by
    unfold State.regRange
    split
    · exact .refl s
    · exact (regAccess_read_sameAgent ..).trans (regRange_read_sameAgent fuel ..)
theorem dev_read_sameAgent {s : State} {port pa n : Nat} {r : Nat × State} (h : s.dev ⟨port, .read⟩ pa n = .ok r) :
    SameAgent s r.2 := by
  unfold State.dev at h
  split at h
  · cases h
    exact regRange_read_sameAgent ..
  · split at h <;> cases h
    exact ⟨rfl, rfl⟩
theorem loadWith_fetch_sameAgent {s : State} {rd : State → Loc → Nat → Nat × Nat × State} {a : Word} {n : Nat}
    {r : Nat × Nat × State} (h : s.loadWith rd a n .fetch = .ok r) : SameAgent s r.2.2 := by
  unfold State.loadWith at h
  split at h
  · cases h
  split at h
  · cases h
  split at h
  · cases h
  split at h
  · cases h
  split at h
  · split at h <;> cases h
    next hd => exact (dev_read_sameAgent hd :)
  split at h
  · cases h
  · rw [if_pos rfl] at h
    cases h
    exact .refl s
theorem memLoad_fetch_sameAgent {s t : State} {a : Word} {n v : Nat} (h : s.memLoad a n .fetch = .ok (v, t)) :
    SameAgent s t := by
  unfold State.memLoad at h
  split at h <;> cases h
  next hl => exact (loadWith_fetch_sameAgent hl :)

/-! ### A turn that runs a word -/

theorem waitsScalar_of_nothing_posted {s : State} (h : s.who = .exec → s.ct.viq = []) (i : Instr) : s.waitsScalar i = false := by
  by_cases hw : s.who = .exec
  · simp [State.waitsScalar, h hw]
  · simp [State.waitsScalar, hw]

theorem runWord_of_fetched {s t : State} {v : Nat} (hv : s.who = .exec → s.ct.viq = []) (ha : s.pc.toNat % 4 = 0)
    (hl : s.memLoad s.pc 4 .fetch = .ok (v, t)) :
    runWord s = exec (decode (BitVec.ofNat 32 v)) { t with ir := BitVec.ofNat 32 v } := by
  obtain ⟨hwho, hct⟩ := memLoad_fetch_sameAgent hl
  have hwait := waitsScalar_of_nothing_posted (s := t) (by rw [hwho, hct]; exact hv)
  unfold runWord
  rw [if_neg (not_not.mpr ha), hl]
  simp only [hwait, Bool.false_eq_true, if_false]

theorem sysTurn_of_ready {s : State} {n : Nat} (hw : s.who = .sys n) (hwait : (s.sysCore n).waiting = false)
    (hh : s.cur.halted = false) (hc : s.cur.wait = none) : sysTurn s n = runWord s := by
  simp only [State.cur, hw] at hh hc
  simp [sysTurn, hh, hc, hwait]

/-- With nothing posted the execute stream's turn is its next word, in a block that of the group whose turn it is. -/
theorem execTurn_of_nothing_posted {s : State} (hv : s.ct.viq = []) (hg : ∀ g, s.group = some g → g.wait = .run) :
    execTurn s = runWord s := by
  have hh : holdVector s = s := by simp [holdVector, hv]
  unfold execTurn
  simp only [hh, hv, List.isEmpty_nil, Bool.not_true, Bool.and_false, Bool.false_eq_true, if_false]
  split
  · next g hs => rw [if_pos (hg g hs)]
  · rfl

theorem ctTurn_of_ready {s : State} (hr : s.ct.status = .running) (hp : s.pausing = false) (hst : s.ct.stalled = false)
    (hh : s.cur.halted = false) (hc : s.cur.wait = none)
    (hx : s.who = .exec → s.ct.viq = [] ∧ ∀ g, s.group = some g → g.wait = .run) :
    ctTurn s = runWord s := by
  have hs : { s with ct := { s.ct with stalled := false } } = s := by rw [← hst]
  unfold ctTurn
  rw [if_neg (by simp [hr, hh, hp]), hc]
  simp only [hs]
  split
  · next hw =>
    obtain ⟨hv, hg⟩ := hx hw
    exact execTurn_of_nothing_posted hv hg
  · rfl

/-- Settles O8: the turn of the agent in focus, a system core or a stream of a CT, is the run of its next word. -/
theorem stepRunsDecodedWord : Obligations.StepRunsDecodedWord := by
  unfold Obligations.StepRunsDecodedWord
  intro s t v hp he hsys hct hh hc hx ha hl
  have hrun := runWord_of_fetched (fun hw => (hx hw).1) ha hl
  have hturn : agentTurn s = runWord s := by
    unfold agentTurn
    split
    · next n hw => exact sysTurn_of_ready hw (hsys n hw) hh hc
    · next hw =>
      obtain ⟨hr, hpause, hst⟩ := hct hw
      exact ctTurn_of_ready hr hpause hst hh hc hx
  unfold step move
  rw [if_pos hp, he]
  simp only [hturn, hrun]
  rfl

end Sys2Proof.Laws
end

section
/-! SUPPORT. What stops a vector-class word, and in which order; said once for the words that post and for the matrix words. -/
namespace Sys2Proof.Laws
open Sys2Proof Sys2Proof.Machine Sys2Proof.Stmt

theorem takeVector_of_owned {s : State} (h : s.ct.vown = true) : takeVector s = s := if_pos h
theorem takeMatrix_of_owned {s : State} (h : s.ct.mown = true) : takeMatrix s = s := if_pos h

/-- The stops that the decode x of a vector-class word calls for, r being what the word does (R22 to R36). -/
def Stops (x : VDec) (s : State) (r : Res) : Prop :=
  (s.who ≠ .exec → r = .next (raise s (trapIll 9))) ∧
  (s.who = .exec → s.ct.viq.any Ventry.fixes = false → s.ct.vown = true → (x.mat = true → s.ct.mown = true) →
    (x.field = false → r = .next (raise s (trapIll 5))) ∧
    (x.field = true → x.typed = false → r = .next (raise s (trapIll 6))) ∧
    (x.field = true → x.typed = true → countConvoy s.conv x.c x.k = none → r = .next (raise s (trapIll 7))) ∧
    (x.field = true → x.typed = true → (countConvoy s.conv x.c x.k).isSome = true → s.group.isSome = true → x.blk = false →
      r = .next (raise s (trapIll 9))))

section
variable {s : State} {c : Bool} {k : Cls} {blk : Bool} {field : State → Bool} {plan : State → Option (State → State)}

theorem vword_outside (h : s.who ≠ .exec) : vword s c k blk field plan = .next (raise s (trapIll 9)) := by
  unfold vword
  split
  · contradiction
  · rfl

/-! The checks of the execute stream, where no posted word has still to fix vl or vtype, come in the order FIELD, TYPE, CONVOY, PLACE. -/

section
variable (hw : s.who = .exec) (hfix : s.ct.viq.any Ventry.fixes = false) (hv : s.ct.vown = true)
include hw hfix hv

theorem vword_field (h : field s = false) : vword s c k blk field plan = .next (raise s (trapIll 5)) := by
  simp [vword, hw, hfix, takeVector_of_owned hv, h]
theorem vword_type (h : field s = true) (hp : plan s = none) : vword s c k blk field plan = .next (raise s (trapIll 6)) := by
  simp [vword, hw, hfix, takeVector_of_owned hv, h, hp]
theorem vword_convoy (h : field s = true) (hp : (plan s).isSome = true) (hc : countConvoy s.conv c k = none) :
    vword s c k blk field plan = .next (raise s (trapIll 7)) := by
  obtain ⟨f, hp⟩ := Option.isSome_iff_exists.mp hp
  simp [vword, hw, hfix, takeVector_of_owned hv, h, hp, hc]
theorem vword_place (h : field s = true) (hp : (plan s).isSome = true) (hc : (countConvoy s.conv c k).isSome = true)
    (hg : s.group.isSome = true) : vword s c k false field plan = .next (raise s (trapIll 9)) := by
  obtain ⟨f, hp⟩ := Option.isSome_iff_exists.mp hp
  obtain ⟨v, hc⟩ := Option.isSome_iff_exists.mp hc
  simp [vword, hw, hfix, takeVector_of_owned hv, h, hp, hc, hg]

end

theorem stops_vword {fields typed mat : Bool} (hf : field s = fields) (ht : (plan s).isSome = typed) :
    Stops ⟨c, k, blk, fields, typed, mat⟩ s (vword s c k blk field plan) := by
  subst hf ht
  refine ⟨vword_outside, fun hw hfix hv _ => ⟨vword_field hw hfix hv, fun h h' => ?_, vword_convoy hw hfix hv,
    fun h h' hc hg hb => ?_⟩⟩
  · exact vword_type hw hfix hv h (by simpa using h')
  · cases hb
    exact vword_place hw hfix hv h h' hc hg
theorem stops_vmatrix {fields typed : Bool} (hf : field s = fields) (ht : (plan s).isSome = typed) :
    Stops ⟨c, k, false, fields, typed, true⟩ s (vmatrix c s k field plan) := by
  have h := stops_vword (c := c) (k := k) (blk := false) (mat := true) hf ht
  refine ⟨fun hw => ?_, fun hw hfix hv hm => ?_⟩
  · rw [← h.1 hw]
    unfold vmatrix
    split
    · contradiction
    · rfl
  · have hr : vmatrix c s k field plan = vword s c k false field plan := by
      simp only [vmatrix, hw, takeMatrix_of_owned (hm rfl)]
    rw [hr]
    exact h.2 hw hfix hv hm

end

end Sys2Proof.Laws
end

section
/-! SUPPORT. The stops of the vector memory words. -/
namespace Sys2Proof.Laws
open Sys2Proof Sys2Proof.Machine Sys2Proof.Stmt

section
variable {s : State}

/-! ### Operand types -/

theorem typed2_and {a b : VRegNo} {f g : Ty → Bool} :
    typed2 s a b (fun t u => f t && g u) = (typedAs s a 1 f && typedAs s b 1 g) := by
  unfold typed2 typedAs
  cases s.opT a.toNat 1 <;> cases s.opT b.toNat 1 <;> simp [Option.any]
theorem typedAs_and_const {a : VRegNo} {k : Nat} {f : Ty → Bool} {b : Bool} :
    typedAs s a k (fun t => f t && b) = (typedAs s a k f && b) := by
  unfold typedAs
  cases s.opT a.toNat k <;> simp [Option.any]
theorem sameTag_self (b : BitVec 8) : sameTag b b = true := by simp [sameTag]

theorem isSome_if {α : Type} (p : Prop) [Decidable p] (x : α) : (if p then some x else none).isSome = decide p := by
  split <;> simp [*]

/-- An operand holds as many elements as its own width allows (R66). -/
theorem fits_of_opT {r k : Nat} {t : Ty} (h : s.opT r k = some t) : s.fits t.w k = true := by
  unfold State.opT at h
  split at h
  · split at h <;> cases h
    assumption
  · cases h
theorem framed_fits {r : Nat} {t : Ty} (h : s.opT r 1 = some t) (hf : t.isFramed = true) : s.fits 128 1 = true := by
  have hw : t.w = 128 := by
    cases t with
    | fpos | fdisp => rfl
    | int | fp => cases hf
  exact hw ▸ fits_of_opT h

/-! ### The vector memory words -/

theorem idxTy_isSome (i : VRegNo) : (idxTy s i).isSome = typedAs s i 1 indexTy := by
  unfold idxTy typedAs
  cases s.opT i.toNat 1 with
  | none => rfl
  | some t =>
    cases t with
    | int _ k => exact isSome_if (8 ≤ k.w) k
    | _ => rfl

theorem stops_vmem {c sub : Bool} {d : VRegNo} {field : State → Bool} {mode : State → Option VMode} {more : State → Bool} {p : PGov}
    {op : Nat → VMode → Word → Vop} {a : SReg} {fields typed : Bool} (hf : (s.grp d && field s) = fields)
    (ht : ((typedAs s d 1 fun t => sub || decide (8 ≤ t.w)) && ((mode s).isSome && more s)) = typed) :
    Stops ⟨c, { mem := true }, true, fields, typed, false⟩ s (vmem c d s sub field mode more p op a) := by
  refine stops_vword hf ?_
  subst ht
  unfold typedAs
  cases s.opT d.toNat 1 with
  | none => rfl
  | some t => cases mode s <;> simp [isSome_if]
theorem stops_vamo {op : AmoOp} {c : Bool} {d : VRegNo} {a : SReg} {i : VRegNo} {p : PGov} :
    Stops (memDec.amoDec s c d i) s (vamo op c d a i p s) := by
  refine stops_vword rfl ?_
  rw [typed2_and (f := fun t => t.isInt && decide (32 ≤ t.w)), ← idxTy_isSome]
  unfold typedAs
  cases s.opT d.toNat 1 with
  | none => rfl
  | some t =>
    cases t with
    | int _ k =>
      cases idxTy s i with
      | none => exact (Bool.and_false _).symm
      | some it => exact (isSome_if (32 ≤ k.w) _).trans (Bool.and_true _).symm
    | _ => rfl
theorem stops_vpred {k : Cls} {blk : Bool} {op : State → Vop} : Stops ⟨false, k, blk, true, true, false⟩ s (vpred s k blk op) :=
  stops_vword rfl rfl

theorem stops_memDec {i : Instr} {x : VDec} (h : memDec s i = some x) : Stops x s (exec i s) := by
  unfold memDec at h
  split at h <;> cases h
  · rw [exec_vld]; exact stops_vmem (by simp [yes]) (by simp [unitMode, yes]; rfl)
  · rw [exec_vldff]; exact stops_vmem (by simp [yes]) (by simp [unitMode, yes]; rfl)
  · rw [exec_vst]; exact stops_vmem (by simp [yes]) (by simp [unitMode, yes]; rfl)
  · rw [exec_vldS]; exact stops_vmem (by simp [yes]) (by simp [strideMode, yes])
  · rw [exec_vstS]; exact stops_vmem (by simp [yes]) (by simp [strideMode, yes])
  · rw [exec_vsto]; exact stops_vmem (by simp [yes]) (by simp [unitMode, yes])
  · rw [exec_vstoStrided]; exact stops_vmem (by simp [yes]) (by simp [strideMode, yes])
  · rw [exec_vldX]; exact stops_vmem rfl (by simp [idxMode, yes, typed2_and, idxTy_isSome])
  · rw [exec_vstX]; exact stops_vmem rfl (by simp [idxMode, yes, typed2_and, idxTy_isSome])
  · rw [exec_vldseg]; exact stops_vmem rfl (by simp; rfl)
  · rw [exec_vstseg]; exact stops_vmem rfl (by simp; rfl)
  · rw [exec_vamoAdd]; exact stops_vamo
  · rw [exec_vamoSwap]; exact stops_vamo
  · rw [exec_vamoAnd]; exact stops_vamo
  · rw [exec_vamoOr]; exact stops_vamo
  · rw [exec_vamoXor]; exact stops_vamo
  · rw [exec_vamoMin]; exact stops_vamo
  · rw [exec_vamoMax]; exact stops_vamo
  · rw [exec_pld]; exact stops_vpred
  · rw [exec_pst]; exact stops_vpred

end

end Sys2Proof.Laws
end

section
/-! SUPPORT. The stops of the shape, lane-ring, reduction, bin, strip and barrier words. -/
namespace Sys2Proof.Laws
open Sys2Proof Sys2Proof.Machine Sys2Proof.Stmt

section
variable {s : State} {c : Bool} {d a b : VRegNo} {p : PGov}

theorem stops_vlane {pg : Option PGov} {op : State → Nat → Vop} : Stops (laneDec.ring s c d a anyTy) s (vlane c d a s pg op) := by
  refine stops_vword rfl ?_
  unfold typedAs
  cases s.opT a.toNat 1 <;> rfl
theorem stops_vred {op : RedOp} {x : SReg} : Stops (laneDec.ring s c a a plainTy) s (vred op c a x p s) := by
  refine stops_vword (Bool.and_self _).symm ?_
  unfold typedAs
  cases s.opT a.toNat 1 with
  | none => rfl
  | some t => cases t <;> rfl
theorem stops_vbinmac {n : BitVec 5} {y : BOp} {fields typed : Bool} (hf : (s.grp a && s.grpB y) = fields)
    (ht : (typedAs s a 1 fun t => (s.bTy y t).any fun u => binOk (s.ct.binTy n.toNat) t && sameTag t.byte u.byte) = typed) :
    Stops ⟨c, { ring := true }, false, fields, typed, false⟩ s (vbinmac c n a y p s) := by
  refine stops_vword hf ?_
  subst ht
  unfold typedAs
  cases s.opT a.toNat 1 with
  | none => rfl
  | some t => cases h : s.bTy y t <;> simp [h, isSome_if]

/-- A barrier word is refused for its counts, or waits, only where nothing else stops it. -/
theorem barPlace_outside {ok : Bool} (h : s.who ≠ .exec) : barPlace s c ok = false := by simp [barPlace, h]
theorem barPlace_convoy {ok : Bool} (h : countConvoy s.conv c {} = none) : barPlace s c ok = false := by
  simp [barPlace, Cls.free, h]
theorem barPlace_block {ok : Bool} (h : s.group.isSome = true) : barPlace s c ok = false := by
  obtain ⟨g, hg⟩ := Option.isSome_iff_exists.mp h
  simp [barPlace, hg]

/-- A word that is a vector-class word wherever a barrier word may be refused for its counts stops as such a word does. -/
theorem stops_barrier {plan : State → Option (State → State)} {r : Res}
    (hr : (s.who = .exec → s.ct.viq.any Ventry.fixes = false) → (∀ ok, barPlace s c ok = false) →
      r = vword s c .free false (fun _ => true) plan) (hp : (plan s).isSome = true) :
    Stops ⟨c, {}, false, true, true, false⟩ s r := by
  have h := stops_vword (s := s) (c := c) (k := .free) (blk := false) (field := fun _ => true) (mat := false) rfl hp
  refine ⟨fun hw => ?_, fun hw hfix hv hm => ?_⟩
  · rw [hr (fun h => absurd h hw) fun _ => barPlace_outside hw]
    exact h.1 hw
  · obtain ⟨hfield, htype, hconvoy, hblock⟩ := h.2 hw hfix hv hm
    refine ⟨nofun, nofun, fun _ _ hc => ?_, fun _ _ hc hg _ => ?_⟩
    · rw [hr (fun _ => hfix) fun _ => barPlace_convoy hc]
      exact hconvoy rfl rfl hc
    · rw [hr (fun _ => hfix) fun _ => barPlace_block hg]
      exact hblock rfl rfl hc hg rfl
theorem stops_barg {n : BitVec 5} : Stops ⟨c, {}, false, true, true, false⟩ s (execBarg c n s) := by
  refine stops_barrier (plan := ?_) (fun hfix hp => ?plan) ?_
  case plan =>
    unfold execBarg
    simp only [hp]
    rw [if_neg (by simpa using hfix), if_neg Bool.false_ne_true]
  rfl
theorem stops_barw {n : BitVec 5} : Stops ⟨c, {}, false, true, true, false⟩ s (execBarw c n s) := by
  refine stops_barrier (plan := ?_) (fun hfix hp => ?plan) ?_
  case plan =>
    unfold execBarw
    simp only [hp]
    rw [if_neg (by simpa using hfix), if_neg Bool.false_ne_true, if_neg Bool.false_ne_true]
  rfl
theorem stops_vmark {x : SReg} (h : (s.rd x).toNat % 4 = 0) : Stops ⟨c, {}, false, true, true, false⟩ s (execVmark c x s) := by
  unfold execVmark
  rw [if_neg (by simp [h])]
  exact stops_vword rfl rfl

theorem stops_laneDec {i : Instr} {x : VDec} (h : laneDec s i = some x) : Stops x s (exec i s) := by
  unfold laneDec at h
  split at h
  case h_20 =>
    split at h <;> cases h
    next ha => rw [exec_vmark]; exact stops_vmark ha
  all_goals cases h
  · rw [exec_vsetl]; exact stops_vword rfl rfl
  · rw [exec_vsett]; exact stops_vword rfl rfl
  · rw [exec_vsetg]; exact stops_vword rfl rfl
  · rw [exec_vpermVv]
    refine stops_vword rfl ?_
    unfold typed2 typedAs
    cases s.opT _ 1 with
    | none => rfl
    | some t => cases s.opT _ 1 <;> simp [isSome_if]
  · rw [exec_vpermVx]; exact stops_vlane
  · rw [exec_vslup]; exact stops_vlane
  · rw [exec_vsldn]; exact stops_vlane
  · rw [exec_vcompr]; exact stops_vlane
  · rw [exec_vexpnd]; exact stops_vlane
  · rw [exec_vredsum]; exact stops_vred
  · rw [exec_vredmax]; exact stops_vred
  · rw [exec_vredmin]; exact stops_vred
  · rw [exec_vscan]
    refine stops_vword rfl ?_
    unfold typedAs
    cases s.opT _ 1 with
    | none => rfl
    | some t => cases t <;> rfl
  · rw [exec_vsoftmax]
    refine stops_vword rfl ?_
    unfold typed2 typedAs
    cases s.opT _ 1 with
    | none => rfl
    | some t => cases s.opT _ 1 <;> simp [isSome_if]
  · rw [exec_binz]; exact stops_vword rfl rfl
  · rw [exec_vbinacc]
    refine stops_vword (Bool.and_self _).symm ?_
    unfold typedAs
    cases s.opT _ 1 <;> simp [isSome_if]
  · rw [exec_vbinmacVx]
    exact stops_vbinmac (by simp [State.grpB]) (by simp [State.bTy, sameTag_self])
  · rw [exec_vbinmacVv]; exact stops_vbinmac rfl rfl
  · rw [exec_binfold]
    refine stops_vword rfl ?_
    simp only [decide_not]
    split <;> simp [*]
  · rw [exec_vstrip]; exact stops_vword rfl rfl
  · rw [exec_barg]; exact stops_barg
  · rw [exec_barw]; exact stops_barw

end

end Sys2Proof.Laws
end

section
/-! SUPPORT. The stops of the other elementwise words, the predicate and the FRAME words. -/
namespace Sys2Proof.Laws
open Sys2Proof Sys2Proof.Machine Sys2Proof.Stmt

section
variable {s : State} {c : Bool} {d a b : VRegNo} {p : PGov}

theorem stops_vun {ok : Ty → Bool} {op : Ty → Vop} : Stops (elemDec.one s c d a ok) s (vun c d a s ok p op) := by
  refine stops_vword rfl ?_
  unfold typedAs
  cases s.opT a.toNat 1 <;> simp [isSome_if]
theorem planSel_isSome {y : BOp} : (planSel d a y p s).isSome =
    typedAs s a 1 fun t => (s.bTy y t).any fun u => sameTag t.byte u.byte && (!y.isX || decide (t.w ≤ 64)) := by
  unfold planSel typedAs
  cases s.opT a.toNat 1 with
  | none => rfl
  | some t => cases h : s.bTy y t <;> simp [h, isSome_if]
theorem stops_vcvtTo {op : UnOp} : Stops ⟨c, {}, true, s.grp d && s.grp a, typed2 s a d fun t u => plainTy t && plainTy u, false⟩ s
    (vcvtTo op c d a p s) := by
  refine stops_vword rfl ?_
  unfold typed2 typedAs
  cases s.opT a.toNat 1 with
  | none => rfl
  | some t =>
    cases s.opT d.toNat 1 with
    | none => rfl
    | some u => cases t <;> cases u <;> rfl
theorem stops_vcmp {k : CmpOp} {q : PRegNo} {framed ints : Bool} (hk : framed = (k == .eq || k == .ne)) (hi : ints = (k != .un)) :
    Stops (elemDec.cmp s c a b framed ints) s (vcmp k c q a b p s) := by
  refine stops_vword rfl ?_
  subst hk hi
  unfold typed2 typedAs
  cases s.opT a.toNat 1 with
  | none => rfl
  | some t =>
    cases s.opT b.toNat 1 with
    | none => rfl
    | some u =>
      simp only [Option.any_some, isSome_if, Bool.decide_eq_true]
      split
      · exact Bool.and_comm ..
      · cases k <;> cases t.isInt <;> rfl
theorem stops_vframe {field : State → Bool} {ok : State → Ty → Bool} {out : Ty → BitVec 8} {w : Nat} {op : State → Ty → Vop}
    {fields typed : Bool} (hf : (s.grp d && s.grp a && field s) = fields)
    (ht : (typedAs s a 1 fun t => t.isFramed && ok s t && s.fits w 1) = typed) :
    Stops ⟨c, {}, true, fields, typed, false⟩ s (vframe c d a s field ok out w p op) := by
  refine stops_vword hf ?_
  subst ht
  unfold typedAs
  cases s.opT a.toNat 1 <;> simp [isSome_if]
/-- A FRAME word whose result is as wide as its source. -/
theorem typedAs_framed_fits {ok : Ty → Bool} :
    (typedAs s a 1 fun t => t.isFramed && ok t && s.fits 128 1) = typedAs s a 1 fun t => t.isFramed && ok t := by
  unfold typedAs
  cases h : s.opT a.toNat 1 with
  | none => rfl
  | some t =>
    cases hf : t.isFramed
    · simp [hf]
    · simp [hf, framed_fits h hf]

theorem stops_elemDec {i : Instr} {x : VDec} (h : elemDec s i = some x) : Stops x s (exec i s) := by
  unfold elemDec at h
  split at h <;> cases h
  · rw [exec_vabs]; exact stops_vun
  · rw [exec_vneg]; exact stops_vun
  · rw [exec_vmov]; exact stops_vun
  · rw [exec_vsqrt]; exact stops_vun
  · rw [exec_vrcp]; exact stops_vun
  · rw [exec_vrsq]; exact stops_vun
  · rw [exec_vexp2]; exact stops_vun
  · rw [exec_vlog2]; exact stops_vun
  · rw [exec_vcvt]; exact stops_vcvtTo
  · rw [exec_vcvtSat]; exact stops_vcvtTo
  · rw [exec_vncvt]
    refine stops_vword rfl ?_
    unfold typedAs
    cases s.opT _ 2 with
    | none => rfl
    | some t => cases s.opT _ 1 <;> simp [isSome_if]
  · rw [exec_vselVv]; exact stops_vword rfl (planSel_isSome.trans (by simp [State.bTy, BOp.isX]; rfl))
  · rw [exec_vselVx]; exact stops_vword rfl (planSel_isSome.trans (by simp [State.bTy, BOp.isX, sameTag_self]))
  · rw [exec_vsplat]
    refine stops_vword (Bool.and_self _).symm ?_
    unfold typedAs
    cases s.opT _ 1 <;> simp [isSome_if]
  · rw [exec_vext]
    refine stops_vword rfl ?_
    unfold typedAs
    cases s.opT _ 1 <;> simp [isSome_if]
  · rw [exec_viota]
    refine stops_vword (Bool.and_self _).symm ?_
    unfold typedAs
    cases s.opT _ 1 with
    | none => rfl
    | some t => cases t <;> rfl
  · rw [exec_vcmpEq]; exact stops_vcmp rfl rfl
  · rw [exec_vcmpNe]; exact stops_vcmp rfl rfl
  · rw [exec_vcmpLt]; exact stops_vcmp rfl rfl
  · rw [exec_vcmpLe]; exact stops_vcmp rfl rfl
  · rw [exec_vcmpGt]; exact stops_vcmp rfl rfl
  · rw [exec_vcmpGe]; exact stops_vcmp rfl rfl
  · rw [exec_vcmpUn]; exact stops_vcmp rfl rfl
  · rw [exec_vclass]
    refine stops_vword rfl ?_
    unfold typedAs
    cases s.opT _ 1 <;> simp [isSome_if]
  · rw [exec_pand]; exact stops_vpred
  · rw [exec_por]; exact stops_vpred
  · rw [exec_pxor]; exact stops_vpred
  · rw [exec_pandn]; exact stops_vpred
  · rw [exec_pnot]; exact stops_vpred
  · rw [exec_pmov]; exact stops_vpred
  · rw [exec_pbrk]; exact stops_vpred
  · rw [exec_pset]; exact stops_vpred
  · rw [exec_pcnt]; exact stops_vpred
  · rw [exec_pfirst]; exact stops_vpred
  · rw [exec_plast]; exact stops_vpred
  · rw [exec_fpcvt]; exact stops_vframe (Bool.and_true _) (typedAs_framed_fits.trans (by simp))
  · rw [exec_fplen2]
    refine stops_vframe (Bool.and_true _) ?_
    congr 1
    funext t
    cases t <;> rfl
  · rw [exec_fpgtag]; exact stops_vframe (Bool.and_true _) (by simp)
  · rw [exec_fpstagVx]; exact stops_vframe (Bool.and_true _) (typedAs_framed_fits.trans (by simp))
  · rw [exec_fpstagVv]
    refine stops_vframe rfl (typedAs_framed_fits.trans ?_)
    unfold typed2 typedAs
    congr 1
    funext t
    cases s.opT _ 1 <;> simp

end

end Sys2Proof.Laws
end

section
/-! SUPPORT. The stops of the two-source, the matrix, the FEED and the VPCTL words; the counts of a convoy; and the statement on all families. -/
namespace Sys2Proof.Laws
open Sys2Proof Sys2Proof.Machine Sys2Proof.Stmt

section
variable {s : State} {c : Bool} {d a b : VRegNo} {p : PGov}

/-! ### The two-source words -/

theorem exec_of_binOf {i : Instr} {op : BinOp} {y : BOp} (h : binOf i = some (op, c, d, a, y, p)) : exec i s = vbin op c d a y p s := by
  unfold binOf at h
  split at h <;> cases h <;> rfl
theorem exec_of_widenOf {i : Instr} {op : BinOp} {y : BOp} (h : widenOf i = some (op, c, d, a, y, p)) :
    exec i s = vwiden op c d a y p s := by
  unfold widenOf at h
  split at h <;> cases h <;> rfl
theorem exec_of_nshrOf {i : Instr} {y : BOp} (h : nshrOf i = some (c, d, a, y, p)) : exec i s = vnarrow c d a y p s := by
  unfold nshrOf at h
  split at h <;> cases h <;> rfl

theorem planBin_isSome {op : BinOp} {y : BOp} : (planBin op d a y p s).isSome =
    typedAs s a 1 fun t => (binTy s op y t).any fun u => pairDec.pair s op d t u := by
  unfold planBin typedAs
  cases s.opT a.toNat 1 with
  | none => rfl
  | some t =>
    dsimp only [Option.any_some]
    cases binTy s op y t with
    | none => rfl
    | some u =>
      dsimp only [Option.any_some]
      unfold pairDec.pair typedAs
      split
      · cases framedResult op t u <;> simp [isSome_if]
      · rw [show (!op.intOnly || (t.isInt && u.isInt)) = !(op.intOnly && !(t.isInt && u.isInt)) by simp]
        cases op.intOnly && !(t.isInt && u.isInt)
        · simp only [Bool.false_eq_true, if_false, Bool.not_false, Bool.true_and]
          split
          · cases s.opT d.toNat 1 <;> simp [isSome_if]
          · cases promote t u <;> simp [isSome_if]
        · rfl

/-- A scalar second source has va's type, or is the f32 of a framed VMUL (R68, R95). -/
theorem pair_scalar {op : BinOp} {x : SReg} (t : Ty) : ((binTy s op (.x x) t).any fun u => pairDec.pair s op d t u) =
    if t.isFramed then decide (op = .mul) && t == .fdisp && s.fits 128 1 else pairDec.pair s op d t t := by
  unfold binTy
  cases hf : t.isFramed
  · simp
  · by_cases hop : op = .mul
    · subst hop
      cases t with
      | fpos | fdisp => rfl
      | int | fp => cases hf
    · simp [hop]

theorem stops_vbin {op : BinOp} {y : BOp} {typed : Bool} (ht : (planBin op d a y p s).isSome = typed) :
    Stops ⟨c, {}, true, s.grp d && s.grp a && s.grpB y, typed, false⟩ s (vbin op c d a y p s) := stops_vword rfl ht
theorem stops_vwiden {op : BinOp} {y : BOp} {typed : Bool}
    (ht : (typedAs s a 1 fun t => typedAs s d 2 fun w => (s.bTy y t).any fun u =>
      sameTag t.byte u.byte && widenOk t.code w.code) = typed) :
    Stops ⟨c, {}, true, s.grp2 d && s.grp a && s.grpB y, typed, false⟩ s (vwiden op c d a y p s) := by
  refine stops_vword rfl ?_
  subst ht
  unfold typedAs
  cases s.opT a.toNat 1 with
  | none => rfl
  | some t =>
    cases s.opT d.toNat 2 with
    | none => rfl
    | some w => cases h : s.bTy y t <;> simp [h, isSome_if]
theorem stops_vnarrow {y : BOp} {typed : Bool}
    (ht : (typedAs s a 2 fun t => typedAs s d 1 fun n => (s.bTy y n).any fun u =>
      (u.isInt && decide (u.w = n.w)) && narrowOk n.code t.code) = typed) :
    Stops ⟨c, {}, true, s.grp d && s.grp2 a && s.grpB y, typed, false⟩ s (vnarrow c d a y p s) := by
  refine stops_vword rfl ?_
  subst ht
  unfold typedAs
  cases s.opT a.toNat 2 with
  | none => rfl
  | some t =>
    cases s.opT d.toNat 1 with
    | none => rfl
    | some n => cases h : s.bTy y n <;> simp [h, isSome_if, Bool.and_comm]

theorem stops_pairDec {i : Instr} {x : VDec} (h : pairDec s i = some x) : Stops x s (exec i s) := by
  unfold pairDec at h
  split at h
  · next op c d a y p hi =>
    cases h
    rw [exec_of_binOf hi]
    cases y with
    | v r => exact stops_vbin planBin_isSome
    | x r => exact stops_vbin (planBin_isSome.trans (congrArg _ (funext pair_scalar)))
  · next op c d a y p _ hi =>
    cases h
    rw [exec_of_widenOf hi]
    cases y with
    | v r =>
      refine stops_vwiden ?_
      change (typedAs s a 1 fun t => typedAs s d 2 fun w => typedAs s r 1 fun u => sameTag t.byte u.byte && widenOk t.code w.code) = _
      simp only [typedAs_and_const, Bool.and_comm]
    | x r => exact stops_vwiden (by simp [State.bTy, sameTag_self])
  · next c d a y p _ _ hi =>
    cases h
    rw [exec_of_nshrOf hi]
    cases y with
    | v r =>
      refine stops_vnarrow ?_
      change (typedAs s a 2 fun t => typedAs s d 1 fun n => typedAs s r 1 fun u =>
        (u.isInt && decide (u.w = n.w)) && narrowOk n.code t.code) = _
      simp only [typedAs_and_const, Bool.and_comm (narrowOk _ _)]
    | x r => exact stops_vnarrow (by simp [State.bTy, Bool.and_comm])
  · cases h

/-! ### The matrix and the VCTX words -/

theorem typeReg_isSome {v : VRegNo} {ok : List Nat} : (typeReg s v ok).isSome = regTy s v ok := by
  unfold typeReg regTy
  cases s.ty v.toNat <;> simp [isSome_if]

theorem stops_vmmac {k : BitVec 4} {v : VRegNo} {x : SReg} {rows : Option PGov} :
    Stops (matDec.mac s c v) s (vmmac c k v x rows s) := by
  refine stops_vmatrix rfl ?_
  unfold typedAs
  cases s.opT v.toNat 1 with
  | none => rfl
  | some t => cases planeTy s.ct.mx.actTag <;> simp [isSome_if]
/-- A matrix word whose type register names a tag admitted. -/
theorem stops_typeReg {k : Cls} {v : VRegNo} {ok : List Nat} {plan : State → Option (State → State)}
    (hp : (plan s).isSome = (typeReg s v ok).isSome) :
    Stops ⟨c, k, false, s.grp v, regTy s v ok, true⟩ s (vmatrix c s k (fun s => s.grp v) plan) :=
  stops_vmatrix rfl (hp.trans typeReg_isSome)

theorem stops_matDec {i : Instr} {x : VDec} (h : matDec s i = some x) : Stops x s (exec i s) := by
  unfold matDec at h
  split at h <;> cases h
  · rw [exec_mstl]; exact stops_vmatrix rfl rfl
  · rw [exec_mlds]; exact stops_typeReg (by dsimp only; unfold mldsTags; cases typeReg s _ _ <;> rfl)
  · rw [exec_msow]; exact stops_typeReg (by unfold sowTags; cases typeReg s _ _ <;> rfl)
  · rw [exec_mswap]; exact stops_vmatrix rfl rfl
  · rw [exec_mmac]; exact stops_vmmac
  · rw [exec_mmacM]; exact stops_vmmac
  · rw [exec_macz]; exact stops_vmatrix rfl rfl
  · rw [exec_macld]; exact stops_typeReg (by dsimp only; unfold macinTags; cases typeReg s _ _ <;> rfl)
  · rw [exec_macst]; exact stops_typeReg (by dsimp only; unfold macstTags; cases typeReg s _ _ <;> rfl)
  · rw [exec_macin]
    refine stops_vmatrix rfl ?_
    unfold typedAs macinTags
    cases s.opT _ 1 with
    | none => rfl
    | some t => exact isSome_if ..
  · rw [exec_mseedgen]; exact stops_typeReg (by unfold sowTags; cases typeReg s _ _ <;> rfl)
  · rw [exec_mseedscan]; exact stops_typeReg (by dsimp only; unfold scanTags; cases typeReg s _ _ <;> rfl)
  · rw [exec_vsave]; exact stops_vword rfl rfl
  · rw [exec_vrestore]; exact stops_vword rfl rfl
  · rw [exec_msave]; exact stops_vmatrix rfl rfl
  · rw [exec_mrestore]; exact stops_vmatrix rfl rfl

theorem stops_vdecOf {i : Instr} {x : VDec} (h : vdecOf s i = some x) : Stops x s (exec i s) := by
  simp only [vdecOf, Option.or_eq_some_iff] at h
  obtain (h | ⟨_, h⟩) | ⟨_, h | ⟨_, h | ⟨_, h⟩⟩⟩ := h
  · exact stops_memDec h
  · exact stops_laneDec h
  · exact stops_elemDec h
  · exact stops_pairDec h
  · exact stops_matDec h

/-! ### Convoys -/

/-- The counts after a word (R26 to R28), a count being added up only where the word joins an open convoy. -/
theorem countConvoy_eq (v : Convoy) (c : Bool) (k : Cls) :
    let n := fun (b : Bool) => if b then 1 else 0
    let base := fun x => if c || !v.opened then 0 else x
    countConvoy v c k = if (v.solo ∨ k.solo) ∧ c = false ∨ 2 < base v.mem + n k.mem ∨ 1 < base v.mat + n k.mat ∨ 1 < base v.ring + n k.ring
      then none else some ⟨true, base v.mem + n k.mem, base v.mat + n k.mat, base v.ring + n k.ring, k.solo⟩ := by
  obtain ⟨opened, mem, mat, ring, solo⟩ := v
  by_cases hs : (solo || k.solo) = true ∧ c = false
  · simp_all [countConvoy]
  · have hn : ((solo || k.solo) && !c) = false := by simpa using hs
    have hp : ¬((solo = true ∨ k.solo = true) ∧ c = false) := by simpa using hs
    simp only [countConvoy, hn, hp, Bool.false_eq_true, if_false, false_or]
    cases hb : c || !opened with
    | true => simp only [if_true]
    | false =>
      obtain ⟨-, ho⟩ := Bool.or_eq_false_iff.mp hb
      rw [Bool.not_eq_false'] at ho
      simp only [ho, Bool.false_eq_true, if_false]

/-! ### Integer operations -/

/-- Integer operations admit integer tags only (R75). -/
theorem framedResult_of_intOnly {op : BinOp} (h : op.intOnly = true) (t u : Ty) : framedResult op t u = none := by
  cases op with
  | add | sub | mul | div | min | max | fma | fms | fnma | clamp => cases h
  | _ => rfl
theorem planBin_of_intOnly {op : BinOp} {y : BOp} {t : Ty} (hop : op.intOnly = true) (ht : s.opT a.toNat 1 = some t)
    (hi : t.isInt = false) : planBin op d a y p s = none := by
  rw [← Option.isNone_iff_eq_none, ← Option.isSome_eq_false_iff, planBin_isSome]
  cases hu : binTy s op y t <;> simp [typedAs, ht, hu, pairDec.pair, hop, hi, framedResult_of_intOnly hop]

/-! ### The FEED and the VPCTL words -/

theorem vfeed_exec {op : State → Vop} {now : State → EngRes} (h : s.who ≠ .access) :
    vfeed c s op now = vword s c .free false (fun _ => true) fun s => some (postOnly (op s) none) := by
  unfold vfeed
  split
  · contradiction
  · rfl
/-- A FEED word stops in a system core, which has no vector side, and in the execute stream as a word without operands to check. -/
theorem stops_vfeed {op : State → Vop} {now : State → EngRes} (h : s.who ≠ .access) :
    Stops ⟨c, {}, false, true, true, false⟩ s (vfeed c s op now) := by
  rw [vfeed_exec h]
  exact stops_vword rfl rfl
theorem feed_stops {i : Instr}
    (hi : (∃ d b, i = .fbind c d b ∨ ∃ o, i = .fchain c d o b) ∨ (∃ d, i = .funbind c d ∨ ∃ l b, i = .fstat c d l b))
    (h : s.who ≠ .access) : Stops ⟨c, {}, false, true, true, false⟩ s (exec i s) := by
  obtain ⟨d, b, rfl | ⟨o, rfl⟩⟩ | ⟨d, rfl | ⟨l, b, rfl⟩⟩ := hi
  · rw [exec_fbind]; exact stops_vfeed h
  · rw [exec_fchain]; exact stops_vfeed h
  · rw [exec_funbind]; exact stops_vfeed h
  · rw [exec_fstat]; exact stops_vfeed h

/-- VPBR, VPJOIN and VPEND count as words with C = 0 before they act. -/
theorem vpctl_convoy {cc : Bool} {outside : State → Convoy → State} {inside : State → Block → Machine.Group → State}
    (hw : s.who = .exec) (hfix : s.ct.viq.any Ventry.fixes = false) (hv : s.ct.vown = true) (hc : countConvoy s.conv cc {} = none) :
    vpctl s cc outside inside = .next (raise s (trapIll 7)) := by
  simp [vpctl, hw, hfix, takeVector_of_owned hv, Cls.free, hc]

end

/-- Settles O45: what the decode of each family calls for is what stops its words; the checks themselves are those of `vword`. -/
theorem vectorDecodeFaults : Obligations.VectorDecodeFaults := by
  unfold Obligations.VectorDecodeFaults
  refine ⟨countConvoy_eq, fun i op c d a b p s hi => ?_, fun i x s h => stops_vdecOf h,
    fun i c s hi => ⟨fun hs => ?_, fun hw hfix hv => ?_⟩, fun i s hi hw hfix hv hc => ?_⟩
  · rw [exec_of_binOf hi, vbin]
    refine ⟨vword_outside, fun hw hfix hv => ⟨fun hf => ?_, fun hf ht => ?_, fun t hf ht _ hint hop => ?_, fun f hf hp hc => ?_⟩⟩
    · exact vword_field hw hfix hv hf
    · exact vword_type hw hfix hv hf (by simp [planBin, ht])
    · exact vword_type hw hfix hv hf (planBin_of_intOnly hop ht hint)
    · exact vword_convoy hw hfix hv hf (by simp [hp]) hc
  · have hne : ∀ w : Who, w = .exec ∨ w = .access → s.who ≠ w := by
      rintro w (rfl | rfl) hw <;> simp [State.isSys, hw] at hs
    exact (feed_stops hi (hne _ (.inr rfl))).1 (hne _ (.inl rfl))
  · obtain ⟨-, -, hconvoy, hblock⟩ := (feed_stops hi (by simp [hw])).2 hw hfix hv nofun
    exact ⟨hconvoy rfl rfl, fun h hg => hblock rfl rfl h hg rfl⟩
  · obtain ⟨c, a, o, rfl⟩ | ⟨c, rfl | rfl⟩ := hi
    · rw [exec_vpbr, execVpbr]; exact vpctl_convoy hw hfix hv hc
    · rw [exec_vpjoin, execVpjoin]; exact vpctl_convoy hw hfix hv hc
    · rw [exec_vpend, execVpend]; exact vpctl_convoy hw hfix hv hc

end Sys2Proof.Laws
end

section
/-! SUPPORT. The vector file and the predicates: an element or a bit written reads back, and nothing else changes; the same for the
elements of a list (R38, R64, R108). -/
namespace Sys2Proof.Laws
open Sys2Proof Sys2Proof.Machine Sys2Proof.Stmt

/-! ### Bits of a wide pattern -/

theorem testBit_getBits {n : Nat} (x : BitVec n) (off w i : Nat) :
    (getBits x off w).testBit i = (decide (i < w) && x.getLsbD (off + i)) := by
  rw [getBits, BitVec.testBit_toNat, BitVec.getLsbD_extractLsb']
theorem getBits_lt {n : Nat} (x : BitVec n) (off w : Nat) : getBits x off w < 2 ^ w := BitVec.isLt _

theorem getLsbD_setBits {n : Nat} (x : BitVec n) {off w : Nat} (h : off + w ≤ n) (v i : Nat) :
    (setBits x off w v).getLsbD i = if off ≤ i ∧ i < off + w then v.testBit (i - off) else x.getLsbD i := by
  have hm : (2 ^ w - 1).testBit (i - off) = decide (i - off < w) := Nat.testBit_two_pow_sub_one ..
  simp only [setBits, BitVec.getLsbD_or, BitVec.getLsbD_and, BitVec.getLsbD_not, BitVec.getLsbD_shiftLeft, BitVec.getLsbD_ofNat,
    Nat.testBit_mod_two_pow, hm]
  by_cases hn : i < n
  · by_cases ho : off ≤ i
    · by_cases hw : i - off < w
      · have : i - off < n := by omega
        have : i < off + w := by omega
        have : ¬i < off := by omega
        simp [*]
      · have : ¬i < off + w := by omega
        simp [*]
    · have : i < off := by omega
      simp [*]
  · have : ¬(off ≤ i ∧ i < off + w) := by omega
    simp [hn, this, BitVec.getLsbD_of_ge x i (by omega)]
/-- The bits written read back. -/
theorem getBits_setBits_same {n : Nat} (x : BitVec n) {off w : Nat} (h : off + w ≤ n) (v : Nat) :
    getBits (setBits x off w v) off w = v % 2 ^ w := by
  apply Nat.eq_of_testBit_eq
  intro i
  rw [testBit_getBits, getLsbD_setBits x h, Nat.testBit_mod_two_pow]
  by_cases hi : i < w
  · simp [hi]
  · simp [hi]
/-- Bits elsewhere stand. -/
theorem getBits_setBits_apart {n : Nat} (x : BitVec n) {off w : Nat} (h : off + w ≤ n) (v : Nat) {o : Nat}
    (ho : o + w ≤ off ∨ off + w ≤ o) : getBits (setBits x off w v) o w = getBits x o w := by
  apply Nat.eq_of_testBit_eq
  intro i
  rw [testBit_getBits, testBit_getBits, getLsbD_setBits x h]
  by_cases hi : i < w
  · rw [if_neg (by omega)]
  · simp [hi]

/-! ### One element -/

/-- VLEN is that of a legal number of lane groups (R64). -/
def Shaped (c : Ct) : Prop := c.lg = 1 ∨ c.lg = 2 ∨ c.lg = 4 ∨ c.lg = 8

theorem vlen_pos {c : Ct} (h : Shaped c) : 0 < c.vlen := by
  unfold Ct.vlen
  rcases h with h | h | h | h <;> omega
theorem vlen_le {c : Ct} (h : Shaped c) : c.vlen ≤ 16384 := by
  unfold Ct.vlen
  rcases h with h | h | h | h <;> omega
/-- VLEN holds a whole number of elements of any width to 2048. -/
theorem dvd_vlen (c : Ct) {w : Nat} (h : w ∣ 2048) : w ∣ c.vlen := Dvd.dvd.mul_right h _

theorem vget_lt (c : Ct) (r w e : Nat) : c.vget r w e < 2 ^ w := by
  unfold Ct.vget
  split
  · exact getBits_lt ..
  · exact Nat.two_pow_pos w

/-- The bits of an element lie within its register. -/
theorem elem_within {c : Ct} {w : Nat} (hs : Shaped c) (hd : w ∣ c.vlen) (e : Nat) : e * w % c.vlen + w ≤ c.vlen := by
  obtain ⟨q, hq⟩ := (Nat.dvd_mod_iff hd).mpr (Nat.dvd_mul_left w e)
  obtain ⟨m, hm⟩ := id hd
  have hlt : e * w % c.vlen < c.vlen := Nat.mod_lt _ (vlen_pos hs)
  have hqm : q < m := Nat.lt_of_mul_lt_mul_left (hq ▸ hm ▸ hlt : w * q < w * m)
  calc e * w % c.vlen + w = w * (q + 1) := by rw [hq, Nat.mul_succ]
    _ ≤ w * m := Nat.mul_le_mul_left w hqm
    _ = c.vlen := hm.symm
/-- Two elements of one register lie apart. -/
theorem elem_apart (c : Ct) (w : Nat) {e i : Nat} (hi : i ≠ e) (hr : i * w / c.vlen = e * w / c.vlen) :
    i * w % c.vlen + w ≤ e * w % c.vlen ∨ e * w % c.vlen + w ≤ i * w % c.vlen := by
  have hi' := Nat.div_add_mod (i * w) c.vlen
  have he' := Nat.div_add_mod (e * w) c.vlen
  rw [hr] at hi'
  have : (i + 1) * w ≤ e * w ∨ (e + 1) * w ≤ i * w :=
    (Nat.lt_or_gt_of_ne hi).imp (fun h => Nat.mul_le_mul_right w h) (fun h => Nat.mul_le_mul_right w h)
  simp only [Nat.succ_mul] at this
  omega

/-- A write of an element changes the vector registers, there the element's bits in its register. -/
theorem vset_eq (c : Ct) (d w e x : Nat) : c.vset d w e x = { c with v := (c.vset d w e x).v } := by
  unfold Ct.vset
  split <;> rfl
@[simp] theorem vset_vlen (c : Ct) (d w e x : Nat) : (c.vset d w e x).vlen = c.vlen := by
  rw [vset_eq]; rfl
theorem vset_v (c : Ct) (d w e x r : Nat) : (c.vset d w e x).v[r]? =
    if r = d + e * w / c.vlen then c.v[r]?.map (setBits · (e * w % c.vlen) w x) else c.v[r]? := by
  unfold Ct.vset
  split
  · next y hy =>
    simp only [Vector.getElem?_setIfInBounds, eq_comm (a := d + e * w / c.vlen)]
    have hlt : d + e * w / c.vlen < 32 := (Vector.getElem?_eq_some_iff.mp hy).1
    split
    · next hr => rw [hr, hy]; rfl
    · rfl
  · next hy =>
    split
    · next hr => simp [hr, hy]
    · rfl
theorem vget_def (c : Ct) (d w e : Nat) : c.vget d w e = (c.v[d + e * w / c.vlen]?.map (getBits · (e * w % c.vlen) w)).getD 0 := by
  unfold Ct.vget
  cases c.v[d + e * w / c.vlen]? <;> rfl
theorem vbit_eq (c : Ct) (r i : Nat) : vbit c r i = (c.v[r]?.map (·.getLsbD i)).getD false := by
  unfold vbit
  cases c.v[r]? <;> rfl

/-- The vector file (R38, R64): an element written reads back, no other element, register or bit changes. -/
theorem elements_vset {c : Ct} {d w n : Nat} (hs : Shaped c) (hd : w ∣ c.vlen) (hn : d + n ≤ 32) {e : Nat} (he : e * w < c.vlen * n)
    (x : Nat) : Elements c (c.vset d w e x) [d] n w (fun i => decide (i = e)) (fun _ _ => x) := by
  have hin := elem_within hs hd
  have hfile : ∀ i, i * w % c.vlen + w ≤ 16384 := fun i => (hin i).trans (vlen_le hs)
  have hreg : e * w / c.vlen < n := Nat.div_lt_of_lt_mul he
  refine ⟨?_, ?_, fun r hr => ?_, fun r i hi => ?_⟩
  · simp only [List.mem_singleton, decide_eq_true_eq]
    rintro d rfl e rfl
    have hlt : d + e * w / c.vlen < 32 := by omega
    rw [vget_def, vset_vlen, vset_v, if_pos rfl, Vector.getElem?_eq_getElem hlt]
    exact getBits_setBits_same _ (hfile e) x
  · simp only [List.mem_singleton, decide_eq_false_iff_not]
    rintro d rfl i hi -
    rw [vget_def, vget_def, vset_vlen, vset_v]
    split
    · next hr =>
      cases c.v[d + i * w / c.vlen]? with
      | none => rfl
      | some y => exact getBits_setBits_apart y (hfile e) x (elem_apart c w hi (by omega))
    · rfl
  · have hout : ¬r = d + e * w / c.vlen := by
      have := hr d (List.mem_singleton.mpr rfl)
      generalize e * w / c.vlen = k at *
      omega
    rw [vset_v, if_neg hout]
  · have := hin e
    rw [vbit_eq, vbit_eq, vset_v]
    split
    · cases c.v[r]? with
      | none => rfl
      | some y => exact (getLsbD_setBits y (hfile e) x i).trans (if_neg (by omega))
    · rfl

/-! ### The elements of a list -/

theorem elements_congr {c c' b b' : Ct} {ds : List Nat} {n w : Nat} {on : Nat → Bool} {val : Nat → Nat → Nat}
    (h : Elements c c' ds n w on val) (hv : b.v = c.v) (hl : b.lg = c.lg) (hv' : b'.v = c'.v) (hl' : b'.lg = c'.lg) :
    Elements b b' ds n w on val := by
  have get : ∀ d e, b.vget d w e = c.vget d w e := fun d e => by simp only [Ct.vget, Ct.vlen, hv, hl]
  have get' : ∀ d e, b'.vget d w e = c'.vget d w e := fun d e => by simp only [Ct.vget, Ct.vlen, hv', hl']
  obtain ⟨done, kept, regs, high⟩ := h
  refine ⟨?_, ?_, ?_, ?_⟩
  · simpa only [get'] using done
  · simpa only [get, get', Ct.vlen, hl] using kept
  · simpa only [hv, hv'] using regs
  · simpa only [vbit, hv, hv', Ct.vlen, hl] using high

theorem elements_none (c : Ct) (ds : List Nat) (n w : Nat) (val : Nat → Nat → Nat) : Elements c c ds n w (fun _ => false) val :=
  ⟨nofun, fun _ _ _ _ _ => rfl, fun _ _ => rfl, fun _ _ _ => rfl⟩
/-- Writes of elements one set after another, none of which is written twice with different values. -/
theorem elements_trans {c c' c'' : Ct} {ds : List Nat} {n w : Nat} {on on' : Nat → Bool} {val : Nat → Nat → Nat}
    (h : Elements c c' ds n w on val) (h' : Elements c' c'' ds n w on' val) (hl : c'.vlen = c.vlen)
    (hb : ∀ e, on e = true → e * w < c.vlen * n) : Elements c c'' ds n w (fun e => on e || on' e) val := by
  refine ⟨fun d hd e he => ?_, fun d hd e he hlt => ?_, fun r hr => (h'.regs r hr).trans (h.regs r hr), fun r i hi => ?_⟩
  · cases ho : on' e
    · have ho : on e = true := by simpa [ho] using he
      rw [h'.kept d hd e ‹_› (hl ▸ hb e ho), h.done d hd e ho]
    · exact h'.done d hd e ho
  · obtain ⟨ho, ho'⟩ := Bool.or_eq_false_iff.mp he
    rw [h'.kept d hd e ho' (hl ▸ hlt), h.kept d hd e ho hlt]
  · rw [h'.high r i (hl ▸ hi), h.high r i hi]

/-- The elements of a list written in turn. -/
def written (c : Ct) (d w : Nat) (es : List Nat) (val : Nat → Nat) : Ct := es.foldl (fun c e => c.vset d w e (val e)) c

@[simp] theorem written_nil (c : Ct) (d w : Nat) (val : Nat → Nat) : written c d w [] val = c := rfl
@[simp] theorem written_cons (c : Ct) (d w e : Nat) (es : List Nat) (val : Nat → Nat) :
    written c d w (e :: es) val = written (c.vset d w e (val e)) d w es val := rfl
theorem written_eq (d w : Nat) (val : Nat → Nat) : ∀ (es : List Nat) (c : Ct),
    written c d w es val = { c with v := (written c d w es val).v }
  | [], _ => rfl
  | e :: es, c => by
    rw [written_cons, written_eq d w val es, vset_eq]

theorem elements_written {d w n : Nat} {val : Nat → Nat} (hn : d + n ≤ 32) : ∀ (es : List Nat) (c : Ct), Shaped c → w ∣ c.vlen →
    (∀ e ∈ es, e * w < c.vlen * n) → Elements c (written c d w es val) [d] n w (fun e => decide (e ∈ es)) (fun _ => val)
  | [], c, _, _, _ => by simpa using elements_none c [d] n w fun _ => val
  | e :: es, c, hs, hd, he => by
    have hl := vset_vlen c d w e (val e)
    have hone := elements_vset hs hd hn (he e (by simp)) (val e)
    have hone : Elements c (c.vset d w e (val e)) [d] n w (fun i => decide (i = e)) (fun _ => val) :=
      ⟨fun r hr i hi => by simpa [show i = e by simpa using hi] using hone.done r hr i hi, hone.kept, hone.regs, hone.high⟩
    have hs' : Shaped (c.vset d w e (val e)) := by rw [vset_eq]; exact hs
    have hrest := elements_written (val := val) hn es (c.vset d w e (val e)) hs' (hl ▸ hd) fun i hi => hl ▸ he i (by simp [hi])
    have := elements_trans hone hrest hl fun i hi => he i (by simp [show i = e by simpa using hi])
    simpa [← Bool.decide_or] using this

/-! ### Predicates -/

theorem psetBit_eq (c : Ct) (q e : Nat) (b : Bool) : c.psetBit q e b = { c with p := (c.psetBit q e b).p } := by
  unfold Ct.psetBit
  split
  · rfl
  · split <;> rfl
theorem psetBit_zero (c : Ct) (e : Nat) (b : Bool) : c.psetBit 0 e b = c := if_pos rfl
theorem psetBit_p (c : Ct) {q : Nat} (hq : q ≠ 0) (e : Nat) (b : Bool) (r : Nat) : (c.psetBit q e b).p[r]? =
    if r = q then c.p[r]?.map (setBits · e 1 (if b then 1 else 0)) else c.p[r]? := by
  unfold Ct.psetBit
  rw [if_neg hq]
  split
  · next y hy =>
    simp only [Vector.getElem?_setIfInBounds, eq_comm (a := q)]
    have hlt : q < 128 := (Vector.getElem?_eq_some_iff.mp hy).1
    split
    · next hr => rw [hr, hy]; rfl
    · rfl
  · next hy =>
    split
    · next hr => simp [hr, hy]
    · rfl
theorem pbit_eq (c : Ct) {q : Nat} (hq : q ≠ 0) (e : Nat) : c.pbit q e = (c.p[q]?.map (·.getLsbD e)).getD false := by
  unfold Ct.pbit
  rw [if_neg hq]
  cases c.p[q]? <;> simp

theorem pbits_none (c : Ct) (q : Nat) (val : Nat → Bool) : PBits c c q (fun _ => false) val :=
  ⟨fun _ => nofun, fun _ _ => rfl, rfl, fun _ _ => rfl⟩
theorem pbits_congr {c c' b b' : Ct} {q : Nat} {on val : Nat → Bool} (h : PBits c c' q on val) (hp : b.p = c.p) (hp' : b'.p = c'.p) :
    PBits b b' q on val := by
  have get : ∀ r e, b.pbit r e = c.pbit r e := fun r e => by simp only [Ct.pbit, hp]
  have get' : ∀ r e, b'.pbit r e = c'.pbit r e := fun r e => by simp only [Ct.pbit, hp']
  obtain ⟨done, kept, zero, regs⟩ := h
  refine ⟨?_, ?_, ?_, ?_⟩
  · simpa only [get'] using done
  · simpa only [get, get'] using kept
  · simpa only [hp, hp'] using zero
  · simpa only [hp, hp'] using regs
theorem pbits_trans {c c' c'' : Ct} {q : Nat} {on on' val : Nat → Bool} (h : PBits c c' q on val) (h' : PBits c' c'' q on' val) :
    PBits c c'' q (fun e => on e || on' e) val := by
  refine ⟨fun hq e he => ?_, fun e he => ?_, h'.zero.trans h.zero, fun r hr => (h'.regs r hr).trans (h.regs r hr)⟩
  · cases ho : on' e
    · rw [h'.kept e ho, h.done hq e (by simpa [ho] using he)]
    · exact h'.done hq e ho
  · obtain ⟨ho, ho'⟩ := Bool.or_eq_false_iff.mp he
    rw [h'.kept e ho', h.kept e ho]

/-- A predicate bit written reads back, and no other changes; a write to p0 is discarded (R108). -/
theorem pbits_psetBit (c : Ct) {q e : Nat} (hq : q < 128) (he : e < predBits) (b : Bool) :
    PBits c (c.psetBit q e b) q (fun i => decide (i = e)) fun _ => b := by
  by_cases h0 : q = 0
  · subst h0
    rw [psetBit_zero]
    exact ⟨fun h => absurd rfl h, fun _ _ => rfl, rfl, fun _ _ => rfl⟩
  have bit : ∀ i, (c.psetBit q e b).pbit q i = if i = e then b else c.pbit q i := fun i => by
    rw [pbit_eq _ h0, pbit_eq _ h0, psetBit_p c h0, if_pos rfl, Vector.getElem?_eq_getElem hq]
    simp only [Option.map_some, Option.getD_some]
    rw [getLsbD_setBits _ (by omega)]
    by_cases hi : i = e
    · subst hi
      cases b <;> simp
    · rw [if_neg (by omega), if_neg hi]
  refine ⟨fun _ i hi => ?_, fun i hi => ?_, ?_, fun r hr => ?_⟩
  · rw [bit, if_pos (by simpa using hi)]
  · rw [bit, if_neg (by simpa using hi)]
  · have := psetBit_p c h0 e b 0
    rw [if_neg (Ne.symm h0), Vector.getElem?_eq_getElem (by decide), Vector.getElem?_eq_getElem (by decide)] at this
    exact Option.some.inj this
  · rw [psetBit_p c h0, if_neg hr]

/-- The bits of a list written in turn. -/
def bitsWritten (c : Ct) (q : Nat) (es : List Nat) (val : Nat → Bool) : Ct := es.foldl (fun c e => c.psetBit q e (val e)) c

@[simp] theorem bitsWritten_nil (c : Ct) (q : Nat) (val : Nat → Bool) : bitsWritten c q [] val = c := rfl
@[simp] theorem bitsWritten_cons (c : Ct) (q e : Nat) (es : List Nat) (val : Nat → Bool) :
    bitsWritten c q (e :: es) val = bitsWritten (c.psetBit q e (val e)) q es val := rfl
theorem bitsWritten_eq (q : Nat) (val : Nat → Bool) : ∀ (es : List Nat) (c : Ct),
    bitsWritten c q es val = { c with p := (bitsWritten c q es val).p }
  | [], _ => rfl
  | e :: es, c => by
    rw [bitsWritten_cons, bitsWritten_eq q val es, psetBit_eq]
theorem bitsWritten_plot (c : Ct) (q : Nat) (es : List Nat) (val : Nat → Bool) : (bitsWritten c q es val).plot = c.plot := by
  rw [bitsWritten_eq]
theorem pbits_bitsWritten {q : Nat} {val : Nat → Bool} (hq : q < 128) : ∀ (es : List Nat) (c : Ct), (∀ e ∈ es, e < predBits) →
    PBits c (bitsWritten c q es val) q (fun e => decide (e ∈ es)) val
  | [], c, _ => by simpa using pbits_none c q val
  | e :: es, c, he => by
    have hone := pbits_psetBit c hq (he e (by simp)) (val e)
    have hone : PBits c (c.psetBit q e (val e)) q (fun i => decide (i = e)) val :=
      ⟨fun h i hi => by simpa [show i = e by simpa using hi] using hone.done h i hi, hone.kept, hone.zero, hone.regs⟩
    have := pbits_trans hone (pbits_bitsWritten (val := val) hq es (c.psetBit q e (val e)) fun i hi => he i (by simp [hi]))
    simpa [← Bool.decide_or] using this

end Sys2Proof.Laws
end

section
/-! SUPPORT. A posted word that runs at once: what posts it, what runs it, and what a completed word and a stopped one leave. -/
namespace Sys2Proof.Laws
open Sys2Proof Sys2Proof.Machine Sys2Proof.Stmt

/-! ### Posting -/

/-- The entry that a word outside a block posts where nothing is posted. -/
def entryOf (s : State) (op : Vop) (pg : Option PGov) : Ventry where
  op := op
  word := s.ir
  pc := s.ct.ex.pc
  members := none
  vl := s.ct.vl
  vstart := s.ct.vstart
  g := s.ct.g
  rm := rmAt s
  xrm := s.ct.a.vround
  key := s.ct.a.vseed
  srn := s.ct.a.vsrn.toNat
  sbase := s.ct.a.sbase
  pg := pg.map (·.toNat)
  masked := false
  popped := []
  fl := {}
  wmb := s.ct.wmb
  floor := s.ct.floors.post
  frames := s.ct.frE
  wrote := []
/-- The state in which the entry runs: the word has been counted and posted, its tag written, the pc is past it. -/
def postedAt (s : State) (cv : Convoy) (vt : Vector (BitVec 8) 32) (x : Ventry) : State :=
  vconf s cv { s.ct with vtype := vt, viq := [x], vstart := 0 }

theorem group_of_ready {s : State} (h : VReady s) : s.group = none := by
  simp only [State.group, h.who, Ct.curGroup, h.blk]
theorem pc_of_ready {s : State} (h : VReady s) : s.pc = s.ct.ex.pc := by
  simp only [State.pc, group_of_ready h, State.cur, h.who]

theorem advance_of_exec {s : State} (hw : s.who = .exec) (hb : s.ct.blk = none) :
    s.advance = { s with ct := { s.ct with ex := { s.ct.ex with pc := s.ct.ex.pc + 4 } } } := by
  have hg : s.group = none := by simp only [State.group, hw, Ct.curGroup, hb]
  rw [advance_of_outside hg]
  unfold State.setCur State.cur
  rw [hw]

/-- The same state with other convoy counts. -/
theorem ready_conv {s : State} (h : VReady s) (cv : Convoy) : VReady { s with ct := { s.ct with conv := cv } } :=
  { who := h.who, run := h.run, blk := h.blk, viq := h.viq, hold := h.hold, own := h.own, reqs := h.reqs, lg := h.lg, g := h.g, vl := h.vl }

theorem vpost_of_ready {s : State} (h : VReady s) (op : Vop) (pg : Option PGov) :
    vpost s op pg = { s with ct := { s.ct with viq := [entryOf s op pg], vstart := 0 } } := by
  have hi : s.ct.idle = true := by simp [Ct.idle, h.viq]
  rw [vpost, group_of_ready h, pc_of_ready h, hi, h.viq]
  rfl

/-- The tags of n registers (R23, R74). -/
theorem tag_eq (c : Ct) (d n : Nat) (b : BitVec 8) : c.tag d n b = { c with vtype := retag c.vtype d n b } := by
  have key : (List.range n).foldl (fun v i => v.setIfInBounds (d + i) b) c.vtype = retag c.vtype d n b := by
    induction n with
    | zero =>
      ext1 i hi
      simp [retag]
    | succ n ih =>
      rw [List.range_succ, List.foldl_append, ih]
      ext1 i hi
      simp only [List.foldl_cons, List.foldl_nil, Vector.getElem_setIfInBounds, retag, Vector.getElem_ofFn]
      by_cases hn : d + n = i
      · rw [if_pos hn, if_pos (by omega)]
      · have hlt : (d ≤ i ∧ i < d + (n + 1)) ↔ (d ≤ i ∧ i < d + n) := by omega
        simp only [if_neg hn, hlt]
  simp only [Ct.tag, key]

section
variable {s : State} {cv : Convoy} {c : Bool} {k : Cls} {blk : Bool} {field : State → Bool} {plan : State → Option (State → State)}
  {d : VRegNo} {b : BitVec 8} {op : Vop} {pg : Option PGov}
variable (h : VReady s) (hc : countConvoy s.ct.conv c k = some cv) (hf : field s = true)
include h hc hf

/-- A word that nothing stops counts in its convoy and goes past; what it has posted runs. -/
theorem vword_of_ready {f : State → State} (hp : plan s = some f) :
    vword s c k blk field plan = .next (settle (f { s with ct := { s.ct with conv := cv } }).advance) := by
  have hg := group_of_ready h
  have hconv : s.conv = s.ct.conv := by simp only [State.conv, hg]
  have hset : s.setConv cv = { s with ct := { s.ct with conv := cv } } := by simp only [State.setConv, hg]
  simp [vword, h.who, h.viq, takeVector_of_owned h.own, hf, hp, hconv, hc, hg, hset]

omit hc hf in
/-- One posted entry runs once. -/
theorem settle_posted (vt : Vector (BitVec 8) 32) (x : Ventry) : settle (postedAt s cv vt x) = (runHead (postedAt s cv vt x)).1 := by
  have hh : (postedAt s cv vt x).ct.hold = false := h.hold
  have hr : (postedAt s cv vt x).ct.status = .running := h.run
  have hl : (postedAt s cv vt x).ct.viq.length = 0 + 1 := rfl
  rw [settle, hh, hl, drain, if_pos hr]
  simp only [Bool.false_eq_true, if_false]
  split <;> simp only [*, drain]

theorem vword_postOnly (hp : plan s = some (postOnly op pg)) :
    vword s c k blk field plan = .next (runHead (postedAt s cv s.ct.vtype (entryOf s op pg))).1 := by
  rw [vword_of_ready h hc hf hp, postOnly, vpost_of_ready (ready_conv h cv), ← settle_posted h]
  exact congrArg (fun t => Host.Outcome.next (settle t)) (advance_of_exec (ready_conv h cv).who h.blk)
theorem vword_postTag (hp : plan s = some (postTag d b op pg)) :
    vword s c k blk field plan =
      .next (runHead (postedAt s cv (retag s.ct.vtype d.toNat (2 ^ s.ct.g) b) (entryOf s op pg))).1 := by
  rw [vword_of_ready h hc hf hp, postTag, vpost_of_ready (ready_conv h cv), ← settle_posted h, setTag, tag_eq]
  exact congrArg (fun t => Host.Outcome.next (settle t)) (advance_of_exec (ready_conv h cv).who h.blk)

end

/-! ### The run of a posted entry -/

/-- With no register bound as a feed there is nothing to check and nothing to pop (R170). -/
theorem runEntry_of_noFeeds {s : State} (hn : NoFeeds s) {x : Ventry} (hx : x.popped = []) : runEntry x s = x.op.run x s := by
  have feed : ∀ r, s.ct.feed r = none := hn
  have checks : ∀ (vl : Nat) (rs : List (Nat × Nat)), feedChecks s vl rs = .ok s := by
    intro vl rs
    induction rs with
    | nil => rfl
    | cons r rs ih =>
      rw [feedChecks, feed r.1]
      exact ih
  have : popFeeds x s (x.op.reads x.g) (x.op.writes x.g) = (.ok s, x) := by
    rw [popFeeds, if_neg (by simp [feed]), if_neg (by simp [hx])]
    simp only [checks]
    rw [List.foldl_fixed' fun r => by simp only [popOne, feed]]
    exact congrArg (Prod.mk _) (by rw [← hx])
  rw [runEntry, this]
  rfl

/-! ### Flags -/

@[simp] theorem flOr_none (f : Fl) : f.or {} = f := by simp [Fl.or]
@[simp] theorem none_flOr (f : Fl) : ({} : Fl).or f = f := by simp [Fl.or]

/-! ### What a run leaves -/

section
variable {s : State} (h : VReady s) (hn : NoFeeds s) (cv : Convoy) (vt : Vector (BitVec 8) 32) {op : Vop} {pg : Option PGov}
include h hn

/-- A word that has completed with new vector registers, predicates and draws (R52, R394). -/
theorem runHead_completed (hk : op.keepsVstart = false) {v : Vector VReg 32} {q : Vector PReg 128} {n : Nat} {fl : Fl}
    (hr : op.run (entryOf s op pg) (postedAt s cv vt (entryOf s op pg)) =
      .done { postedAt s cv vt (entryOf s op pg) with
        ct := { (postedAt s cv vt (entryOf s op pg)).ct with v := v, p := q }, draws := n } fl) :
    (runHead (postedAt s cv vt (entryOf s op pg))).1 = { vdone s cv { s.ct with v := v, p := q, vtype := vt } fl with draws := n } := by
  have hq : (postedAt s cv vt (entryOf s op pg)).ct.viq = [entryOf s op pg] := rfl
  have hrun := (runEntry_of_noFeeds (s := postedAt s cv vt (entryOf s op pg)) hn (x := entryOf s op pg) rfl).trans hr
  have hreqs : s.pkg.reqs.isEmpty = true := by rw [h.reqs]; rfl
  have hkeep : (entryOf s op pg).op.keepsVstart = false := hk
  rw [runHead, hq]
  simp only [hrun, hkeep]
  simp only [State.dropReqs, postedAt, vdone, vconf, hreqs, if_true, entryOf, none_flOr, Bool.false_eq_true, if_false, h.viq]

omit h in
/-- A word that has stopped: its entry is still posted, and the record holds what the trap gives it (R215, R217). -/
theorem runHead_stopped {u : State} {y : Ventry} {tr : Trap}
    (hr : op.run (entryOf s op pg) (postedAt s cv vt (entryOf s op pg)) = .stop u y tr) :
    (runHead (postedAt s cv vt (entryOf s op pg))).1 = stopCt { u with ct := { u.ct with viq := [y] } }
      (faultRec u tr s.ir s.ct.ex.pc true false false) := by
  have hq : (postedAt s cv vt (entryOf s op pg)).ct.viq = [entryOf s op pg] := rfl
  have hrun := (runEntry_of_noFeeds (s := postedAt s cv vt (entryOf s op pg)) hn (x := entryOf s op pg) rfl).trans hr
  rw [runHead, hq]
  simp only [hrun]
  rfl

end

/-! ### The computing elements of a posted word -/

section
variable {s : State} (cv : Convoy) (vt : Vector (BitVec 8) 32) (op : Vop) (p : PGov)

/-- The positions that compute are those that the statements name (R51, R109). -/
theorem actives_posted : actives (entryOf s op (some p)) (postedAt s cv vt (entryOf s op (some p))).ct = ons s (onAt s p) := by
  refine List.filter_congr fun e _ => ?_
  simp only [active, entryOf, postedAt, vconf, Option.map_some, onAt, Bool.not_false, Bool.true_or, Bool.and_true]
  rfl

variable {op p}
theorem mem_ons {on : Nat → Bool} {e : Nat} : e ∈ ons s on ↔ e < s.ct.vl ∧ on e = true := by
  simp only [ons, List.mem_filter, List.mem_range]
theorem lt_of_onAt {e : Nat} (h : onAt s p e = true) : e < s.ct.vl := by
  simp only [onAt, Bool.and_eq_true, decide_eq_true_eq] at h
  obtain ⟨⟨-, hlt⟩, -⟩ := h
  exact hlt
theorem mem_ons_onAt {e : Nat} : e ∈ ons s (onAt s p) ↔ onAt s p e = true :=
  mem_ons.trans ⟨And.right, fun h => ⟨lt_of_onAt h, h⟩⟩
theorem decide_mem_ons : (fun e => decide (e ∈ ons s (onAt s p))) = onAt s p := by
  funext e
  simp only [mem_ons_onAt, Bool.decide_eq_true]

/-- The computing elements below one of them come before it, and the others after it. -/
theorem ons_split {on : Nat → Bool} {e : Nat} (h : e ∈ ons s on) :
    ∃ more, ons s on = ((ons s on).filter fun j => decide (j < e)) ++ e :: more := by
  obtain ⟨hlt, hon⟩ := mem_ons.mp h
  obtain ⟨k, hk⟩ := Nat.exists_eq_add_of_lt hlt
  refine ⟨((List.range k).map (e + 1 + ·)).filter on, ?_⟩
  have hsplit : List.range s.ct.vl = List.range e ++ e :: (List.range k).map (e + 1 + ·) := by
    rw [hk, show e + k + 1 = (e + 1) + k by omega, List.range_add, List.range_succ, List.append_assoc]
    rfl
  have below : ((List.range e).filter on).filter (fun j => decide (j < e)) = (List.range e).filter on :=
    List.filter_eq_self.mpr fun j hj => by simpa using List.mem_range.mp (List.mem_of_mem_filter hj)
  have above : (((List.range k).map (e + 1 + ·)).filter on).filter (fun j => decide (j < e)) = [] :=
    List.filter_eq_nil_iff.mpr fun j hj => by
      obtain ⟨i, -, rfl⟩ := List.mem_map.mp (List.mem_of_mem_filter hj)
      simp
      omega
  simp only [ons, hsplit, List.filter_append, List.filter_cons, hon, if_true, below, above, Nat.lt_irrefl, decide_false,
    Bool.false_eq_true, if_false, List.append_nil]

end

/-! ### Operands of a posted word -/

section
variable {s : State} (cv : Convoy) (vt : Vector (BitVec 8) 32) (op : Vop) (p : Option PGov)

@[simp] theorem opd_posted (r w e : Nat) : opd (entryOf s op p) (postedAt s cv vt (entryOf s op p)).ct r w e = s.ct.vget r w e := rfl
@[simp] theorem opdFl_posted (r e : Nat) : opdFl (entryOf s op p) r e = {} := rfl
@[simp] theorem srcFl_posted (b : VSrc) (e : Nat) : srcFl (entryOf s op p) b e = {} := by cases b <;> rfl
@[simp] theorem rm_posted : (entryOf s op p).rm = rmAt s := rfl
@[simp] theorem frames_posted : (entryOf s op p).frames = s.ct.frE := rfl
@[simp] theorem rand_posted (e : Nat) : (entryOf s op p).rand e = rndAt s e := rfl

end

/-! ### Elements written -/

theorem mapElems_eq (d w : Nat) (f : Nat → Nat × Fl) (es : List Nat) (c : Ct) :
    mapElems c d w es f = (written c d w es fun e => (f e).1, flagsOf es fun e => (f e).2) := by
  have key : ∀ (es : List Nat) (c : Ct) (g : Fl),
      es.foldl (fun (acc : Ct × Fl) e => (acc.1.vset d w e (f e).1, acc.2.or (f e).2)) (c, g) =
      (written c d w es fun e => (f e).1, es.foldl (fun g e => g.or (f e).2) g) := by
    intro es
    induction es with
    | nil => exact fun _ _ => rfl
    | cons e es ih => exact fun c g => ih _ _
  exact key es c {}

end Sys2Proof.Laws
end

section
/-! SUPPORT. What the reads of a conversion depend on: of the CT in focus its place alone (R97, R100, R150, R151). -/
namespace Sys2Proof.Laws
open Sys2Proof Sys2Proof.Machine Sys2Proof.Stmt

/-- Two CTs that stand at the same place: accesses for them, and the copies that they wait for, are the same. -/
structure SamePlace (c d : Ct) : Prop where
  id : c.id = d.id
  status : c.status = d.status
  launch : c.launch = d.launch
  gang : c.gang = d.gang
  plot : c.plot = d.plot
  aspace : c.aspace = d.aspace
  prov : c.prov = d.prov
  ctx : c.ctx = d.ctx
  copies : c.copies = d.copies

theorem physN_withCt (s : State) (c : Ct) (v : Via) (n : Nat) : ∀ pa, ({ s with ct := c } : State).physN v pa n = s.physN v pa n := by
  induction n with
  | zero => exact fun _ => rfl
  | succ n ih => exact fun pa => congrArg (fun x => (s.physByte v pa).toNat + 256 * x) (ih (pa + 1))
theorem peek_withCt (s : State) (c : Ct) (v : Via) (l : Loc) (n : Nat) : ({ s with ct := c } : State).peek v l n = s.peek v l n := by
  cases l with
  | phys pa ty => exact physN_withCt s c v n pa
  | sram a | hole | image pa a => rfl

section
variable {s : State} {c : Ct} (h : SamePlace c s.ct)
include h

theorem via_of_samePlace : c.via = s.ct.via := by
  obtain ⟨hid, hstatus, hlaunch, hgang, hplot, haspace, hprov, -, -⟩ := h
  simp only [Ct.via, hid, hstatus, hlaunch, hgang, hplot, haspace, hprov]

theorem imageOf_of_samePlace (v : Via) (id : BitVec 10) : ({ s with ct := c } : State).imageOf v id = s.imageOf v id := by
  have area : ∀ b, ({ s with ct := c } : State).areaOf b = s.areaOf b := fun _ => rfl
  have harea : s.areaOf c = s.areaOf s.ct := by simp only [State.areaOf, h.plot, h.ctx]
  simp only [State.imageOf, State.cts, List.find?_cons, h.status, h.launch, h.gang, h.plot, h.id, area]
  cases decide (s.ct.status = .saved) && decide (s.ct.launch = v.launch) && decide (s.ct.gang = v.gang) && decide (s.ct.plot = v.plot) &&
    decide (s.ct.id = id)
  · rfl
  · exact congrArg (Option.map (· + 0x120000)) harea

theorem resolve_of_samePlace (v : Via) (a : Word) (n : Nat) (k : Kind) :
    ({ s with ct := c } : State).resolve v a n k = s.resolve v a n k := by
  have held : ∀ (core slot : Nat), ({ s with ct := c } : State).cts.any (fun b => b.inSlot && b.id = ctidOf core slot &&
      (!v.saved || (b.launch = v.launch && b.gang = v.gang))) = s.cts.any (fun b => b.inSlot && b.id = ctidOf core slot &&
      (!v.saved || (b.launch = v.launch && b.gang = v.gang))) := fun core slot => by
    simp only [State.cts, List.any_cons, Ct.inSlot, h.status, h.id, h.launch, h.gang]
  have hss : ∀ core slot, ({ s with ct := c } : State).ssOf core slot = s.ssOf core slot := fun _ _ => rfl
  have hhome : ∀ pa, ({ s with ct := c } : State).home pa = s.home pa := fun _ => rfl
  have hleaf : ∀ va, ({ s with ct := c } : State).leafFor v va = s.leafFor v va := fun _ => rfl
  have hpool : ∀ pa, ({ s with ct := c } : State).poolHidden v pa = s.poolHidden v pa := fun _ => rfl
  have hplot : ({ s with ct := c } : State).plotOf v.plot = s.plotOf v.plot := rfl
  have hpa : ∀ r pa ty, ({ s with ct := c } : State).paOk r pa ty = s.paOk r pa ty := fun _ _ _ => rfl
  unfold State.resolve
  simp only [imageOf_of_samePlace h, held, hss, hhome, hleaf, hpool, hplot, hpa]

/-- A node as the table of the plot holds it. -/
theorem nodeNow_of_samePlace (i : Nat) : ({ s with ct := c } : State).nodeNow i = s.nodeNow i := by
  have hbase : ({ s with ct := c } : State).trellisBase = s.trellisBase := by
    simp only [State.trellisBase, State.myPlot, h.plot]
    rfl
  have hpoison : ∀ pa, ({ s with ct := c } : State).poisoned pa = s.poisoned pa := fun _ => rfl
  unfold State.nodeNow
  simp only [hbase, via_of_samePlace h, resolve_of_samePlace h, hpoison, peek_withCt]
theorem nodeAt_of_samePlace (fr o i : Nat) : ({ s with ct := c } : State).nodeAt fr o i = s.nodeAt fr o i := by
  have hold : ({ s with ct := c } : State).olderNodes fr i = s.olderNodes fr i := by
    simp only [State.olderNodes, h.plot]
  unfold State.nodeAt
  rw [nodeNow_of_samePlace h, hold]
theorem chain_of_samePlace (fr o fuel tag : Nat) : ({ s with ct := c } : State).chain fr o fuel tag = s.chain fr o fuel tag := by
  have htsz : ({ s with ct := c } : State).tsz = s.tsz := by
    simp only [State.tsz, State.myPlot, h.plot]
    rfl
  induction fuel generalizing tag with
  | zero => rfl
  | succ fuel ih =>
    unfold State.chain
    simp only [htsz, nodeAt_of_samePlace h, ih]

theorem convert_of_samePlace (fr o v : Nat) (pos : Bool) (src dst : Nat) :
    ({ s with ct := c } : State).convert fr o v pos src dst = s.convert fr o v pos src dst := by
  unfold State.convert
  simp only [chain_of_samePlace h]
theorem bothIn_of_samePlace (fr o a : Nat) (pa : Bool) (b : Nat) (pb : Bool) :
    ({ s with ct := c } : State).bothIn fr o a pa b pb = s.bothIn fr o a pa b pb := by
  unfold State.bothIn
  simp only [convert_of_samePlace h]
theorem nodesHeld_of_samePlace : ({ s with ct := c } : State).nodesHeld = s.nodesHeld := by
  have hclaim : ({ s with ct := c } : State).anyClaim = s.anyClaim := by
    simp only [State.anyClaim, State.cts, List.any_cons, h.copies]
  have hline : ∀ n k, ({ s with ct := c } : State).lineClaimed n k = s.lineClaimed n k := fun n k => by
    simp only [State.lineClaimed, State.cts, List.any_cons, h.copies]
  have hplot : ({ s with ct := c } : State).myPlot = s.myPlot := by
    simp only [State.myPlot, h.plot]
    rfl
  unfold State.nodesHeld
  simp only [hclaim, hline, hplot]
  rfl

end

/-- The posted word stands at the place of the CT. -/
theorem samePlace_posted (s : State) (cv : Convoy) (vt : Vector (BitVec 8) 32) (x : Ventry) : SamePlace (postedAt s cv vt x).ct s.ct :=
  ⟨rfl, rfl, rfl, rfl, rfl, rfl, rfl, rfl, rfl⟩

/-! ### The draws of a word that may have read nodes (log 14) -/

def drawsAfter (s : State) (vl : Nat) : Nat :=
  if s.pkg.oldNodes.any (fun o => o.plot = s.ct.plot) then s.draws + 2 ^ 24 * (2 * vl) else s.draws
theorem drewNodes_eq (s : State) (vl : Nat) : s.drewNodes vl = { s with draws := drawsAfter s vl } := by
  unfold State.drewNodes drawsAfter
  split <;> rfl

/-! ### Detection of a poisoned line leaves the vector state -/

/-- Of the CT in focus it can end the WAITs, and nothing else. -/
def OnlyWaits (t s : State) : Prop := t.ct = { s.ct with ex := t.ct.ex, ac := t.ct.ac }

theorem onlyWaits_refl (s : State) : OnlyWaits s s := rfl
theorem logEntry_onlyWaits (s : State) (a b k : Nat) : OnlyWaits (s.logEntry a b k) s := by
  simp only [State.logEntry]
  split <;> rfl
theorem detectBy_onlyWaits (s : State) (line agent : Nat) : OnlyWaits (s.detectBy line agent) s := by
  unfold State.detectBy
  split
  · rfl
  · split
    · exact logEntry_onlyWaits ..
    · exact logEntry_onlyWaits ..
theorem detectEcc_onlyWaits (s : State) (line : Nat) : OnlyWaits (s.detectEcc line) s := by
  unfold State.detectEcc
  split
  · exact detectBy_onlyWaits ..
  · exact detectBy_onlyWaits ..
theorem detectMet_onlyWaits (s : State) (a : Word) : OnlyWaits (s.detectMet a) s := by
  unfold State.detectMet
  split
  · unfold State.detectAt
    split
    · split
      · exact detectEcc_onlyWaits ..
      · exact onlyWaits_refl s
    · exact onlyWaits_refl s
  · split
    · exact detectEcc_onlyWaits ..
    · exact onlyWaits_refl s

end Sys2Proof.Laws
end

section
/-! SUPPORT. The end of a posted word that writes elements or predicate bits, and of one that stops at an element that faults. -/
namespace Sys2Proof.Laws
open Sys2Proof Sys2Proof.Machine Sys2Proof.Stmt

/-! ### Elements until one faults (R101) -/

section
variable {x : Ventry} {s : State} {put : Ct → Nat → Nat → Ct} {f : Nat → Except FrameFault (Nat × Fl)} {val : Nat → Nat × Fl}

/-- The elements before the first one that faults are written and flagged. -/
theorem framedGo_append (more : List Nat) : ∀ (es : List Nat) (c : Ct) (fl : Fl), (∀ e ∈ es, f e = .ok (val e)) →
    framedGo x s put f (es ++ more) c fl =
      framedGo x s put f more (es.foldl (fun c e => put c e (val e).1) c) (es.foldl (fun g e => g.or (val e).2) fl)
  | [], _, _, _ => rfl
  | e :: es, c, fl, h => by
    rw [List.cons_append, framedGo, h e (by simp)]
    exact framedGo_append more es (put c e (val e).1) (fl.or (val e).2) fun i hi => h i (by simp [hi])
theorem framedGo_done {es : List Nat} {c r : Ct} (h : ∀ e ∈ es, f e = .ok (val e))
    (hr : es.foldl (fun c e => put c e (val e).1) c = r) (hp : r.plot = s.ct.plot) :
    framedGo x s put f es c {} = .done { s with ct := r, draws := drawsAfter s x.vl } (flagsOf es fun e => (val e).2) := by
  have := framedGo_append (x := x) (s := s) (put := put) [] es c {} h
  rw [List.append_nil] at this
  rw [this, framedGo, hr, drewNodes_eq]
  simp only [drawsAfter, hp, flagsOf]

/-- Where one faults, the word stops there: of the CT the WAITs alone can end besides (R101, R319). -/
theorem framedGo_stop {es more : List Nat} {e : Nat} {c r : Ct} {b : FrameFault} (h : ∀ j ∈ es, f j = .ok (val j))
    (hr : es.foldl (fun c e => put c e (val e).1) c = r) (he : f e = .error b) :
    ∃ u, framedGo x s put f (es ++ e :: more) c {} =
        .stop u { x with vstart := e } { code := b.code, index := e, info := some b.info, pages := b.pages } ∧
      u.ct = { r with a := r.a.flag (flagsOf es fun j => (val j).2), vstart := e, ex := u.ct.ex, ac := u.ct.ac } := by
  rw [framedGo_append (e :: more) es c {} h, framedGo, he, hr]
  simp only [drewNodes_eq]
  refine ⟨_, rfl, ?_⟩
  split
  · exact detectMet_onlyWaits _ _
  · rfl

end

/-! ### The end of a word that writes elements -/

theorem written_plot (c : Ct) (d w : Nat) (es : List Nat) (val : Nat → Nat) : (written c d w es val).plot = c.plot := by
  rw [written_eq]

/-- A posted word that has tagged its destination. -/
def postedTo (s : State) (cv : Convoy) (d : VRegNo) (tag : BitVec 8) (op : Vop) (p : PGov) : State :=
  postedAt s cv (retag s.ct.vtype d.toNat (2 ^ s.ct.g) tag) (entryOf s op (some p))

/-- What the statements say of a word that writes elements of width w into the group at d. -/
def Wrote (s : State) (cv : Convoy) (d : VRegNo) (p : PGov) (after : State → State) (i : Instr) (w : Nat) (tag : BitVec 8)
    (val : Nat → Nat × Fl) : Prop :=
  ∃ v, exec i s = .next (after (vdone s cv { s.ct with v := v, vtype := retag s.ct.vtype d.toNat (2 ^ s.ct.g) tag }
      (flagsOf (ons s (onAt s p)) fun e => (val e).2))) ∧
    Elements s.ct { s.ct with v := v } [d.toNat] (2 ^ s.ct.g) w (onAt s p) fun _ e => (val e).1

/-- What the statements say of a word that stops at element e with a frame fault: the elements below it are written and flagged, and
the record names it (R101). -/
def StopsAt (s : State) (d : VRegNo) (p : PGov) (i : Instr) (e : Nat) (b : FrameFault) (val : Nat → Nat × Fl) : Prop :=
  ∃ u y, exec i s = .next u ∧ u.ct.status = .stopped ∧ u.ct.viq = [y] ∧ y.vstart = e ∧ u.ct.vstart = e ∧
    u.ct.a = s.ct.a.flag (flagsOf ((ons s (onAt s p)).filter fun j => decide (j < e)) fun j => (val j).2) ∧
    ((∀ j, j < e → onAt s p j = false) → u.ct.v = s.ct.v) ∧
    Elements s.ct u.ct [d.toNat] (2 ^ s.ct.g) 128 (fun j => onAt s p j && decide (j < e)) (fun _ j => (val j).1) ∧
    ∃ r, u.ct.frec = some r ∧ r.code = b.code ∧ r.index = BitVec.ofNat 32 e ∧ r.info = b.info

theorem group_end {s : State} (h : VReady s) {d : VRegNo} (hd : s.grp d = true) : d.toNat + 2 ^ s.ct.g ≤ 32 := by
  have hlt : d.toNat < 32 := d.isLt
  have hmod : d.toNat % 2 ^ s.ct.g = 0 := by simpa [State.grp] using hd
  have hg : s.ct.g = 0 ∨ s.ct.g = 1 ∨ s.ct.g = 2 ∨ s.ct.g = 3 := by have := h.g; omega
  rcases hg with hg | hg | hg | hg <;> rw [hg] at hmod ⊢ <;> omega
theorem elem_fits {s : State} {w : Nat} (hw : 0 < w) (hf : s.fits w 1 = true) {e : Nat} (he : e < s.ct.vl) :
    e * w < s.ct.vlen * 2 ^ s.ct.g := by
  have hle : s.ct.vl * w ≤ s.ct.vlen * 2 ^ s.ct.g := by simpa [State.fits] using hf
  have : (e + 1) * w ≤ s.ct.vl * w := Nat.mul_le_mul_right w he
  rw [Nat.succ_mul] at this
  omega

section
variable {s : State} {cv : Convoy} {d : VRegNo} {p : PGov} {tag : BitVec 8} {op : Vop} {w : Nat} {val : Nat → Nat × Fl}
variable (h : VReady s) (hn : NoFeeds s) (hd : s.grp d = true)
include h hd

section
variable (hw : w ∣ 2048) (hf : s.fits w 1 = true)
include hw hf

/-- Elements below vl written into the group of a posted word, whose CT has the same vector registers. -/
theorem elements_posted {c : Ct} (hv : c.v = s.ct.v) (hl : c.lg = s.ct.lg) (es : List Nat) (hes : ∀ e ∈ es, e < s.ct.vl)
    {b : Ct} (hb : b.v = (written c d.toNat w es fun e => (val e).1).v) (hbl : b.lg = s.ct.lg) :
    Elements s.ct b [d.toNat] (2 ^ s.ct.g) w (fun e => decide (e ∈ es)) fun _ e => (val e).1 := by
  have hvlen : c.vlen = s.ct.vlen := by simp only [Ct.vlen, hl]
  have hpos : 0 < w := Nat.pos_of_dvd_of_pos hw (by decide)
  have hshape : Shaped c := by unfold Shaped; rw [hl]; exact h.lg
  have := elements_written (val := fun e => (val e).1) (group_end h hd) es c hshape (dvd_vlen c hw)
    fun e he => hvlen ▸ elem_fits hpos hf (hes e he)
  refine elements_congr this hv.symm hl.symm hb ?_
  rw [hbl, written_eq]
  exact hl.symm

include hn in
/-- A word whose run writes an element at every computing position. -/
theorem wrote_of_done {i : Instr} {after : State → State} {n : Nat} (hk : op.keepsVstart = false)
    (hexec : exec i s = .next (runHead (postedTo s cv d tag op p)).1)
    (hafter : ∀ c fl, c.plot = s.ct.plot → after (vdone s cv c fl) = { vdone s cv c fl with draws := n })
    (hr : op.run (entryOf s op (some p)) (postedTo s cv d tag op p) = .done { postedTo s cv d tag op p with
        ct := written (postedTo s cv d tag op p).ct d.toNat w (ons s (onAt s p)) fun e => (val e).1, draws := n }
      (flagsOf (ons s (onAt s p)) fun e => (val e).2)) :
    Wrote s cv d p after i w tag val := by
  refine ⟨(written (postedTo s cv d tag op p).ct d.toNat w (ons s (onAt s p)) fun e => (val e).1).v, ?_, ?_⟩
  · rw [written_eq] at hr
    rw [hexec]
    exact congrArg _ ((runHead_completed h hn cv _ hk hr).trans (hafter _ _ (by rfl)).symm)
  · have := elements_posted h hd hw hf (val := val) (c := (postedTo s cv d tag op p).ct) rfl rfl _ (fun e he => (mem_ons.mp he).1)
      (b := { s.ct with v := (written (postedTo s cv d tag op p).ct d.toNat w (ons s (onAt s p)) fun e => (val e).1).v }) rfl rfl
    rwa [decide_mem_ons] at this

include hn in
/-- A word without frame faults, element by element. -/
theorem wrote_of_mapElems {i : Instr} (hk : op.keepsVstart = false) (hexec : exec i s = .next (runHead (postedTo s cv d tag op p)).1)
    (hr : op.run (entryOf s op (some p)) (postedTo s cv d tag op p) = doneCt (postedTo s cv d tag op p)
      (mapElems (postedTo s cv d tag op p).ct d.toNat w (actives (entryOf s op (some p)) (postedTo s cv d tag op p).ct) val)) :
    Wrote s cv d p id i w tag val := by
  refine wrote_of_done h hn hd hw hf (n := s.draws) hk hexec (fun _ _ _ => rfl) ?_
  rw [hr, postedTo, actives_posted, mapElems_eq]
  rfl

end

section
variable {f : Nat → Except FrameFault (Nat × Fl)} (hf : s.fits 128 1 = true)
  (hr : op.run (entryOf s op (some p)) (postedTo s cv d tag op p) = framedGo (entryOf s op (some p)) (postedTo s cv d tag op p)
    (fun c e v => c.vset d.toNat 128 e v) f (actives (entryOf s op (some p)) (postedTo s cv d tag op p).ct)
    (postedTo s cv d tag op p).ct {})
include hn hf hr

/-- A word whose elements may fault, none of which does. -/
theorem wrote_of_framedGo {i : Instr} (hk : op.keepsVstart = false)
    (hexec : exec i s = .next (runHead (postedTo s cv d tag op p)).1)
    (hval : ∀ e, onAt s p e = true → f e = .ok (val e)) :
    Wrote s cv d p (fun t => t.drewNodes s.ct.vl) i 128 tag val := by
  refine wrote_of_done h hn hd (by decide) hf (n := drawsAfter s s.ct.vl) hk hexec (fun c fl hc => ?_) ?_
  · rw [drewNodes_eq]
    simp only [drawsAfter, vdone, vconf, hc]
  · rw [hr, postedTo, actives_posted]
    refine framedGo_done (fun e he => hval e (mem_ons_onAt.mp he)) rfl ?_
    exact written_plot ..

/-- A word that meets a faulting element stops there. -/
theorem stopsAt_of_framedGo {i : Instr} {e : Nat} {b : FrameFault} (hexec : exec i s = .next (runHead (postedTo s cv d tag op p)).1)
    (he : onAt s p e = true) (hfault : f e = .error b) (hval : ∀ j, j < e → onAt s p j = true → f j = .ok (val j)) :
    StopsAt s d p i e b val := by
  obtain ⟨more, hsplit⟩ := ons_split (mem_ons_onAt.mpr he)
  have hbelow : ∀ j ∈ (ons s (onAt s p)).filter (fun j => decide (j < e)), f j = .ok (val j) := fun j hj => by
    obtain ⟨hon, hlt⟩ := List.mem_filter.mp hj
    exact hval j (by simpa using hlt) (mem_ons_onAt.mp hon)
  rw [postedTo, actives_posted, hsplit] at hr
  obtain ⟨u, hgo, hct⟩ := framedGo_stop (x := entryOf s op (some p)) (s := postedTo s cv d tag op p)
    (r := written (postedTo s cv d tag op p).ct d.toNat 128 _ fun j => (val j).1)
    (put := fun c e v => c.vset d.toNat 128 e v) (more := more) (c := (postedTo s cv d tag op p).ct) hbelow rfl hfault
  have hrun := runHead_stopped hn cv (retag s.ct.vtype d.toNat (2 ^ s.ct.g) tag) (hr.trans hgo)
  generalize hes : (ons s (onAt s p)).filter (fun j => decide (j < e)) = es at hct
  have hv : u.ct.v = (written (postedTo s cv d tag op p).ct d.toNat 128 es fun j => (val j).1).v := by rw [hct]
  have hlg : u.ct.lg = s.ct.lg := by rw [hct, written_eq]; rfl
  have ha : u.ct.a = s.ct.a.flag (flagsOf es fun j => (val j).2) := by rw [hct, written_eq]; rfl
  have hstart : u.ct.vstart = e := by rw [hct]
  refine ⟨_, { entryOf s op (some p) with vstart := e }, hexec.trans (congrArg _ hrun), rfl, rfl, rfl, hstart, hes ▸ ha,
    fun hnone => ?_, ?_, _, rfl, rfl, rfl, rfl⟩
  · have hnil : es = [] := List.eq_nil_iff_forall_not_mem.mpr fun j hj => by
      obtain ⟨hon, hlt⟩ := List.mem_filter.mp (hes ▸ hj)
      simp [mem_ons_onAt, hnone j (by simpa using hlt)] at hon
    rw [hnil] at hv
    exact hv
  · have hes' : ∀ j ∈ es, j < s.ct.vl := fun j hj => by
      rw [← hes] at hj
      exact (mem_ons.mp (List.mem_of_mem_filter hj)).1
    have := elements_posted h hd (by decide) hf (val := val) (c := (postedTo s cv d tag op p).ct) rfl rfl es hes' (b := u.ct) hv hlg
    have hon : (fun j => decide (j ∈ es)) = fun j => onAt s p j && decide (j < e) := by
      funext j
      rw [← hes]
      simp only [List.mem_filter, mem_ons_onAt, decide_eq_true_eq, Bool.decide_and, Bool.decide_eq_true]
    rw [hon] at this
    exact elements_congr this rfl rfl rfl rfl

end

end

/-! ### The end of a word that writes predicate bits -/

/-- A word that writes a predicate bit at every computing position, none of whose elements faults. -/
theorem bits_of_framedGo {s : State} (h : VReady s) (hn : NoFeeds s) {cv : Convoy} {p : PGov} {op : Vop} {i : Instr} {q : PRegNo}
    {bit : Nat → Bool} {fl : Nat → Fl} {f : Nat → Except FrameFault (Nat × Fl)} {t : State}
    (ht : postedAt s cv s.ct.vtype (entryOf s op (some p)) = t) (hk : op.keepsVstart = false) (hexec : exec i s = .next (runHead t).1)
    (hr : op.run (entryOf s op (some p)) t = framedGo (entryOf s op (some p)) t (fun c e v => c.psetBit q.toNat e (v = 1)) f
      (actives (entryOf s op (some p)) t.ct) t.ct {})
    (hval : ∀ e, onAt s p e = true → f e = .ok (if bit e then 1 else 0, fl e)) :
    ∃ w, exec i s = .next ((vdone s cv { s.ct with p := w } (flagsOf (ons s (onAt s p)) fl)).drewNodes s.ct.vl) ∧
      PBits s.ct { s.ct with p := w } q.toNat (onAt s p) bit := by
  have hone : ∀ x : Bool, decide ((if x = true then 1 else 0) = (1 : Nat)) = x := by decide
  have hfold : (ons s (onAt s p)).foldl (fun c e => c.psetBit q.toNat e (decide ((if bit e = true then 1 else 0) = (1 : Nat)))) t.ct =
      bitsWritten t.ct q.toNat (ons s (onAt s p)) bit := by
    simp only [hone, bitsWritten]
  subst ht
  refine ⟨(bitsWritten (postedAt s cv s.ct.vtype (entryOf s op (some p))).ct q.toNat (ons s (onAt s p)) bit).p, ?_, ?_⟩
  · rw [actives_posted, framedGo_done (val := fun e => (if bit e then 1 else 0, fl e)) (fun e he => hval e (mem_ons_onAt.mp he)) hfold
      (bitsWritten_plot ..), bitsWritten_eq] at hr
    rw [hexec, drewNodes_eq]
    exact congrArg _ (runHead_completed h hn cv s.ct.vtype hk hr)
  · have hbits := pbits_bitsWritten (val := bit) q.isLt (ons s (onAt s p))
      (postedAt s cv s.ct.vtype (entryOf s op (some p))).ct fun e he => by
      have := (mem_ons.mp he).1
      have := h.vl
      have := vlen_le h.lg
      simp only [predBits]
      omega
    rw [decide_mem_ons] at hbits
    exact pbits_congr hbits rfl rfl

end Sys2Proof.Laws
end

section
/-! SUPPORT. The framed words one by one: what each posts, what its elements give; and the statement on them. -/
namespace Sys2Proof.Laws
open Sys2Proof Sys2Proof.Machine Sys2Proof.Stmt

/-! ### Operand types -/

theorem framed_w {t : Ty} (h : t.isFramed = true) : t.w = 128 := by
  cases t with
  | fpos | fdisp => rfl
  | int | fp => cases h
/-- A type that a tag byte names carries that byte (R37). -/
theorem byte_of_tyOf {fmt : Vector Word 8} {b c : BitVec 8} {f : Fmt} {w : Nat} (h : tyOf fmt b = some (.fp c f w)) : c = b := by
  dsimp only [tyOf] at h
  split at h
  · cases h
  · split at h
    · split at h
      · split at h <;> cases h
        rfl
      · cases h
    · split at h
      · split at h <;> cases h
        rfl
      · cases h
    · cases h; rfl
    · cases h; rfl
    · cases h; rfl
    · cases h; rfl
    · cases h
    · cases h
    · cases h
/-- The floating tag of code 15 is f32 (R37). -/
theorem f32_of_code {s : State} {r k : Nat} {t : Ty} (h : s.opT r k = some t) (hfp : t.isFp = true) (hc : t.code = 15) :
    ∃ b, t = .fp b fmtF32 32 := by
  cases t with
  | int | fpos | fdisp => cases hfp
  | fp b f w =>
    unfold State.opT State.ty at h
    generalize s.ct.vtype[r]?.getD 0 = b' at h
    split at h
    · next u hu =>
      split at h <;> cases h
      obtain rfl := byte_of_tyOf hu
      have hb : b.toNat / 8 = 15 := hc
      refine ⟨b, ?_⟩
      simpa [tyOf, hb, tagInt, eq_comm] using hu
    · cases h

/-- A framed sum or difference has two framed operands (R95). -/
theorem framed_of_result {op : BinOp} {ta tb rt : Ty} (hop : op = .add ∨ op = .sub) (h : framedResult op ta tb = some rt) :
    tb.isFramed = true := by
  unfold framedResult at h
  split at h
  · rfl
  · rfl
  · rfl
  · rfl
  · rfl
  · rfl
  · simp at hop
  · simp at hop
  · cases h

/-! ### What each word posts -/

section
variable {s : State} {cv : Convoy} {c : Bool} {d a : VRegNo} {p : PGov} {ta : Ty}
variable (h : VReady s) (hc : countConvoy s.ct.conv c {} = some cv) (hd : s.grp d = true) (ha : s.grp a = true)
  (hta : s.opT a.toNat 1 = some ta)
include h hc hd ha hta

theorem vframe_posts (hfr : ta.isFramed = true) {field : State → Bool} {ok : State → Ty → Bool} {out : Ty → BitVec 8} {w : Nat}
    {op : State → Ty → Vop} (hfield : field s = true) (hok : ok s ta = true) (hf : s.fits w 1 = true) :
    vframe c d a s field ok out w p op = .next (runHead (postedTo s cv d (out ta) (op s ta) p)).1 := by
  refine vword_postTag h hc (by simp [hd, ha, hfield]) ?_
  simp only [hta, hfr, hok, hf, Bool.and_self, if_true]

theorem vbin_posts {op : BinOp} {y : BOp} {tb rt : Ty} (hy : s.grpB y = true) (htb : binTy s op y ta = some tb)
    (hfr : (ta.isFramed || tb.isFramed) = true) (hrt : framedResult op ta tb = some rt) (hf : s.fits 128 1 = true) :
    vbin op c d a y p s = .next (runHead (postedTo s cv d rt.byte (.fbin op d.toNat a.toNat ta (s.bSrc y tb.w) tb) p)).1 := by
  refine vword_postTag h hc (by simp [hd, ha, hy]) ?_
  simp only [planBin, hta, htb, hfr, hrt, hf, if_true]

omit hd in
theorem vcmp_posts (hfr : ta.isFramed = true) {k : CmpOp} (hk : k = .eq ∨ k = .ne) {q : PRegNo} {b : VRegNo} (hb : s.grp b = true)
    (htb : s.opT b.toNat 1 = some ta) : vcmp k c q a b p s =
      .next (runHead (postedAt s cv s.ct.vtype (entryOf s (.cmp k q.toNat a.toNat ta b.toNat ta) (some p)))).1 := by
  have hk : (k == .eq || k == .ne) = true := by simpa using hk
  refine vword_postOnly h hc (by simp [ha, hb]) ?_
  simp only [hta, htb, hfr, Bool.or_self, if_true, beq_self_eq_true, hk, Bool.and_self]

end

/-! ### What the elements of each give -/

/-- FPCVT of element e (R104). -/
def cvtElem (s : State) (a : Nat) (pos : Bool) (tag e : Nat) : Except FrameFault (Nat × Fl) :=
  let v := s.ct.vget a 128 e
  if nullTag tag then .error (fnull tag)
  else if nullTag (ftag v) then (if pos then .error (fnull (ftag v)) else .ok (mkFramed (comps v) tag, {}))
  else (s.convert s.ct.frE (2 * e) v pos (ftag v) tag).map fun r => (mkFramed r.1 tag, r.2)
/-- The components and the tag of a framed sum or difference of operands in one frame (R96). -/
def framedSum (s : State) (op : BinOp) (e : Nat) (r : List Nat × List Nat × Nat × Fl) : Nat × Fl :=
  let sum := fun y z => (if op = .sub then fpSub else fpAdd) fmtF32 (rmAt s) (rndAt s e) (decodeVal fmtF32 y) (decodeVal fmtF32 z)
  let q := zip3 sum r.1 r.2.1
  (mkFramed q.1 r.2.2.1, r.2.2.2.or q.2)
/-- A framed value with its components multiplied by an f32 factor (R96). -/
def framedScale (s : State) (e v k : Nat) : Nat × Fl :=
  let r := zip3 (fun y _ => fpMul fmtF32 (rmAt s) (rndAt s e) (decodeVal fmtF32 y) (decodeVal fmtF32 k)) (comps v) [0, 0, 0]
  (mkFramed r.1 (ftag v), r.2)
/-- The comparisons of the components of operands in one frame, with their flags (R88, R96). -/
def framedCmp (r : List Nat × List Nat × Nat × Fl) : List (Bool × Fl) :=
  (r.1.zip r.2.1).map fun y => fpCmp .eq (decodeVal fmtF32 y.1) (decodeVal fmtF32 y.2)

/-- An element that FPCVT converts, or that adopts the frame where it has none of its own (R104). -/
def Converts (s : State) (a : Nat) (ta : Ty) (tag e : Nat) (val : List Nat × Fl) : Prop :=
  if nullTag (ftag (s.ct.vget a 128 e)) then ta = .fdisp ∧ val = (comps (s.ct.vget a 128 e), {})
  else s.convert s.ct.frE (2 * e) (s.ct.vget a 128 e) (isPos ta) (ftag (s.ct.vget a 128 e)) tag = .ok val

section
variable {s : State} {a : Nat} {ta : Ty} {tag e : Nat} {val : List Nat × Fl}

theorem cvtElem_ok (ht : nullTag tag = false) (hv : Converts s a ta tag e val) :
    cvtElem s a (isPos ta) tag e = .ok (mkFramed val.1 tag, val.2) := by
  unfold Converts at hv
  unfold cvtElem
  rw [if_neg (by simp [ht])]
  split at hv
  · next hnull =>
    obtain ⟨rfl, rfl⟩ := hv
    rw [if_pos hnull]
    rfl
  · next hnull =>
    rw [if_neg hnull, hv]
    rfl
theorem cvtElem_error {f : FrameFault} (ht : nullTag tag = false) (hnull : nullTag (ftag (s.ct.vget a 128 e)) = false)
    (hf : s.convert s.ct.frE (2 * e) (s.ct.vget a 128 e) (isPos ta) (ftag (s.ct.vget a 128 e)) tag = .error f) :
    cvtElem s a (isPos ta) tag e = .error f := by
  unfold cvtElem
  rw [if_neg (by simp [ht]), if_neg (by simp [hnull]), hf]
  rfl
theorem cvtElem_null (pos : Bool) (ht : nullTag tag = true) : cvtElem s a pos tag e = .error (fnull tag) := if_pos ht

end

theorem afterNodes_of_free {s : State} (h : s.nodesHeld = false) (r : VStep) (x : Ventry) : r.afterNodes s x = r := by
  simp [VStep.afterNodes, h]
theorem nodesHeld_posted {s : State} (h : s.nodesHeld = false) (cv : Convoy) (vt : Vector (BitVec 8) 32) (x : Ventry) :
    (postedAt s cv vt x).nodesHeld = false := (nodesHeld_of_samePlace (samePlace_posted s cv vt x)).trans h

section
variable {s : State} (cv : Convoy) (vt : Vector (BitVec 8) 32) (p : Option PGov)

theorem convert_posted (x : Ventry) (fr o v : Nat) (pos : Bool) (src dst : Nat) :
    (postedAt s cv vt x).convert fr o v pos src dst = s.convert fr o v pos src dst :=
  convert_of_samePlace (samePlace_posted s cv vt x) ..
theorem bothIn_posted (x : Ventry) (fr o a : Nat) (pa : Bool) (b : Nat) (pb : Bool) :
    (postedAt s cv vt x).bothIn fr o a pa b pb = s.bothIn fr o a pa b pb :=
  bothIn_of_samePlace (samePlace_posted s cv vt x) ..

theorem run_fpcvt (h : s.nodesHeld = false) (d a : Nat) (pos : Bool) (tag : BitVec 32) :
    let x := entryOf s (.fpcvt d a pos tag) p
    let t := postedAt s cv vt x
    x.op.run x t = framedGo x t (fun c e v => c.vset d 128 e v) (cvtElem s a pos tag.toNat) (actives x t.ct) t.ct {} := by
  intro x t
  refine (afterNodes_of_free (nodesHeld_posted h cv vt x) _ _).trans ?_
  refine congrArg (fun f => framedGo x t _ f (actives x t.ct) t.ct {}) (funext fun e => ?_)
  simp only [x, t, opd_posted, opdFl_posted, frames_posted, convert_posted, cvtElem, flOr_none]
  cases s.convert s.ct.frE (2 * e) (s.ct.vget a 128 e) pos (ftag (s.ct.vget a 128 e)) tag.toNat <;> rfl

/-- Framed VADD and VSUB (R96). -/
theorem run_fbin_sum (h : s.nodesHeld = false) {op : BinOp} (hop : op = .add ∨ op = .sub) (d a : Nat) (ta : Ty) (b : Nat) (tb : Ty)
    (hta : ta.w = 128) (htb : tb.w = 128) :
    let x := entryOf s (.fbin op d a ta (.vec b) tb) p
    let t := postedAt s cv vt x
    x.op.run x t = framedGo x t (fun c e v => c.vset d 128 e v)
      (fun e => (s.bothIn s.ct.frE (2 * e) (s.ct.vget a 128 e) (isPos ta) (s.ct.vget b 128 e) (isPos tb)).map (framedSum s op e))
      (actives x t.ct) t.ct {} := by
  intro x t
  have hmul : op ≠ .mul := by rintro rfl; simp at hop
  refine (if_neg hmul).trans ((afterNodes_of_free (nodesHeld_posted h cv vt x) _ _).trans ?_)
  refine congrArg (fun f => framedGo x t _ f (actives x t.ct) t.ct {}) (funext fun e => ?_)
  simp only [x, t, opd_posted, opdFl_posted, srcFl_posted, srcElem, frames_posted, bothIn_posted, hta, htb, flOr_none]
  rcases hop with rfl | rfl
  · cases s.bothIn s.ct.frE (2 * e) (s.ct.vget a 128 e) (isPos ta) (s.ct.vget b 128 e) (isPos tb) <;> rfl
  · cases s.bothIn s.ct.frE (2 * e) (s.ct.vget a 128 e) (isPos ta) (s.ct.vget b 128 e) (isPos tb) <;> rfl

/-- Framed VMUL, of whichever operand is framed by the other (R96). -/
theorem run_fbin_mul (d a : Nat) (ta : Ty) (b : VSrc) (tb : Ty) :
    let x := entryOf s (.fbin .mul d a ta b tb) p
    let t := postedAt s cv vt x
    let va := s.ct.vget a ta.w
    let vb := srcElem x t.ct b tb.w
    x.op.run x t = framedGo x t (fun c e v => c.vset d 128 e v)
      (fun e => .ok (framedScale s e (if ta.isFramed then va e else vb e) ((if ta.isFramed then vb e else va e) % 2 ^ 32)))
      (actives x t.ct) t.ct {} := by
  intro x t va vb
  refine congrArg (fun f => framedGo x t _ f (actives x t.ct) t.ct {}) (funext fun e => ?_)
  simp only [x, t, va, vb, opd_posted, opdFl_posted, srcFl_posted, flOr_none]
  rfl

/-- Framed VCMP.EQ and VCMP.NE (R96). -/
theorem run_fcmp (h : s.nodesHeld = false) (k : Bool) (q a : Nat) {ta : Ty} (hfr : ta.isFramed = true) (b : Nat) :
    let x := entryOf s (.cmp (if k then .eq else .ne) q a ta b ta) p
    let t := postedAt s cv vt x
    x.op.run x t = framedGo x t (fun c e v => c.psetBit q e (v = 1))
      (fun e => (s.bothIn s.ct.frE (2 * e) (s.ct.vget a 128 e) (isPos ta) (s.ct.vget b 128 e) (isPos ta)).map fun r =>
        (if ((framedCmp r).all (·.1)) == k then 1 else 0,
          r.2.2.2.or ((framedCmp r).foldl (fun f y => f.or y.2) {})))
      (actives x t.ct) t.ct {} := by
  intro x t
  refine (if_pos hfr).trans ((afterNodes_of_free (nodesHeld_posted h cv vt x) _ _).trans ?_)
  refine congrArg (fun f => framedGo x t _ f (actives x t.ct) t.ct {}) (funext fun e => ?_)
  simp only [x, t, opd_posted, opdFl_posted, frames_posted, bothIn_posted, flOr_none]
  cases s.bothIn s.ct.frE (2 * e) (s.ct.vget a 128 e) (isPos ta) (s.ct.vget b 128 e) (isPos ta) with
  | error f => rfl
  | ok r =>
    have hk : decide ((if k = true then CmpOp.eq else .ne) = .eq) = k := by cases k <;> rfl
    have hone : ∀ b : Bool, decide ((if b = true then 1 else 0) = (1 : Nat)) = b := by decide
    simp only [zip3, framedCmp, Except.map, List.map_map, List.all_map, List.foldl_map, Function.comp_def, hone, hk, beq_iff_eq]

end

/-! ### The words -/

section
variable {s : State} {cv : Convoy} {c : Bool} {d a : VRegNo} {p : PGov} {ta : Ty}
variable (h : VReady s) (hn : NoFeeds s) (hc : countConvoy s.ct.conv c {} = some cv) (hd : s.grp d = true) (ha : s.grp a = true)
  (hta : s.opT a.toNat 1 = some ta)
include h hn hc hd ha hta

section
variable (hfr : ta.isFramed = true)
include hfr

theorem fpgtag_wrote (hf : s.fits 32 1 = true) :
    Wrote s cv d p id (.fpgtag c d a p) 32 0x40 fun e => (ftag (s.ct.vget a.toNat 128 e), {}) := by
  have hexec : exec (.fpgtag c d a p) s = .next (runHead (postedTo s cv d 0x40 (.fpgtag d.toNat a.toNat) p)).1 := by
    rw [exec_fpgtag, execFpgtag]
    exact vframe_posts h hc hd ha hta hfr rfl rfl hf
  exact wrote_of_mapElems h hn hd (by decide) hf rfl hexec rfl
theorem fplen2_wrote (hf : s.fits 32 1 = true) (hk : ta = .fdisp) :
    Wrote s cv d p id (.fplen2 c d a p) 32 0x78 fun e => len2 (rmAt s) (rndAt s e) (s.ct.vget a.toNat 128 e) := by
  have hexec : exec (.fplen2 c d a p) s = .next (runHead (postedTo s cv d 0x78 (.fplen2 d.toNat a.toNat) p)).1 := by
    rw [exec_fplen2, execFplen2]
    exact vframe_posts h hc hd ha hta hfr rfl (by rw [hk]; rfl) hf
  refine wrote_of_mapElems h hn hd (by decide) hf rfl hexec ?_
  simp only [Vop.run, runFplen2, postedTo, opd_posted, opdFl_posted, rand_posted, flOr_none, rm_posted]
theorem fpstagVx_wrote (b : SReg) : Wrote s cv d p id (.fpstagVx c d a b p) 128 ta.byte
    fun e => (mkFramed (comps (s.ct.vget a.toNat 128 e)) ((s.rd b).toNat % 2 ^ 32), {}) := by
  have hf := framed_fits hta hfr
  have hexec : exec (.fpstagVx c d a b p) s =
      .next (runHead (postedTo s cv d ta.byte (.fpstag d.toNat a.toNat (.sc ((s.rd b).toNat % 2 ^ 32))) p)).1 := by
    rw [exec_fpstagVx, execFpstagVx]
    exact vframe_posts h hc hd ha hta hfr rfl rfl hf
  refine wrote_of_mapElems h hn hd (by decide) hf rfl hexec ?_
  simp only [Vop.run, runFpstag, postedTo, opd_posted, opdFl_posted, srcFl_posted, srcElem, Nat.mod_mod, flOr_none]
theorem fpstagVv_wrote {b : VRegNo} {tb : Ty} (hb : s.grp b = true) (htb : s.opT b.toNat 1 = some tb) (hcode : tb.code = 8) :
    Wrote s cv d p id (.fpstagVv c d a b p) 128 ta.byte
      fun e => (mkFramed (comps (s.ct.vget a.toNat 128 e)) (s.ct.vget b.toNat 32 e), {}) := by
  have hf := framed_fits hta hfr
  have hexec : exec (.fpstagVv c d a b p) s = .next (runHead (postedTo s cv d ta.byte (.fpstag d.toNat a.toNat (.vec b.toNat)) p)).1 := by
    rw [exec_fpstagVv, execFpstagVv]
    exact vframe_posts h hc hd ha hta hfr hb (by simp [htb, hcode]) hf
  refine wrote_of_mapElems h hn hd (by decide) hf rfl hexec ?_
  simp only [Vop.run, runFpstag, postedTo, opd_posted, opdFl_posted, srcFl_posted, srcElem, flOr_none,
    Nat.mod_eq_of_lt (vget_lt s.ct b.toNat 32 _)]

omit hn in
theorem fpcvt_posts (b : SReg) : exec (.fpcvt c d a b p) s =
    .next (runHead (postedTo s cv d ta.byte (.fpcvt d.toNat a.toNat (isPos ta) (BitVec.ofNat 32 (s.rd b).toNat)) p)).1 := by
  rw [exec_fpcvt, execFpcvt]
  exact vframe_posts h hc hd ha hta hfr rfl rfl (framed_fits hta hfr)
omit h hn hc hd ha hta hfr in
theorem run_fpcvt_posted (hheld : s.nodesHeld = false) (b : SReg) (tag : BitVec 8) :
    let op : Vop := .fpcvt d.toNat a.toNat (isPos ta) (BitVec.ofNat 32 (s.rd b).toNat)
    op.run (entryOf s op (some p)) (postedTo s cv d tag op p) =
      framedGo (entryOf s op (some p)) (postedTo s cv d tag op p) (fun c e v => c.vset d.toNat 128 e v)
        (cvtElem s a.toNat (isPos ta) ((s.rd b).toNat % 2 ^ 32)) (actives (entryOf s op (some p)) (postedTo s cv d tag op p).ct)
        (postedTo s cv d tag op p).ct {} := by
  have htag : (BitVec.ofNat 32 (s.rd b).toNat).toNat = (s.rd b).toNat % 2 ^ 32 := BitVec.toNat_ofNat ..
  exact htag ▸ run_fpcvt cv _ (some p) hheld d.toNat a.toNat (isPos ta) (BitVec.ofNat 32 (s.rd b).toNat)

section
variable (hheld : s.nodesHeld = false) (b : SReg) {val : Nat → List Nat × Fl}
include hheld

/-- FPCVT where every element converts (R104). -/
theorem fpcvt_wrote (ht : nullTag ((s.rd b).toNat % 2 ^ 32) = false)
    (hval : ∀ e, onAt s p e = true → Converts s a.toNat ta ((s.rd b).toNat % 2 ^ 32) e (val e)) :
    Wrote s cv d p (fun t => t.drewNodes s.ct.vl) (.fpcvt c d a b p) 128 ta.byte
      fun e => (mkFramed (val e).1 ((s.rd b).toNat % 2 ^ 32), (val e).2) :=
  wrote_of_framedGo h hn hd (framed_fits hta hfr) (run_fpcvt_posted hheld b ta.byte) rfl
    (fpcvt_posts h hc hd ha hta hfr b) fun e he => cvtElem_ok ht (hval e he)
/-- FPCVT stops at its first element that fails (R101). -/
theorem fpcvt_stops {e : Nat} {f : FrameFault} (he : onAt s p e = true)
    (hfault : cvtElem s a.toNat (isPos ta) ((s.rd b).toNat % 2 ^ 32) e = .error f)
    (hval : ∀ j, j < e → onAt s p j = true → cvtElem s a.toNat (isPos ta) ((s.rd b).toNat % 2 ^ 32) j =
      .ok (mkFramed (val j).1 ((s.rd b).toNat % 2 ^ 32), (val j).2)) :
    StopsAt s d p (.fpcvt c d a b p) e f fun j => (mkFramed (val j).1 ((s.rd b).toNat % 2 ^ 32), (val j).2) :=
  stopsAt_of_framedGo h hn hd (framed_fits hta hfr) (run_fpcvt_posted hheld b ta.byte) (fpcvt_posts h hc hd ha hta hfr b) he hfault hval

end

end

/-- Framed VADD and VSUB of operands that come into one frame (R95, R96). -/
theorem framedSum_wrote (hheld : s.nodesHeld = false) {i : Instr} {op : BinOp} {b : VRegNo} {tb rt : Ty}
    (hi : (op = .add ∧ i = .vaddVv c d a b p) ∨ (op = .sub ∧ i = .vsubVv c d a b p)) (hb : s.grp b = true)
    (htb : s.opT b.toNat 1 = some tb) (hrt : framedResult op ta tb = some rt) (hfa : ta.isFramed = true)
    {val : Nat → List Nat × List Nat × Nat × Fl}
    (hval : ∀ e, onAt s p e = true →
      s.bothIn s.ct.frE (2 * e) (s.ct.vget a.toNat 128 e) (isPos ta) (s.ct.vget b.toNat 128 e) (isPos tb) = .ok (val e)) :
    Wrote s cv d p (fun t => t.drewNodes s.ct.vl) i 128 rt.byte fun e => framedSum s op e (val e) := by
  have hop : op = .add ∨ op = .sub := hi.imp And.left And.left
  have hfb := framed_of_result hop hrt
  have hexec : exec i s = .next (runHead (postedTo s cv d rt.byte (.fbin op d.toNat a.toNat ta (.vec b.toNat) tb) p)).1 := by
    have hbin : exec i s = vbin op c d a (.v b) p s := by
      rcases hi with ⟨rfl, rfl⟩ | ⟨rfl, rfl⟩
      · exact exec_of_binOf rfl
      · exact exec_of_binOf rfl
    rw [hbin]
    exact vbin_posts h hc hd ha hta hb htb (by simp [hfa]) hrt (framed_fits hta hfa)
  refine wrote_of_framedGo h hn hd (framed_fits hta hfa)
    (run_fbin_sum cv _ (some p) hheld hop d.toNat a.toNat ta b.toNat tb (framed_w hfa) (framed_w hfb)) rfl hexec fun e he => ?_
  rw [hval e he]
  rfl

/-- Framed VMUL by a scalar f32 (R68, R95, R96). -/
theorem framedMulVx_wrote (hk : ta = .fdisp) (b : SReg) :
    Wrote s cv d p (fun t => t.drewNodes s.ct.vl) (.vmulVx c d a b p) 128 0x90
      fun e => framedScale s e (s.ct.vget a.toNat 128 e) ((s.rd b).toNat % 2 ^ 32) := by
  subst hk
  have hf : s.fits 128 1 = true := framed_fits hta rfl
  have hexec := (exec_of_binOf (i := .vmulVx c d a b p) rfl).trans
    (vbin_posts (y := .x b) (rt := .fdisp) (op := .mul) (p := p) h hc hd ha hta rfl rfl rfl rfl hf)
  refine wrote_of_framedGo h hn hd hf (run_fbin_mul cv _ (some p) d.toNat a.toNat .fdisp _ _) rfl hexec fun e _ => ?_
  simp only [Ty.isFramed, if_true, srcElem, State.bSrc, Ty.w, Nat.mod_mod]

section
variable {b : VRegNo} {tb : Ty} (hk : ta = .fdisp) (hb : s.grp b = true) (htb : s.opT b.toNat 1 = some tb) (hfp : tb.isFp = true)
  (hcode : tb.code = 15)
include hk hb htb hfp hcode

/-- Framed VMUL by an f32 vector, on either side (R95, R96). -/
theorem framedMulVv_wrote : Wrote s cv d p (fun t => t.drewNodes s.ct.vl) (.vmulVv c d a b p) 128 0x90
    fun e => framedScale s e (s.ct.vget a.toNat 128 e) (s.ct.vget b.toNat 32 e) := by
  subst hk
  have hf : s.fits 128 1 = true := framed_fits hta rfl
  obtain ⟨code, rfl⟩ := f32_of_code htb hfp hcode
  have hexec := (exec_of_binOf (i := .vmulVv c d a b p) rfl).trans
    (vbin_posts (y := .v b) (rt := .fdisp) (op := .mul) (p := p) h hc hd ha hta hb htb rfl (if_pos hcode) hf)
  refine wrote_of_framedGo h hn hd hf (run_fbin_mul cv _ (some p) d.toNat a.toNat .fdisp _ _) rfl hexec fun e _ => ?_
  simp only [Ty.isFramed, if_true, srcElem, State.bSrc, opd_posted, Ty.w, Nat.mod_eq_of_lt (vget_lt s.ct b.toNat 32 e)]
theorem framedMulVv_wrote_swapped : Wrote s cv d p (fun t => t.drewNodes s.ct.vl) (.vmulVv c d b a p) 128 0x90
    fun e => framedScale s e (s.ct.vget a.toNat 128 e) (s.ct.vget b.toNat 32 e) := by
  subst hk
  have hf : s.fits 128 1 = true := framed_fits hta rfl
  obtain ⟨code, rfl⟩ := f32_of_code htb hfp hcode
  have hexec := (exec_of_binOf (i := .vmulVv c d b a p) rfl).trans
    (vbin_posts (y := .v a) (rt := .fdisp) (op := .mul) (p := p) h hc hd hb htb ha hta rfl (if_pos hcode) hf)
  refine wrote_of_framedGo h hn hd hf (run_fbin_mul cv _ (some p) d.toNat b.toNat _ _ .fdisp) rfl hexec fun e _ => ?_
  simp only [Ty.isFramed, Bool.false_eq_true, if_false, srcElem, State.bSrc, opd_posted, Ty.w,
    Nat.mod_eq_of_lt (vget_lt s.ct b.toNat 32 e)]

end

omit hd in
/-- Framed VCMP.EQ and VCMP.NE of operands that come into one frame (R95, R96). -/
theorem framedCmp_writes (hheld : s.nodesHeld = false) {i : Instr} {k : Bool} {b : VRegNo} {q : PRegNo}
    (hi : (k = true ∧ i = .vcmpEq c q a b p) ∨ (k = false ∧ i = .vcmpNe c q a b p)) (hb : s.grp b = true)
    (htb : s.opT b.toNat 1 = some ta) (hfr : ta.isFramed = true) {val : Nat → List Nat × List Nat × Nat × Fl}
    (hval : ∀ e, onAt s p e = true →
      s.bothIn s.ct.frE (2 * e) (s.ct.vget a.toNat 128 e) (isPos ta) (s.ct.vget b.toNat 128 e) (isPos ta) = .ok (val e)) :
    ∃ w, exec i s = .next ((vdone s cv { s.ct with p := w } (flagsOf (ons s (onAt s p)) fun e =>
        (val e).2.2.2.or ((framedCmp (val e)).foldl (fun f y => f.or y.2) {}))).drewNodes s.ct.vl) ∧
      PBits s.ct { s.ct with p := w } q.toNat (onAt s p) fun e => ((framedCmp (val e)).all (·.1)) == k := by
  have hk : (if k then CmpOp.eq else .ne) = .eq ∨ (if k then CmpOp.eq else .ne) = .ne := by cases k <;> simp
  have hcmp : exec i s = vcmp (if k then .eq else .ne) c q a b p s := by
    obtain ⟨rfl, rfl⟩ | ⟨rfl, rfl⟩ := hi
    · exact exec_vcmpEq ..
    · exact exec_vcmpNe ..
  refine bits_of_framedGo h hn rfl rfl (hcmp.trans (vcmp_posts h hc ha hta hfr hk hb htb))
    (run_fcmp cv s.ct.vtype (some p) hheld k q.toNat a.toNat hfr b.toNat) fun e he => ?_
  rw [hval e he]
  rfl

end

/-- Settles O43: each word posts one operation, which runs at once; what its run gives is read off element by element. -/
theorem framedWords : Obligations.FramedWords := by
  unfold Obligations.FramedWords
  intro s cv c d a p ta h hn hc hd ha hta hfr x drew conv wrote leaves scaled
  refine ⟨fpgtag_wrote h hn hc hd ha hta hfr, fplen2_wrote h hn hc hd ha hta hfr, fpstagVx_wrote h hn hc hd ha hta hfr,
    fun b tb hb htb hcode => fpstagVv_wrote h hn hc hd ha hta hfr hb htb hcode,
    fun b val ht hheld hval => fpcvt_wrote h hn hc hd ha hta hfr hheld b ht hval,
    fun b e f val ht hheld he hnull hf hval => ?_, fun b e ht hheld he hnone => ?_,
    fun i op b tb rt val hi hheld hb htb hrt hval => framedSum_wrote h hn hc hd ha hta hheld hi hb htb hrt hfr hval,
    fun hk b => framedMulVx_wrote h hn hc hd ha hta hk b,
    fun hk b tb hb htb hfp hcode => ⟨framedMulVv_wrote h hn hc hd ha hta hk hb htb hfp hcode,
      framedMulVv_wrote_swapped h hn hc hd ha hta hk hb htb hfp hcode⟩,
    fun i k b q val hi hheld hb htb hval => framedCmp_writes h hn hc ha hta hheld hi hb htb hfr hval⟩
  · obtain ⟨u, y, hexec, hstatus, hviq, hy, hstart, ha', -, hv, hrec⟩ := fpcvt_stops h hn hc hd ha hta hfr hheld b he
      (cvtElem_error ht hnull hf) fun j hj hon => cvtElem_ok ht (hval j hj hon)
    exact ⟨u, y, hexec, hstatus, hviq, hy, hstart, ha', hv, hrec⟩
  · obtain ⟨u, y, hexec, hstatus, hviq, hy, hstart, -, hv, -, hrec⟩ := fpcvt_stops (val := fun _ => ([], {}))
      h hn hc hd ha hta hfr hheld b he (cvtElem_null (isPos ta) ht) fun j hj hon => absurd hon (by simp [hnone j hj])
    exact ⟨u, y, hexec, hstatus, hviq, hy, hstart, hv hnone, hrec⟩

end Sys2Proof.Laws
end

section
/-! SUPPORT. VP blocks: where a VPCTL word acts, how it leaves the ring of groups, and the scalar words that a block does not admit; and
the statement on them. -/
namespace Sys2Proof.Laws
open Sys2Proof Sys2Proof.Machine Sys2Proof.Stmt

/-! ### Where a VPCTL word acts -/

theorem target_eq {n : Nat} (pc : Word) (o : BitVec n) : target pc o = pc + wordsOff o := by
  rw [target, wordsOff, sx64, BitVec.shiftLeft_eq_mul_twoPow]
  rfl

section
variable {s : State} {c : Bool} {outside : State → Convoy → State} {inside : State → Block → Machine.Group → State}

/-- Outside a block a VPCTL word acts on the stream, once it is counted. -/
theorem vpctl_of_ready (h : VReady s) {cv : Convoy} (hc : countConvoy s.ct.conv c {} = some cv) :
    vpctl s c outside inside = .next (outside s cv) := by
  have hconv : s.conv = s.ct.conv := by simp only [State.conv, group_of_ready h]
  simp [vpctl, h.who, h.viq, takeVector_of_owned h.own, hconv, Cls.free, hc, h.blk]
theorem vpctl_place (h : VReady s) (hc : (countConvoy s.ct.conv c {}).isSome = true) :
    vpctl s c (fun s _ => raise s (trapIll 9)) inside = .next (raise s (trapIll 9)) := by
  obtain ⟨cv, hc⟩ := Option.isSome_iff_exists.mp hc
  exact vpctl_of_ready h hc

variable {b : Block} {g : Machine.Group}

theorem group_of_block (h : BReady s b g) : s.group = some g := by
  simp only [State.group, h.who, Ct.curGroup, h.blk, h.turn]
theorem pc_of_block (h : BReady s b g) : s.pc = g.pc := by
  simp only [State.pc, group_of_block h]

/-- Inside one it acts on the group whose turn it is. -/
theorem vpctl_of_block (h : BReady s b g) (hc : (countConvoy g.conv c {}).isSome = true) :
    vpctl s c outside inside = .next (inside s b g) := by
  have hconv : s.conv = g.conv := by simp only [State.conv, group_of_block h]
  obtain ⟨v, hc⟩ := Option.isSome_iff_exists.mp hc
  simp [vpctl, h.who, h.viq, takeVector_of_owned h.own, hconv, Cls.free, hc, h.blk, group_of_block h]
/-- A word with C = 1 that is of no convoy class always counts: it opens a convoy (R26). -/
theorem countConvoy_opens (v : Convoy) : countConvoy v true {} = some ⟨true, 0, 0, 0, false⟩ := by
  simp [countConvoy]

end

/-! ### VFETCH outside a block (R114) -/

section
variable {s : State} (h : VReady s) {cv : Convoy} (hc : countConvoy s.ct.conv true {} = some cv) (o : BitVec 16)
include h hc

theorem exec_vfetch_empty (hvl : s.ct.vl = 0) : exec (.vfetch o) s = .next (vconf s cv s.ct) := by
  rw [exec_vfetch, execVfetch, vpctl_of_ready h hc]
  simp only [State.setConv, group_of_ready h]
  exact congrArg _ ((if_pos hvl).trans (advance_of_exec (ready_conv h cv).who h.blk))
theorem exec_vfetch_open (hvl : s.ct.vl ≠ 0) :
    let g : Machine.Group := ⟨s.ct.ex.pc + wordsOff o, BitVec.ofNat predBits (2 ^ s.ct.vl - 1), 0, [], .run, .clear⟩
    exec (.vfetch o) s = .next { s with ct := { s.ct with conv := cv, blk := some ⟨[g], 0, [(0, s.ct.ex.pc)], 1⟩ } } := by
  have hpc := pc_of_ready (ready_conv h cv)
  rw [exec_vfetch, execVfetch, vpctl_of_ready h hc]
  simp only [State.setConv, group_of_ready h, hvl, if_false, hpc, target_eq]
  rfl

end

/-! ### The running group of a block -/

/-- The CT with another block. -/
def inBlock (s : State) (b : Block) : Res := .next { s with ct := { s.ct with blk := some b } }
/-- The running group changed; the next turn is looked for after its place (R117). -/
def turnedTo (s : State) (b : Block) (g : Machine.Group) : Res :=
  inBlock s (Block.turn { b with ring := b.ring.set b.cur g } (b.cur + 1))

section
variable {s : State} {b : Block} {g : Machine.Group} (h : BReady s b g)
include h

/-- VFETCH opens a level that the group which fetched waits for (R121). -/
theorem exec_vfetch_level (o : BitVec 16) (hl : b.levels.length < 4) (hr : b.ring.length < 16) :
    exec (.vfetch o) s = inBlock s (Block.turn
      ⟨insertAfter (b.ring.set b.cur { g with wait := .fetch b.nextId, conv := ⟨true, 0, 0, 0, false⟩ }) b.cur
        ⟨g.pc + wordsOff o, g.members, b.nextId, [], .run, .clear⟩, b.cur, b.levels ++ [(b.nextId, g.pc)], b.nextId + 1⟩ (b.cur + 1)) := by
  have hc : (countConvoy g.conv true {}).isSome = true := by rw [countConvoy_opens]; rfl
  have hroom : ¬ (4 ≤ b.levels.length ∨ 16 ≤ b.ring.length) := by omega
  rw [exec_vfetch, execVfetch, vpctl_of_block h hc]
  simp only [hroom, if_false, target_eq, pc_of_block h]
  rfl

/-- The members of the running group at which a predicate is set (R116). -/
def taking (s : State) (g : Machine.Group) (a : PRegNo) : PReg :=
  (if a = 0 then BitVec.allOnes predBits else s.ct.p[a.toNat]) &&& g.members

/-- VPBR on the members that take it: all, none, or some, where the group splits if the ring has room (R116). -/
theorem exec_vpbr_block (c : Bool) (a : PRegNo) (o : BitVec 16) : exec (.vpbr c a o) s =
    if taking s g a = g.members then turnedTo s b { g with pc := g.pc + wordsOff o, conv := .clear }
    else if taking s g a = 0 then turnedTo s b { g with pc := g.pc + 4, conv := .clear }
    else if 16 ≤ b.ring.length then .next (raise s (trapIll 9))
    else inBlock s (Block.turn { b with
      ring := insertAfter (b.ring.set b.cur
          { g with members := g.members &&& ~~~taking s g a, pc := g.pc + 4, path := b.nextId :: g.path, conv := .clear })
        b.cur ⟨g.pc + wordsOff o, taking s g a, g.level, b.nextId :: g.path, .run, .clear⟩, nextId := b.nextId + 1 } (b.cur + 1)) := by
  have hone : (-1 : PReg) = BitVec.allOnes predBits := BitVec.neg_one_eq_allOnes
  rw [exec_vpbr, execVpbr, vpctl_of_block h h.conv]
  simp only [afterViq, h.viq, List.isEmpty_nil, if_true, hone, target_eq, pc_of_block h, taking, apply_ite Host.Outcome.next]
  rfl

/-- VPJOIN of a group that no other side of its innermost split is left of (R119). -/
theorem exec_vpjoin_alone (c : Bool) (hs : b.hasSibling g = false) :
    exec (.vpjoin c) s = turnedTo s b { g with pc := g.pc + 4, conv := .clear } := by
  rw [exec_vpjoin, execVpjoin, vpctl_of_block h h.conv]
  simp only [hs, Bool.not_false, if_true, pc_of_block h]
  rfl
/-- It waits while the other side has split again. -/
theorem exec_vpjoin_waits (c : Bool) (hs : b.hasSibling g = true) (hn : b.sibling g = none) :
    exec (.vpjoin c) s = turnedTo s b { g with wait := .join g.pc, conv := .clear } := by
  rw [exec_vpjoin, execVpjoin, vpctl_of_block h h.conv]
  simp only [hs, hn, Bool.not_true, Bool.false_eq_true, if_false, pc_of_block h]
  rfl
/-- It reunites the two sides where the other one waits at the same word. -/
theorem exec_vpjoin_reunites (c : Bool) (hs : b.hasSibling g = true) {j : Nat} {k : Machine.Group} (hj : b.sibling g = some j)
    (hk : b.ring[j]? = some k) (hw : k.wait = .join g.pc) :
    exec (.vpjoin c) s = inBlock s (b.merge g j k (g.pc + 4)) := by
  rw [exec_vpjoin, execVpjoin, vpctl_of_block h h.conv]
  simp only [hs, hj, hk, hw, Bool.not_true, Bool.false_eq_true, if_false, if_true, pc_of_block h]
  rfl

/-- VPEND of a group that descends from no split: its level ends with the last of its groups (R120). -/
theorem exec_vpend_block (c : Bool) (hp : g.path = []) : exec (.vpend c) s =
    let ring := b.ring.set b.cur { g with wait := .end_ g.pc, conv := .clear }
    if ring.all (fun k => k.level != g.level || k.wait.isEnd) then .next (levelEnd s { b with ring := ring } g.level)
    else turnedTo s b { g with wait := .end_ g.pc, conv := .clear } := by
  rw [exec_vpend, execVpend, vpctl_of_block h h.conv]
  simp only [Block.sibling, hp, Bool.false_eq_true, if_false, pc_of_block h, apply_ite Host.Outcome.next]
  rfl

theorem exec_vpend_waits (c : Bool) (hp : g.path = []) {i : Nat} {k : Machine.Group} (hi : b.ring[i]? = some k) (hne : i ≠ b.cur)
    (hl : k.level = g.level) (hk : k.wait.isEnd = false) :
    exec (.vpend c) s = turnedTo s b { g with wait := .end_ g.pc, conv := .clear } := by
  rw [exec_vpend_block h c hp]
  refine if_neg fun hall => ?_
  have hmem : k ∈ b.ring.set b.cur { g with wait := .end_ g.pc, conv := .clear } :=
    List.mem_of_getElem? ((List.getElem?_set_ne hne.symm).trans hi)
  simpa [hl, hk] using List.all_eq_true.mp hall k hmem

omit h in
/-- The end of the only level: the stream continues after the VFETCH that opened it. -/
theorem levelEnd_last {b : Block} {lv : Nat} {a : Word} (hl : b.levels = [(lv, a)]) (hr : ∀ k ∈ b.ring, k.level = lv) :
    levelEnd s b lv = { s with ct := { s.ct with conv := .clear, blk := none, ex := { s.ct.ex with pc := a + 4 } } } := by
  have hring : b.ring.filter (fun k => k.level ≠ lv) = [] := List.filter_eq_nil_iff.mpr fun k hk => by simp [hr k hk]
  simp only [levelEnd, hl, hring]
  simp

theorem exec_vpend_ends (c : Bool) (hp : g.path = []) {a : Word} (hl : b.levels = [(g.level, a)]) (hr : ∀ k ∈ b.ring, k.level = g.level)
    (hend : ∀ i k, b.ring[i]? = some k → i ≠ b.cur → k.wait.isEnd = true) :
    exec (.vpend c) s = .next { s with ct := { s.ct with conv := .clear, blk := none, ex := { s.ct.ex with pc := a + 4 } } } := by
  have cases : ∀ k ∈ b.ring.set b.cur { g with wait := .end_ g.pc, conv := .clear }, k.level = g.level ∧ k.wait.isEnd = true := by
    intro k hk
    obtain ⟨i, hi⟩ := List.mem_iff_getElem?.mp hk
    by_cases hne : i = b.cur
    · subst hne
      obtain ⟨hlt, -⟩ := List.getElem?_eq_some_iff.mp h.turn
      rw [List.getElem?_set_self hlt, Option.some.injEq] at hi
      exact hi ▸ ⟨rfl, rfl⟩
    · rw [List.getElem?_set_ne (Ne.symm hne)] at hi
      exact ⟨hr k (List.mem_of_getElem? hi), hend i k hi hne⟩
  rw [exec_vpend_block h c hp]
  exact (if_pos (List.all_eq_true.mpr fun k hk => by simp [(cases k hk).2])).trans
    (congrArg _ (levelEnd_last hl fun k hk => (cases k hk).1))

end

/-! ### The words that a block does not admit (R115) -/

/-- A word of the scalar classes, whatever its operands and the state. -/
def Scalar (i : Instr) : Prop := ∃ f, ∀ s, exec i s = scal s f

theorem scalar_of_aluOf {i : Instr} (h : (aluOf i).isSome = true) : Scalar i := by
  unfold aluOf at h
  split at h
  case h_27 => cases h
  all_goals exact ⟨_, fun _ => rfl⟩
theorem scalar_of_immOf {i : Instr} (h : (immOf i).isSome = true) : Scalar i := by
  unfold immOf at h
  split at h
  case h_11 => cases h
  all_goals exact ⟨_, fun _ => rfl⟩
theorem scalar_of_branchOf {i : Instr} (h : (branchOf i).isSome = true) : Scalar i := by
  unfold branchOf at h
  split at h
  case h_7 => cases h
  all_goals exact ⟨_, fun _ => rfl⟩
theorem scalar_of_loadOf {i : Instr} (h : (loadOf i).isSome = true) : Scalar i := by
  unfold loadOf at h
  split at h
  case h_4 => cases h
  all_goals exact ⟨_, fun _ => rfl⟩
theorem scalar_of_storeOf {i : Instr} (h : (storeOf i).isSome = true) : Scalar i := by
  unfold storeOf at h
  split at h
  case h_3 => cases h
  all_goals exact ⟨_, fun _ => rfl⟩
theorem scalar_of_amoOf {i : Instr} (h : (amoOf i).isSome = true) : Scalar i := by
  unfold amoOf at h
  split at h
  case h_11 => cases h
  all_goals exact ⟨_, fun _ => rfl⟩

theorem exec_scalar_in_block {i : Instr} (hi : Scalar i) {s : State} (h : s.group.isSome = true) :
    exec i s = .next (raise s (trapIll 9)) := by
  obtain ⟨f, hf⟩ := hi
  rw [hf, scal_of_block h]

/-- Settles O44: a VPCTL word acts on the stream outside a block and on the running group inside one; the scalar words are all words of
`scal`, which a block does not admit. -/
theorem blockWords : Obligations.BlockWords := by
  unfold Obligations.BlockWords
  refine ⟨fun s cv o h hc => ⟨exec_vfetch_empty h hc o, exec_vfetch_open h hc o⟩, fun s c a o h hc => ?_, fun s b g h => ?_,
    fun s i hg hi => ?_⟩
  · rw [exec_vpbr, exec_vpjoin, exec_vpend, execVpbr, execVpjoin, execVpend]
    exact ⟨vpctl_place h hc, vpctl_place h hc, vpctl_place h hc⟩
  · refine ⟨exec_vfetch_level h, fun c a o => ⟨fun hall => ?_, fun hsome hnone => ?_, fun hsome hnone hroom => ?_,
        fun hsome hnone hfull => ?_⟩,
      fun c => ⟨exec_vpjoin_alone h c, exec_vpjoin_waits h c, fun j k hs hj hk hw => exec_vpjoin_reunites h c hs hj hk hw⟩,
      fun c hp ⟨i, k, hi, hne, hl, hk⟩ => exec_vpend_waits h c hp hi hne hl hk, fun c a hp hl hr hend => exec_vpend_ends h c hp hl hr hend⟩
    all_goals rw [exec_vpbr_block h]
    · exact if_pos hall
    · exact (if_neg hsome).trans (if_pos hnone)
    · exact (if_neg hsome).trans ((if_neg hnone).trans (if_neg (Nat.not_le.mpr hroom)))
    · exact (if_neg hsome).trans ((if_neg hnone).trans (if_pos hfull))
  · refine exec_scalar_in_block ?_ hg
    rcases hi with hi | hi | hi | hi | hi | hi
    · exact scalar_of_aluOf hi
    · exact scalar_of_immOf hi
    · exact scalar_of_branchOf hi
    · exact scalar_of_loadOf hi
    · exact scalar_of_storeOf hi
    · exact scalar_of_amoOf hi

end Sys2Proof.Laws
end

section
/-! SUPPORT. Elements below a byte: the bits that each takes, and a byte updated once for all the elements that it holds (R38, R113). -/
namespace Sys2Proof.Laws
open Sys2Proof Sys2Proof.Machine Sys2Proof.Stmt

/-! ### The bits of an element in its byte -/

/-- Bit i of a byte is one of element e of width w. -/
def holds (w e i : Nat) : Bool := decide (e * w % 8 ≤ i ∧ i < e * w % 8 + w)

theorem testBit_bitMerge (w e v old i : Nat) :
    (bitMerge w e v old).testBit i = if holds w e i then v.testBit (i - e * w % 8) else old.testBit i := by
  have hlow : old % 2 ^ (e * w % 8) < 2 ^ (e * w % 8) := Nat.mod_lt _ (by positivity)
  have hmid : v % 2 ^ w < 2 ^ w := Nat.mod_lt _ (by positivity)
  have hform : bitMerge w e v old = 2 ^ (e * w % 8) * (2 ^ w * (old / 2 ^ (e * w % 8) / 2 ^ w) + v % 2 ^ w) + old % 2 ^ (e * w % 8) := by
    simp only [bitMerge, Nat.div_div_eq_div_mul]
    ring
  rw [hform, Nat.testBit_two_pow_mul_add _ hlow]
  by_cases hi : i < e * w % 8
  · have : holds w e i = false := by simp [holds]; omega
    rw [if_pos hi, this, Nat.testBit_mod_two_pow]
    simp [hi]
  · rw [if_neg hi, Nat.testBit_two_pow_mul_add _ hmid]
    by_cases hw : i - e * w % 8 < w
    · have : holds w e i = true := by simp [holds]; omega
      rw [if_pos hw, this, Nat.testBit_mod_two_pow]
      simp [hw]
    · have : holds w e i = false := by simp [holds]; omega
      rw [if_neg hw, this, Nat.testBit_div_two_pow, Nat.testBit_div_two_pow]
      simp only [Bool.false_eq_true, if_false]
      congr 1
      omega

/-- A byte with the elements listed replaced, one after another. -/
def merged (w : Nat) (bits : Nat → Nat) (es : List Nat) (old : Nat) : Nat := es.foldl (fun v e => bitMerge w e (bits e) v) old

/-- The bits that the elements listed hold. -/
def maskOf (w : Nat) (es : List Nat) : Nat := merged w (fun _ => 2 ^ w - 1) es 0

theorem testBit_merged (w : Nat) (bits : Nat → Nat) (i : Nat) : ∀ (es : List Nat) (mask put old base : Nat),
    old.testBit i = (if mask.testBit i then put.testBit i else base.testBit i) →
    (merged w bits es old).testBit i = if (merged w (fun _ => 2 ^ w - 1) es mask).testBit i then (merged w bits es put).testBit i
      else base.testBit i
  | [], _, _, _, _, h => h
  | e :: es, mask, put, old, base, h => by
    refine testBit_merged w bits i es _ _ _ base ?_
    simp only [testBit_bitMerge]
    by_cases hh : holds w e i = true
    · have hw : i - e * w % 8 < w := by simp [holds] at hh; omega
      have hone : (2 ^ w - 1).testBit (i - e * w % 8) = true := by simp [Nat.testBit_two_pow_sub_one, hw]
      simp only [hh, if_true, hone]
    · simp only [hh, h]
      simp

/-- Elements replaced in a byte: the bits that they hold from nothing, every other bit as it was. -/
theorem testBit_merged_zero (w : Nat) (bits : Nat → Nat) (es : List Nat) (old i : Nat) :
    (merged w bits es old).testBit i = if (maskOf w es).testBit i then (merged w bits es 0).testBit i else old.testBit i :=
  testBit_merged w bits i es 0 0 old old (by simp)

theorem testBit_maskOf (w i : Nat) : ∀ (es : List Nat), (maskOf w es).testBit i = es.any fun e => holds w e i := by
  have key : ∀ (es : List Nat) (m : Nat), (merged w (fun _ => 2 ^ w - 1) es m).testBit i = (m.testBit i || es.any fun e => holds w e i) := by
    intro es
    induction es with
    | nil => intro m; simp [merged]
    | cons e es ih =>
      intro m
      refine (ih _).trans ?_
      rw [testBit_bitMerge, List.any_cons]
      by_cases hh : holds w e i = true
      · have hw : i - e * w % 8 < w := by simp [holds] at hh; omega
        simp [hh, Nat.testBit_two_pow_sub_one, hw]
      · simp [hh]
  exact fun es => (key es 0).trans (by simp)

theorem lt_of_holds {w e i : Nat} (hw : w ∣ 8) (h : holds w e i = true) : i < 8 := by
  obtain ⟨k, hk⟩ := hw
  simp only [holds, decide_eq_true_eq] at h
  have hdvd : w ∣ e * w % 8 := (Nat.dvd_mod_iff ⟨k, hk⟩).mpr (Dvd.intro_left e rfl)
  obtain ⟨j, hj⟩ := hdvd
  have hlt : e * w % 8 < 8 := Nat.mod_lt _ (by decide)
  rw [hj] at h hlt
  rw [hk] at hlt ⊢
  have hjk : j < k := Nat.lt_of_mul_lt_mul_left hlt
  have : w * (j + 1) ≤ w * k := Nat.mul_le_mul_left w hjk
  rw [Nat.mul_succ] at this
  omega

/-- One update of the byte under the mask of its elements is that of its elements one after another. -/
theorem byte_masked {w : Nat} (hw : w ∣ 8) (bits : Nat → Nat) (es : List Nat) (old : Nat) :
    ((old &&& (2 ^ (8 * 1) - 1 - maskOf w es)) ||| (merged w bits es 0 &&& maskOf w es)) % 2 ^ 8 = merged w bits es old % 2 ^ 8 := by
  have hlt : maskOf w es < 2 ^ 8 := Nat.lt_pow_two_of_testBit _ fun i hi => by
    rw [testBit_maskOf]
    refine List.any_eq_false.mpr fun e _ h => ?_
    have := lt_of_holds hw h
    omega
  refine Nat.eq_of_testBit_eq fun i => ?_
  rw [Nat.testBit_mod_two_pow, Nat.testBit_mod_two_pow, testBit_merged_zero, Nat.testBit_or, Nat.testBit_and, Nat.testBit_and,
    show 2 ^ (8 * 1) - 1 - maskOf w es = 2 ^ 8 - (maskOf w es + 1) by omega, Nat.testBit_two_pow_sub_succ hlt]
  cases decide (i < 8) <;> cases (maskOf w es).testBit i <;> simp

/-- A byte of which every bit is held holds nothing of what stood there. -/
theorem byte_full {w : Nat} (bits : Nat → Nat) {es : List Nat} (old : Nat) (hfull : ∀ i, i < 8 → (maskOf w es).testBit i = true) :
    merged w bits es 0 % 2 ^ 8 = merged w bits es old % 2 ^ 8 := by
  refine Nat.eq_of_testBit_eq fun i => ?_
  rw [Nat.testBit_mod_two_pow, Nat.testBit_mod_two_pow, testBit_merged_zero w bits es old]
  by_cases hi : i < 8
  · rw [hfull i hi, if_pos rfl]
  · simp [hi]

/-- As many elements of a byte as it has places for hold every bit of it. -/
theorem mask_full {w b : Nat} (hw : w ∣ 8) {es : List Nat} (hes : es.Nodup) (hb : ∀ e ∈ es, e / (8 / w) = b) (hn : es.length = 8 / w) :
    ∀ i, i < 8 → (maskOf w es).testBit i = true := by
  obtain ⟨k, hk⟩ := hw
  have hpos : 0 < w := Nat.pos_of_ne_zero (by rintro rfl; simp at hk)
  have hkpos : 0 < k := Nat.pos_of_ne_zero (by rintro rfl; simp at hk)
  have hdiv : 8 / w = k := by rw [hk, Nat.mul_div_cancel_left _ hpos]
  rw [hdiv] at hn hb
  intro i hi
  have hall : es.toFinset = Finset.Ico (b * k) (b * k + k) := by
    refine Finset.eq_of_subset_of_card_le (fun e he => ?_) ?_
    · have := hb e (List.mem_toFinset.mp he)
      have hlo := Nat.div_mul_le_self e k
      have hhi := Nat.lt_div_mul_add (a := e) hkpos
      rw [this] at hlo hhi
      exact Finset.mem_Ico.mpr ⟨hlo, hhi⟩
    · rw [Nat.card_Ico, List.toFinset_card_of_nodup hes, hn]
      omega
  have hik : i / w < k := by
    rw [Nat.div_lt_iff_lt_mul hpos, Nat.mul_comm, ← hk]
    exact hi
  have hmem : b * k + i / w ∈ es := List.mem_toFinset.mp (hall ▸ Finset.mem_Ico.mpr ⟨Nat.le_add_right _ _, by omega⟩)
  rw [testBit_maskOf]
  refine List.any_eq_true.mpr ⟨_, hmem, ?_⟩
  have hoff : (b * k + i / w) * w % 8 = i / w * w := by
    have : (b * k + i / w) * w = i / w * w + 8 * b := by
      rw [Nat.add_mul, Nat.mul_assoc, Nat.mul_comm k w, ← hk]
      omega
    rw [this, Nat.add_mul_mod_self_left, Nat.mod_eq_of_lt (Nat.lt_of_le_of_lt (Nat.div_mul_le_self i w) hi)]
  have hlo := Nat.div_mul_le_self i w
  have hhi := Nat.lt_div_mul_add (a := i) hpos
  simp only [holds, hoff, decide_eq_true_eq]
  omega

/-! ### Elements grouped by their byte -/

/-- The elements of one group, which come first, and the others after them. -/
theorem filter_first {f : Nat → Nat} {b : Nat} : ∀ {es : List Nat}, es.Pairwise (fun i j => f i ≤ f j) → (∀ e ∈ es, b ≤ f e) →
    es.filter (fun e => f e = b) ++ es.filter (fun e => f e ≠ b) = es
  | [], _, _ => rfl
  | e :: es, hs, hb => by
    obtain ⟨hle, hs⟩ := List.pairwise_cons.mp hs
    have ih := filter_first hs fun e he => hb e (List.mem_cons_of_mem _ he)
    by_cases he : f e = b
    · simpa [he] using ih
    · have hlt : b < f e := Nat.lt_of_le_of_ne (hb e (by simp)) (Ne.symm he)
      have hne : ∀ i ∈ es, f i ≠ b := fun i hi => by have := hle i hi; omega
      have hnone : es.filter (fun e => f e = b) = [] := List.filter_eq_nil_iff.mpr fun i hi => by simp [hne i hi]
      have hall : es.filter (fun e => f e ≠ b) = es := List.filter_eq_self.mpr fun i hi => by simp [hne i hi]
      rw [List.filter_cons_of_neg (by simp [he]), List.filter_cons_of_pos (by simp [he]), hnone, hall]
      rfl

/-- Group by group, in the order in which the groups first occur, rising elements stand as they stood. -/
theorem flatMap_groups (f : Nat → Nat) : ∀ (n : Nat) (es : List Nat), es.length ≤ n → es.Pairwise (fun i j => f i ≤ f j) →
    ((es.map f).eraseDups).flatMap (fun b => es.filter fun e => f e = b) = es
  | _, [], _, _ => rfl
  | n + 1, e :: es, hn, hs => by
    have hlow : ∀ i ∈ e :: es, f e ≤ f i := by
      intro i hi
      rcases List.mem_cons.mp hi with rfl | hi
      · exact Nat.le_refl _
      · exact (List.pairwise_cons.mp hs).1 i hi
    have hrest : (es.map f).filter (fun b => !b == f e) = ((e :: es).filter (fun i => f i ≠ f e)).map f := by
      rw [List.filter_cons_of_neg (by simp), List.filter_map]
      refine congrArg (List.map f) (List.filter_congr fun i _ => ?_)
      by_cases h : f i = f e <;> simp [h]
    have hsub : ((e :: es).filter (fun i => f i ≠ f e)).length ≤ n := by
      rw [List.filter_cons_of_neg (by simp)]
      have := List.length_filter_le (fun i => decide (f i ≠ f e)) es
      simp only [List.length_cons] at hn
      omega
    have ih := flatMap_groups f n _ hsub (hs.filter _)
    have hgroup : ∀ b ∈ (((e :: es).filter (fun i => f i ≠ f e)).map f).eraseDups,
        (e :: es).filter (fun i => f i = b) = ((e :: es).filter (fun i => f i ≠ f e)).filter (fun i => f i = b) := by
      intro b hb
      obtain ⟨j, hj, rfl⟩ := List.mem_map.mp (List.mem_eraseDups.mp hb)
      have hne : f j ≠ f e := by simpa using (List.mem_filter.mp hj).2
      rw [List.filter_filter]
      refine List.filter_congr fun i _ => ?_
      by_cases h : f i = f j <;> simp [h, hne]
    rw [List.map_cons, List.eraseDups_cons, List.flatMap_cons, hrest]
    rw [List.flatMap_congr hgroup, ih]
    exact filter_first hs hlow

end Sys2Proof.Laws
end
section
/-! SUPPORT. The bytes at a place: read and written, by a state and by the statements; a byte updated once or element by element. -/
namespace Sys2Proof.Laws
open Sys2Proof Sys2Proof.Machine Sys2Proof.Stmt

/-! ### One byte written twice -/

theorem erase_insertCell (a : Nat) (v : BitVec 8) : ∀ m : Memory, (Memory.insertCell a v m).erase a = m.erase a
  | [] => by simp [Memory.insertCell, Memory.erase]
  | c :: m => by
    have ih := erase_insertCell a v m
    simp only [Memory.erase] at ih
    simp only [Memory.insertCell, Memory.erase]
    split
    · simp
    · simp only [List.filter_cons, ih]
theorem erase_erase (m : Memory) (a : Nat) : (m.erase a).erase a = m.erase a := by simp [Memory.erase]
theorem erase_write (m : Memory) (a : Nat) (v : BitVec 8) : (m.write a v).erase a = m.erase a := by
  unfold Memory.write
  split
  · exact erase_erase m a
  · rw [erase_insertCell, erase_erase]
theorem write_of_erase {m k : Memory} {a : Nat} (h : m.erase a = k.erase a) (w : BitVec 8) : m.write a w = k.write a w := by
  simp only [Memory.write, h]
theorem write_write (m : Memory) (a : Nat) (v w : BitVec 8) : (m.write a v).write a w = m.write a w :=
  write_of_erase (erase_write m a v) w

/-! ### A place -/

theorem put_put_byte (m : Bytes) (l : Loc) (x y : Nat) : (m.put l 1 x).put l 1 y = m.put l 1 y := by
  cases l <;> simp only [Bytes.put, Memory.writeN, write_write]
theorem put_mod_byte (m : Bytes) (l : Loc) (x : Nat) : m.put l 1 (x % 2 ^ 8) = m.put l 1 x := by
  have hx : BitVec.ofNat 8 (x % 2 ^ 8) = BitVec.ofNat 8 x := BitVec.eq_of_toNat_eq (by simp)
  cases l <;> simp only [Bytes.put, Memory.writeN, hx]
/-- A byte written reads back, but where nothing is. -/
theorem put_get_byte (m : Bytes) (l : Loc) (x : Nat) (f : Nat → Nat) (hf : ∀ a, f (a % 2 ^ 8) % 2 ^ 8 = f a % 2 ^ 8) :
    m.put l 1 (f ((m.put l 1 x).get l 1)) = m.put l 1 (f x) := by
  rw [← put_mod_byte m l (f x), ← hf, ← put_mod_byte m l (f ((m.put l 1 x).get l 1))]
  cases l with
  | hole => rfl
  | _ => simp only [Bytes.get, Bytes.put, readN_writeN, Nat.mul_one]

section
variable {s : State} {v : Via} (hv : v.prov = false)
include hv

/-- Outside a provisional gang a state reads and writes the bytes of a place (R280). -/
theorem peek_eq (l : Loc) (n : Nat) : s.peek v l n = (bytesOf s).get l n := by
  cases l with
  | phys pa ty => exact physN_of_memory s hv n pa
  | sram a | hole | image pa a => rfl
theorem bytesOf_poke (l : Loc) (n x : Nat) : bytesOf (s.poke v l n x) = (bytesOf s).put l n x := by
  cases l with
  | phys pa ty => simp only [State.poke, hv, Bool.false_eq_true, if_false, bytesOf, Bytes.put]
  | sram a | hole | image pa a => rfl

end

theorem bytesOf_stored (s : State) (v : Via) (l : Loc) (w : Option Who) : bytesOf (s.stored v l w) = bytesOf s := by
  rw [bytesOf, stored_mem, stored_sram, bytesOf]

/-! ### Elements below a byte -/

theorem bitMerge_mod (w e v old : Nat) : bitMerge w e v (old % 2 ^ 8) % 2 ^ 8 = bitMerge w e v old % 2 ^ 8 := by
  refine Nat.eq_of_testBit_eq fun i => ?_
  simp only [Nat.testBit_mod_two_pow, testBit_bitMerge]
  by_cases hi : i < 8
  · simp [hi]
  · simp [hi]
theorem putElem_bits {w : Nat} (hw : w < 8) (m : Bytes) (l : Loc) (e v : Nat) :
    m.putElem l w e v = m.put l 1 (bitMerge w e v (m.get l 1)) := by
  rw [Bytes.putElem, if_pos hw]
  rfl
theorem putElem_bytes {w : Nat} (hw : 8 ≤ w) (m : Bytes) (l : Loc) (e v : Nat) : m.putElem l w e v = m.put l (w / 8) v := by
  rw [Bytes.putElem, if_neg (Nat.not_lt.mpr hw)]

/-- Elements stored one after another into one byte: the byte with all of them replaced. -/
theorem foldl_putElem {w : Nat} (hlt : w < 8) (l : Loc) (bits : Nat → Nat) : ∀ (es : List Nat) (m : Bytes), es ≠ [] →
    es.foldl (fun m e => m.putElem l w e (bits e)) m = m.put l 1 (merged w bits es (m.get l 1))
  | [e], m, _ => putElem_bits hlt m l e (bits e)
  | e :: i :: es, m, _ => by
    rw [List.foldl_cons, foldl_putElem hlt l bits (i :: es) _ (by simp), putElem_bits hlt, put_put_byte]
    refine (put_get_byte m l _ (merged w bits (i :: es)) fun a => ?_)
    have key : ∀ (es : List Nat) (a b : Nat), a % 2 ^ 8 = b % 2 ^ 8 → merged w bits es a % 2 ^ 8 = merged w bits es b % 2 ^ 8 := by
      intro es
      induction es with
      | nil => exact fun _ _ h => h
      | cons e es ih => exact fun a b h => ih _ _ (by rw [← bitMerge_mod w e _ a, h, bitMerge_mod w e _ b])
    exact key _ _ _ (Nat.mod_mod a _)

end Sys2Proof.Laws
end
section
/-! SUPPORT. What the stores of the vector side leave, and that they leave the reach of the accesses after them. -/
namespace Sys2Proof.Laws
open Sys2Proof Sys2Proof.Machine Sys2Proof.Stmt

/-! ### What stores leave -/

/-- A CT but for its streams, its delayed stores and its kept moments. -/
def unstreamed (c : Ct) : Ct := { c with ex := .zero, ac := .zero, looks := [], sbuf := [], sbn := 0 }
theorem unstreamed_wake (c : Ct) (line : Nat) (now : Word) : unstreamed (c.wake line now) = unstreamed c := by
  unfold Ct.wake
  split <;> rfl

/-- What the stores of the vector side of the CT in focus leave: of the CTs the streams, but for their WAITs, and the rest, but for the
delayed stores in focus and what its kept moments know; of the package all but the poison of lines. -/
structure AfterStores (s t : State) : Prop where
  state : t = { s with
    ct := { s.ct with ex := t.ct.ex, ac := t.ct.ac, looks := t.ct.looks, sbuf := t.ct.sbuf, sbn := t.ct.sbn }
    others := t.others, sys := t.sys, mem := t.mem, sram := t.sram, pkg := { s.pkg with poison := t.pkg.poison } }
  ex : SameRegs t.ct.ex s.ct.ex
  ac : SameRegs t.ct.ac s.ct.ac
  looks : s.ct.looks = [] → t.ct.looks = []
  others : t.others.map unstreamed = s.others.map unstreamed

theorem afterStores_refl (s : State) : AfterStores s s :=
  ⟨rfl, sameRegs_refl _, sameRegs_refl _, id, rfl⟩
theorem AfterStores.trans {s t u : State} (h : AfterStores s t) (k : AfterStores t u) : AfterStores s u :=
  ⟨k.state.trans (by rw [h.state]), k.ex.trans h.ex, k.ac.trans h.ac, fun hs => k.looks (h.looks hs), k.others.trans h.others⟩

section
variable {s : State} {v : Via} (hv : v.prov = false)
include hv

theorem afterStores_poke (l : Loc) (n x : Nat) : AfterStores s (s.poke v l n x) := by
  refine ⟨?_, ?_, ?_, ?_, ?_⟩
  · cases l with
    | phys pa ty => simp only [State.poke, hv, Bool.false_eq_true, if_false]
    | sram a | hole | image pa a => rfl
  · rw [poke_ct]; exact sameRegs_refl _
  · rw [poke_ct]; exact sameRegs_refl _
  · rw [poke_ct]; exact id
  · rw [poke_others]
theorem afterStores_stored (l : Loc) (w : Option Who) : AfterStores s (s.stored v l w) := by
  have hwake : ∀ line, (s.others.map (·.wake line s.time)).map unstreamed = s.others.map unstreamed := fun line => by
    rw [List.map_map]
    exact List.map_congr_left fun c _ => unstreamed_wake c line s.time
  obtain ⟨hex, hac⟩ := stored_sameRegs s v l w
  refine ⟨?_, hex, hac, fun h => ?_, ?_⟩
  · cases l with
    | hole | sram a => rfl
    | phys pa ty => simp only [State.stored, hv, Bool.false_eq_true, if_false]; rfl
    | image pa a =>
      simp only [State.stored, State.wakeSaved]
      split <;> rfl
  · rw [stored_ct]
    exact h
  · cases l with
    | hole => rfl
    | sram a => exact hwake _
    | phys pa ty => simp only [State.stored, hv, Bool.false_eq_true, if_false]; exact hwake _
    | image pa a =>
      have hsaved : ((s.wakeLine (lineOf pa) w).wakeSaved v (sramLine a)).others.map unstreamed =
          (s.wakeLine (lineOf pa) w).others.map unstreamed := by
        rw [State.wakeSaved, List.map_map]
        refine List.map_congr_left fun c _ => ?_
        simp only [Function.comp]
        split <;> rfl
      exact hsaved.trans (hwake _)

end

theorem afterStores_note (s : State) (d : Side) (t : Nat) (l : Loc) (n : Nat) : AfterStores s (s.note d t l n) :=
  ⟨rfl, sameRegs_refl _, sameRegs_refl _, fun h => by simp only [State.note, h, List.map_nil], rfl⟩
theorem afterStores_delay (s : State) (e : SbEnt) : AfterStores s (s.delay e) :=
  ⟨rfl, sameRegs_refl _, sameRegs_refl _, fun h => by simp only [State.delay, State.note, h, List.map_nil], rfl⟩

theorem afterStores_wroteBy (s : State) (x : Ventry) (ws : List (Nat × Nat)) : AfterStores s (s.wroteBy x ws).1 := by
  simp only [State.wroteBy, State.clearPoison, State.clearLines]
  split
  · exact afterStores_refl s
  · split
    · exact afterStores_refl s
    · exact ⟨rfl, sameRegs_refl _, sameRegs_refl _, id, rfl⟩
theorem bytesOf_wroteBy (s : State) (x : Ventry) (ws : List (Nat × Nat)) : bytesOf (s.wroteBy x ws).1 = bytesOf s := by
  simp only [State.wroteBy, State.clearPoison, State.clearLines]
  split
  · rfl
  · split <;> rfl
theorem sbuf_wroteBy (s : State) (x : Ventry) (ws : List (Nat × Nat)) : (s.wroteBy x ws).1.ct.sbuf = s.ct.sbuf := by
  simp only [State.wroteBy, State.clearPoison, State.clearLines]
  split
  · rfl
  · split <;> rfl

/-! ### A store of the vector side performed at once -/

/-- A store of the vector side, of all bits or of those of a mask. -/
def vecEnt (id : Nat) (l : Loc) (n : Nat) (mask : Option Nat) (x : Nat) : SbEnt := ⟨.vec, id, false, none, l, n, mask, x⟩

section
variable {s : State} (hp : s.ct.prov = false) (hb : ∀ e ∈ s.ct.sbuf, e.side ≠ .vec) (id : Nat) (l : Loc) (n : Nat) (mask : Option Nat) (x : Nat)
include hb

/-- It follows no store of another side (R323). -/
theorem storeNow_vec : s.storeNow (vecEnt id l n mask x) =
    (s.performEnt (vecEnt id l n mask x)).note .vec s.moment l n := by
  have hnone : ∀ e ∈ s.ct.sbuf, (vecEnt id l n mask x).follows e = false := fun e he => by
    have : ((Side.vec : Side) == e.side) = false := by simpa using (hb e he).symm
    simp [SbEnt.follows, vecEnt, this]
  rw [State.storeNow, flush_of_none hnone]
  rfl

include hp

theorem afterStores_storeNow : AfterStores s (s.storeNow (vecEnt id l n mask x)) := by
  rw [storeNow_vec hb]
  exact ((afterStores_poke (v := s.ct.via) hp l n _).trans (afterStores_stored (v := s.ct.via) hp l none)).trans (afterStores_note ..)
theorem bytesOf_storeNow : bytesOf (s.storeNow (vecEnt id l n mask x)) =
    (bytesOf s).put l n ((vecEnt id l n mask x).val ((bytesOf s).get l n)) := by
  rw [storeNow_vec hb, ← peek_eq (v := s.ct.via) hp, ← bytesOf_poke (v := s.ct.via) hp]
  exact bytesOf_stored ..
omit hp in
theorem sbuf_storeNow : (s.storeNow (vecEnt id l n mask x)).ct.sbuf = s.ct.sbuf := by
  rw [storeNow_vec hb, note_ct_sbuf, performEnt_ct]

end

/-! ### The reach of an access -/

section
variable {s : State} {n : Nat} {k : Kind} {ok : Nat → Bool} {a : Word} {l : Loc}

/-- An access depends on the place of the CT, its copies and its watermark bindings. -/
theorem reaches_withCt {c : Ct} (h : SamePlace c s.ct) (hw : c.wmb = s.ct.wmb) (hr : Reaches s n k ok a l) :
    Reaches { s with ct := c } n k ok a l := by
  have hline : ∀ m j, ({ s with ct := c } : State).lineClaimed m j = s.lineClaimed m j := fun m j => by
    simp only [State.lineClaimed, State.cts, List.any_cons, h.copies]
  have htables : ({ s with ct := c } : State).tableLines s.ct.via a = s.tableLines s.ct.via a := rfl
  obtain ⟨hwalk, hplace, hty, hclaim, hpoison, hmark⟩ := hr
  refine ⟨?_, ?_, hty, ?_, hpoison, fun hk => ?_⟩
  · simp only [State.walkHeld, via_of_samePlace h, htables, hline]
    exact hwalk
  · rw [resolve_of_samePlace h, via_of_samePlace h]
    exact hplace
  · rw [via_of_samePlace h, ← hclaim]
    unfold State.claimed
    cases l <;> simp only [hline] <;> rfl
  · rw [← hmark hk, ← hw]
    rfl

theorem AfterStores.samePlace {t : State} (h : AfterStores s t) : SamePlace t.ct s.ct := by
  rw [h.state]
  exact ⟨rfl, rfl, rfl, rfl, rfl, rfl, rfl, rfl, rfl⟩
/-- A property of CTs in which their streams take no part holds of the same CTs. -/
theorem AfterStores.any_cts {t : State} (h : AfterStores s t) (q : Ct → Bool) (hq : ∀ c, q (unstreamed c) = q c) :
    t.cts.any q = s.cts.any q := by
  have key : ∀ cs : List Ct, cs.any q = (cs.map unstreamed).any q := fun cs => by
    rw [List.any_map]
    exact congrArg (fun f => cs.any f) (funext fun c => (hq c).symm)
  have hct : q t.ct = q s.ct := by
    rw [← hq t.ct, ← hq s.ct, h.state]
    rfl
  rw [State.cts, State.cts, List.any_cons, List.any_cons, hct, key t.others, h.others, ← key]

theorem AfterStores.lineClaimed {t : State} (h : AfterStores s t) (m : Nat) (j : Kind) : t.lineClaimed m j = s.lineClaimed m j := by
  rw [State.lineClaimed, h.any_cts _ fun _ => rfl, State.lineClaimed, h.state]

/-- An access whose translation no store can change reaches the same place after stores (R150, R151, R153). -/
theorem AfterStores.resolve {t : State} (h : AfterStores s t) (hf : Fixed s a) (hs : s.ct.via.saved = false) :
    t.resolve t.ct.via a n k = s.resolve s.ct.via a n k := by
  rw [via_of_samePlace h.samePlace]
  have held := fun core slot => h.any_cts (fun c => c.inSlot && c.id = ctidOf core slot &&
    (!s.ct.via.saved || (c.launch = s.ct.via.launch && c.gang = s.ct.via.gang))) fun _ => rfl
  simp only [hs] at held
  have hss : ∀ core slot, t.ssOf core slot = s.ssOf core slot := fun _ _ => by rw [h.state]; rfl
  have hhome : ∀ pa, t.home pa = s.home pa := fun _ => by rw [h.state]; rfl
  have hpool : ∀ pa, t.poolHidden s.ct.via pa = s.poolHidden s.ct.via pa := fun _ => by rw [h.state]; rfl
  have hplot : t.plotOf s.ct.via.plot = s.plotOf s.ct.via.plot := by rw [h.state]; rfl
  have hpa : ∀ r pa ty, t.paOk r pa ty = s.paOk r pa ty := fun _ _ _ => by rw [h.state]; rfl
  have hleaf : ¬ clusterBase ≤ va55 a → t.leafFor s.ct.via (va55 a) = s.leafFor s.ct.via (va55 a) := fun hw => by
    obtain ⟨e, he⟩ := Option.isSome_iff_exists.mp (hf.resolve_left hw)
    have : t.tlbAt (coreOf s.ct.id) s.ct.plot s.ct.aspace (va55 a) = some e := by rw [h.state]; exact he
    simp only [State.leafFor, Ct.via, Option.bind_some, this, he]
  unfold State.resolve
  by_cases hw : clusterBase ≤ va55 a
  · simp only [hs, held, hss, hw, if_true, Bool.false_eq_true, if_false]
  · simp only [hs, hss, hw, hleaf hw, hpool, hplot, hpa, hhome, if_false, Bool.false_eq_true]

/-- A store that no store before it can send elsewhere goes where it went. -/
theorem AfterStores.reaches {t : State} (h : AfterStores s t) (hf : Fixed s a) (hs : s.ct.status = .running) (hp : s.ct.prov = false)
    (hr : Reaches s n .store ok a l) : Reaches t n .store ok a l := by
  obtain ⟨-, hplace, hty, hclaim, -⟩ := hr
  have hvia := via_of_samePlace h.samePlace
  have htables : t.tableLines t.ct.via a = [] := by
    rw [hvia]
    refine if_pos ?_
    rcases hf with hf | hf
    · simp [hf]
    · have : (t.tlbAt (coreOf s.ct.id) s.ct.plot s.ct.aspace (va55 a)).isSome = true := by rw [h.state]; exact hf
      simp [Ct.via, this]
  refine ⟨?_, ?_, hty, ?_, fun hk => absurd rfl hk, nofun⟩
  · rw [State.walkHeld, htables]
    rfl
  · rw [h.resolve hf (by simp [Ct.via, hs])]
    exact hplace
  · rw [hvia, ← hclaim]
    unfold State.claimed
    have hprov : s.ct.via.prov = false := hp
    cases l <;> simp only [h.lineClaimed, hprov, Bool.false_and]

end

end Sys2Proof.Laws
end
section
/-! SUPPORT. A vector memory word whose accesses all reach memory: its plan, which nothing holds back, and its stores in rising order, at
once or delayed. -/
namespace Sys2Proof.Laws
open Sys2Proof Sys2Proof.Machine Sys2Proof.Stmt

/-! ### The plan of an element -/

section
variable {s : State} {n : Nat} {k : Kind} {dev : Nat → Bool} {a : Word} {l : Loc}

theorem beyond_of_reaches (h : Reaches s n k dev a l) : s.beyond s.ct.via l n k = none := by
  obtain ⟨-, -, hty, -⟩ := h
  unfold State.beyond
  cases l with
  | phys pa ty => simp [(hty pa ty rfl).2]
  | sram a | hole | image pa a => rfl
theorem readsBad_of_reaches (h : Reaches s n k dev a l) (hk : k ≠ .store) : s.readsBad s.ct.via l n = false := by
  obtain ⟨-, -, -, -, hpoison, -⟩ := h
  unfold State.readsBad
  cases l with
  | phys pa ty => exact Bool.and_eq_false_imp.mpr fun hp => absurd (hpoison hk) (by simp [State.poisonedAt, Loc.line]; exact hp)
  | sram a | hole | image pa a => exact hpoison hk
theorem vplace_of_reaches (h : Reaches s n k dev a l) (ask : DevAsk) : s.vplace a n k dev ask = .ok l := by
  have hbeyond := beyond_of_reaches h
  have hbad : (decide (k ≠ .store) && s.readsBad s.ct.via l n) = false := by
    by_cases hk : k = .store
    · simp [hk]
    · simp [readsBad_of_reaches h hk]
  obtain ⟨-, hplace, hty, -⟩ := h
  have hdev : (match l with | .phys _ ty => !dev ty | _ => false) = false := by
    cases l with
    | phys pa ty => simp [(hty pa ty rfl).1]
    | sram a | hole | image pa a => rfl
  simp only [State.vplace, hplace, hbeyond, hbad]
  cases l <;> simp_all

/-- The plan of an element whose accesses all reach memory. -/
def donePlan (loc : Nat → Word → Loc) (e : Nat) (as : List (Nat × Word × DevAsk)) : ElemPlan :=
  ⟨e, as.map fun a => (a.1, a.2.1, loc a.1 a.2.1, a.2.2), []⟩

theorem elemPlan_of_reaches {loc : Nat → Word → Loc} (e : Nat) {as : List (Nat × Word × DevAsk)}
    (h : ∀ a ∈ as, Reaches s n k dev a.2.1 (loc a.1 a.2.1)) : s.elemPlan n k dev e as = donePlan loc e as := by
  have key : ∀ (as : List (Nat × Word × DevAsk)) (ok : List (Nat × Word × Loc × DevAsk)),
      (∀ a ∈ as, Reaches s n k dev a.2.1 (loc a.1 a.2.1)) →
      as.foldl (fun (p : ElemPlan) a => match s.vplace a.2.1 n k dev a.2.2 with
        | .ok l => { p with ok := p.ok ++ [(a.1, a.2.1, l, a.2.2)] }
        | .error c => { p with bad := p.bad ++ [(c, a.2.1)] }) ⟨e, ok, []⟩ =
      ⟨e, ok ++ as.map fun a => (a.1, a.2.1, loc a.1 a.2.1, a.2.2), []⟩ := by
    intro as
    induction as with
    | nil => intro ok _; simp
    | cons a as ih =>
      intro ok h
      rw [List.foldl_cons, vplace_of_reaches (h a (by simp)), ih _ fun b hb => h b (by simp [hb])]
      simp
  exact key as [] h

/-- What the accesses of an element ask does not change which they are. -/
theorem mem_asks {e : Nat} {as : List (Nat × Word)} {op : Nat → ReqOp} {a : Nat × Word × DevAsk} (h : a ∈ asks s e as op) :
    (a.1, a.2.1) ∈ as := by
  obtain ⟨i, hi, rfl⟩ := List.mem_mapIdx.mp h
  exact List.getElem_mem hi
theorem map_asks (e : Nat) (as : List (Nat × Word)) (op : Nat → ReqOp) : (asks s e as op).map (fun a => (a.1, a.2.1)) = as :=
  List.ext_getElem (by simp [asks]) fun i _ _ => by simp [asks]
theorem foldl_unmoved {α β : Type} {f : α → β → α} {x : α} : ∀ {ys : List β}, (∀ y ∈ ys, f x y = x) → ys.foldl f x = x
  | [], _ => rfl
  | y :: ys, h => by
    rw [List.foldl_cons, h y (by simp)]
    exact foldl_unmoved fun z hz => h z (by simp [hz])

/-- Nothing holds back a word all of whose accesses reach memory (R261, R273, R281). -/
theorem planStalls_of_reaches {ps : List ElemPlan} (hp : s.ct.prov = false)
    (h : ∀ p ∈ ps, p.bad = [] ∧ ∀ q ∈ p.ok, Reaches s n k dev q.2.1 q.2.2.1 ∧ s.vecFree q.2.2.1 n k = true) :
    s.planStalls s.ct.wmb n k ps = none := by
  have hqs : ∀ q ∈ ps.flatMap (fun p => if p.bad.isEmpty then p.ok else []),
      Reaches s n k dev q.2.1 q.2.2.1 ∧ s.vecFree q.2.2.1 n k = true := by
    intro q hq
    obtain ⟨p, hps, hq⟩ := List.mem_flatMap.mp hq
    obtain ⟨hbad, hok⟩ := h p hps
    rw [hbad] at hq
    exact hok q hq
  have hwalk : ps.any (fun p => (p.ok.map (·.2.1) ++ p.bad.map (·.2)).any (s.walkHeld s.ct.via)) = false := by
    refine List.any_eq_false.mpr fun p hps => ?_
    obtain ⟨hbad, hok⟩ := h p hps
    rw [hbad, List.map_nil, List.append_nil, Bool.not_eq_true]
    refine List.any_eq_false.mpr fun a ha => ?_
    obtain ⟨q, hq, rfl⟩ := List.mem_map.mp ha
    obtain ⟨⟨hw, -⟩, -⟩ := hok q hq
    simpa using hw
  have hprov : s.ct.via.prov = false := hp
  rw [State.planStalls]
  generalize ps.flatMap (fun p => if p.bad.isEmpty then p.ok else []) = qs at hqs ⊢
  have hheld : qs.any (fun q => s.claimed s.ct.via q.2.2.1 n k || !s.vecFree q.2.2.1 n k ||
      (decide (k = .load) && wmHolds s s.ct.wmb q.2.1 n)) = false := by
    refine List.any_eq_false.mpr fun q hq => ?_
    obtain ⟨⟨-, -, -, hclaim, -, hmark⟩, hfree⟩ := hqs q hq
    by_cases hk : k = .load
    · simp [hclaim, hfree, hmark hk]
    · simp [hclaim, hfree, hk]
  have hdev : ∀ q ∈ qs, s.beyond s.ct.via q.2.2.1 n k = none := fun q hq => beyond_of_reaches (hqs q hq).1
  have hno : qs.any (fun q => provStalls s s.ct.via q.2.1 q.2.2.1 k) = false :=
    List.any_eq_false.mpr fun q _ => by simp [provStalls, hprov]
  simp only [hwalk, hno, hheld, Bool.false_eq_true, if_false]
  rw [foldl_unmoved fun q hq => by rw [hdev q hq]]
  rfl

end

end Sys2Proof.Laws
end
section
/-! SUPPORT. The stores that a vector word plans, one after another: performed at once, or delayed. -/
namespace Sys2Proof.Laws
open Sys2Proof Sys2Proof.Machine Sys2Proof.Stmt

/-- A store that a word plans: its place, the bits that it writes, all or those of a mask, what it writes there, and what it asks of a
place beyond the package. -/
structure Planned where
  loc : Loc
  mask : Option Nat
  x : Nat
  ask : DevAsk
/-- What it makes of the bytes. -/
def Planned.onBytes (n : Nat) (m : Bytes) (y : Planned) : Bytes :=
  m.put y.loc n ((vecEnt 0 y.loc n y.mask y.x).val (m.get y.loc n))
/-- Its entry among the delayed stores. -/
def Planned.ent (n id : Nat) (y : Planned) : SbEnt := vecEnt id y.loc n y.mask y.x
/-- One planned store after others, unless one of these waits for the reserve. -/
def storeEach (late : Bool) (n : Nat) (acc : State × Bool) (y : Planned) : State × Bool :=
  if acc.2 then
    match storeOne acc.1 late n y.mask y.x y.loc y.ask with
    | some t => (t, true)
    | none => (acc.1, false)
  else acc

/-- A place in the package's own memory. -/
def Within (l : Loc) : Prop := ∀ pa ty, l = .phys pa ty → pa < mainEnd

theorem AfterStores.prov {s t : State} (h : AfterStores s t) : t.ct.prov = s.ct.prov := h.samePlace.prov
theorem AfterStores.lag {s t : State} (h : AfterStores s t) : t.ct.lag = s.ct.lag := by rw [h.state]
theorem delays_of_no_lag {s : State} (h : s.ct.lag = false) (l : Loc) : s.delays l = false := by simp [State.delays, h]

section
variable {s : State} {late : Bool} {n : Nat} {mask : Option Nat} {x : Nat} {l : Loc} {ask : DevAsk} (hp : s.ct.prov = false) (hl : Within l)
include hp hl

theorem storeOne_within : storeOne s late n mask x l ask =
    some (if late then s.storeBy .vec false l n mask x else s.storeNow (vecEnt s.ct.sbn l n mask x)) := by
  have hfull : ∀ pa, s.provFull s.ct.via pa = false := fun pa => by
    have : s.ct.via.prov = false := hp
    simp [State.provFull, this]
  have hbeyond : s.beyond s.ct.via l n .store = none := by
    unfold State.beyond
    cases l with
    | phys pa ty => simp [hl pa ty rfl]
    | sram a | hole | image pa a => rfl
  unfold storeOne
  cases l with
  | phys pa ty => simp only [hfull, hbeyond, Bool.false_eq_true, if_false]; rfl
  | sram a | hole | image pa a => rfl
theorem storeOne_now (hd : late = true → s.delays l = false) :
    storeOne s late n mask x l ask = some (s.storeNow (vecEnt s.ct.sbn l n mask x)) := by
  rw [storeOne_within hp hl]
  cases late with
  | false => rfl
  | true => simp [State.storeBy, hd rfl, vecEnt]
theorem storeOne_delayed (hd : s.delays l = true) :
    storeOne s true n mask x l ask = some (s.delay (vecEnt s.ct.sbn l n mask x)) := by
  rw [storeOne_within hp hl]
  simp [State.storeBy, hd, vecEnt]

end

/-- Planned stores that are not delayed are performed in their order. -/
theorem foldl_storeEach_now {late : Bool} {n : Nat} : ∀ (ys : List Planned) {s : State}, s.ct.prov = false →
    (∀ e ∈ s.ct.sbuf, e.side ≠ .vec) → (late = true → s.ct.lag = false) → (∀ y ∈ ys, Within y.loc) →
    ∃ t, ys.foldl (storeEach late n) (s, true) = (t, true) ∧ AfterStores s t ∧ t.ct.sbuf = s.ct.sbuf ∧
      bytesOf t = ys.foldl (Planned.onBytes n) (bytesOf s)
  | [], s, _, _, _, _ => ⟨s, rfl, afterStores_refl s, rfl, rfl⟩
  | y :: ys, s, hp, hb, hlag, hys => by
    have hone := storeOne_now (s := s) (n := n) (mask := y.mask) (x := y.x) (ask := y.ask) hp (hys y (by simp))
      fun hl => delays_of_no_lag (hlag hl) y.loc
    have hafter := afterStores_storeNow hp hb s.ct.sbn y.loc n y.mask y.x
    have hsbuf := sbuf_storeNow hb s.ct.sbn y.loc n y.mask y.x
    have hbytes := bytesOf_storeNow hp hb s.ct.sbn y.loc n y.mask y.x
    generalize s.storeNow (vecEnt s.ct.sbn y.loc n y.mask y.x) = u at hone hafter hsbuf hbytes
    obtain ⟨t, hfold, hut, hts, htb⟩ := foldl_storeEach_now ys (s := u) (hafter.prov.trans hp) (hsbuf ▸ hb)
      (fun hl => hafter.lag.trans (hlag hl)) fun z hz => hys z (by simp [hz])
    refine ⟨t, ?_, hafter.trans hut, hts.trans hsbuf, ?_⟩
    · rw [List.foldl_cons, storeEach, if_pos rfl, hone]
      exact hfold
    · rw [List.foldl_cons, htb, hbytes]
      rfl

/-- Planned stores that are delayed stand in their order behind the older ones, and no byte changes. -/
theorem foldl_storeEach_delayed {n : Nat} : ∀ (ys : List Planned) {s : State}, s.ct.prov = false →
    (∀ y ∈ ys, Within y.loc ∧ s.delays y.loc = true) →
    ∃ t, ys.foldl (storeEach true n) (s, true) = (t, true) ∧ AfterStores s t ∧ bytesOf t = bytesOf s ∧
      t.ct.sbuf = s.ct.sbuf ++ ys.mapIdx fun j y => y.ent n (s.ct.sbn + j)
  | [], s, _, _ => ⟨s, rfl, afterStores_refl s, rfl, by simp⟩
  | y :: ys, s, hp, hys => by
    have hone := storeOne_delayed (s := s) (n := n) (mask := y.mask) (x := y.x) (ask := y.ask) hp (hys y (by simp)).1 (hys y (by simp)).2
    obtain ⟨t, hfold, hut, htb, hts⟩ := foldl_storeEach_delayed (n := n) ys (s := s.delay (y.ent n s.ct.sbn)) hp
      fun z hz => hys z (by simp [hz])
    refine ⟨t, ?_, (afterStores_delay s _).trans hut, htb, ?_⟩
    · rw [List.foldl_cons, storeEach, if_pos rfl, hone]
      exact hfold
    · have hnext : ∀ j, (s.delay (y.ent n s.ct.sbn)).ct.sbn + j = s.ct.sbn + (j + 1) := fun j => by
        rw [Nat.add_comm j 1, ← Nat.add_assoc]
        rfl
      have hbuf : (s.delay (y.ent n s.ct.sbn)).ct.sbuf = s.ct.sbuf ++ [y.ent n s.ct.sbn] := rfl
      rw [hts, hbuf, List.mapIdx_cons, List.append_assoc]
      simp only [hnext, List.singleton_append, Nat.add_zero]

/-! ### Elements of whole bytes -/

section
variable {s : State} {w : Nat} (at_ : Nat → Word → Loc) (val : Nat → Nat → Nat) (acc : Nat → List (Nat × Word))

/-- What an element of a storing word asks. -/
def storeAsks (s : State) (w : Nat) (val : Nat → Nat → Nat) (acc : Nat → List (Nat × Word)) (e : Nat) : List (Nat × Word × DevAsk) :=
  asks s e (acc e) fun r => storeOp w e (val r e)
/-- The stores of the elements listed. -/
def storesOf (s : State) (w : Nat) (at_ : Nat → Word → Loc) (val : Nat → Nat → Nat) (acc : Nat → List (Nat × Word)) (es : List Nat) :
    List Planned :=
  es.flatMap fun e => (storeAsks s w val acc e).map fun a => ⟨at_ a.1 a.2.1, none, val a.1 e, a.2.2⟩

theorem storePlan_eq (late : Bool) (es : List Nat) :
    storePlan s late w val (es.map fun e => donePlan at_ e (storeAsks s w val acc e)) =
      (storesOf s w at_ val acc es).foldl (storeEach late (w / 8)) (s, true) := by
  simp only [storePlan, storesOf, List.foldl_flatMap, List.foldl_map, donePlan]
  rfl
theorem storesOf_pairs (es : List Nat) : (storesOf s w at_ val acc es).map (fun y => (y.loc, y.x)) =
    es.flatMap fun e => (acc e).map fun q => (at_ q.1 q.2, val q.1 e) := by
  rw [storesOf, List.map_flatMap]
  refine List.flatMap_congr fun e _ => ?_
  rw [List.map_map, ← map_asks (s := s) e (acc e) fun r => storeOp w e (val r e), List.map_map]
  rfl
theorem mem_storesOf {es : List Nat} {y : Planned} (h : y ∈ storesOf s w at_ val acc es) :
    y.mask = none ∧ ∃ e ∈ es, ∃ q ∈ acc e, y.loc = at_ q.1 q.2 := by
  obtain ⟨e, he, h⟩ := List.mem_flatMap.mp h
  obtain ⟨a, ha, rfl⟩ := List.mem_map.mp h
  exact ⟨rfl, e, he, _, mem_asks ha, rfl⟩
/-- Their bytes, element by element. -/
theorem foldl_storesOf (hw : 8 ≤ w) (es : List Nat) (m : Bytes) : (storesOf s w at_ val acc es).foldl (Planned.onBytes (w / 8)) m =
    es.foldl (fun m e => (acc e).foldl (fun m q => m.putElem (at_ q.1 q.2) w e (val q.1 e)) m) m := by
  have hpairs : (storesOf s w at_ val acc es).foldl (Planned.onBytes (w / 8)) m =
      ((storesOf s w at_ val acc es).map fun y => (y.loc, y.x)).foldl (fun (m : Bytes) z => m.put z.1 (w / 8) z.2) m := by
    rw [List.foldl_map]
    refine List.foldl_ext _ _ _ fun m y hy => ?_
    rw [Planned.onBytes, (mem_storesOf at_ val acc hy).1]
    rfl
  rw [hpairs, storesOf_pairs, List.foldl_flatMap]
  simp only [List.foldl_map, putElem_bytes hw]

end

end Sys2Proof.Laws
end
section
/-! SUPPORT. The run of a vector store all of whose accesses reach memory. -/
namespace Sys2Proof.Laws
open Sys2Proof Sys2Proof.Machine Sys2Proof.Stmt

/-! ### Operands that no feed gives -/

section
variable {x : Ventry} (hx : x.popped = [])
include hx

theorem opd_of_no_pops (c : Ct) (r w e : Nat) : opd x c r w e = c.vget r w e := by simp [opd, hx]
theorem opdFl_of_no_pops (r e : Nat) : opdFl x r e = {} := by simp [opdFl, hx]
theorem planFl_of_no_pops (m : VMode) (rs : List Nat) (ps : List ElemPlan) : planFl x m rs ps = {} := by
  refine foldl_unmoved fun p _ => ?_
  simp only [opdFl_of_no_pops hx, flOr_none, List.foldl_fixed]
  split <;> rfl

end

theorem vecFree_of_delays {s : State} {l : Loc} (h : s.delays l = true) (n : Nat) : s.vecFree l n .store = true := by
  simp [State.vecFree, h]
/-- No store of the vector side is delayed: no access meets one. -/
theorem vecFree_of_calm {s : State} (hb : ∀ e ∈ s.ct.sbuf, e.side ≠ .vec) (l : Loc) (n : Nat) (k : Kind) : s.vecFree l n k = true := by
  have hnone : ∀ e ∈ s.ct.sbuf, onSide .vec l n e = false := fun e he => by simp [onSide, hb e he]
  simp [State.vecFree, canFlush_of_none hnone]

theorem within_of_reaches {s : State} {n : Nat} {k : Kind} {ok : Nat → Bool} {a : Word} {l : Loc} (h : Reaches s n k ok a l) : Within l := by
  obtain ⟨-, -, hty, -⟩ := h
  exact fun pa ty hl => (hty pa ty hl).2

theorem accBytes_of_bytes {w : Nat} (hw : 8 ≤ w) : accBytes w = w / 8 := Nat.max_eq_right (Nat.div_pos hw (by decide))

section
variable {x : Ventry} {s : State} {d w : Nat} {m : VMode} {base : Word} {at_ : Nat → Word → Loc} {acc : Nat → List (Nat × Word)}
  {es : List Nat} (hp : s.ct.prov = false) (hw : 8 ≤ w) (hx : x.popped = []) (hwmb : x.wmb = s.ct.wmb)
  (hes : actives x s.ct = es) (hacc : ∀ e, vaccs x s.ct d w m base e = acc e)
  (hal : misaligned w m base ((es.map fun e => (e, acc e)).flatMap fun p => p.2.map fun q => (p.1, q.2)) = none)
include hp hw hx hwmb hes hacc hal

/-- A store in any order has performed its planned stores, or delayed them, and is done (R156, R160). -/
theorem runStore_plan (hr : ∀ e ∈ es, ∀ q ∈ acc e, Reaches s (w / 8) .store notOrdered q.2 (at_ q.1 q.2) ∧
      s.vecFree (at_ q.1 q.2) (w / 8) .store = true) {t : State}
    (ht : (storesOf s w at_ (fun r e => s.ct.vget r w e) acc es).foldl (storeEach true (w / 8)) (s, true) = (t, true)) :
    ∃ ws, runStore x s d w m base false = .done (t.wroteBy x ws).1 {} := by
  have hps : ((es.map fun e => (e, acc e)).map fun p => s.elemPlan (w / 8) .store (fun ty => decide (ty ≠ 2)) p.1
      (asks s p.1 p.2 fun r => storeOp w p.1 (s.ct.vget r w p.1))) =
      es.map fun e => donePlan at_ e (storeAsks s w (fun r e => s.ct.vget r w e) acc e) := by
    rw [List.map_map]
    exact List.map_congr_left fun e he => elemPlan_of_reaches e fun a ha => (hr e he _ (mem_asks ha)).1
  have hstall := planStalls_of_reaches (s := s) (n := w / 8) (k := .store) (dev := notOrdered)
    (ps := es.map fun e => donePlan at_ e (storeAsks s w (fun r e => s.ct.vget r w e) acc e)) hp fun p hps => by
      obtain ⟨e, he, rfl⟩ := List.mem_map.mp hps
      refine ⟨rfl, fun q hq => ?_⟩
      obtain ⟨a, ha, rfl⟩ := List.mem_map.mp hq
      exact hr e he _ (mem_asks ha)
  have hgood : (es.map fun e => donePlan at_ e (storeAsks s w (fun r e => s.ct.vget r w e) acc e)).filter (fun p => p.bad.isEmpty) =
      es.map fun e => donePlan at_ e (storeAsks s w (fun r e => s.ct.vget r w e) acc e) :=
    List.filter_eq_self.mpr fun p hp => by obtain ⟨e, -, rfl⟩ := List.mem_map.mp hp; rfl
  have hbad : (es.map fun e => donePlan at_ e (storeAsks s w (fun r e => s.ct.vget r w e) acc e)).filter (fun p => !p.bad.isEmpty) = [] :=
    List.filter_eq_nil_iff.mpr fun p hp => by obtain ⟨e, -, rfl⟩ := List.mem_map.mp hp; simp [donePlan]
  simp only [runStore, if_neg (Nat.not_lt.mpr hw), hes, hacc, hal, opd_of_no_pops hx, hps, hgood, hbad, hwmb, hstall, storePlan_eq, ht,
    planFl_of_no_pops hx]
  exact ⟨_, rfl⟩

omit hes hal in
/-- VSTO looks at each element once those below it are stored; no store before an element sends it elsewhere (R162). -/
theorem stoGo_performs (hfl : x.fl = {}) (hs : s.ct.status = .running) (hb : ∀ e ∈ s.ct.sbuf, e.side ≠ .vec) :
    ∀ (es : List Nat), (∀ e ∈ es, ∀ q ∈ acc e, Reaches s (w / 8) .store (fun _ => true) q.2 (at_ q.1 q.2) ∧ Fixed s q.2) →
    ∀ (u : State) (ws : List (Nat × Nat)), AfterStores s u → u.ct.sbuf = s.ct.sbuf →
      ∃ t, stoGo d w m base u { x with wrote := ws } es = .done t {} ∧ AfterStores s t ∧ t.ct.sbuf = s.ct.sbuf ∧
        bytesOf t = es.foldl (fun m e => (acc e).foldl (fun m q => m.putElem (at_ q.1 q.2) w e (s.ct.vget q.1 w e)) m) (bytesOf u)
  | [], _, u, ws, hu, hub => ⟨u, by rw [stoGo, hfl], hu, hub, rfl⟩
  | e :: es, hr, u, ws, hu, hub => by
    have hvget : ∀ r w e, u.ct.vget r w e = s.ct.vget r w e := fun r w e => by
      rw [hu.state]
      rfl
    have hpop : ({ x with wrote := ws } : Ventry).popped = [] := hx
    have hvaccs : vaccs { x with wrote := ws } u.ct d w m base e = acc e := by
      rw [← hacc e]
      simp only [vaccs, opd_of_no_pops hx, opd_of_no_pops hpop, hvget]
    have hreach : ∀ q ∈ acc e, Reaches u (w / 8) .store (fun _ => true) q.2 (at_ q.1 q.2) := fun q hq =>
      hu.reaches (hr e (by simp) q hq).2 hs hp (hr e (by simp) q hq).1
    have hplan : u.elemPlan (w / 8) .store (fun _ => true) e (asks u e (acc e) fun r => storeOp w e (s.ct.vget r w e)) =
        donePlan at_ e (storeAsks u w (fun r e => s.ct.vget r w e) acc e) :=
      elemPlan_of_reaches e fun a ha => hreach _ (mem_asks ha)
    have huwmb : x.wmb = u.ct.wmb := by
      rw [hwmb, hu.state]
    have hub' : ∀ e ∈ u.ct.sbuf, e.side ≠ .vec := hub ▸ hb
    have hup : u.ct.prov = false := hu.prov.trans hp
    have hstall : u.planStalls x.wmb (w / 8) .store [donePlan at_ e (storeAsks u w (fun r e => s.ct.vget r w e) acc e)] = none := by
      rw [huwmb]
      refine planStalls_of_reaches (dev := fun _ => true) hup fun p hps => ?_
      rw [List.mem_singleton.mp hps]
      refine ⟨rfl, fun q hq => ?_⟩
      obtain ⟨a, ha, rfl⟩ := List.mem_map.mp hq
      exact ⟨hreach _ (mem_asks ha), vecFree_of_calm hub' ..⟩
    have hwithin : ∀ y ∈ storesOf u w at_ (fun r e => s.ct.vget r w e) acc [e], Within y.loc := fun y hy => by
      obtain ⟨-, i, hi, q, hq, hy⟩ := mem_storesOf at_ _ acc hy
      rw [List.mem_singleton.mp hi] at hq
      exact hy ▸ within_of_reaches (hreach q hq)
    obtain ⟨t, hfold, hut, hts, htb⟩ := foldl_storeEach_now (late := false) (n := w / 8) _ hup hub' nofun hwithin
    rw [foldl_storesOf at_ _ acc hw] at htb
    have hstore := (storePlan_eq at_ (fun r e => s.ct.vget r w e) acc false [e]).trans hfold
    obtain ⟨t', hgo, hst', hts', htb'⟩ := stoGo_performs hfl hs hb es (fun i hi => hr i (by simp [hi]))
      (t.wroteBy { x with wrote := ws } (planRanges (w / 8) [donePlan at_ e (storeAsks u w (fun r e => s.ct.vget r w e) acc e)])).1
      (ws ++ planRanges (w / 8) [donePlan at_ e (storeAsks u w (fun r e => s.ct.vget r w e) acc e)])
      ((hu.trans hut).trans (afterStores_wroteBy ..)) ((sbuf_wroteBy ..).trans (hts.trans hub))
    refine ⟨t', ?_, hst', hts', ?_⟩
    · rw [← hgo, stoGo, accBytes_of_bytes hw, hvaccs]
      simp only [opd_of_no_pops hpop, hvget, hplan, hstall]
      rw [if_neg (by simp [donePlan])]
      simp only [List.map_cons, List.map_nil] at hstore
      rw [hstore]
      simp only [planFl_of_no_pops hpop, flOr_none]
      rfl
    · rw [htb', bytesOf_wroteBy, htb]
      rfl

end

end Sys2Proof.Laws
end
section
/-! SUPPORT. The run of a store of elements below a byte, byte by byte (R38, R113). -/
namespace Sys2Proof.Laws
open Sys2Proof Sys2Proof.Machine Sys2Proof.Stmt

/-- A byte that a store of elements below a byte touches: its first element with its address and what it asks, and all its elements. -/
abbrev SubByte := Nat × (Nat × Word × DevAsk) × List Nat

/-- Its plan, and the store that it comes to. -/
def subPlan (at_ : Word → Loc) (b : SubByte) : ElemPlan × List Nat := (donePlan (fun _ => at_) b.1 [b.2.1], b.2.2)
def subStore (at_ : Word → Loc) (b : SubByte) : Planned :=
  ⟨at_ b.2.1.2.1, b.2.1.2.2.op.bits.1, b.2.1.2.2.op.bits.2, b.2.1.2.2⟩

section
variable {x : Ventry} {s : State} {w : Nat} {base : Word} {bits : Nat → Nat} {rs : List Nat} {at_ : Word → Loc} {es : List Nat}

theorem runSubStore_plan (hp : s.ct.prov = false) (hx : x.popped = []) (hwmb : x.wmb = s.ct.wmb) (hes : actives x s.ct = es)
    (hr : ∀ b ∈ subBytes s w base bits es, Reaches s 1 .store notOrdered b.2.1.2.1 (at_ b.2.1.2.1) ∧
      s.vecFree (at_ b.2.1.2.1) 1 .store = true) {t : State}
    (ht : ((subBytes s w base bits es).map (subStore at_)).foldl (storeEach true 1) (s, true) = (t, true)) :
    ∃ ws, runSubStore x s w base bits rs = .done (t.wroteBy x ws).1 {} := by
  generalize hbs : subBytes s w base bits es = bs at hr ht
  have hps : bs.map (fun b => (s.elemPlan 1 .store (fun ty => decide (ty ≠ 2)) b.1 [b.2.1], b.2.2)) = bs.map (subPlan at_) :=
    List.map_congr_left fun b hb => by
      rw [subPlan, elemPlan_of_reaches (loc := fun _ => at_) b.1 fun a ha => (List.mem_singleton.mp ha) ▸ (hr b hb).1]
  have hgood : (bs.map (subPlan at_)).filter (fun p => p.1.bad.isEmpty) = bs.map (subPlan at_) :=
    List.filter_eq_self.mpr fun p hp => by obtain ⟨b, -, rfl⟩ := List.mem_map.mp hp; rfl
  have hbad : (bs.map (subPlan at_)).filter (fun p => !p.1.bad.isEmpty) = [] :=
    List.filter_eq_nil_iff.mpr fun p hp => by obtain ⟨b, -, rfl⟩ := List.mem_map.mp hp; simp [subPlan, donePlan]
  have hstall : s.planStalls s.ct.wmb 1 .store ((bs.map (subPlan at_)).map (·.1)) = none :=
    planStalls_of_reaches (dev := notOrdered) hp fun p hps => by
      obtain ⟨q, hq, rfl⟩ := List.mem_map.mp hps
      obtain ⟨b, hb, rfl⟩ := List.mem_map.mp hq
      refine ⟨rfl, fun q hq => ?_⟩
      obtain ⟨a, ha, rfl⟩ := List.mem_map.mp hq
      rw [List.mem_singleton.mp ha]
      exact hr b hb
  have hfar : s.farBits ((bs.map (subPlan at_)).map (·.1)) = false := by simp [State.farBits, hp]
  simp only [runSubStore, hes, hbs, hps, hgood, hbad, hfar, hwmb, hstall, planFl_of_no_pops hx]
  generalize hfold : List.foldl _ (s, true) ((bs.map (subPlan at_)).map (·.1)) = r
  have hr : r = (t, true) := by
    rw [← hfold, ← ht]
    simp only [List.foldl_map]
    rfl
  rw [hr]
  exact ⟨_, rfl⟩

/-! ### The bytes -/

section
variable (hw : w ∣ 8) (hlt : w < 8) (hsort : es.Pairwise (· < ·))
include hw hlt hsort

/-- A byte updated once is the byte with its elements stored one after another. -/
theorem onBytes_subStore (b : Nat) (hne : es.filter (fun e => e / (8 / w) = b) ≠ []) (key : Nat) (m : Bytes) :
    let own := es.filter (fun e => e / (8 / w) = b)
    let op : ReqOp := if own.length = 8 / w then .write (merged w bits own 0) else .merge (maskOf w own) (merged w bits own 0)
    Planned.onBytes 1 m (subStore at_ (own.headD 0, (0, base + BitVec.ofNat 64 b, ⟨key, op⟩), own)) =
      own.foldl (fun m e => m.putElem (at_ (base + BitVec.ofNat 64 (e / (8 / w)))) w e (bits e)) m := by
  intro own op
  have hb : ∀ e ∈ own, e / (8 / w) = b := fun e he => by simpa using (List.mem_filter.mp he).2
  have hnodup : own.Nodup := (hsort.filter _).imp Nat.ne_of_lt
  have hfold : own.foldl (fun m e => m.putElem (at_ (base + BitVec.ofNat 64 (e / (8 / w)))) w e (bits e)) m =
      own.foldl (fun m e => m.putElem (at_ (base + BitVec.ofNat 64 b)) w e (bits e)) m :=
    List.foldl_ext _ _ _ fun m e he => by rw [hb e he]
  rw [hfold, foldl_putElem hlt _ bits own m hne]
  generalize hl : at_ (base + BitVec.ofNat 64 b) = l
  by_cases hfull : own.length = 8 / w
  · have hop : op = .write (merged w bits own 0) := if_pos hfull
    have : Planned.onBytes 1 m (subStore at_ (own.headD 0, (0, base + BitVec.ofNat 64 b, ⟨key, op⟩), own)) =
        m.put l 1 (merged w bits own 0) := by
      rw [hop, ← hl]
      rfl
    rw [this, ← put_mod_byte, byte_full bits (m.get l 1) (mask_full hw hnodup hb hfull), put_mod_byte]
  · have hop : op = .merge (maskOf w own) (merged w bits own 0) := if_neg hfull
    have : Planned.onBytes 1 m (subStore at_ (own.headD 0, (0, base + BitVec.ofNat 64 b, ⟨key, op⟩), own)) =
        m.put l 1 ((m.get l 1 &&& (2 ^ (8 * 1) - 1 - maskOf w own)) ||| (merged w bits own 0 &&& maskOf w own)) := by
      rw [hop, ← hl]
      rfl
    rw [this, ← put_mod_byte, byte_masked hw bits own, put_mod_byte]

/-- All the bytes of a store: its elements in rising order. -/
theorem foldl_subBytes (m : Bytes) : ((subBytes s w base bits es).map (subStore at_)).foldl (Planned.onBytes 1) m =
    es.foldl (fun m e => m.putElem (at_ (base + BitVec.ofNat 64 (e / (8 / w)))) w e (bits e)) m := by
  have hmono : es.Pairwise (fun i j => i / (8 / w) ≤ j / (8 / w)) := hsort.imp fun h => Nat.div_le_div_right (Nat.le_of_lt h)
  conv_rhs => rw [← flatMap_groups (· / (8 / w)) _ es (Nat.le_refl _) hmono, List.foldl_flatMap]
  rw [subBytes, List.map_map, List.foldl_map]
  refine List.foldl_ext _ _ _ fun m b hb => ?_
  obtain ⟨e, he, hb⟩ := List.mem_map.mp (List.mem_eraseDups.mp hb)
  have hne : es.filter (fun e => e / (8 / w) = b) ≠ [] := List.ne_nil_of_mem (List.mem_filter.mpr ⟨he, by simpa using hb⟩)
  exact onBytes_subStore hw hlt hsort b hne _ m

end

/-- The address of each byte is that of an element. -/
theorem mem_subBytes {b : SubByte} (h : b ∈ subBytes s w base bits es) :
    ∃ e ∈ es, b.2.1.2.1 = base + BitVec.ofNat 64 (e / (8 / w)) := by
  obtain ⟨i, hi, rfl⟩ := List.mem_map.mp h
  obtain ⟨e, he, rfl⟩ := List.mem_map.mp (List.mem_eraseDups.mp hi)
  exact ⟨e, he, rfl⟩

end

/-- A store of elements below a byte that is not delayed (R38, R113). -/
theorem runSubStore_now {x : Ventry} {s : State} {w : Nat} {base : Word} {bits : Nat → Nat} {rs : List Nat} {at_ : Word → Loc}
    {es : List Nat} (hp : s.ct.prov = false) (hx : x.popped = []) (hwmb : x.wmb = s.ct.wmb) (hes : actives x s.ct = es)
    (hsort : es.Pairwise (· < ·)) (hb : ∀ e ∈ s.ct.sbuf, e.side ≠ .vec) (hlag : s.ct.lag = false) (hw : w ∣ 8) (hlt : w < 8)
    (hr : ∀ e ∈ es, Reaches s 1 .store notOrdered (base + BitVec.ofNat 64 (e / (8 / w))) (at_ (base + BitVec.ofNat 64 (e / (8 / w))))) :
    ∃ t, runSubStore x s w base bits rs = .done t {} ∧ AfterStores s t ∧ t.ct.sbuf = s.ct.sbuf ∧
      bytesOf t = es.foldl (fun m e => m.putElem (at_ (base + BitVec.ofNat 64 (e / (8 / w)))) w e (bits e)) (bytesOf s) := by
  have hreach : ∀ b ∈ subBytes s w base bits es, Reaches s 1 .store notOrdered b.2.1.2.1 (at_ b.2.1.2.1) := fun b hb => by
    obtain ⟨e, he, ha⟩ := mem_subBytes hb
    exact ha ▸ hr e he
  have hwithin : ∀ y ∈ (subBytes s w base bits es).map (subStore at_), Within y.loc := fun y hy => by
    obtain ⟨b, hb, rfl⟩ := List.mem_map.mp hy
    exact within_of_reaches (hreach b hb)
  obtain ⟨t, hfold, hst, hts, htb⟩ := foldl_storeEach_now (late := true) (n := 1) _ hp hb (fun _ => hlag) hwithin
  obtain ⟨ws, hrun⟩ := runSubStore_plan (rs := rs) hp hx hwmb hes (fun b hsb => ⟨hreach b hsb, vecFree_of_calm hb ..⟩) hfold
  refine ⟨_, hrun, hst.trans (afterStores_wroteBy ..), (sbuf_wroteBy ..).trans hts, ?_⟩
  rw [bytesOf_wroteBy, htb, foldl_subBytes hw hlt hsort]

end Sys2Proof.Laws
end
section
/-! SUPPORT. A store word: its alignment, what it posts, and the state that a completed one leaves (R37, R52, R155, R157). -/
namespace Sys2Proof.Laws
open Sys2Proof Sys2Proof.Machine Sys2Proof.Stmt

/-! ### Widths and alignment -/

/-- The widths of elements (R37). -/
def widths : List Nat := [2, 4, 8, 16, 32, 64, 128]
theorem tagInt_width {code : Nat} {t : ITag} (h : tagInt code = some t) : t.w ∈ widths := by
  unfold tagInt at h
  split at h <;> cases h <;> decide
theorem tyOf_width {fmt : Vector Word 8} {b : BitVec 8} {t : Ty} (h : tyOf fmt b = some t) : t.w ∈ widths := by
  dsimp only [tyOf] at h
  split at h
  · rename_i it hit
    cases h
    exact tagInt_width hit
  · split at h
    · split at h
      · split at h <;> cases h
        simp [Ty.w, widths]
      · cases h
    · split at h
      · split at h <;> cases h
        simp [Ty.w, widths]
      · cases h
    all_goals cases h
    all_goals simp [Ty.w, widths]
theorem width_of_opT {s : State} {r k : Nat} {t : Ty} (h : s.opT r k = some t) : t.w ∈ widths := by
  unfold State.opT at h
  split at h
  · rename_i ht
    split at h <;> cases h
    exact tyOf_width ht
  · cases h
theorem width_bits {w : Nat} (h : w ∈ widths) (hw : w < 8) : w ∣ 8 :=
  (by decide : ∀ v ∈ widths, v < 8 → v ∣ 8) w h hw
theorem width_bytes {w : Nat} (h : w ∈ widths) (hw : 8 ≤ w) : 8 ∣ w ∧ w / 8 ∣ 2 ^ 64 :=
  (by decide : ∀ v ∈ widths, 8 ≤ v → 8 ∣ v ∧ v / 8 ∣ 2 ^ 64) w h hw

/-- An offset of whole elements keeps alignment. -/
theorem aligned_add {a : Word} {b k : Nat} (hb : b ∣ 2 ^ 64) (ha : a.toNat % b = 0) (hk : k % b = 0) :
    (a + BitVec.ofNat 64 k).toNat % b = 0 := by
  rw [BitVec.toNat_add, BitVec.toNat_ofNat, Nat.add_mod_mod, Nat.mod_mod_of_dvd _ hb, Nat.add_mod, ha, hk, Nat.zero_mod]

/-- A word whose operands are aligned has no misaligned access (R157). -/
theorem misaligned_of_aligned {s : State} {d w : Nat} {m : VMode} {base : Word} {on : Nat → Bool} (hw : 8 ≤ w) (hwidth : w ∈ widths)
    (h : vAligned s d w m base on) {es : List Nat} (hes : ∀ e ∈ es, on e = true) :
    misaligned w m base ((es.map fun e => (e, accAt s d w m base e)).flatMap fun p => p.2.map fun q => (p.1, q.2)) = none := by
  obtain ⟨hdvd, hpow⟩ := width_bytes hwidth hw
  have h := h.resolve_left (Nat.not_lt.mpr hw)
  have haddr : ∀ e ∈ es, ∀ q ∈ accAt s d w m base e, q.2.toNat % (w / 8) = 0 := by
    intro e he q hq
    cases m with
    | unit =>
      rw [List.mem_singleton.mp hq]
      exact aligned_add hpow h (by rw [Nat.mul_div_assoc _ hdvd, Nat.mul_mod_left])
    | strided sx =>
      obtain ⟨hbase, hstride⟩ := h
      have hoff : BitVec.ofNat 64 e * sx = BitVec.ofNat 64 (e * sx.toNat) := BitVec.eq_of_toNat_eq (by simp [BitVec.toNat_mul])
      rw [List.mem_singleton.mp hq]
      show (base + BitVec.ofNat 64 e * sx).toNat % (w / 8) = 0
      rw [hoff]
      exact aligned_add hpow hbase (by rw [Nat.mul_mod, hstride, Nat.mul_zero, Nat.zero_mod])
    | indexed r t => exact h e (hes e he) q hq
    | seg f =>
      obtain ⟨i, -, rfl⟩ := List.mem_map.mp hq
      exact aligned_add hpow h (Nat.mul_mod_left ..)
  have hfind : ((es.map fun e => (e, accAt s d w m base e)).flatMap fun p => p.2.map fun q => (p.1, q.2)).find?
      (fun p => p.2.toNat % (w / 8) ≠ 0) = none := by
    refine List.find?_eq_none.mpr fun p hp => ?_
    obtain ⟨a, ha, hp⟩ := List.mem_flatMap.mp hp
    obtain ⟨e, he, rfl⟩ := List.mem_map.mp ha
    obtain ⟨q, hq, rfl⟩ := List.mem_map.mp hp
    simp [haddr e he q hq]
  rw [misaligned, if_neg (Nat.not_lt.mpr hw)]
  simp only [hfind]
  cases m with
  | indexed r t => rfl
  | unit | seg f => simpa using h
  | strided sx => simpa using h

/-! ### The store words -/

theorem vmem_posts {s : State} {cv : Convoy} {c sub : Bool} {d : VRegNo} {field : State → Bool} {mode : State → Option VMode}
    {more : State → Bool} {p : PGov} {op : Nat → VMode → Word → Vop} {a : SReg} {t : Ty} {m : VMode} (h : VReady s)
    (hc : countConvoy s.ct.conv c { mem := true } = some cv) (hf : (s.grp d && field s) = true) (ht : s.opT d.toNat 1 = some t)
    (hm : mode s = some m) (hok : ((sub || decide (8 ≤ t.w)) && more s) = true) :
    vmem c d s sub field mode more p op a =
      .next (runHead (postedAt s cv s.ct.vtype (entryOf s (op t.w m (s.rd a)) (some p)))).1 :=
  vword_postOnly h hc hf (by simp only [ht, hm, hok, if_true])

section
variable {s : State} {i : Instr} {x : VMem} (hx : vmemOf s i = some x) (hl : x.load = false)
include hx hl

/-- What a store word posts. -/
theorem exec_vstore {t : Ty} {cv : Convoy} (h : VReady s) (hr : VMemReady s x t cv) : exec i s =
    .next (runHead (postedAt s cv s.ct.vtype (entryOf s (.store x.d.toNat t.w x.m (s.rd x.a) x.seq) (some x.p)))).1 := by
  obtain ⟨hc, hg, ht, hw, hm, -, -⟩ := hr
  unfold vmemOf at hx
  split at hx
  · cases hx; cases hl
  · cases hx; cases hl
  · obtain ⟨it, -, rfl⟩ := Option.map_eq_some_iff.mp hx
    cases hl
  · cases hx; cases hl
  · cases hx; cases hl
  · cases hx
    rw [exec_vst]
    exact vmem_posts h hc (by simp [hg, yes]) ht rfl (by simp [yes])
  · cases hx
    rw [exec_vstS]
    exact vmem_posts h hc (by simp [hg, yes]) ht rfl (by simpa [yes] using hw)
  · obtain ⟨it, hit, rfl⟩ := Option.map_eq_some_iff.mp hx
    rw [exec_vstX]
    exact vmem_posts h hc (by rw [hg]; exact decide_eq_true hm) ht (by rw [idxMode, hit]; rfl) (by simpa [yes] using hw)
  · cases hx
    rw [exec_vsto]
    exact vmem_posts h hc (by simp [hg, yes]) ht rfl (by simpa [yes] using hw)
  · cases hx
    obtain ⟨hfit, htag⟩ := hm
    rw [exec_vstseg]
    exact vmem_posts h hc (by rw [hg]; exact decide_eq_true hfit) ht rfl
      (by simpa [segTags] using ⟨hw.resolve_left nofun, htag⟩)
  · cases hx
    rw [exec_vstoStrided]
    exact vmem_posts h hc (by simp [hg, yes]) ht rfl (by simpa [yes] using hw)
  · cases hx

/-- VSTO admits every memory type and no element below a byte; the other stores no memory that orders, and such elements in the unit
mode alone (R155, R159). -/
theorem vstore_kinds : x.seq = false ∧ x.ok = notOrdered ∧ (x.sub = true → x.m = .unit) ∨
    x.seq = true ∧ x.ok = (fun _ => true) ∧ x.sub = false := by
  unfold vmemOf at hx
  split at hx
  · cases hx; cases hl
  · cases hx; cases hl
  · obtain ⟨it, -, rfl⟩ := Option.map_eq_some_iff.mp hx
    cases hl
  · cases hx; cases hl
  · cases hx; cases hl
  · cases hx; exact .inl ⟨rfl, rfl, fun _ => rfl⟩
  · cases hx; exact .inl ⟨rfl, rfl, nofun⟩
  · obtain ⟨it, -, rfl⟩ := Option.map_eq_some_iff.mp hx
    exact .inl ⟨rfl, rfl, nofun⟩
  · cases hx; exact .inr ⟨rfl, rfl, rfl⟩
  · cases hx; exact .inl ⟨rfl, rfl, nofun⟩
  · cases hx; exact .inr ⟨rfl, rfl, rfl⟩
  · cases hx

end

/-! ### The state that a completed store leaves -/

section
variable {s : State} (h : VReady s) (hn : NoFeeds s) (cv : Convoy) (vt : Vector (BitVec 8) 32) {op : Vop} {pg : Option PGov}

/-- The state of a word that has completed (R52, R394). -/
def completed (t : State) : State := { t with ct := { t.ct with viq := [], a := t.ct.a.flag {}, vstart := 0 } }

include hn in
theorem runHead_done (hk : op.keepsVstart = false) {t : State}
    (hr : op.run (entryOf s op pg) (postedAt s cv vt (entryOf s op pg)) = .done t {}) (hq : t.pkg.reqs = []) :
    (runHead (postedAt s cv vt (entryOf s op pg))).1 = completed t := by
  have hviq : (postedAt s cv vt (entryOf s op pg)).ct.viq = [entryOf s op pg] := rfl
  have hrun := (runEntry_of_noFeeds (s := postedAt s cv vt (entryOf s op pg)) hn (x := entryOf s op pg) rfl).trans hr
  have hdrop : ∀ c p, t.dropReqs c p = t := fun c p => if_pos (by rw [hq]; rfl)
  have hkeep : (entryOf s op pg).op.keepsVstart = false := hk
  rw [runHead, hviq]
  simp only [hrun, hkeep, hdrop, flOr_none, Bool.false_eq_true, if_false]
  rfl

theorem flag_none (a : SysA) : a.flag {} = a := by
  have : a.fflags ||| ({} : Fl).fflags = a.fflags := BitVec.or_zero
  simp [SysA.flag, this]

variable {cv} {x : Ventry} {t : State} (ht : AfterStores (postedAt s cv s.ct.vtype x) t)
include ht

include h in
theorem reqs_of_afterStores : t.pkg.reqs = [] := by
  rw [ht.state]
  exact h.reqs
/-- Of the registers, the package and the CT, a completed store has left all that a program sees. -/
theorem sameRegs_completed : Stmt.SameRegs s { completed t with ct := { (completed t).ct with sbuf := s.ct.sbuf } } cv := by
  have hct := congrArg State.ct ht.state
  obtain ⟨hexx, hexpc⟩ := ht.ex
  obtain ⟨hacx, hacpc⟩ := ht.ac
  refine ⟨⟨rfl, ht.looks⟩, ?_, ?_, ?_, ?_, ⟨rfl, ?_, ?_, rfl⟩, ?_, ⟨hexx, hacx, hacpc⟩, hexpc, ?_, ?_, ?_⟩
  · show t.ct.v = s.ct.v; rw [hct]; rfl
  · show t.ct.p = s.ct.p; rw [hct]; rfl
  · show t.ct.a.flag {} = s.ct.a; rw [flag_none, hct]; rfl
  · show t.ct.vl = s.ct.vl ∧ t.ct.g = s.ct.g ∧ t.ct.vsw = s.ct.vsw ∧ t.ct.vtype = s.ct.vtype; rw [hct]; exact ⟨rfl, rfl, rfl, rfl⟩
  · show t.ct.fmask = s.ct.fmask; rw [hct]; rfl
  · show t.ct.conv = cv; rw [hct]; rfl
  · show t.ct.bins = s.ct.bins ∧ t.ct.mx = s.ct.mx ∧ t.ct.feeds = s.ct.feeds ∧ t.ct.status = s.ct.status
    rw [hct]; exact ⟨rfl, rfl, rfl, rfl⟩
  · show { t.pkg with poison := s.pkg.poison } = s.pkg; rw [ht.state]; rfl
  · show t.time = s.time; rw [ht.state]; rfl
  · show t.who = s.who; rw [ht.state]; rfl
theorem sameRegs_completed_now (hb : t.ct.sbuf = s.ct.sbuf) : Stmt.SameRegs s (completed t) cv := by
  have := sameRegs_completed ht
  rwa [show ({ completed t with ct := { (completed t).ct with sbuf := s.ct.sbuf } } : State) = completed t by rw [← hb]; rfl] at this

end

end Sys2Proof.Laws
end
section
/-! SUPPORT. The runs of a posted store all of whose accesses reach memory: every element delayed, none delayed, below a byte, VSTO. -/
namespace Sys2Proof.Laws
open Sys2Proof Sys2Proof.Machine Sys2Proof.Stmt

/-! ### The state in which a memory word runs -/

/-- What a posted memory word y sees in the state u of its run is what the state s of its issue holds. -/
structure Posts (s u : State) (y : Ventry) (on : Nat → Bool) : Prop where
  popped : y.popped = []
  fl : y.fl = {}
  g : y.g = s.ct.g
  wmb : y.wmb = u.ct.wmb
  actives : actives y u.ct = ons s on
  vget : ∀ r w e, u.ct.vget r w e = s.ct.vget r w e
  prov : u.ct.prov = s.ct.prov
  lag : u.ct.lag = s.ct.lag
  status : u.ct.status = s.ct.status
  sbuf : u.ct.sbuf = s.ct.sbuf
  sbn : u.ct.sbn = s.ct.sbn
  bytes : bytesOf u = bytesOf s
  delays : ∀ l, u.delays l = s.delays l
  fixed : ∀ a, Fixed s a → Fixed u a
  reaches : ∀ {n k ok a l}, Reaches s n k ok a l → Reaches u n k ok a l

theorem posts_of_actives {s : State} {cv : Convoy} {vt : Vector (BitVec 8) 32} {op : Vop} {pg : Option PGov} {on : Nat → Bool}
    (h : actives (entryOf s op pg) (postedAt s cv vt (entryOf s op pg)).ct = ons s on) :
    Posts s (postedAt s cv vt (entryOf s op pg)) (entryOf s op pg) on :=
  ⟨rfl, rfl, rfl, rfl, h, fun _ _ _ => rfl, rfl, rfl, rfl, rfl, rfl, rfl, fun _ => rfl, fun _ => id,
    fun h => reaches_withCt (samePlace_posted s cv vt _) rfl h⟩

theorem ons_sorted (s : State) (on : Nat → Bool) : (ons s on).Pairwise (· < ·) := List.pairwise_lt_range.filter _

/-! ### The runs of the stores -/

/-- The entries of delayed stores that write all their bits. -/
theorem mapIdx_ent {n k : Nat} {zs : List Planned} (h : ∀ z ∈ zs, z.mask = none) : zs.mapIdx (fun j z => z.ent n (k + j)) =
    (zs.map fun z => (z.loc, z.x)).mapIdx fun j z => ⟨.vec, k + j, false, none, z.1, n, none, z.2⟩ :=
  List.ext_getElem (by simp) fun j hj _ => by
    have hmask := h (zs[j]'(by simpa using hj)) (List.getElem_mem _)
    simp [Planned.ent, vecEnt, hmask]

section
variable {s u : State} {y : Ventry} {on : Nat → Bool} {d w : Nat} {m : VMode} {base : Word} {at_ : Nat → Word → Loc}
  (hu : Posts s u y on)
include hu

/-- The accesses that a word finds are those of the statements (R156). -/
theorem Posts.vaccs (hw : 8 ≤ w) (e : Nat) : vaccs y u.ct d w m base e = accAt s d w m base e := by
  cases m with
  | unit | strided sx => rfl
  | indexed r t => simp only [Machine.vaccs, accAt, opd_of_no_pops hu.popped, hu.vget]
  | seg f => simp only [Machine.vaccs, accAt, accBytes_of_bytes hw, hu.g]

section
variable (hp : s.ct.prov = false) (hw : 8 ≤ w) (hwidth : w ∈ widths) (hal : vAligned s d w m base on)
include hp hw hwidth hal

/-- A store in any order that delays every element: no byte changes (R160, R323). -/
theorem Posts.runStore_delayed
    (hr : ∀ e, on e = true → ∀ q ∈ accAt s d w m base e,
      Reaches s (w / 8) .store notOrdered q.2 (at_ q.1 q.2) ∧ s.delays (at_ q.1 q.2) = true) :
    ∃ t, runStore y u d w m base false = .done t {} ∧ AfterStores u t ∧ bytesOf t = bytesOf s ∧
      t.ct.sbuf = s.ct.sbuf ++ ((ons s on).flatMap fun e => (accAt s d w m base e).map fun q => (at_ q.1 q.2, s.ct.vget q.1 w e)).mapIdx
        fun j y => ⟨.vec, s.ct.sbn + j, false, none, y.1, w / 8, none, y.2⟩ := by
  have hreach : ∀ e ∈ ons s on, ∀ q ∈ accAt s d w m base e,
      Reaches u (w / 8) .store notOrdered q.2 (at_ q.1 q.2) ∧ u.delays (at_ q.1 q.2) = true := fun e he q hq => by
    obtain ⟨hq, hd⟩ := hr e (mem_ons.mp he).2 q hq
    exact ⟨hu.reaches hq, (hu.delays _).trans hd⟩
  have hup := hu.prov.trans hp
  obtain ⟨t, hfold, hut, htb, hts⟩ := foldl_storeEach_delayed (n := w / 8)
    (storesOf u w at_ (fun r e => u.ct.vget r w e) (accAt s d w m base) (ons s on)) hup fun z hz => by
      obtain ⟨-, e, he, q, hq, hloc⟩ := mem_storesOf at_ _ _ hz
      obtain ⟨hq, hd⟩ := hreach e he q hq
      exact hloc ▸ ⟨within_of_reaches hq, hd⟩
  obtain ⟨ws, hrun⟩ := runStore_plan hup hw hu.popped hu.wmb hu.actives (hu.vaccs hw)
    (misaligned_of_aligned hw hwidth hal fun e he => (mem_ons.mp he).2)
    (fun e he q hq => ⟨(hreach e he q hq).1, vecFree_of_delays (hreach e he q hq).2 _⟩) hfold
  refine ⟨_, hrun, hut.trans (afterStores_wroteBy ..), ?_, ?_⟩
  · rw [bytesOf_wroteBy, htb, hu.bytes]
  · rw [sbuf_wroteBy, hts, hu.sbuf, hu.sbn]
    simp only [hu.vget]
    rw [← storesOf_pairs (s := u) at_ (fun r e => s.ct.vget r w e), mapIdx_ent fun z hz => (mem_storesOf at_ _ _ hz).1]

variable (hb : ∀ e ∈ s.ct.sbuf, e.side ≠ .vec)
include hb

/-- A store in any order that delays no element (R156, R160). -/
theorem Posts.runStore_now (hlag : s.ct.lag = false)
    (hr : ∀ e, on e = true → ∀ q ∈ accAt s d w m base e, Reaches s (w / 8) .store notOrdered q.2 (at_ q.1 q.2)) :
    ∃ t, runStore y u d w m base false = .done t {} ∧ AfterStores u t ∧ t.ct.sbuf = s.ct.sbuf ∧
      bytesOf t = (ons s on).foldl (fun m' e => (accAt s d w m base e).foldl
        (fun m' q => m'.putElem (at_ q.1 q.2) w e (s.ct.vget q.1 w e)) m') (bytesOf s) := by
  have hreach : ∀ e ∈ ons s on, ∀ q ∈ accAt s d w m base e, Reaches u (w / 8) .store notOrdered q.2 (at_ q.1 q.2) :=
    fun e he q hq => hu.reaches (hr e (mem_ons.mp he).2 q hq)
  have hub : ∀ e ∈ u.ct.sbuf, e.side ≠ .vec := hu.sbuf ▸ hb
  have hup := hu.prov.trans hp
  obtain ⟨t, hfold, hut, hts, htb⟩ := foldl_storeEach_now (late := true) (n := w / 8)
    (storesOf u w at_ (fun r e => u.ct.vget r w e) (accAt s d w m base) (ons s on)) hup hub (fun _ => hu.lag.trans hlag) fun z hz => by
      obtain ⟨-, e, he, q, hq, hloc⟩ := mem_storesOf at_ _ _ hz
      exact hloc ▸ within_of_reaches (hreach e he q hq)
  obtain ⟨ws, hrun⟩ := runStore_plan hup hw hu.popped hu.wmb hu.actives (hu.vaccs hw)
    (misaligned_of_aligned hw hwidth hal fun e he => (mem_ons.mp he).2)
    (fun e he q hq => ⟨hreach e he q hq, vecFree_of_calm hub ..⟩) hfold
  refine ⟨_, hrun, hut.trans (afterStores_wroteBy ..), ?_, ?_⟩
  · rw [sbuf_wroteBy, hts, hu.sbuf]
  · rw [bytesOf_wroteBy, htb, foldl_storesOf at_ _ _ hw, hu.bytes]
    simp only [hu.vget]

/-- VSTO (R162). -/
theorem Posts.runStore_inOrder (hs : s.ct.status = .running)
    (hr : ∀ e, on e = true → ∀ q ∈ accAt s d w m base e,
      Reaches s (w / 8) .store (fun _ => true) q.2 (at_ q.1 q.2) ∧ Fixed s q.2) :
    ∃ t, runStore y u d w m base true = .done t {} ∧ AfterStores u t ∧ t.ct.sbuf = s.ct.sbuf ∧
      bytesOf t = (ons s on).foldl (fun m' e => (accAt s d w m base e).foldl
        (fun m' q => m'.putElem (at_ q.1 q.2) w e (s.ct.vget q.1 w e)) m') (bytesOf s) := by
  obtain ⟨t, hgo, hut, hts, htb⟩ := stoGo_performs (m := m) (base := base) (at_ := at_) (hu.prov.trans hp) hw hu.popped hu.wmb (hu.vaccs hw) hu.fl
    (hu.status.trans hs) (hu.sbuf ▸ hb) (ons s on) (fun e he q hq => by
      obtain ⟨hq, hf⟩ := hr e (mem_ons.mp he).2 q hq
      exact ⟨hu.reaches hq, hu.fixed _ hf⟩) u y.wrote (afterStores_refl u) rfl
  have hfind := misaligned_of_aligned hw hwidth hal (es := ons s on) fun e he => (mem_ons.mp he).2
  refine ⟨t, ?_, hut, hts.trans hu.sbuf, ?_⟩
  · simp only [runStore, if_neg (Nat.not_lt.mpr hw), hu.actives, hu.vaccs hw, hfind]
    exact hgo
  · rw [htb, hu.bytes]
    simp only [hu.vget]

end

/-- A store of elements below a byte that delays none (R38, R156). -/
theorem Posts.runStore_sub (hp : s.ct.prov = false) (hw : w ∣ 8) (hlt : w < 8) (hb : ∀ e ∈ s.ct.sbuf, e.side ≠ .vec) (hlag : s.ct.lag = false)
    (hr : ∀ e, on e = true → ∀ q ∈ accAt s d w .unit base e, Reaches s 1 .store notOrdered q.2 (at_ q.1 q.2)) (inOrder : Bool) :
    ∃ t, runStore y u d w m base inOrder = .done t {} ∧ AfterStores u t ∧ t.ct.sbuf = s.ct.sbuf ∧
      bytesOf t = (ons s on).foldl (fun m' e => (accAt s d w .unit base e).foldl
        (fun m' q => m'.putElem (at_ q.1 q.2) w e (s.ct.vget q.1 w e)) m') (bytesOf s) := by
  have hbyte : ∀ e, e * w / 8 = e / (8 / w) := fun e => by
    obtain ⟨k, hk⟩ := hw
    have hpos : 0 < w := Nat.pos_of_ne_zero fun h0 => by simp [h0] at hk
    rw [hk, Nat.mul_div_cancel_left _ hpos, Nat.mul_comm w k, Nat.mul_div_mul_right _ _ hpos]
  obtain ⟨t, hrun, hut, hts, htb⟩ := runSubStore_now (rs := [d]) (bits := fun e => s.ct.vget d w e) (at_ := at_ d) (base := base)
    (hu.prov.trans hp) hu.popped hu.wmb hu.actives (ons_sorted s on) (hu.sbuf ▸ hb) (hu.lag.trans hlag) hw hlt fun e he =>
      hu.reaches (hbyte e ▸ hr e (mem_ons.mp he).2 _ (List.mem_singleton.mpr rfl))
  refine ⟨t, ?_, hut, hts.trans hu.sbuf, ?_⟩
  · simp only [runStore, if_pos hlt, opd_of_no_pops hu.popped, hu.vget]
    exact hrun
  · rw [htb, hu.bytes]
    refine List.foldl_ext _ _ _ fun m' e _ => ?_
    simp only [accAt, List.foldl_cons, List.foldl_nil, hbyte]

end
end Sys2Proof.Laws
end
section
/-! SUPPORT. The store words, delayed and performed at once (R155 to R157, R160, R162). -/
namespace Sys2Proof.Laws
open Sys2Proof Sys2Proof.Machine Sys2Proof.Stmt

/-- What a store word posts, and the state in which it runs. -/
def storeEntry (s : State) (x : VMem) (t : Ty) : Ventry := entryOf s (.store x.d.toNat t.w x.m (s.rd x.a) x.seq) (some x.p)
def storeAt (s : State) (x : VMem) (t : Ty) (cv : Convoy) : State := postedAt s cv s.ct.vtype (storeEntry s x t)
theorem posts_store (s : State) (x : VMem) (t : Ty) (cv : Convoy) : Posts s (storeAt s x t cv) (storeEntry s x t) (onAt s x.p) :=
  posts_of_actives (actives_posted cv s.ct.vtype _ x.p)

section
variable {i : Instr} {x : VMem} {t : Ty} {s : State} {cv : Convoy} {at_ : Nat → Word → Loc} (hx : vmemOf s i = some x) (hl : x.load = false)
  (h : VReady s) (hn : NoFeeds s) (hr : VMemReady s x t cv)
include hx hl h hn hr

/-- A store word whose run is done. -/
theorem exec_vstore_done {u : State}
    (hrun : runStore (storeEntry s x t) (storeAt s x t cv) x.d.toNat t.w x.m (s.rd x.a) x.seq = .done u {})
    (hu : AfterStores (storeAt s x t cv) u) : exec i s = .next (completed u) := by
  rw [exec_vstore hx hl h hr]
  exact congrArg _ (runHead_done hn cv s.ct.vtype rfl hrun (reqs_of_afterStores h hu))

theorem vstore_delayed (hseq : x.seq = false) (hw : 8 ≤ t.w)
    (hacc : ∀ e, onAt s x.p e = true → ∀ q ∈ accAt s x.d.toNat t.w x.m (s.rd x.a) e,
      Reaches s (t.w / 8) .store x.ok q.2 (at_ q.1 q.2) ∧ s.delays (at_ q.1 q.2) = true) :
    let put := (ons s (onAt s x.p)).flatMap fun e => (accAt s x.d.toNat t.w x.m (s.rd x.a) e).map fun q => (at_ q.1 q.2, s.ct.vget q.1 t.w e)
    ∃ u, exec i s = .next u ∧ Stmt.SameRegs s { u with ct := { u.ct with sbuf := s.ct.sbuf } } cv ∧ bytesOf u = bytesOf s ∧
      u.ct.sbuf = s.ct.sbuf ++ put.mapIdx fun j y => ⟨.vec, s.ct.sbn + j, false, none, y.1, t.w / 8, none, y.2⟩ := by
  have hok : x.ok = notOrdered := by
    rcases vstore_kinds hx hl with ⟨-, hok, -⟩ | ⟨hs, -⟩
    · exact hok
    · exact absurd (hseq.symm.trans hs) nofun
  rw [hok] at hacc
  obtain ⟨u, hrun, hu, hbytes, hsbuf⟩ :=
    (posts_store s x t cv).runStore_delayed hr.firm hw (width_of_opT hr.ty) hr.aligned hacc
  exact ⟨completed u, exec_vstore_done hx hl h hn hr (by rw [hseq]; exact hrun) hu, sameRegs_completed hu, hbytes, hsbuf⟩

theorem vstore_now (hcalm : Calm s) (hlag : s.ct.lag = false ∨ x.seq = true)
    (hacc : ∀ e, onAt s x.p e = true → ∀ q ∈ accAt s x.d.toNat t.w x.m (s.rd x.a) e,
      Reaches s (max 1 (t.w / 8)) .store x.ok q.2 (at_ q.1 q.2) ∧ (x.seq = true → Fixed s q.2)) :
    ∃ u, exec i s = .next u ∧ Stmt.SameRegs s u cv ∧
      bytesOf u = (ons s (onAt s x.p)).foldl (fun m e => (accAt s x.d.toNat t.w x.m (s.rd x.a) e).foldl
        (fun m q => m.putElem (at_ q.1 q.2) t.w e (s.ct.vget q.1 t.w e)) m) (bytesOf s) := by
  have hp := posts_store s x t cv
  have hwidth := width_of_opT hr.ty
  have hb : ∀ e ∈ s.ct.sbuf, e.side ≠ .vec := hcalm.1
  have hbytes : 8 ≤ t.w → max 1 (t.w / 8) = t.w / 8 := accBytes_of_bytes
  obtain ⟨u, hrun, hu, hsbuf, hput⟩ : ∃ u, runStore (storeEntry s x t) (storeAt s x t cv) x.d.toNat t.w x.m (s.rd x.a) x.seq = .done u {} ∧
      AfterStores (storeAt s x t cv) u ∧ u.ct.sbuf = s.ct.sbuf ∧
      bytesOf u = (ons s (onAt s x.p)).foldl (fun m e => (accAt s x.d.toNat t.w x.m (s.rd x.a) e).foldl
        (fun m q => m.putElem (at_ q.1 q.2) t.w e (s.ct.vget q.1 t.w e)) m) (bytesOf s) := by
    rcases vstore_kinds hx hl with ⟨hseq, hok, hsub⟩ | ⟨hseq, hok, hsub⟩
    · have hlag := hlag.resolve_right (by simp [hseq])
      rw [hok] at hacc
      rw [hseq]
      by_cases hw : 8 ≤ t.w
      · exact hp.runStore_now hr.firm hw hwidth hr.aligned hb hlag fun e he q hq => hbytes hw ▸ (hacc e he q hq).1
      · have hlt := Nat.lt_of_not_le hw
        rw [hsub (hr.width.resolve_right hw)] at hacc ⊢
        have hone : max 1 (t.w / 8) = 1 := by rw [Nat.div_eq_of_lt hlt]; rfl
        exact hp.runStore_sub hr.firm (width_bits hwidth hlt) hlt hb hlag (fun e he q hq => hone ▸ (hacc e he q hq).1) false
    · have hw := hr.width.resolve_left (by simp [hsub])
      rw [hok] at hacc
      rw [hseq]
      exact hp.runStore_inOrder hr.firm hw hwidth hr.aligned hb h.run fun e he q hq =>
        ⟨hbytes hw ▸ (hacc e he q hq).1, (hacc e he q hq).2 hseq⟩
  exact ⟨completed u, exec_vstore_done hx hl h hn hr hrun hu, sameRegs_completed_now hu hsbuf, hput⟩

end

end Sys2Proof.Laws
end
section
/-! SUPPORT. The predicate memory words (R113), and the statement on the vector stores and these words. -/
namespace Sys2Proof.Laws
open Sys2Proof Sys2Proof.Machine Sys2Proof.Stmt

/-! ### Reads of the vector side that nothing delays -/

/-- One read of a plan after others: of element z.1, the access z.2. -/
def readEach (floor : Word → Nat) (w : Nat) (acc : State × List (Nat × Nat × Nat)) (z : Nat × Nat × Word × Loc × DevAsk) :
    State × List (Nat × Nat × Nat) :=
  let r := acc.1.vread (floor z.2.2.1) z.2.2.2.1 (accBytes w) z.2.2.2.2.key
  (r.2, acc.2 ++ [(z.2.1, z.1, pickBits w z.1 r.1)])
/-- The accesses of a plan, each with its element. -/
def accesses (ps : List ElemPlan) : List (Nat × Nat × Word × Loc × DevAsk) := ps.flatMap fun p => p.ok.map fun q => (p.e, q)
theorem readPlan_eq (s : State) (x : Ventry) (w : Nat) (ps : List ElemPlan) :
    readPlan s x w ps = (accesses ps).foldl (readEach (fun a => s.floorOf x a (accBytes w)) w) (s, []) := by
  simp only [readPlan, accesses, List.foldl_flatMap, List.foldl_map]
  rfl

section
variable {s : State} (hp : s.ct.prov = false) (hb : ∀ e ∈ s.ct.sbuf, e.side ≠ .vec) (he : s.ct.early = [])
include hp hb he

theorem vread_calm {l : Loc} {n : Nat} (h : s.beyond s.ct.via l n .load = none) (floor key : Nat) :
    s.vread floor l n key = ((bytesOf s).get l n, s.note .vec s.moment l n) := by
  have hearly : s.ct.early.drop 1 = s.ct.early := by rw [he]; rfl
  have hflush : s.flush (onSide .vec l n) = s := flush_of_none fun e h => by simp [onSide, hb e h]
  simp only [State.vread, h, hflush, State.readEvent, lookFor_of_none he, hearly, peek_eq (v := s.ct.via) hp]

end

/-- Reads after one another take the bytes as they stand, and are noted. -/
theorem foldl_readEach_calm {floor : Word → Nat} {w : Nat} : ∀ (zs : List (Nat × Nat × Word × Loc × DevAsk)) {s : State}
    (vs : List (Nat × Nat × Nat)), s.ct.prov = false → (∀ e ∈ s.ct.sbuf, e.side ≠ .vec) → s.ct.early = [] →
    (∀ z ∈ zs, s.beyond s.ct.via z.2.2.2.1 (accBytes w) .load = none) →
    ∃ c, noted s.ct c ∧ zs.foldl (readEach floor w) (s, vs) = ({ s with ct := c },
      vs ++ zs.map fun z => (z.2.1, z.1, pickBits w z.1 ((bytesOf s).get z.2.2.2.1 (accBytes w))))
  | [], s, vs, _, _, _, _ => ⟨s.ct, ⟨rfl, id⟩, by simp⟩
  | z :: zs, s, vs, hp, hb, he, hz => by
    obtain ⟨c, ⟨hc, hlooks⟩, hfold⟩ := foldl_readEach_calm (floor := floor) zs (s := s.note .vec s.moment z.2.2.2.1 (accBytes w))
      (vs ++ [(z.2.1, z.1, pickBits w z.1 ((bytesOf s).get z.2.2.2.1 (accBytes w)))]) hp hb he fun y hy => hz y (by simp [hy])
    refine ⟨c, ⟨hc, fun h => hlooks (by simp only [State.note, h, List.map_nil])⟩, ?_⟩
    rw [List.foldl_cons, readEach, vread_calm hp hb he (hz z (by simp))]
    refine hfold.trans ?_
    simp only [List.append_assoc, List.singleton_append, List.map_cons]
    rfl

/-! ### PLD and PST -/

/-- What PLD plans for an element (R113). -/
def pldPlan (s : State) (at_ : Word → Loc) (base : Word) (e : Nat) : ElemPlan :=
  donePlan (fun _ => at_) e (asks s e [(0, base + BitVec.ofNat 64 (e / 8))] fun _ => .read)
theorem accesses_pldPlan (s : State) (at_ : Word → Loc) (base : Word) (es : List Nat) : accesses (es.map (pldPlan s at_ base)) =
    es.map fun e => (e, 0, base + BitVec.ofNat 64 (e / 8), at_ (base + BitVec.ofNat 64 (e / 8)), ⟨s.vport e 0, .read⟩) := by
  rw [accesses, List.flatMap_map]
  exact (List.map_eq_flatMap ..).symm
/-- The bit that PLD takes for element e. -/
theorem pickBits_one (e v : Nat) : decide (pickBits 1 e v % 2 = 1) = v.testBit (e % 8) := by
  rw [pickBits, if_pos (by decide), Nat.mul_one, pow_one, Nat.mod_mod, Nat.testBit_eq_decide_div_mod_eq]

section
variable {s u : State} {y : Ventry} {on : Nat → Bool} {base : Word} {at_ : Word → Loc} (hu : Posts s u y on) (hp : s.ct.prov = false)
  (hb : ∀ e ∈ s.ct.sbuf, e.side ≠ .vec)
include hu hp hb

theorem Posts.runPst_now (hlag : s.ct.lag = false) (p : Nat) (hr : ∀ e, on e = true →
      Reaches s 1 .store notOrdered (base + BitVec.ofNat 64 (e / 8)) (at_ (base + BitVec.ofNat 64 (e / 8)))) :
    ∃ t, runPst y u p base = .done t {} ∧ AfterStores u t ∧ t.ct.sbuf = s.ct.sbuf ∧
      bytesOf t = (ons s on).foldl (fun m e => m.putElem (at_ (base + BitVec.ofNat 64 (e / 8))) 1 e (if u.ct.pbit p e then 1 else 0))
        (bytesOf s) := by
  obtain ⟨t, hrun, hut, hts, htb⟩ := runSubStore_now (w := 1) (rs := []) (bits := fun e => if u.ct.pbit p e then 1 else 0) (at_ := at_)
    (base := base) (hu.prov.trans hp) hu.popped hu.wmb hu.actives (ons_sorted s on) (hu.sbuf ▸ hb) (hu.lag.trans hlag) (by decide)
    (by decide) fun e he => hu.reaches (hr e (mem_ons.mp he).2)
  exact ⟨t, hrun, hut, hts.trans hu.sbuf, htb.trans (by rw [hu.bytes])⟩

theorem Posts.runPld_calm (hearly : u.ct.early = []) (p : Nat) (hr : ∀ e, on e = true →
      Reaches s 1 .load notOrdered (base + BitVec.ofNat 64 (e / 8)) (at_ (base + BitVec.ofNat 64 (e / 8)))) :
    ∃ c, noted u.ct c ∧ runPld y u p base = .done { u with ct := bitsWritten c p (ons s on) fun e =>
      ((bytesOf s).get (at_ (base + BitVec.ofNat 64 (e / 8))) 1).testBit (e % 8) } {} := by
  have hreach : ∀ e ∈ ons s on,
      Reaches u 1 .load notOrdered (base + BitVec.ofNat 64 (e / 8)) (at_ (base + BitVec.ofNat 64 (e / 8))) :=
    fun e he => hu.reaches (hr e (mem_ons.mp he).2)
  have hub : ∀ e ∈ u.ct.sbuf, e.side ≠ .vec := hu.sbuf ▸ hb
  have hup := hu.prov.trans hp
  have hps : (ons s on).map (fun e => u.elemPlan 1 .load (fun ty => decide (ty ≠ 2)) e
      (asks u e [(0, base + BitVec.ofNat 64 (e / 8))] fun _ => .read)) = (ons s on).map (pldPlan u at_ base) :=
    List.map_congr_left fun e he => elemPlan_of_reaches (loc := fun _ => at_) e fun a ha =>
      (List.mem_singleton.mp ha) ▸ hreach e he
  have hstall : u.planStalls y.wmb 1 .load ((ons s on).map (pldPlan u at_ base)) = none := by
    rw [hu.wmb]
    refine planStalls_of_reaches (dev := notOrdered) hup fun p hps => ?_
    obtain ⟨e, he, rfl⟩ := List.mem_map.mp hps
    exact ⟨rfl, fun q hq => (List.mem_singleton.mp hq) ▸ ⟨hreach e he, vecFree_of_calm hub ..⟩⟩
  have hgood : ((ons s on).map (pldPlan u at_ base)).filter (fun p => p.bad.isEmpty) = (ons s on).map (pldPlan u at_ base) :=
    List.filter_eq_self.mpr fun p hp => by obtain ⟨e, -, rfl⟩ := List.mem_map.mp hp; rfl
  have hbad : ((ons s on).map (pldPlan u at_ base)).filter (fun p => !p.bad.isEmpty) = [] :=
    List.filter_eq_nil_iff.mpr fun p hp => by obtain ⟨e, -, rfl⟩ := List.mem_map.mp hp; simp [pldPlan, donePlan]
  obtain ⟨c, hc, hread⟩ := foldl_readEach_calm (floor := fun a => u.floorOf y a (accBytes 1)) (w := 1)
    (accesses ((ons s on).map (pldPlan u at_ base))) (s := u) [] hup hub hearly fun z hz => by
      rw [accesses_pldPlan] at hz
      obtain ⟨e, he, rfl⟩ := List.mem_map.mp hz
      exact beyond_of_reaches (hreach e he)
  rw [← readPlan_eq, accesses_pldPlan, List.nil_append, List.map_map, hu.bytes] at hread
  refine ⟨c, hc, ?_⟩
  simp only [runPld, hu.actives, hps, hgood, hbad, hstall, hread, List.foldl_map, Function.comp, pickBits_one]
  rfl

end

section
variable {s : State} {cv : Convoy} {at_ : Word → Loc} (a : SReg) (d : PRegNo) (h : VReady s) (hcalm : Calm s) (hn : NoFeeds s)
  (hp : s.ct.prov = false) (hc : countConvoy s.ct.conv false { mem := true } = some cv)

/-- A word without a governing predicate computes at every position that its length admits. -/
theorem posts_all (s : State) (cv : Convoy) (op : Vop) :
    Posts s (postedAt s cv s.ct.vtype (entryOf s op none)) (entryOf s op none) (allAt s) :=
  posts_of_actives <| List.filter_congr fun e _ => by
    simp only [active, entryOf, postedAt, vconf, Option.map_none, allAt, Bool.not_false, Bool.true_or, Bool.and_true]
    rfl

theorem decide_mem_ons_allAt (s : State) : (fun e => decide (e ∈ ons s (allAt s))) = allAt s := by
  funext e
  refine Bool.eq_iff_iff.mpr ?_
  simp only [decide_eq_true_eq, mem_ons, allAt, Bool.and_eq_true]
  exact ⟨fun h => h.2, fun h => ⟨h.2, h⟩⟩

include h hc in
theorem exec_pst_posts : exec (.pst a d) s =
    .next (runHead (postedAt s cv s.ct.vtype (entryOf s (.pst d.toNat (s.rd a)) none))).1 := by
  rw [exec_pst, execPst, vpred]
  exact vword_postOnly h hc rfl rfl
include h hc in
theorem exec_pld_posts : exec (.pld d a) s =
    .next (runHead (postedAt s cv s.ct.vtype (entryOf s (.pld d.toNat (s.rd a)) none))).1 := by
  rw [exec_pld, execPld, vpred]
  exact vword_postOnly h hc rfl rfl

include h hcalm hn hp hc

theorem pst_now (hlag : s.ct.lag = false) (hr : ∀ e, allAt s e = true →
      Reaches s 1 .store notOrdered (s.rd a + BitVec.ofNat 64 (e / 8)) (at_ (s.rd a + BitVec.ofNat 64 (e / 8)))) :
    ∃ u, exec (.pst a d) s = .next u ∧ Stmt.SameRegs s u cv ∧
      bytesOf u = (ons s (allAt s)).foldl (fun m e => m.putElem (at_ (s.rd a + BitVec.ofNat 64 (e / 8))) 1 e
        (if s.ct.pbit d.toNat e then 1 else 0)) (bytesOf s) := by
  obtain ⟨u, hrun, hu, hsbuf, hput⟩ :=
    (posts_all s cv (.pst d.toNat (s.rd a))).runPst_now hp hcalm.sbuf hlag d.toNat hr
  refine ⟨completed u, ?_, sameRegs_completed_now hu hsbuf, hput⟩
  rw [exec_pst_posts a d h hc]
  exact congrArg _ (runHead_done hn cv s.ct.vtype rfl hrun (reqs_of_afterStores h hu))

theorem pld_calm (hr : ∀ e, allAt s e = true →
      Reaches s 1 .load notOrdered (s.rd a + BitVec.ofNat 64 (e / 8)) (at_ (s.rd a + BitVec.ofNat 64 (e / 8)))) :
    ∃ q c', noted { s.ct with p := q } c' ∧ exec (.pld d a) s = .next (vdone s cv c' {}) ∧
      PBits s.ct { s.ct with p := q } d.toNat (allAt s) fun e =>
        ((bytesOf s).get (at_ (s.rd a + BitVec.ofNat 64 (e / 8))) 1).testBit (e % 8) := by
  obtain ⟨c, ⟨hc', hlooks⟩, hrun⟩ := (posts_all s cv (.pld d.toNat (s.rd a))).runPld_calm hp hcalm.sbuf hcalm.early d.toNat hr
  have hbits := pbits_bitsWritten (val := fun e => ((bytesOf s).get (at_ (s.rd a + BitVec.ofNat 64 (e / 8))) 1).testBit (e % 8)) d.isLt
    (ons s (allAt s)) c fun e he => by
      have := (mem_ons.mp he).1
      have := h.vl
      have := vlen_le h.lg
      simp only [predBits]
      omega
  rw [decide_mem_ons_allAt] at hbits
  rw [bitsWritten_eq] at hrun
  generalize (bitsWritten c d.toNat (ons s (allAt s)) fun e =>
    ((bytesOf s).get (at_ (s.rd a + BitVec.ofNat 64 (e / 8))) 1).testBit (e % 8)) = b at hbits hrun
  refine ⟨b.p, { s.ct with p := b.p, looks := c.looks }, ⟨rfl, hlooks⟩, ?_, pbits_congr hbits (by rw [hc']; rfl) rfl⟩
  rw [exec_pld_posts a d h hc]
  refine congrArg _ ((runHead_done (op := .pld d.toNat (s.rd a)) (pg := none) hn cv s.ct.vtype rfl hrun h.reqs).trans ?_)
  rw [hc']
  simp only [completed, vdone, vconf, postedAt, h.viq]

end

/-- Settles O35: a store word posts one entry, whose run reaches memory at every access; what the planned stores leave is read off store by
store, and the elements below a byte off each byte. -/
theorem vectorStores : Obligations.VectorStores := by
  unfold Obligations.VectorStores
  exact ⟨fun i x t s cv at_ hx hl hseq h hn hr hw hacc => vstore_delayed hx hl h hn hr hseq hw hacc,
    fun i x t s cv at_ hx hl h hcalm hlag hn hr hacc => vstore_now hx hl h hn hr hcalm hlag hacc,
    fun a d s cv at_ h hcalm hn hp hc => ⟨pld_calm a d h hcalm hn hp hc, pst_now a d h hcalm hn hp hc⟩⟩

end Sys2Proof.Laws
end
